-- ==== Sys2Proof/Word.lean ====
section
/-! DEFINITION. The word types of the VX-1440 model: bytes and floating-point bit patterns (R31, R33). -/

namespace Sys2Proof

/-- A byte of host memory, DRAM, SRAM, flash, a descriptor or a packet (R5). -/
abbrev Byte := BitVec 8

/-- An FP32 bit pattern (R31: IEEE 754 binary32). -/
abbrev F32 := BitVec 32

/-- A binary16 bit pattern (R31). -/
abbrev F16 := BitVec 16

end Sys2Proof
end

