-- ==== Sys2Proof/Syntax.lean ====
section
/-! DEFINITION. The commands the block takes: one constructor of `Instr` per row of the opcode table, with what the
environment supplies to the command (host memory read by it, a packet, a message, a measured value). -/

namespace Sys2Proof

/-- A ring set: of a partition, or of the management function (R8). -/
inductive RsId where
  | part (p n : Nat)
  | mgmt (n : Nat)
  deriving DecidableEq, Repr

/-- A fetched command: its ring set and SEQUENCE (R317). -/
structure ReqRef where
  rs : RsId
  seq : Nat
  deriving DecidableEq, Repr

/-- The bytes a read of host memory returned, or none when the read failed (R317). -/
abbrev HostRead := Option (List Byte)

/-- How far a run of a command goes before the next command of the queue: admitted only, past its point of no return,
or to its end. -/
inductive Upto where
  | admitted
  | halfway
  | done
  deriving DecidableEq, Repr

/-- What one run of a fetched command meets outside the block: the reads of host memory in the order in which the
command makes them, whether its writes to host memory succeed, the rows that a model package's program returns,
how far the run goes, the units a long operation does in this run, and whether the device estimates that the rerank
would end after the deadline (R103). -/
structure Io where
  reads : List HostRead
  writesOk : Bool
  rows : List (List F32)
  upto : Upto
  units : Nat
  late : Bool
  deriving DecidableEq, Repr

/-- Who accesses a register: the physical function, a virtual function, or a remote owner by set-up messages, inside or
outside an SPDM session (R305, R306, R409). -/
inductive Fn where
  | pf
  | vf (n : Nat)
  | remote (n : Nat) (session : Bool)
  deriving DecidableEq, Repr

/-- An arriving transport packet (R431, R432): the port, the 32 header bytes, the payload in clear, whether the GCM tag
verifies, and whether it came inside an SPDM secured message of a session with the owner (R437). -/
structure Packet where
  port : Nat
  hdr : List Byte
  payload : List Byte
  tagOk : Bool
  session : Bool
  deriving DecidableEq, Repr

/-- Kinds of RoCEv2 packet that reach a requester (R438). -/
inductive RoceKind where
  | response      -- READ response or acknowledgement
  | nak
  | request       -- an inbound request, which the device does not serve
  deriving DecidableEq, Repr

/-- A RoCEv2 packet of a remote ring set's connection: the RDMA message of the transport that brings it, its kind, how many outstanding
requests it completes, and its ECN mark (R436, R438). -/
structure RoceIn where
  pkt : Packet
  kind : RoceKind
  completes : Nat
  ecn : Bool
  deriving DecidableEq, Repr

/-- Who sends an SPDM request; a remote owner sends it as a message of the transport (R409, R436). -/
inductive SpdmFrom where
  | management
  | localOwner (p : Nat)
  | remoteOwner (k : Packet)
  deriving DecidableEq, Repr

/-- An SPDM request: its sender, whether it came in a secure session, its code, its two parameters and its nonce or
data (R408). -/
structure SpdmReq where
  source : SpdmFrom
  secured : Bool
  code : Nat
  param1 : Nat
  param2 : Nat
  data : List Byte
  deriving DecidableEq, Repr

/-- A PTP message with what the port measured of it (R426, R427): times in ns. -/
structure PtpMsg where
  domain : Nat
  source : Nat            -- port identity of the sender
  seq : Nat
  priority1 : Nat
  clockQuality : Nat
  priority2 : Nat
  grandmaster : Nat
  stepsRemoved : Nat
  logInterval : Int
  twoStep : Bool
  origin : Nat            -- origin or receive timestamp carried
  arrival : Nat           -- local fabric time of arrival
  correction : Int
  forUs : Bool            -- requestingPortIdentity is ours
  deriving DecidableEq, Repr

/-- The contents of an LLDPDU (R424, R425). -/
structure Neighbour where
  chassis : Nat
  portId : Nat
  ttl : Nat
  tlvs : List Byte
  deriving DecidableEq, Repr

/-- A unit by kind and number (R8, R465). -/
structure UnitId where
  kind : Nat
  num : Nat
  deriving DecidableEq, Repr

/-- What a NAND die reports of itself in its identification and parameter pages (R265, R266). -/
structure NandReport where
  die : Nat               -- 16 × channel + die
  present : Bool
  dataBytes : Nat
  spareBytes : Nat
  planes : Nat
  cells : Nat             -- bits of a cell: 3 TLC, 4 QLC
  oneShot : Bool          -- a wordline is programmed in a single operation
  slcMode : Bool
  density : Nat           -- Gbit
  blockPages : Nat        -- pages of a block
  rate : Nat              -- highest NV-LPDDR4 rate, MT/s
  suspends : Bool         -- program and erase suspend
  retries : Nat           -- read-retry levels
  deriving DecidableEq, Repr

/-- What a bring-up stage found (R484 to R488). -/
structure StageReport where
  stage : Nat
  ok : Bool
  cause : Nat             -- why bring-up stops, when it does (R488)
  failed : List UnitId    -- units that failed their test
  slots : List Nat        -- firmware slots that fail authentication in stage 2 (R494)
  full : Bool             -- a condition of R491 fails: a fast-path stage takes its full path
  duration : Nat          -- ms
  scan : Nat              -- header-scan duration in ms, stage 6
  joules : Nat := 80      -- energy of the hold-up store that the keeper measures in stage 1 (R293)
  nand : List NandReport := []  -- NAND dies whose reports differ from what was found before, stage 6 (R265, R266)
  temps : Int × Int := (0, 0)   -- temperatures of the storage dies at their training in stage 6, 0.1 °C (R265)
  deriving DecidableEq, Repr

/-- One use of the test access port (R519, R520). -/
inductive TapCycle where
  | trst
  | shiftIr (die instr : Nat)
  | shiftDr (die : Nat) (bits : List Bool)
  deriving DecidableEq, Repr

/-- A command group that arrives at a channel: its command records and the requests that it serves (R221). -/
structure GroupIn where
  cmds : List (List Byte)
  serves : List ReqRef
  deriving DecidableEq, Repr

/-- The partition of a ring set; 64 for the management function. -/
def RsId.partNo : RsId → Nat
  | .part p _ => p
  | .mgmt _ => 64

def RsId.num : RsId → Nat
  | .part _ n => n
  | .mgmt n => n

def RsId.isMgmt : RsId → Bool
  | .part _ _ => false
  | .mgmt _ => true

def RsId.fn : RsId → Fn
  | .part p _ => .vf p
  | .mgmt _ => .pf

/-- The commands of the block: one constructor per row of the opcode table. -/
inductive Instr where
  /-- SEARCH (R24). Admits one search from its parameter block and runs the sketch, the walk or bench scan, the exact pass, the selection and the write-back. -/
  | search (r : ReqRef) (io : Io)
  /-- SEARCH_BATCH (R349). Runs up to 256 searches that share one read epoch and writes a status array for them. -/
  | searchBatch (r : ReqRef) (io : Io)
  /-- RECALL_PROBE (R108). Starts a long operation that runs queries and compares their results with exact ground truth over a sample of the index. -/
  | recallProbe (r : ReqRef) (io : Io)
  /-- INSERT (R27). Journals an item, then writes its sketch and links, and completes when its commit epoch is assigned. -/
  | insert (r : ReqRef) (io : Io)
  /-- DELETE (R126). Journals a tombstone, marks the node and completes with its tombstone epoch. -/
  | delete (r : ReqRef) (io : Io)
  /-- UPSERT (R116). Inserts a new node for a handle and tombstones the old node at the new node's commit epoch. -/
  | upsert (r : ReqRef) (io : Io)
  /-- INDEX_CREATE (R352). Creates an empty index with fixed parameters and commits its DRAM. -/
  | indexCreate (r : ReqRef) (io : Io)
  /-- INDEX_BUILD (R131). Starts a long operation that builds a new graph and switches searches to it at one switch epoch. -/
  | indexBuild (r : ReqRef) (io : Io)
  /-- INDEX_COMPACT (R129). Starts a long operation that repairs lists around tombstoned nodes range by range and frees their slots. -/
  | indexCompact (r : ReqRef) (io : Io)
  /-- PUT (R347). Writes whole logical pages of a stored object into the write buffer, creating the object when asked. -/
  | put (r : ReqRef) (io : Io)
  /-- GET (R357). Returns object bytes, a document record or a full-vector record to host memory. -/
  | get (r : ReqRef) (io : Io)
  /-- DISCARD (R300). Unmaps an aligned range of logical pages and accepts trim pages on each side. -/
  | discard (r : ReqRef) (io : Io)
  /-- SECURE_DISCARD (R302). Discards a range and erases every superblock that holds or held a version of it. -/
  | secureDiscard (r : ReqRef) (io : Io)
  /-- FLUSH (R346). Completes once the partition's accepted writes are durable, optionally after a checkpoint. -/
  | flush (r : ReqRef) (io : Io)
  /-- MODEL_LOAD (R185). Checks a package, commits DRAM, copies the tensors and gives the model a version, switching at an epoch when it replaces one. -/
  | modelLoad (r : ReqRef) (io : Io)
  /-- MODEL_UNLOAD (R186). Frees a model identifier once every invocation that uses it has ended. -/
  | modelUnload (r : ReqRef) (io : Io)
  /-- EMBED (R359). Runs an encoder over token rows and writes their vectors. -/
  | embed (r : ReqRef) (io : Io)
  /-- RERANK (R360). Scores items with a cross-encoder, with early exit, and writes K slots. -/
  | rerank (r : ReqRef) (io : Io)
  /-- TRAIN_STEP (R201). Runs one fine-tuning step and applies its update as a new model version. -/
  | trainStep (r : ReqRef) (io : Io)
  /-- TABLE_CREATE (R231). Creates a zeroed embedding table and commits its DRAM. -/
  | tableCreate (r : ReqRef) (io : Io)
  /-- GATHER (R235). Reads table rows and pools them into one FP32 vector per bag. -/
  | gather (r : ReqRef) (io : Io)
  /-- SCATTER_UPDATE (R239). Folds update positions per row and applies one read-modify-write to each row. -/
  | scatterUpdate (r : ReqRef) (io : Io)
  /-- ABORT (R364). Ends a target command before its point of no return, or cancels its long operation. -/
  | abort (r : ReqRef)
  /-- OP_QUERY (R368). Reports the state and progress of a long operation. -/
  | opQuery (r : ReqRef)
  /-- OP_SUSPEND (R366). Suspends a running long operation after its unit in progress. -/
  | opSuspend (r : ReqRef)
  /-- OP_RESUME (R366). Resumes a suspended long operation and becomes its carrier. -/
  | opResume (r : ReqRef) (io : Io)
  /-- OP_CANCEL (R366). Cancels a long operation that has not passed its point of no return. -/
  | opCancel (r : ReqRef)
  /-- IDENTIFY (R371). Writes module, partition, index or model identification data. -/
  | identify (r : ReqRef) (io : Io)
  /-- GET_LOG (R374). Writes a snapshot of the selected log. -/
  | getLog (r : ReqRef) (io : Io)
  /-- GET_FEATURE (R376). Writes a partition feature, clearing the saturation counts when asked. -/
  | getFeature (r : ReqRef) (io : Io)
  /-- SET_FEATURE (R376). Writes a partition feature after checking its fields. -/
  | setFeature (r : ReqRef) (io : Io)
  /-- FW_DOWNLOAD (R377). Copies image bytes into the issuer's firmware download buffer. -/
  | fwDownload (r : ReqRef) (io : Io)
  /-- FW_COMMIT (R377). Authenticates an image, writes it to a slot and schedules its activation when asked. -/
  | fwCommit (r : ReqRef) (authentic : Bool) (version : Nat) (security : Nat) (minLive : Nat)
  /-- FORMAT (R380). Installs a new media key, removes every object of the partition and sets new epoch parameters. -/
  | format (r : ReqRef) (io : Io)
  /-- SANITISE (R381). Destroys the media key, erases every superblock of the partition and zeroes its DRAM. -/
  | sanitise (r : ReqRef) (io : Io)
  /-- OPEN (R404). Unwraps or creates the media key, recovers the journal, reloads the image and opens the partition. -/
  | openPart (p : Nat)
  /-- START (R397). Applies aborted journaled updates, resets counters and features, and starts the enabled ring sets. -/
  | startPart (p : Nat)
  /-- DISABLE (R397). Drains every running ring set of the partition and returns it to open. -/
  | disablePart (p : Nat)
  /-- CLOSE (R399). Makes writes durable, checkpoints tables and zeroises the partition's keys. -/
  | closePart (p : Nat)
  /-- KEY_LOAD (R313). Takes KEY_DATA as the owner or transport key that KEY_SELECT names and zeroes KEY_DATA. -/
  | keyLoad (p : Nat) (sel : Nat)
  /-- STOP (R333). Stops fetching on a ring set and drains it. -/
  | stopRing (rs : RsId)
  /-- RESTART (R335). Starts a stopped, faulted or idle ring set again at the addresses its block holds. -/
  | restartRing (rs : RsId)
  /-- REGISTER_WRITE (R308). Writes a register field that has no behaviour of its own, subject to access codes and range checks. -/
  | registerWrite (fn : Fn) (off : Nat) (size : Nat) (val : Nat)
  /-- LOW_HALF_READ_LATCH (R309). Returns the low half of FABRIC_TIME or OPERATING_TIME and latches the high half for the reading function. -/
  | lowHalfRead (fn : Fn) (off : Nat)
  /-- HIGH_HALF_READ_RELEASE (R309). Returns the latched high half and releases the latch. -/
  | highHalfRead (fn : Fn) (off : Nat)
  /-- LOCAL_NUDGE (R325). Brings a ring set's next doorbell poll forward to at most 250 ns away. -/
  | localNudge (fn : Fn) (off : Nat)
  /-- MSIX_VECTOR_UNMASK (R326). Delivers the one pending notification when a masked vector is unmasked. -/
  | msixUnmask (fn : Fn) (v : Nat)
  /-- DOORBELL_POLL (R323). Issues a read of a ring set's doorbell block when its scheduled poll time comes. -/
  | doorbellPoll (rs : RsId)
  /-- DOORBELL_POLL_RETURN (R323). Takes the returned SQ_TAIL and CQ_HEAD, schedules the next poll and writes entries that were waiting for slots. -/
  | doorbellPollReturn (rs : RsId) (words : HostRead)
  /-- DESCRIPTOR_FETCH (R317). Receives fetched descriptors, gives each a SEQUENCE and checks them for admission. -/
  | descriptorFetch (rs : RsId) (data : Option (List (List Byte)))
  /-- ADMISSION (R447). Admits a waiting descriptor once context room, a place or write-buffer room frees. -/
  | admission (p : Nat)
  /-- MODERATION_TIMEOUT (R326). Sends a ring set's notification when MOD_TIME has passed since the first entry not yet notified. -/
  | moderationTimeout (rs : RsId)
  /-- DRAIN_BOUND_EXPIRY (R333). Aborts the requests still in flight at the drain bound and writes the drain record. -/
  | drainBoundExpiry (rs : RsId)
  /-- DRAIN_COMPLETE (R334). Writes the drain record and stops the ring set when its last in-flight request ends. -/
  | drainComplete (rs : RsId)
  /-- RING_FAULTED (R332). Enters faulted, records the cause and posts a ring-fault event once IN_FLIGHT reaches zero. -/
  | ringFaulted (rs : RsId) (failed : Option Nat)
  /-- FUNCTION_LEVEL_RESET (R398). Drains a partition's ring sets and resets the function's RW registers and MSI-X table. -/
  | functionLevelReset (p : Nat)
  /-- MGMT_FUNCTION_LEVEL_RESET (R333). Drains and stops the management ring sets on a Function Level Reset of the physical function. -/
  | mgmtFunctionLevelReset
  /-- SETUP_READ (R437). Reads a register of a partition set-up page for a remote owner and answers with SETUP_RESPONSE. -/
  | setupRead (k : Packet)
  /-- SETUP_WRITE (R437). Writes a register of a partition set-up page for a remote owner, under the keying rules. -/
  | setupWrite (k : Packet)
  /-- SPDM_REQUEST (R408). Answers an SPDM request on the management path, from a local owner or from a remote owner. -/
  | spdmRequest (q : SpdmReq)
  /-- FABRIC_NUDGE (R325). Brings a remote ring set's next poll forward on a NUDGE packet from its peer. -/
  | fabricNudge (k : Packet)
  /-- RDMA_PACKET (R438). Receives a RoCEv2 response or acknowledgement on a remote ring set's connection. -/
  | rdmaPacket (rs : RsId) (k : RoceIn)
  /-- CNP (R438). Lowers a queue pair's send rate on a received congestion notification packet. -/
  | cnp (rs : RsId)
  /-- ROCE_ACK_TIMEOUT (R438). Retransmits go-back-N after an ACK timeout, and fails the connection after 7 retries. -/
  | roceAckTimeout (rs : RsId)
  /-- UPDATE (R436). Applies an update batch from a remote module partition as a SCATTER_UPDATE and acknowledges it. -/
  | update (k : Packet)
  /-- UPDATE_ACK (R433). Ends the repeating of an UPDATE when its acknowledgement arrives. -/
  | updateAck (k : Packet)
  /-- UPDATE_REPEAT_TIMEOUT (R433). Repeats an unacknowledged UPDATE packet unchanged, with doubling intervals. -/
  | updateRepeatTimeout (p : Nat) (sequence : Nat)
  /-- COMPOSE (R443). Accepts a composition map as the pending epoch, or refuses it. -/
  | compose (session : Bool) (msg : List Byte)
  /-- TRAFFIC (R449). Sets egress weights, shapers and ingress policers for every subscriber. -/
  | traffic (session : Bool) (msg : List Byte)
  /-- GATES (R454). Accepts a port's gate schedule to take effect at its base time. -/
  | gates (session : Bool) (msg : List Byte)
  /-- FABRIC (R441). Sets the module number, port addresses, PTP settings, VLAN and peer records. -/
  | fabric (session : Bool) (msg : List Byte)
  /-- FENCE (R400). Fences a partition, ending its DMA and its work in flight. -/
  | fence (session : Bool) (msg : List Byte)
  /-- RELEASE (R400). Releases a fenced partition, retaining or scrubbing its DRAM and keys. -/
  | release (session : Bool) (msg : List Byte)
  /-- QUERY (R440). Returns the composition epoch in force and the pending epoch. -/
  | query (session : Bool) (msg : List Byte)
  /-- RECORDER_FREEZE (R475). Freezes the event recorder rings for readout. -/
  | recorderFreeze (session : Bool) (msg : List Byte)
  /-- RECORDER_THAW (R475). Ends a freeze and writes the held records. -/
  | recorderThaw (session : Bool) (msg : List Byte)
  /-- RECORDER_READ (R476). Returns bytes of a keeper's ring part or of the black-box log. -/
  | recorderRead (session : Bool) (msg : List Byte)
  /-- RECORDER_FREEZE_TIMEOUT (R475). Ends a freeze 10 s after the last RECORDER_FREEZE. -/
  | recorderFreezeTimeout
  /-- COALESCE_WINDOW_CLOSE (R474). Writes one record with the count when a 1 ms coalescing window closes. -/
  | coalesceWindowClose (i : Nat)
  /-- MODULE_RESET (R481). Fences the partitions, copies the write buffer, zeroises keys and performs a warm or cold reset. -/
  | moduleReset (session : Bool) (msg : List Byte)
  /-- SLEEP (R499). Drains, flushes, seals CRCs and enters the sleep state. -/
  | sleep (session : Bool) (msg : List Byte)
  /-- WAKE (R502). Runs the wake sequence from sleep. -/
  | wake (session : Bool) (msg : List Byte)
  /-- WAKE_AT_REACHED (R501). Wakes the module when fabric time reaches WAKE_AT. -/
  | wakeAtReached
  /-- FABRIC_WAKE_PATTERN (R501). Wakes the module on a wake pattern detected on an enabled lane. -/
  | fabricWakePattern (lane : Nat)
  /-- COMPOSITION_EFFECTIVE (R443). Puts the pending composition epoch in force, applies its records and pauses the changed partitions. -/
  | compositionEffective
  /-- GRACE_PERIOD_END (R444). Stops accepting requests that carry the previous composition epoch. -/
  | gracePeriodEnd
  /-- ANNOUNCE (R427). Takes a PTP Announce and binds or rebinds the PTP port to the best master. -/
  | announce (port : Nat) (m : PtpMsg)
  /-- SYNC (R428). Measures the master's offset and slews, steps or refuses the correction of fabric time. -/
  | sync (port : Nat) (m : PtpMsg)
  /-- DELAY_RESP (R426). Takes a Delay_Resp for the end-to-end delay measurement. -/
  | delayResp (port : Nat) (m : PtpMsg)
  /-- ANNOUNCE_TIMEOUT (R429). Rebinds or enters the time-lost state after three announce intervals without an Announce. -/
  | announceTimeout
  /-- LLDPDU (R425). Adds, refreshes or removes a neighbour entry and posts the change. -/
  | lldpdu (port : Nat) (n : Neighbour)
  /-- LLDP_TTL_EXPIRY (R425). Removes a neighbour whose time to live has run out. -/
  | lldpTtlExpiry (port : Nat) (i : Nat)
  /-- LLDP_TRANSMIT (R424). Sends an LLDPDU at the transmit interval. -/
  | lldpTransmit (port : Nat)
  /-- NEIGHBOR_SOLICITATION (R422). Answers an IPv6 Neighbor Solicitation for a port address. -/
  | neighborSolicitation (port : Nat) (target : Nat) (src : Nat)
  /-- ECHO_REQUEST (R422). Answers an ICMPv6 Echo Request for a port address. -/
  | echoRequest (port : Nat) (dst : Nat) (src : Nat) (data : List Byte)
  /-- GATE_ENTRY_BOUNDARY (R452). Opens and closes the gates of a port at a schedule entry boundary. -/
  | gateEntryBoundary (port : Nat)
  /-- EPOCH_TICK (R111). Begins the next visibility epoch of a partition, assigning pending commit epochs and settling changing nodes. -/
  | epochTick (p : Nat)
  /-- REPRODUCIBLE_BATCH_APPLY (R138). Applies batch e of a reproducible partition in source-identity order at the tick that begins epoch e + 1. -/
  | reproducibleBatchApply (p : Nat)
  /-- BARRIER_EPOCH_APPLY (R140). Applies held table updates and training steps at the tick of their barrier epoch. -/
  | barrierEpochApply (p : Nat)
  /-- DEADLINE_EXPIRY (R342). Ends a command with DEADLINE_EXPIRED when fabric time reaches its deadline before its point of no return. -/
  | deadlineExpiry (r : ReqRef)
  /-- REBALANCING_POINT (R219). Redistributes each stack's power tokens among partitions and applies new budgets. -/
  | rebalancingPoint
  /-- CHECKPOINT_TIMER (R255). Checkpoints embedding tables and trainable tensors every CHECKPOINT_S seconds. -/
  | checkpointTimer (p : Nat)
  /-- PATROL_SCRUB (R210). Reads every line of a stack once per 24 h, correcting or poisoning lines. -/
  | patrolScrub (stack : Nat) (bad : List Nat)
  /-- HOLDUP_MEASUREMENT (R293). Measures the hold-up energy every 24 h and sets the unflushed limit. -/
  | holdupMeasurement (joules : Nat)
  /-- FABRIC_TIME_FLOOR_WRITE (R430). Writes the fabric-time floor to the boot flash once per hour of operating time. -/
  | fabricTimeFloorWrite
  /-- STRIPE_CLOSE_TIMEOUT (R283). Closes a stripe that has been open for 2 ms with pad pages. -/
  | stripeCloseTimeout (id : Nat)
  /-- STRIPE_DURABLE (R283). Releases pages from the write buffer when every page of their stripe is programmed. -/
  | stripeDurable (id : Nat)
  /-- IMAGE_SEGMENT_REWRITE (R258). Rewrites index image segments in the background so that none lags its structure records by more than 10 s. -/
  | imageSegmentRewrite (p : Nat) (idx : Nat)
  /-- GROOMER_BACKGROUND (R296). Reclaims a partition's flash after 5 ms of idleness while the free fraction is below HIGH_WATER. -/
  | groomerBackground (p : Nat) (side : Nat)
  /-- GROOMER_FOREGROUND (R297). Reclaims flash and throttles writes while the free fraction is below LOW_WATER. -/
  | groomerForeground (p : Nat) (side : Nat)
  /-- WEAR_LEVELLING (R296). Relocates a superblock whose erase count lags the highest by 200 or more. -/
  | wearLevelling (p : Nat) (side : Nat)
  /-- RELOCATION_COMPLETE (R298). Compares and sets a map entry after a page copy, leaving it when a newer version was accepted. -/
  | relocationComplete (i : Nat)
  /-- FLASH_READ_COMPLETE (R99). Takes an exact score from an ashlar engine, reissuing the read to the other copy on failure. -/
  | flashReadComplete (r : ReqRef) (i : Nat) (handle : Nat) (ok : Bool)
  /-- WALK_COMPLETE (R86). Ends a walk on convergence or at the hop bound and releases its traverse-engine place. -/
  | walkComplete (r : ReqRef) (i : Nat)
  /-- BENCH_SCAN_COMPLETE (R96). Merges the bank-engine lists of a bench scan once every engine has returned. -/
  | benchScanComplete (r : ReqRef) (i : Nat)
  /-- REQUEST_REPLAY (R133). Replays a request from its descriptor or journal record after a failure lost its state. -/
  | requestReplay (r : ReqRef) (io : Io)
  /-- TILE_INVOCATION_START (R146). Writes the argument page, zeroes the tokens and starts a tile's descriptor stream: of tile `t`, at position `pos` of partition `p`, for plan entry `entry`. -/
  | tileInvocationStart (t : Nat) (p : Nat) (pos : Nat) (entry : Nat)
  /-- PLAN_ENTRY_START (R191). Starts a tile or bank phase once every predecessor entry has completed. -/
  | planEntryStart (p : Nat) (entry : Nat)
  /-- MATRIX_DENSE (R152). Runs a dense matrix descriptor in passes over panels, chunks and reduction blocks. -/
  | matrixDense (t : Nat) (d : List Byte)
  /-- MATRIX_SPARSE24 (R158). Runs a matrix descriptor with 2:4-sparse weights. -/
  | matrixSparse24 (t : Nat) (d : List Byte)
  /-- MATRIX_BLOCK (R159). Runs a matrix descriptor that loads only non-zero 16 × 16 blocks. -/
  | matrixBlock (t : Nat) (d : List Byte)
  /-- MAP (R161). Applies a unary vector function to each element. -/
  | mapVec (t : Nat) (d : List Byte)
  /-- ZIP (R161). Applies a binary vector function to two sources. -/
  | zipVec (t : Nat) (d : List Byte)
  /-- REDUCE (R162). Reduces each row in a fixed lane and tree order. -/
  | reduceVec (t : Nat) (d : List Byte)
  /-- QUANTISE (R164). Quantises rows to a narrower format, with a fixed, per-row or dynamic scale. -/
  | quantiseVec (t : Nat) (d : List Byte)
  /-- DEQUANTISE (R164). Widens quantised rows and multiplies them by their scale. -/
  | dequantiseVec (t : Nat) (d : List Byte)
  /-- ARGMAX (R73). Returns the first-ranked valid entry of its input. -/
  | argmax (t : Nat) (d : List Byte)
  /-- SELECT (R72). Returns the bucketed top-k of its input in passes of at most 64. -/
  | select (t : Nat) (d : List Byte)
  /-- MERGE (R70). Merges ordered lists into top-k with one entry per handle. -/
  | merge (t : Nat) (d : List Byte)
  /-- XFER_COPY (R171). Copies rows between tile SRAM and partition memory or another tile. -/
  | xferCopy (t : Nat) (d : List Byte)
  /-- XFER_GATHER (R171). Copies source rows named by an index array. -/
  | xferGather (t : Nat) (d : List Byte)
  /-- XFER_SCATTER (R171). Writes rows to destinations named by an index array. -/
  | xferScatter (t : Nat) (d : List Byte)
  /-- MULTICAST (R171). Copies rows to the same address in several consecutive tile positions. -/
  | multicast (t : Nat) (d : List Byte)
  /-- ADD_FP32 (R173). Adds source FP32 elements atomically to destination elements. -/
  | addFp32 (t : Nat) (d : List Byte)
  /-- SYNC_WAIT (R175). Waits until a token counter reaches a count and then lowers the counter by that count. -/
  | syncWait (t : Nat) (d : List Byte)
  /-- SYNC_SIGNAL (R175). Adds a count to a token of a tile in the group. -/
  | syncSignal (t : Nat) (d : List Byte)
  /-- SYNC_FENCE (R176). Starts once every earlier descriptor has completed. -/
  | syncFence (t : Nat) (d : List Byte)
  /-- SYNC_END (R176). Ends the invocation on the tile once every earlier descriptor has completed. -/
  | syncEnd (t : Nat) (d : List Byte)
  /-- COMMAND_GROUP_START (R217). Starts a queued bank-engine command group once it holds a power token and the channel allows it. -/
  | commandGroupStart (ch : Nat) (eng : Nat) (g : GroupIn) (oldest : Option Nat)
  /-- COMMAND_GROUP_END (R221). Releases the group's token and lets the channel switch to memory mode when accesses wait. -/
  | commandGroupEnd (ch : Nat) (eng : Nat) (oldest : Option Nat)
  /-- LOAD (R224). Copies bytes from partition memory into bank-engine scratch. -/
  | load (p : Nat) (eng : Nat) (c : List Byte)
  /-- STORE (R224). Copies bytes from scratch to partition memory or the tile window. -/
  | store (p : Nat) (eng : Nat) (c : List Byte)
  /-- SCAN (R226). Bench scans one range and writes a local top-d list. The record `c` names the index and the range. -/
  | scan (p : Nat) (eng : Nat) (index : Nat) (range : Nat) (c : List Byte)
  /-- MATVEC (R228). Computes output rows of a resident tensor against an activation vector. -/
  | matvec (p : Nat) (eng : Nat) (c : List Byte)
  /-- ROW_READ (R236). Reads table rows once and returns their weighted elements for a gather. The record `c` names the table and the count. -/
  | rowRead (p : Nat) (eng : Nat) (table : Nat) (count : Nat) (c : List Byte)
  /-- ROW_UPDATE (R240). Applies one read-modify-write to each named table row. The record `c` names the table, the mode and the rate. -/
  | rowUpdate (p : Nat) (eng : Nat) (table : Nat) (mode : Nat) (eta : Nat) (c : List Byte)
  /-- FILL (R224). Sets lines of a bank group to a repeated 64-bit pattern. -/
  | fill (p : Nat) (eng : Nat) (c : List Byte)
  /-- CHANNEL_MODE_SWITCH_COMPLETE (R211). Completes a channel's switch into memory mode or processor mode. -/
  | channelModeSwitchComplete (ch : Nat) (oldest : Option Nat)
  /-- MEMORY_WINDOW_EXPIRY (R214). Closes admission to a memory window after MEMORY_WINDOW. -/
  | memoryWindowExpiry (ch : Nat)
  /-- TILE_FAILURE (R457). Retires a tile site and spares it, handling the requests of its invocation. -/
  | tileFailure (t : Nat)
  /-- TRAVERSE_ENGINE_FAILURE (R457). Retires a traverse engine after missed heartbeats and replays its walks. -/
  | traverseEngineFailure (te : Nat)
  /-- CONTEXT_POOL_BANK_FAILURE (R457). Retires a context-pool bank and replays the requests whose state it held. -/
  | contextPoolBankFailure (b : Nat)
  /-- SCREEN_UNIT_FAILURE (R457). Retires a standalone screen unit. -/
  | screenUnitFailure (su : Nat)
  /-- BANK_ENGINE_FAILURE (R220). Replaces a bank engine with its channel's spare. -/
  | bankEngineFailure (ch : Nat) (g : Nat)
  /-- CHANNEL_LOST (R259). Retires a stack channel and fills its position from the reserve. -/
  | channelLost (ch : Nat)
  /-- STACK_LOST (R259). Retires a stack, remaps its channels to reserve channels and starts re-materialisation. -/
  | stackLost (stack : Nat)
  /-- REMATERIALISATION_COMPLETE (R263). Posts the COMPLETE tier event once a partition's lost contents are loaded and current. -/
  | rematerialisationComplete (p : Nat)
  /-- MAP_SCAN_COMPLETE (R261). Finishes rebuilding lost flash-map entries after a stack loss. -/
  | mapScanComplete
  /-- MESH_LINK_FAILURE (R457). Reroutes traffic after a mesh link exhausts its retries. -/
  | meshLinkFailure (link : Nat)
  /-- NAND_BLOCK_FAILURE (R271). Retires a block after a failed erase or program and reprograms its data. -/
  | nandBlockFailure (ch : Nat) (die : Nat) (block : Nat)
  /-- FLASH_CHANNEL_LOST (R284). Retires a flash channel and forms new stripes of 14 + 1. -/
  | flashChannelLost (f : Nat)
  /-- ASHLAR_ENGINE_FAILURE (R457). Retires an ashlar engine and reissues its read on another engine. -/
  | ashlarEngineFailure (ae : Nat)
  /-- STORAGE_DIE_LOST (R286). Serves dual-copy data from the surviving die and makes single-copy data of the lost side unreachable. -/
  | storageDieLost (d : Nat)
  /-- FABRIC_LANE_FAILURE (R420). Takes the lane's port down and moves its flows. -/
  | fabricLaneFailure (lane : Nat)
  /-- LINK_DIE_FAILURE (R457). Loses a link die's lanes, host port and keeper and moves flows to the other die. -/
  | linkDieFailure (d : Nat)
  /-- STALE_SPEAKER (R462). Drops and counts a packet that carries a stale generation. -/
  | staleSpeaker (u : UnitId) (gen : Nat)
  /-- MODULE_FATAL (R477). Fences every partition, zeroises keys and writes a black-box snapshot. -/
  | moduleFatal (cause : Nat) (u : UnitId)
  /-- CONTROL_FIRMWARE_HANG (R392). Starts a partition reset when a control complex misses its heartbeat for 10 ms. -/
  | controlFirmwareHang (p : Nat)
  /-- ECC_STORM (R392). Starts a partition reset after too many SRAM errors within 1 s. -/
  | eccStorm (p : Nat)
  /-- RUNAWAY_PROGRAM (R392). Starts a partition reset when a tile group overdraws power for 10 ms. -/
  | runawayProgram (p : Nat)
  /-- PARTITION_RESET_COMPLETE (R393). Returns the partition to started, or keeps it fenced after a third reset within 10 s. -/
  | partitionResetComplete (p : Nat) (failedSites : List Nat)
  /-- KEEPER_FAILOVER (R506). Makes the standby keeper active after 10 missing heartbeats and a released claim line. -/
  | keeperFailover
  /-- KEEPER_LINK_FAILURE (R505). Keeps the active keeper when heartbeats are missing but the claim line is held. -/
  | keeperLinkFailure
  /-- KEEPER_HANDOVER (R507). Hands over between the keepers without a fail-over after an activation changes the keeper section. -/
  | keeperHandover
  /-- POWER_ON (R514). Sequences the rails and runs a cold bring-up when the 48 V input comes within limits. -/
  | powerOn
  /-- LOWER_LIMIT_TRIP (R294). Stops admission and copies the write buffer to SLC on hold-up power when the 48 V input falls below 40 V. -/
  | lowerLimitTrip
  /-- INPUT_LOST_IN_SLEEP (R503). Loses DRAM when the 48 V input fails in sleep. -/
  | inputLostInSleep
  /-- AUX_INPUT_LOST (R510). Changes the keepers over to the 48 V regulators when the auxiliary input leaves its limits. -/
  | auxInputLost
  /-- AUX_INPUT_RESTORED (R510). Returns the keepers to the auxiliary input. -/
  | auxInputRestored
  /-- CARRIER_SUPPLY_FAULT (R511). Stops a side's NAND operations and fails its storage die when a carrier supply leaves its limits. -/
  | carrierSupplyFault (side : Nat)
  /-- CARRIER_REMOVED (R512). Declares a storage die failed when its CARRIER_PRSNT_N de-asserts. -/
  | carrierRemoved (side : Nat)
  /-- MODULE_RESET_N_ASSERT (R518). Performs steps 1 to 3 of the reset preparation after 1 ms of assertion. -/
  | moduleResetNAssert
  /-- MODULE_RESET_N_RELEASE (R518). Completes a warm reset, or starts stage 1 after a cold hold. -/
  | moduleResetNRelease
  /-- MODULE_RESET_N_COLD_HOLD (R518). Makes the reset cold when the input is still asserted at 100 ms. -/
  | moduleResetNColdHold
  /-- PERST_N_ASSERT (R518). Takes a host port's link down and resets its functions. -/
  | perstNAssert (port : Nat)
  /-- PERST_N_RELEASE (R518). Retrains the host port. -/
  | perstNRelease (port : Nat)
  /-- REFCLK_LOSS (R516). Takes a host port down and retrains it in SRIS mode. -/
  | refclkLoss (port : Nat)
  /-- THERMAL_SAMPLE (R522). Reads the hottest junction every 1 ms and enters or leaves throttling steps. -/
  | thermalSample (temp : Int)
  /-- POWER_LIMITED (R523). Enters power throttling steps when the 1 ms input power exceeds 2,500 W at the lowest budgets. -/
  | powerLimited
  /-- THERMAL_SHUTDOWN (R524). Prepares for reset and switches off every rail but the keepers at 105 °C. -/
  | thermalShutdown
  /-- THERMAL_SHUTDOWN_EXIT (R524). Starts a cold bring-up on a held reset once every sensor reads below 85 °C. -/
  | thermalShutdownExit
  /-- LEAK_DETECTED (R517). Asserts LEAK_N while the leak sensor detects liquid. -/
  | leakDetected (present : Bool)
  /-- BRINGUP_STAGE (R484). Completes a bring-up stage, writes its record and starts the next stage or stops bring-up. -/
  | bringupStage (rep : StageReport)
  /-- FW_STAGING_COMPLETE (R495). Fixes the activation time once every core holds the new image in its inactive bank. -/
  | fwStagingComplete
  /-- FW_ACTIVATION (R496). Pauses admission at the activation time and switches every core to the new bank. -/
  | fwActivation
  /-- FW_ACTIVATION_ROLLBACK (R496). Returns every core to its old bank when some core has not resumed by 4 ms. -/
  | fwActivationRollback
  /-- FOLLOW_UP (R426). Takes the PTP Follow_Up of a two-step master, which carries the precise origin timestamp of the preceding Sync, and completes that offset measurement. -/
  | followUp (port : Nat) (m : PtpMsg)
  /-- NEIGHBOR_ADVERTISEMENT (R422). Takes an IPv6 Neighbor Advertisement that answers the device's own solicitation and resolves the peer on the port. -/
  | neighborAdvertisement (port : Nat) (target : Nat)
  /-- PORT_UP (R420). Brings a fabric port into service once every one of its lanes has trained, starting its LLDP announcements and making it eligible for flows. -/
  | portUp (port : Nat)
  /-- FLASH_TRAINING_TEMPERATURE_DRIFT (R265). Repeats ZQ calibration, duty-cycle correction and DQ training on a storage die's channels when its temperature has changed by 10 °C since the last training. -/
  | flashTrainingTemperatureDrift (d : Nat) (temp : Int)
  /-- TEST_ACCESS_PORT_CYCLE (R520). Shifts an instruction or data through the IEEE 1149.1 chain and executes BYPASS, SAMPLE/PRELOAD, IDCODE or EXTEST, or resets the ports on TRST_N. -/
  | testAccessPortCycle (c : TapCycle)
  /-- SET_EVENT_RECEIVER (R469). Takes a PLDM SetEventReceiver command on the management path and records the receiver for later PlatformEventMessages. -/
  | setEventReceiver (eid : Nat) (tag : Nat)
  /-- FRAME_TRANSMISSION_END (R448). When a port finishes sending a frame, chooses the next eligible frame by the subscriber, service and port levels, subject to shapers and gate fit. -/
  | frameTransmissionEnd (port : Nat)
  /-- MALFORMED_TRANSPORT_PACKET (R435). Drops and counts as a port error an arriving transport packet with an unknown TYPE, a broken layout or a type that does not flow towards the device. -/
  | malformedTransportPacket (k : Packet)
  deriving DecidableEq, Repr

end Sys2Proof
end

