-- ==== Sys2Proof/Machine/Bytes.lean ====
section
/-! DEFINITION. Little-endian fields of records, descriptors, packets and registers (R5), and small list tools. -/

namespace Sys2Proof.Machine

/-- A record, buffer or packet: bytes from the lowest address on (R5). -/
abbrev Bytes := List Byte

/-- The `n` little-endian bytes of `v` (R5). -/
def le : Nat → Nat → Bytes
  | 0, _ => []
  | n + 1, v => BitVec.ofNat 8 v :: le n (v / 256)

/-- The number that little-endian bytes spell (R5). -/
def leNat : Bytes → Nat
  | [] => 0
  | b :: bs => b.toNat + 256 * leNat bs

/-- The `n`-byte field at byte `off` of a record; bytes beyond its end read as zero. -/
def fld (b : Bytes) (off n : Nat) : Nat := leNat ((b.drop off).take n)

/-- Bits `[hi:lo]` of byte `off`. -/
def fbits (b : Bytes) (off hi lo : Nat) : Nat := fld b off 1 / 2 ^ lo % 2 ^ (hi + 1 - lo)

/-- Bit `i` of the record. -/
def fbit (b : Bytes) (i : Nat) : Bool := fld b (i / 8) 1 / 2 ^ (i % 8) % 2 == 1

/-- Bits `[hi:lo]` of a register value. -/
def bits (v hi lo : Nat) : Nat := v / 2 ^ lo % 2 ^ (hi + 1 - lo)

def bitAt (v i : Nat) : Bool := v / 2 ^ i % 2 == 1

/-- `v` with bits `[hi:lo]` replaced by the low bits of `x`. -/
def setBits (v hi lo x : Nat) : Nat :=
  v % 2 ^ lo + x % 2 ^ (hi + 1 - lo) * 2 ^ lo + v / 2 ^ (hi + 1) * 2 ^ (hi + 1)

def zeros (n : Nat) : Bytes := List.replicate n 0#8

/-- True when every byte of the range is zero (reserved fields, R7). -/
def zeroAt (b : Bytes) (off n : Nat) : Bool := fld b off n == 0

/-- Exactly `n` bytes: cut, or padded with zeros. -/
def fit (n : Nat) (b : Bytes) : Bytes := (b ++ zeros (n - b.length)).take n

/-- `b` with `new` written at byte `off`, keeping the length. -/
def patch (b : Bytes) (off : Nat) (new : Bytes) : Bytes :=
  (b.take off ++ new ++ b.drop (off + new.length)).take b.length

/-- `b` with `new` written at byte `off`, growing with zeros where needed. -/
def patchGrow (b : Bytes) (off : Nat) (new : Bytes) : Bytes :=
  let b' := b ++ zeros (off + new.length - b.length)
  b'.take off ++ new ++ b'.drop (off + new.length)

def b2n (b : Bool) : Nat := if b then 1 else 0

def ceilDiv (a b : Nat) : Nat := (a + b - 1) / b
def roundUp (a b : Nat) : Nat := ceilDiv a b * b

/-- A number of bits set in the low `n` bits. -/
def popcount : Nat → Nat → Nat
  | 0, _ => 0
  | n + 1, v => v % 2 + popcount n (v / 2)

/-- The list with element `i` replaced by its image (unchanged when there is none). -/
def modAt {α : Type} (f : α → α) : Nat → List α → List α
  | _, [] => []
  | 0, a :: l => f a :: l
  | n + 1, a :: l => a :: modAt f n l

/-- The list with every element that satisfies `p` replaced by its image. -/
def modIf {α : Type} (p : α → Bool) (f : α → α) (l : List α) : List α := l.map fun a => if p a then f a else a

/-- Ordered insertion by a numeric key, after equal keys. -/
def insertBy {α : Type} (key : α → Nat) (a : α) : List α → List α
  | [] => [a]
  | b :: l => if key a < key b then a :: b :: l else b :: insertBy key a l

/-- Stable insertion sort by a numeric key. -/
def sortBy {α : Type} (key : α → Nat) : List α → List α
  | [] => []
  | a :: l =>
    -- the head goes before the equal keys that follow it
    let rec ins : List α → List α
      | [] => [a]
      | b :: r => if key a ≤ key b then a :: b :: r else b :: ins r
    ins (sortBy key l)

def sumNat {α : Type} (f : α → Nat) (l : List α) : Nat := l.foldl (fun n a => n + f a) 0

/-- Consecutive groups of `n` elements; `fuel` bounds the number of groups. -/
def groups {α : Type} (n : Nat) : Nat → List α → List (List α)
  | 0, _ => []
  | k + 1, l => if l.isEmpty then [] else l.take n :: groups n k (l.drop n)

def chunks {α : Type} (n : Nat) (l : List α) : List (List α) := groups n l.length l

/-- Elements paired with their positions from 0. -/
def indexed {α : Type} (l : List α) : List (Nat × α) := (List.range l.length).zip l

def dedupNat (l : List Nat) : List Nat := l.foldl (fun acc x => if acc.contains x then acc else acc ++ [x]) []

/-- CRC-32C (R280, R479). -/
def crc32c (b : Bytes) : Nat :=
  0xFFFFFFFF ^^^ b.foldl (fun c x => (List.range 8).foldl (fun c _ => if c % 2 = 1 then (c / 2) ^^^ 0x82F63B78 else c / 2) (c ^^^ x.toNat))
    0xFFFFFFFF

/-- The 64-bit `mix` of R353; all arithmetic is modulo 2^64. -/
def mix (x : Nat) : Nat :=
  let m := 2 ^ 64
  let z := (x + 0x9E3779B97F4A7C15) % m
  let z := (z ^^^ (z / 2 ^ 30)) * 0xBF58476D1CE4E5B9 % m
  let z := (z ^^^ (z / 2 ^ 27)) * 0x94D049BB133111EB % m
  z ^^^ (z / 2 ^ 31)

end Sys2Proof.Machine
end

