-- ==== Sys2Proof/Config.lean ====
section
/-! DEFINITION. What an implementation fixes, and the free values: constants with no body, so that no proof can lean on
their values. -/

namespace Sys2Proof.Config

open Sys2Proof Sys2Proof.Machine

/-- Which of the values within 2 units in the last place an approximated function gives: function code of R163, argument
(R36, R161; log 5). -/
opaque approx : Nat → F32 → F32

/-- Output `n` of the keeper's random generator (R402): a 64-byte key seed (log 6). -/
opaque drbg : Nat → List (BitVec 8)

/-- LOCAL_QPN, assigned by the device (R314): partition (64 for the management function) and ring set (log 7). -/
opaque localQpn : Nat → Nat → Nat

/-- A free value for a step: the counter of State, and which value of the step (log 8). -/
opaque freeNat : Nat → Nat → Nat

/-- Identity of the module: part number, serial number and steppings as IDENTIFY writes them (R372; log 9). -/
opaque identity : List (BitVec 8)

/-- A digest or signature that the keeper's cryptography gives for its input (R408 to R411; log 10). -/
opaque crypto : Nat → List (BitVec 8) → List (BitVec 8)

/-- Optimiser hyper-parameters that a package carries in a place its layout does not name (R182, R200; log 11): package
header, 0 β or β₁, 1 β₂, 2 ε, 3 λ. -/
opaque hyper : List (BitVec 8) → Nat → F32

/-- The neighbour list that INDEX_BUILD gives a slot: build counter, slot (R123 fixes no build order; log 23). -/
opaque buildLinks : Nat → Nat → List Nat

/-- The entry points that INDEX_BUILD chooses: build counter (R527; log 23). -/
opaque buildEps : Nat → List Nat

/-- The hash that places a flow on a port (R423; log 25). -/
opaque flowHash : Nat → Nat

/-- The stripe group and die number that a superblock takes on its side (R282 fixes no choice; log 75). -/
opaque superPlace : Nat → Nat

/-- The bits that an LPN sets in a superblock's filter (R302 names no hash; log 120). -/
opaque filterBits : Nat → List Nat

/-- The module key of module pages, held by the keepers (R288; log 6). -/
opaque moduleKey : List (BitVec 8)

/-- Spare blocks of a NAND die (R271 gives no number; log 34). -/
opaque spareBlocks : Nat

/-- The base MAC address, assigned at manufacture (R422; log 9). -/
opaque macBase : Nat

/-- The clock identity of the PTP port (R426; log 9). -/
opaque clockIdentity : Nat

/-- The serial number as text (R372, R424; log 9). -/
opaque serial : List (BitVec 8)

/-- The host port that serves a function: a partition's virtual function, or 64 for the physical function (R518; log 47). -/
opaque hostPort : Nat → Nat

/-- AES-256-XTS of a data unit under a key and a tweak (R288; log 10). -/
opaque xts : List (BitVec 8) → Nat → List (BitVec 8) → List (BitVec 8)

/-- The LDPC parity of a codeword's bytes (R269 names no code; log 115). -/
opaque ldpc : List (BitVec 8) → List (BitVec 8)

end Sys2Proof.Config
end

