-- ==== Sys2Proof/Machine/FlashTypes.lean ====
section
/-! DEFINITION. The data of the flash: page versions with their headers, the map, stripes, superblocks and relocations
(chapter 10). -/

namespace Sys2Proof.Machine

open Sys2Proof

/-- Content of a logical page (R274, R280). -/
inductive Pack where
  | vector | record | object | parity | trim | metadata | pad
  deriving DecidableEq, Repr

def Pack.code : Pack → Nat
  | .vector => 0
  | .record => 1
  | .object => 2
  | .parity => 3
  | .trim => 4
  | .metadata => 5
  | .pad => 6

/-- What a programmed page carries beside the fields that tell where it stands: its data bytes, zeros at the end left out, the DIRECTORY
bytes before encryption, ENTRIES and FIRST_OFFSET (R269, R275, R277, R280). -/
structure PageBody where
  data : Bytes
  dir : Bytes
  entries : Nat
  first : Nat
  deriving DecidableEq, Repr

/-- A page without content; in a record pack no record header begins (R280). -/
def PageBody.none : PageBody := ⟨[], [], 0, 0⟩
def PageBody.blank : PageBody := ⟨[], [], 0, 0xFFFF⟩

/-- One page version of one side: the header fields of R280, where it stands, and the accepted bytes it counts
(R291, R292). Stripe 0 is no stripe: a page of the SLC region (R294). -/
structure FPage where
  lpn : Nat               -- bit 39 names the side (R272)
  part : Nat
  isModule : Bool
  pack : Pack
  dual : Bool
  slc : Bool
  keyGen : Nat
  seq : Nat
  atomicFirst : Nat
  atomicPages : Nat
  trimPages : Nat
  buffered : Bool         -- still held in the write buffer
  stripe : Nat
  super : Nat
  pos : Nat               -- place in its stripe: 4 × STRIPE_POS + plane (R280, R282)
  slot : Nat              -- slot of the write buffer while it is held there (R273)
  stale : Bool            -- a copy of it stands elsewhere, or its key is gone: nothing names it any more (R281, R290)
  crcOk : Bool            -- its program completed (R295)
  bytes : Nat
  body : PageBody
  deriving DecidableEq, Repr

def FPage.side (p : FPage) : Nat := p.lpn / 2 ^ 39

/-- Owner of the stripes of the module's own pages; a partition's are its number (R282). -/
def moduleOwner : Nat := 64
def FPage.owner (p : FPage) : Nat := if p.isModule then moduleOwner else p.part

/-- A stripe (R282, R283). -/
structure Stripe where
  id : Nat
  side : Nat
  part : Nat              -- its owner: a partition, or 64 for the module
  super : Nat
  openedAt : Nat
  isOpen : Bool
  durable : Bool
  pads : List Nat         -- places that pad pages took when it was closed
  page : Nat              -- page index in the die-blocks of its superblock
  copies : Bool           -- it takes the groomer's copies, and no accepted page
  deriving DecidableEq, Repr

/-- A superblock: one block of one die number on each channel of a group (R282, R296, R302). -/
structure Super where
  id : Nat
  side : Nat
  part : Nat              -- its owner
  erases : Nat
  group : Nat             -- 0: channels 0 to 15 of the side; 1: channels 16 to 31
  die : Nat
  block : Nat
  filter : List Nat       -- bits set of its LPN filter of 4,096 bits (R302)
  deriving DecidableEq, Repr

/-- Pages that the groomer has freed for a partition and side, less those it wrote, at one time (R297). -/
structure Freed where
  part : Nat
  side : Nat
  time : Nat
  freed : Nat
  written : Nat
  deriving DecidableEq, Repr

/-- The last write of a partition to a side that was admitted: when, and its pages (R297). -/
structure Paced where
  part : Nat
  side : Nat
  time : Nat
  pages : Nat
  deriving DecidableEq, Repr

/-- A page copy made by the groomer that has not yet been entered in the map (R298). -/
structure Reloc where
  lpn : Nat
  seq : Nat
  victim : Nat            -- superblock it is copied from
  since : Nat             -- when the relocation of that began
  background : Bool       -- it stops when the flash is used again (R296)
  deriving DecidableEq, Repr

/-- An extent of 65,536 logical pages of one object (R274). -/
structure Extent where
  part : Nat
  owner : Nat             -- the object (FlashCore)
  num : Nat               -- extent number on each side
  index : Nat             -- position of the extent within the object
  deriving DecidableEq, Repr

/-- The NAND population (R266, R267). -/
structure Geometry where
  dies : Nat              -- per channel: 4, 8, 12 or 16
  density : Nat           -- 0, 1, 2 for 512 Gbit, 1 Tbit, 2 Tbit
  superPages : Nat        -- pages of a superblock: 64 for each page of a block (R282)
  deriving DecidableEq, Repr

/-- Bytes of a NAND die: decimal densities (R266, R267). -/
def Geometry.dieBytes (g : Geometry) : Nat := 64000000000 * 2 ^ g.density * (if g.density = 0 then 1 else 125) / (if g.density = 0 then 1 else 128)

/-- Raw flash bytes (R267). -/
def Geometry.raw (g : Geometry) : Nat := 64 * g.dies * g.dieBytes

structure Flash where
  pages : List FPage
  map : List (Nat × Nat)          -- LPN to the SEQUENCE of the version it names (R273)
  nextSeq : Nat                   -- R281
  stripes : List Stripe
  nextStripe : Nat
  supers : List Super
  nextSuper : Nat
  relocs : List Reloc
  extents : List Extent
  nextExtent : Nat
  lost0 : Bool                    -- storage die lost (R286)
  lost1 : Bool
  lostCh : List Nat               -- flash channels retired (R284)
  badBlocks : List (Nat × Nat × Nat)
  geom : Geometry
  temp0 : Int                     -- temperature at the last training of each side (R265)
  temp1 : Int
  trainings : Nat
  nandOff : List Nat              -- sides whose NAND operations stand still (R511)
  hurt : List Nat                 -- superblocks whose stripes have lost one member (R284)
  dead : List (Nat × Nat)         -- LPN and SEQUENCE of versions whose stripe has lost two members (R270, R284)
  moved : Nat                     -- codewords that reads of the media have transferred (R269)
  lostDies : List Nat             -- NAND dies out of use: 16 × channel + die (R266, R284)
  forGood : List Nat              -- sides whose storage die has failed itself, not its carrier (R286)
  found : List NandReport         -- reports of the dies that differ from the reference (R265)
  rates : List Nat                -- rate each channel is trained to, MT/s; 0: not trained (R265)
  entriesLost : List (Nat × Nat × Nat)  -- module channels whose map entries are being rebuilt: side, place in the side's channels, their number (R261)
  freed : List Freed
  paced : List Paced
  active : List (Nat × Nat × Nat)   -- partition, side and time of the last read or program that a command made (R296)
  deriving DecidableEq, Repr

def Flash.reset : Flash :=
  { pages := [], map := [], nextSeq := 1, stripes := [], nextStripe := 1, supers := [], nextSuper := 1, relocs := [],
    extents := [], nextExtent := 0, lost0 := false, lost1 := false, lostCh := [], badBlocks := [], geom := ⟨16, 1, 12032⟩,
    temp0 := 0, temp1 := 0, trainings := 0, nandOff := [], hurt := [], dead := [], moved := 0, lostDies := [], forGood := [],
    found := [], rates := List.replicate 64 0, entriesLost := [], freed := [], paced := [], active := [] }

end Sys2Proof.Machine
end

