-- ==== Sys2Proof/Machine/Fp.lean ====
section
/-! DEFINITION. Numeric formats, the one rounding rule and the narrowing conversions (chapter 02: R31 to R47). -/

namespace Sys2Proof.Machine

/-- A number before rounding: a NaN, an infinity, or the exact value `(-1)^neg * m * 2^e` (R35). -/
inductive Num where
  | nan
  | inf (neg : Bool)
  | fin (neg : Bool) (m : Nat) (e : Int)
  deriving DecidableEq, Repr, Inhabited

/-- A floating-point format of R31: exponent bits, fraction bits and whether it has infinities. -/
structure Fmt where
  eb : Nat
  fb : Nat
  hasInf : Bool
  deriving DecidableEq, Repr

namespace Fmt
def e4m3 : Fmt := ⟨4, 3, false⟩
def e5m2 : Fmt := ⟨5, 2, true⟩
def f16 : Fmt := ⟨5, 10, true⟩
def f32 : Fmt := ⟨8, 23, true⟩
def bias (f : Fmt) : Nat := 2 ^ (f.eb - 1) - 1
/-- Exponent of the least significant bit of a subnormal. -/
def minE (f : Fmt) : Int := 1 - (f.bias : Int) - (f.fb : Int)
/-- Exponent field and fraction of the largest finite value (R31). -/
def maxMag (f : Fmt) : Nat :=
  if f.hasInf then (2 ^ f.eb - 1) * 2 ^ f.fb - 1 else 2 ^ (f.eb + f.fb) - 2
/-- The canonical NaN: sign 0, every exponent and fraction bit set (R34). -/
def nanBits (f : Fmt) : Nat := 2 ^ (f.eb + f.fb) - 1
def infMag (f : Fmt) : Nat := (2 ^ f.eb - 1) * 2 ^ f.fb
def signBit (f : Fmt) : Nat := 2 ^ (f.eb + f.fb)
end Fmt

/-- The value of a bit pattern in a format (R31, R32: subnormals are kept). -/
def Fmt.decode (f : Fmt) (bits : Nat) : Num :=
  let neg := decide (bits / f.signBit % 2 = 1)
  let ex := bits / 2 ^ f.fb % 2 ^ f.eb
  let fr := bits % 2 ^ f.fb
  if f.hasInf && ex == 2 ^ f.eb - 1 then (if fr = 0 then .inf neg else .nan)
  else if !f.hasInf && ex == 2 ^ f.eb - 1 && fr == 2 ^ f.fb - 1 then .nan
  else if ex = 0 then .fin neg fr f.minE
  else .fin neg (fr + 2 ^ f.fb) (f.minE + ((ex : Int) - 1))

/-- Floor of the base-2 logarithm of `n / d` for positive `n` and `d`. -/
def ratLog2 (n d : Nat) : Int :=
  let a : Int := (Nat.log2 n : Int) - (Nat.log2 d : Int)
  let ge : Bool := if 0 ≤ a then decide (d * 2 ^ a.toNat ≤ n) else decide (d ≤ n * 2 ^ (-a).toNat)
  if ge then a else a - 1

/-- Round half away from zero of `(n / d) * 2^k` to a natural number (R36). -/
def roundHalfAway (n d : Nat) (k : Int) : Nat :=
  if 0 ≤ k then (2 * n * 2 ^ k.toNat + d) / (2 * d)
  else (2 * n + d * 2 ^ (-k).toNat) / (2 * d * 2 ^ (-k).toNat)

/-- Magnitude bits of `(n / d) * 2^e` rounded once under R36 as though the exponent range were unbounded above
(R38 step 2); the result may pass the largest finite value. -/
def Fmt.roundMag (f : Fmt) (n d : Nat) (e : Int) : Nat :=
  if n = 0 ∨ d = 0 then 0 else
  let lg := ratLog2 n d + e
  let ulp : Int := max (lg - f.fb) f.minE
  let m := roundHalfAway n d (e - ulp)
  -- m < 2^(fb+1), or exactly 2^(fb+1) after a carry, which the same sum encodes
  if m < 2 ^ f.fb then m else m - 2 ^ f.fb + (((ulp - f.minE).toNat + 1) * 2 ^ f.fb)

/-- Rounds a rational magnitude to a pattern of an IEEE format: overflow gives an infinity (R35, R36). -/
def Fmt.ofRat (f : Fmt) (neg : Bool) (n d : Nat) (e : Int) : Nat :=
  let m := f.roundMag n d e
  (if neg then f.signBit else 0) + (if f.maxMag < m then f.infMag else m)

/-- Rounds an exact number once under R36 to an IEEE format (R35 for the special values, R34 for NaN). -/
def Fmt.round (f : Fmt) : Num → Nat
  | .nan => f.nanBits
  | .inf neg => (if neg then f.signBit else 0) + f.infMag
  | .fin neg m e => f.ofRat neg m 1 e

namespace Num

def zero : Num := .fin false 0 0
def ofInt (i : Int) : Num := .fin (decide (i < 0)) i.natAbs 0

def isNan : Num → Bool
  | .nan => true
  | _ => false

/-- Signed integer of a finite value at exponent `x`, `x` at most its own exponent. -/
def scaled (neg : Bool) (m : Nat) (e x : Int) : Int :=
  let v : Int := (m * 2 ^ (e - x).toNat : Nat)
  if neg then -v else v

def neg : Num → Num
  | .nan => .nan
  | .inf n => .inf !n
  | .fin n m e => .fin (!n) m e

def abs : Num → Num
  | .nan => .nan
  | .inf _ => .inf false
  | .fin _ m e => .fin false m e

/-- The exact sum, with the signs of zero and the special values of IEEE 754 (R35). -/
def add : Num → Num → Num
  | .nan, _ => .nan
  | _, .nan => .nan
  | .inf a, .inf b => if a = b then .inf a else .nan
  | .inf a, _ => .inf a
  | _, .inf b => .inf b
  | .fin n₁ m₁ e₁, .fin n₂ m₂ e₂ =>
    let x := min e₁ e₂
    let v := scaled n₁ m₁ e₁ x + scaled n₂ m₂ e₂ x
    if v = 0 then .fin (n₁ && n₂ && m₁ == 0 && m₂ == 0) 0 x
    else .fin (decide (v < 0)) v.natAbs x

def sub (a b : Num) : Num := a.add b.neg

/-- The exact product (R35, R38 step 1). -/
def mul : Num → Num → Num
  | .nan, _ => .nan
  | _, .nan => .nan
  | .inf a, .inf b => .inf (xor a b)
  | .inf a, .fin n m _ => if m = 0 then .nan else .inf (xor a n)
  | .fin n m _, .inf b => if m = 0 then .nan else .inf (xor n b)
  | .fin n₁ m₁ e₁, .fin n₂ m₂ e₂ => .fin (xor n₁ n₂) (m₁ * m₂) (e₁ + e₂)

end Num

def f32num (x : F32) : Num := Fmt.f32.decode x.toNat
def f16num (x : F16) : Num := Fmt.f16.decode x.toNat
/-- One rounding to FP32 under R36. -/
def toF32 (n : Num) : F32 := BitVec.ofNat 32 (Fmt.f32.round n)
def toF16 (n : Num) : F16 := BitVec.ofNat 16 (Fmt.f16.round n)

def f32zero : F32 := 0#32
def f32one : F32 := 0x3F800000#32
def f32nan : F32 := 0x7FFFFFFF#32
def f32inf : F32 := 0x7F800000#32

def f32add (a b : F32) : F32 := toF32 ((f32num a).add (f32num b))
def f32sub (a b : F32) : F32 := toF32 ((f32num a).sub (f32num b))
def f32mul (a b : F32) : F32 := toF32 ((f32num a).mul (f32num b))

/-- Quotient rounded once (R35, R36). -/
def f32div (a b : F32) : F32 :=
  match f32num a, f32num b with
  | .nan, _ => f32nan
  | _, .nan => f32nan
  | .inf _, .inf _ => f32nan
  | .inf n, .fin k _ _ => toF32 (.inf (xor n k))
  | .fin n _ _, .inf k => toF32 (.fin (xor n k) 0 0)
  | .fin n m e, .fin k p q =>
    if p = 0 then (if m = 0 then f32nan else toF32 (.inf (xor n k)))
    else BitVec.ofNat 32 (Fmt.f32.ofRat (xor n k) m p (e - q))

/-- Integer square root, bit by bit from bit `k`. -/
def isqrtFrom : Nat → Nat → Nat → Nat
  | 0, n, r => if (r + 1) * (r + 1) ≤ n then r + 1 else r
  | k + 1, n, r =>
    let c := r + 2 ^ (k + 1)
    isqrtFrom k n (if c * c ≤ n then c else r)

def isqrt (n : Nat) : Nat := isqrtFrom (Nat.log2 n / 2 + 1) n 0

/-- Square root rounded once; a tie cannot occur, so the remainder only needs one sticky bit (R36, R161). -/
def f32sqrt (a : F32) : F32 :=
  match f32num a with
  | .nan => f32nan
  | .inf true => f32nan
  | .inf false => f32inf
  | .fin neg m e =>
    if m = 0 then a else if neg then f32nan else
    let e' : Int := if e % 2 = 0 then e - 64 else e - 65
    let n := m * 2 ^ (e - e').toNat
    let r := isqrt n
    let st := if r * r = n then 0 else 1
    toF32 (.fin false (2 * r + st) (e' / 2 - 1))

/-- The reciprocal square root of R98, one rounding from its argument; +0 gives +∞ (R98, R35). -/
def f32recipSqrt (a : F32) : F32 :=
  match f32num a with
  | .nan => f32nan
  | .inf true => f32nan
  | .inf false => f32zero
  | .fin neg m e =>
    if m = 0 then toF32 (.inf neg) else if neg then f32nan else
    -- value = 2^(-e/2) / sqrt m, computed as isqrt (2^(2k) / m) with a sticky bit
    let m' := if e % 2 = 0 then m else 2 * m
    let e' : Int := if e % 2 = 0 then e else e - 1
    let k := Nat.log2 m' + 64
    let r := isqrt (2 ^ (2 * k) / m')
    let st := if r * r * m' = 2 ^ (2 * k) then 0 else 1
    toF32 (.fin false (2 * r + st) (-(e' / 2) - (k : Int) - 1))

/-- Exact widening of a narrower pattern to FP32 (R37; a NaN becomes the canonical NaN). -/
def f16toF32 (x : F16) : F32 := toF32 (f16num x)
def e4m3toF32 (x : Byte) : F32 := toF32 (Fmt.e4m3.decode x.toNat)
def e5m2toF32 (x : Byte) : F32 := toF32 (Fmt.e5m2.decode x.toNat)
def intToF32 (i : Int) : F32 := toF32 (Num.ofInt i)
def natToF32 (n : Nat) : F32 := intToF32 n

/-- Two's complement value of the low `w` bits of `n` (R31). -/
def toSigned (w n : Nat) : Int :=
  let v := n % 2 ^ w
  if v < 2 ^ (w - 1) then v else (v : Int) - (2 ^ w : Nat)

/-- Two's complement bits of an integer (R31). -/
def ofSigned (w : Nat) (i : Int) : Nat := (i % (2 ^ w : Nat)).toNat

/-- The element formats of R160. -/
inductive Elem where
  | int8 | int4 | e4m3 | e5m2 | b16 | bit | fp32
  deriving DecidableEq, Repr, Inhabited

/-- Format code of R160. -/
def Elem.ofCode : Nat → Option Elem
  | 0 => some .int8
  | 1 => some .int4
  | 2 => some .e4m3
  | 3 => some .e5m2
  | 4 => some .b16
  | 5 => some .bit
  | 6 => some .fp32
  | _ => none

/-- Bits of one element (R31, R33). -/
def Elem.bits : Elem → Nat
  | .int8 => 8
  | .int4 => 4
  | .e4m3 => 8
  | .e5m2 => 8
  | .b16 => 16
  | .bit => 1
  | .fp32 => 32

/-- The exact value of an element's code (R37, R39). -/
def Elem.num (f : Elem) (code : Nat) : Num :=
  match f with
  | .int8 => Num.ofInt (toSigned 8 code)
  | .int4 => Num.ofInt (toSigned 4 code)
  | .e4m3 => Fmt.e4m3.decode code
  | .e5m2 => Fmt.e5m2.decode code
  | .b16 => Fmt.f16.decode code
  | .fp32 => Fmt.f32.decode code
  | .bit => if code % 2 = 1 then .fin true 1 0 else .fin false 1 0

/-- Quantised code and whether the element is saturated (R38), for a floating-point target. -/
def quantFloat (f : Fmt) : Num → Nat × Bool
  | .nan => (f.nanBits, false)
  | .inf neg =>
    if f.hasInf then ((if neg then f.signBit else 0) + f.infMag, false)
    else ((if neg then f.signBit else 0) + f.maxMag, true)
  | .fin neg m e =>
    let r := f.roundMag m 1 e
    let s := if neg then f.signBit else 0
    if f.maxMag < r then (s + f.maxMag, true) else (s + r, false)

/-- Quantised code and saturation for int8 (`q` 127) or int4 (`q` 7) (R38, R39: never the lowest code). -/
def quantInt (w q : Nat) : Num → Nat × Bool
  | .nan => (0, true)
  | .inf neg => (ofSigned w (if neg then -(q : Int) else q), true)
  | .fin neg m e =>
    let r := roundHalfAway m 1 e
    let sgn := fun (n : Nat) => if neg then -(n : Int) else (n : Int)
    if q < r then (ofSigned w (sgn q), true) else (ofSigned w (sgn r), false)

/-- A sketch bit of a projection component and whether it is counted (R38, R40). -/
def quantBit (x : Num) : Nat × Bool :=
  match x with
  | .nan => (0, true)
  | .inf neg => (if neg then 1 else 0, false)
  | .fin neg _ _ => (if neg then 1 else 0, false)

/-- The quantise operation of R38 on the exact product `x * r`. -/
def quantise (f : Elem) (p : Num) : Nat × Bool :=
  match f with
  | .int8 => quantInt 8 127 p
  | .int4 => quantInt 4 7 p
  | .e4m3 => quantFloat .e4m3 p
  | .e5m2 => quantFloat .e5m2 p
  | .b16 => quantFloat .f16 p
  | .bit => quantBit p
  | .fp32 => (Fmt.f32.round p, false)

/-- The total order of scores as an unsigned key (R46). -/
def orderKey (x : F32) : Nat :=
  let b := x.toNat
  let ex := b / 2 ^ 23 % 256
  let fr := b % 2 ^ 23
  if ex = 255 ∧ fr ≠ 0 then 0xFFFFFFFF
  else if b = 0x80000000 then 0x80000000
  else if b < 0x80000000 then b + 0x80000000
  else 0xFFFFFFFF - b

def f32isNan (x : F32) : Bool := (f32num x).isNan
def f32isFinite (x : F32) : Bool :=
  match f32num x with
  | .fin _ _ _ => true
  | _ => false

end Sys2Proof.Machine
end

