-- ==== Sys2Proof/Machine/IndexTypes.lean ====
section
/-! DEFINITION. The data of an index, of a search under way and of an update under way (chapters 04 and 05). -/

namespace Sys2Proof.Machine

/-- Insert policy of R122. -/
structure InsertPolicy where
  pool : Nat
  hopBound : Nat
  seeds : Nat
  slack : Nat
  deriving DecidableEq, Repr

/-- Parameters of an index (R78, R352), as the parameter block supplied them. -/
structure IndexParams where
  dim : Nat
  fmt : Nat            -- format code of R160: 0 int8, 1 int4, 2 E4M3, 3 E5M2, 4 binary16
  sketchBits : Nat
  degree : Nat
  attrBytes : Nat
  single : Bool        -- durability class: single-copy
  projGiven : Bool     -- projection read from PROJ_ADDR rather than generated
  seed : Nat
  proj : List F16      -- row-major, when given
  capacity : Nat
  deriving DecidableEq, Repr

/-- A node slot in use (R79) with the node's flash record (R78) and its epochs (R114). Neighbour lists and entry points hold slots, so an
entry names one slot even when two slots hold one handle (DESIGN CHOICE, log 128). -/
structure Node where
  slot : Nat
  handle : Nat
  sketch : Nat
  attrs : Nat
  body : Bytes                       -- elements in VECTOR_FORMAT, packed (R33)
  scale : F16                        -- for int8 and int4; zero otherwise (R276)
  rn : F32                           -- reciprocal norm (R98)
  doc : Bytes
  docTokens : Nat
  journalSeq : Nat := 0
  commit : Option Nat := none
  tomb : Option Nat := none
  marked : Bool := false             -- tombstone marked (R117), its epoch perhaps not yet assigned
  withdrawn : Bool := false          -- R136
  settled : Bool := false            -- states 1 and 3 of R127; state 2 while false
  freed : Bool := false              -- slot freed, kept readable under R89
  exclRange : Bool := false          -- left out of its range's OR and AND by a compaction (R129 step 4)
  exclBlock : Bool := false
  versions : List (Nat × List Nat) := []   -- neighbour list as slots, newest first, each with its write epoch (R26, R137)
  sketchPoison : Bool := false
  listPoison : Bool := false
  docPoison : Bool := false          -- a line of DRAM that holds its document record while it is buffered or read is poisoned (R208, R209)
  docAt : Nat := 0                   -- where its document stands in the index's record packs (R277)
  deriving DecidableEq, Repr

/-- A bucket of a handle directory (R251): its number, and its 8-byte entries as (SLOT, QUOTIENT). Of the eight places of a bucket
the last may hold the number of an overflow bucket; overflow buckets are numbered from M on. -/
structure DirBucket where
  num : Nat
  ents : List (Nat × Nat)
  link : Option Nat
  deriving DecidableEq, Repr

/-- The handle directory of an index (R251): M, and the buckets that hold an entry. -/
structure Directory where
  m : Nat
  buckets : List DirBucket
  nextOver : Nat
  deriving DecidableEq, Repr

/-- M is a multiple of 131,072; a directory without entries has the least of them (DEDUCED, log 111). -/
def Directory.empty : Directory := ⟨131072, [], 131072⟩

/-- One graph of an index: the nodes in slot order and the entry points as slots (R78, R527). -/
structure Graph where
  since : Nat                        -- read epochs from here on use this graph (R131)
  nodes : List Node
  eps : List Nat
  nextSlot : Nat                     -- next slot after the highest in use or reserved (R79)
  dir : Directory := Directory.empty
  vecBase : Nat := 0                 -- its first vector pack among those of the index (R275)
  oldEps : List (Nat × List Nat) := []   -- entry points that a change in an epoch replaced, newest first (R105, R137)
  deriving DecidableEq, Repr

def Graph.empty : Graph := { since := 0, nodes := [], eps := [], nextSlot := 0 }

/-- An update recorded by a running INDEX_BUILD for the new graph (R131). -/
structure BuildUpdate where
  delete : Bool
  order : Nat × Nat × Nat  -- admission time, ring set, SEQUENCE
  handle : Nat
  slot : Nat               -- slot of the node in the old graph, for an insert
  epoch : Nat
  deriving DecidableEq, Repr

/-- An index of a partition (R78). -/
structure Index where
  num : Nat
  params : IndexParams
  graphs : List Graph                -- the graph in use first, then older graphs still readable
  reserved : Nat                     -- slots reserved by admitted updates (R352)
  mib : Nat                          -- DRAM committed, MiB
  building : Bool := false
  buildMib : Nat := 0                -- DRAM committed by a running INDEX_BUILD (R131)
  lostRanges : List Nat := []        -- ranges whose image segment could not be read (R260, R263)
  recorded : List BuildUpdate := []
  docPos : Nat := 0                  -- bytes of record packs used by its documents (R277)
  dirBad : List Nat := []            -- buckets of the handle directory on a poisoned line (R208 to R210)
  lag : Nat := 0                     -- fabric time of the oldest image segment not yet rewritten (R258); 0 none
  deriving DecidableEq, Repr

/-- A candidate of the exact pass (R97 to R100). -/
structure Cand where
  slot : Nat
  handle : Nat
  ham : Nat
  viaWalk : Bool
  viaBench : Bool
  side : Nat := 0                    -- storage die the read went to (R25), or 2 for the hot-vector cache (R99)
  tries : Nat := 0
  score : Option F32 := none
  lost : Bool := false
  also : Option Nat := none          -- a storage die whose list holds it as well, read when it left the cache (R99, R101)
  deriving DecidableEq, Repr

/-- What a walk answers (R86). -/
structure WalkRes where
  elig : List (Nat × Nat × Nat)      -- (Hamming distance, handle, slot), rank order
  dropped : Bool
  hops : Nat
  visited : Nat
  converged : Bool
  poisoned : Bool
  unreachable : Bool := false        -- it needed a range whose image segment is lost (R256)
  deriving DecidableEq, Repr

/-- What a bench scan answers (R95, R96): the local lists by engine position, with the truncated bits. -/
structure BenchRes where
  lists : List (List (Nat × Nat × Nat) × Bool)
  scanned : Nat
  skipped : Nat
  poisoned : Bool
  unreachable : Bool := false
  deriving DecidableEq, Repr

/-- What a search holds while it runs: context-pool bytes with their bank, and its traverse-engine place (R24, R85, R386). -/
structure Seat where
  ctx : Nat
  bank : Nat
  place : Bool
  engine : Nat
  deriving DecidableEq, Repr

/-- One search under way: its parameter block and the state between its phases (R23). -/
structure SearchRun where
  block : Bytes
  epoch : Nat
  timeLost : Bool
  path : Nat                         -- 0 walk, 1 bench, 2 both
  sketch : Nat
  sketched : Bool := false
  flags : Nat
  walk : Option WalkRes := none
  bench : Option BenchRes := none
  cands : Option (List Cand) := none
  dups : Nat := 0
  status : Option Nat := none        -- set when the search has ended
  valid : Nat := 0
  replayed : Bool := false
  replays : Nat := 0
  seat : Option Seat := none         -- none while the search of a batch waits for its context entry (R349)
  lost : Bool := false               -- a failure lost its state: it waits for its replay (R132)
  ceWait : Bool := false             -- its items stand in rows of an invocation of the cross-encoder (R102)
  deriving DecidableEq, Repr

/-- One insert, upsert or delete under way (R27, R126). -/
structure UpdRun where
  opcode : Nat
  index : Nat
  handle : Nat
  slot : Option Nat                  -- the slot reserved at admission (R352)
  attrs : Nat
  vec : List F32                     -- the FP32 values supplied, or the encoder output of the vector record (R120)
  haveVec : Bool
  record : Bytes
  recordTokens : Nat
  journal : Option Nat := none       -- journal sequence number once the record is accepted
  docPoison : Bool := false          -- a line of DRAM that holds its document record while it is buffered or read is poisoned (R208, R209)
  docAt : Nat := 0                   -- where its document stands once accepted (R277)
  version : Nat := 0                 -- encoder version used
  source : Bytes := []               -- the tokens, when they are its source (R27)
  model : Nat := 0                   -- the encoder named for them
  policy : InsertPolicy := ⟨128, 0, 1, 0⟩   -- in force at admission, or for its batch (R121)
  placed : Bool := false             -- its node stands in its slot, sketch written
  linked : Bool := false             -- its last link is written; its batch has not yet its commit epoch (R138)
  order : Nat × Nat × Nat := (0, 0, 0)   -- admission time, ring set, SEQUENCE, once journaled (R131)
  room : Nat := 0                    -- staging bytes reserved for list versions, once journaled (R137)
  held : Bool := false               -- names a pending node and waits for its commit epoch (R117)
  deriving DecidableEq, Repr

end Sys2Proof.Machine
end

