-- ==== Sys2Proof/Machine/Memory.lean ====
section
/-! DEFINITION. Addressed memory: a list of (address, byte) cells in one canonical form, and the named operations over
it. An unlisted address reads as zero (R385: content is zeroed before a partition first uses it; DESIGN CHOICE, log 3). -/

namespace Sys2Proof.Machine

/-- Memory as cells with strictly rising addresses, none of them zero. -/
abbrev Memory := List Host.Cell

/-- The canonical form: addresses strictly rising, and no entry equal to what an unlisted address reads as. -/
def Memory.wfFrom : Nat → Memory → Bool
  | _, [] => true
  | lo, (a, b) :: m => decide (lo ≤ a) && b != 0#8 && Memory.wfFrom (a + 1) m

def Memory.wf (m : Memory) : Bool := Memory.wfFrom 0 m

/-- One byte (R204: a partition byte that nothing has written reads as zero). -/
def Memory.read : Memory → Nat → Byte
  | [], _ => 0#8
  | (k, b) :: m, a => if k = a then b else if a < k then 0#8 else Memory.read m a

/-- Writes one byte and keeps the canonical form. -/
def Memory.write : Memory → Nat → Byte → Memory
  | [], a, v => if v = 0#8 then [] else [(a, v)]
  | (k, b) :: m, a, v =>
    if a = k then (if v = 0#8 then m else (a, v) :: m)
    else if a < k then (if v = 0#8 then (k, b) :: m else (a, v) :: (k, b) :: m)
    else (k, b) :: Memory.write m a v

/-- `n` bytes from address `a`. -/
def Memory.readN (m : Memory) (a : Nat) : Nat → Bytes
  | 0 => []
  | n + 1 => m.read a :: Memory.readN m (a + 1) n

/-- Writes bytes from address `a` on. -/
def Memory.writeN (m : Memory) (a : Nat) : Bytes → Memory
  | [] => m
  | b :: bs => Memory.writeN (m.write a b) (a + 1) bs

/-- Every byte of `[a, a + n)` becomes zero. -/
def Memory.zero (m : Memory) (a n : Nat) : Memory := m.filter fun c => !(decide (a ≤ c.1) && decide (c.1 < a + n))

/-- `dst` with every address that `p` selects as `src` has it. -/
def Memory.overlay (dst src : Memory) (p : Nat → Bool) : Memory :=
  (src.filter fun c => p c.1).foldl (fun m c => m.write c.1 c.2) (dst.filter fun c => !p c.1)

/-- The bytes of `[a, a + n)`, zeros at the end left out. -/
def Memory.pageData (m : Memory) (a n : Nat) : Bytes :=
  let cells : Memory := m.filter fun c => decide (a ≤ c.1) && decide (c.1 < a + n)
  match cells.getLast? with
  | none => []
  | some c => cells.readN a (c.1 + 1 - a)

/-- A little-endian number of `n` bytes (R5). -/
def Memory.readLe (m : Memory) (a n : Nat) : Nat := leNat (m.readN a n)

end Sys2Proof.Machine
end

