-- ==== Sys2Proof/Machine/TileTypes.lean ====
section
/-! DEFINITION. The data of a tile site, of a loaded model and of its invocations (chapters 06 and 07). -/

namespace Sys2Proof.Machine

open Sys2Proof

/-- A dispatched descriptor: its index in the stream, its 64 bytes, and whether its header wait and a WAIT's own wait
are satisfied (R147, R148, R175). -/
structure TDesc where
  idx : Nat
  d : Bytes
  waited : Bool
  opWaited : Bool
  deriving DecidableEq, Repr

/-- A tile site (R142 to R147, R175). -/
structure Tile where
  sram : Memory
  tokens : List Nat            -- 64 counters
  running : Bool
  prog : List Bytes            -- descriptors of the stream it runs
  next : Nat                   -- index of the next descriptor to dispatch
  entry : Option Nat           -- plan entry it runs
  queues : List (List TDesc)   -- MATRIX, VECTOR, SCREEN, XFER, SYNC
  held : List TDesc            -- held back by a full queue, in stream order
  deriving DecidableEq, Repr

def Tile.reset : Tile := ⟨[], List.replicate 64 0, false, [], 0, none, List.replicate 5 [], []⟩

/-- A tensor resident for bank-engine work (R227): its window, its rows and the bytes w of each, the channel positions that its
bank phases name, and its first line in each of their bank groups. -/
structure Resident where
  window : Nat
  rows : Nat
  rowBytes : Nat
  chans : List Nat
  line : Nat
  deriving DecidableEq, Repr

/-- A command group of a bank phase: its engine number in the phase and its command records (R222). -/
structure PhaseGroup where
  eng : Nat
  cmds : List Bytes
  deriving DecidableEq, Repr

/-- A bank phase: its channel positions and its groups in list order (R222). -/
structure Phase where
  chans : List Nat
  groups : List PhaseGroup
  deriving DecidableEq, Repr

/-- A placed package: its stored object, its header, tensor records and plan, what its plan runs, and the windows of its tensors
and of its master copies and optimiser state (R182 to R185, R199). -/
structure Pkg where
  object : Nat
  hdr : Bytes
  tensors : List Bytes
  plan : List Bytes
  streams : List (List (List Bytes))   -- by plan entry and tile position, the descriptors of a tile phase
  phases : List Phase                  -- by plan entry, the body of a bank phase
  window : Option Nat
  stateWindow : Option Nat
  bankLine : Nat               -- bank-group line from which the LOCAL fields of its bank phases count (R225, log 106)
  tensorBytes : Nat            -- bytes of one working copy
  tables : List Nat            -- embedding tables made for it
  residents : List Resident    -- its tensors with PLACEMENT 1, in table order
  residents2 : List Resident   -- their second working copies, in table order; the first of a frozen tensor again (R201)
  deriving DecidableEq, Repr

/-- A version of a model that has been replaced and still serves requests admitted before (R186): its package serves the
versions from `base` to `version`. -/
structure OldVer where
  version : Nat
  base : Nat
  copy : Bool                          -- its current working copy
  pkg : Pkg
  freed : Bool                         -- its last invocation has ended: its DRAM is released
  deriving DecidableEq, Repr

/-- A model identifier of a partition (R181, R186, R201). -/
structure Model where
  id : Nat
  version : Nat                        -- version in use; 0 while a first load has not switched
  base : Nat                           -- first version of the package in use
  cur : Option Pkg
  next : Option (Nat × Pkg × Nat)      -- replacement: version, package, switch epoch
  loading : Bool
  unloading : Bool
  copy : Bool                          -- which of the two working copies is current
  olds : List OldVer
  invocations : Nat
  rows : Nat
  refusals : Nat                       -- capacity refusals (R195)
  deriving DecidableEq, Repr

/-- A row of an invocation's batch (R187 to R189): the request it belongs to, the search of a batch, its item within the request,
its staged bytes, its token count and the query tokens at its start; and whether its request still waits for it. -/
structure InvRow where
  req : ReqRef
  sub : Nat
  item : Nat
  data : Bytes
  tokens : Nat
  query : Nat
  live : Bool
  deriving DecidableEq, Repr

/-- Row updates of a bank engine that wait: for the end of their training step, or for their barrier epoch (R140, R200, R242). -/
structure RowUpd where
  source : Nat                 -- source identity (R139)
  table : Nat
  mode : Nat
  eta : F32
  rows : List (Nat × List F32)
  bad : List Nat               -- rows whose record was computed from a poisoned line (R208)
  deriving DecidableEq, Repr

/-- Row updates of a reproducible partition outside a training step: the epoch at whose tick they apply, and the requests that they
serve (R242). -/
structure HeldRows where
  barrier : Nat
  upd : RowUpd
  serves : List ReqRef
  deriving DecidableEq, Repr

/-- An invocation of a model, waiting or under way (R146, R187 to R191). -/
structure Inv where
  kind : Nat                   -- 0 encode, 1 rerank, 2 training step
  model : Nat
  version : Nat
  rows : List InvRow
  step : Nat
  rate : F32
  margin : F32
  exitK : Nat
  time : Nat                   -- fabric time of its start
  copy : Bool                  -- the working copy it uses (R201)
  going : Bool
  started : List Nat
  done : List Nat
  ended : List (Nat × Nat)     -- (entry, tile position) that has completed its SYNC END
  upds : List RowUpd
  deriving DecidableEq, Repr

/-- What an invocation has left for a row: its output bytes, and for a training step the gradients of its tensors and the row
updates that wait (R188, R199). -/
structure RowOut where
  req : ReqRef
  sub : Nat
  item : Nat
  version : Nat                -- version that the invocation used
  bytes : Bytes
  grads : List (List F32)
  upds : List RowUpd
  deriving DecidableEq, Repr

/-! Header fields of a package (R182). -/
namespace Pkg
def kind (p : Pkg) : Nat := fbits p.hdr 4 1 0
def tiles (p : Pkg) : Nat := fld p.hdr 6 2
def layers (p : Pkg) : Nat := fld p.hdr 8 2
def exits (p : Pkg) : Nat := fld p.hdr 10 1
def maxTokens (p : Pkg) : Nat := fld p.hdr 28 2
def maxRows (p : Pkg) : Nat := fld p.hdr 30 2
def outDim (p : Pkg) : Nat := fld p.hdr 32 2
def outHalf (p : Pkg) : Bool := fbits p.hdr 34 0 0 == 1
def experts (p : Pkg) : Nat := fld p.hdr 36 2
def topK (p : Pkg) : Nat := fld p.hdr 38 1
def gateAll (p : Pkg) : Bool := fbits p.hdr 39 0 0 == 1
def capacity (p : Pkg) : Nat := fld p.hdr 40 2
def counters (p : Pkg) : Nat := fld p.hdr 42 2
def planCount (p : Pkg) : Nat := fld p.hdr 44 4
def planOffset (p : Pkg) : Nat := fld p.hdr 48 8
def tensorCount (p : Pkg) : Nat := fld p.hdr 56 4
def optimiser (p : Pkg) : Nat := fbits p.hdr 60 1 0
end Pkg

end Sys2Proof.Machine
end

