-- ==== Sys2Proof/Machine/RingTypes.lean ====
section
/-! DEFINITION. The data of a ring set, of a fetched request and of a long operation (chapters 11 and 12). -/

namespace Sys2Proof.Machine

open Sys2Proof

/-- RING_STATE (R314). -/
inductive RingSt where
  | idle | running | stopping | stopped | faulting | faulted
  deriving DecidableEq, Repr

def RingSt.code : RingSt → Nat
  | .idle => 0
  | .running => 1
  | .stopping => 2
  | .stopped => 3
  | .faulting => 4
  | .faulted => 5

/-- Writable registers of a ring set block (R314). -/
structure RingRegs where
  sqBase : Nat
  cqBase : Nat
  doorbell : Nat
  sqOrder : Nat
  cqOrder : Nat
  enable : Bool
  remote : Bool
  vector : Nat
  peerQpn : Nat
  rkey : Nat
  localQpn : Nat
  peerId : Nat
  modCount : Nat
  modTime : Nat
  minPoll : Nat
  maxPoll : Nat
  deriving DecidableEq, Repr

/-- What a command does between two commands of the queue. -/
inductive Work where
  | none
  | searches (l : List SearchRun)
  | upd (u : UpdRun)
  | held (batch : Bytes)                                -- a barrier-held table update or training step (R140)
  | model (id version : Nat) (items : List Nat)         -- uses a version of a model; the handles a RERANK scores (R186, R201, R360)
  | load (bytes : Nat)                                  -- a MODEL_LOAD with the DRAM it commits until it has placed it (R22, R185)
  | train (model version : Nat) (out : RowOut)          -- a training step computed: its loss, gradients and row updates (R140, R201)
  | carrier (rs : RsId) (seq : Nat)                     -- carries the long operation named so (R366)
  deriving DecidableEq, Repr

/-- A fetched descriptor that has not ended: an entry of the in-flight table (R132, R317). -/
structure Req where
  seq : Nat
  desc : Bytes
  found : Nat := 0              -- fabric time of the poll that found it (R447)
  admitted : Bool := false
  waiting : Bool := false       -- in the admission queue (R447)
  epoch : Nat := 0              -- read or admission epoch
  admitTime : Nat := 0
  ponr : Bool := false          -- past its point of no return (R339)
  journaled : Bool := false
  replays : Nat := 0
  pendingReplay : Bool := false -- a failure calls for a replay (R132)
  poison : Bool := false        -- a poisoned row's update was dropped: it completes with DATA_POISONED (R241)
  flags : Nat := 0
  engine : Nat := 0             -- traverse engine of an update's neighbour search
  place : Bool := false         -- an update holds a traverse-engine place (R386)
  stagingRes : Nat := 0         -- staging reserved for list versions (R137)
  work : Work := .none
  taken : List Bytes := []      -- what it took at its admission: a GET_LOG its snapshot (R374), an EMBED its rows (R359)
  deriving DecidableEq, Repr

/-- A 32-byte entry waiting for its slot: its bytes without PHASE, whether it is notified at once, and of a command's entry whether the
command is ordered, or a journaled update: it has not ended before the entry is written (R318, R334, R344). -/
structure WaitEntry where
  bytes : Bytes
  now : Bool
  ordered : Bool := false
  journaled : Bool := false
  deriving DecidableEq, Repr

/-- A drain in progress (R333). -/
structure Drain where
  start : Nat
  bound : Nat           -- ns
  cause : Nat           -- 0 STOP, 1 owner disable, 2 Function Level Reset
  recorded : Bool := false   -- it has ended, and its record waits for a slot (R321, R333)
  deriving DecidableEq, Repr

/-- Polling, indexes and counters of a ring set (R314, R315, R323, R326, R334). -/
structure RingRun where
  st : RingSt
  fault : Nat
  fetched : Nat                 -- descriptors fetched; the register shows it modulo 2^32
  sqFetch : Nat
  cqTail : Nat
  cqHead : Nat
  phase : Bool
  sqTail : Nat                  -- SQ_TAIL last read
  founds : List (Nat × Nat)     -- descriptors fetched below this count were found by a poll at this time (R447)
  interval : Nat
  empty : Nat
  nextPoll : Nat
  pollOut : Bool
  pollStart : Nat
  pend : Nat                    -- entries not yet notified
  t0 : Nat
  modTime : Nat                 -- MOD_TIME as the last entry written took it (R314)
  lastCompleted : Nat
  anyCompleted : Bool
  failCause : Nat               -- cause taken while faulting
  failValue : Nat
  failAddr : Nat
  failTime : Nat
  deriving DecidableEq, Repr

/-- What the block puts out, newest first in the log: the model's own record of its boundary. -/
inductive Output where
  | hostWrite (rs : RsId) (addr : Nat) (data : Bytes)
  | hostRead (rs : RsId) (addr len : Nat)
  | rdmaWrite (rs : RsId) (qpn rkey addr : Nat) (data : Bytes)   -- to the peer's queue pair, under its remote key (R336)
  | rdmaRead (rs : RsId) (qpn rkey addr len : Nat)
  | msix (fn : Fn) (vector : Nat)
  | regRead (fn : Fn) (off val : Nat)
  | packet (port dest : Nat) (hdr payload : Bytes)   -- a transport packet: peer, header, payload in clear
  | fmResponse (data : Bytes)
  | pldm (data : Bytes)
  | spdm (data : Bytes)
  | frame (port : Nat) (data : Bytes)                -- LLDP, PTP, neighbour discovery and echo frames
  | tdo (bits : List Bool)
  deriving DecidableEq, Repr

/-- What has to leave before a frame of a remote ring set: of a command, its results and then its completion entry; entries in their order;
a notification after the entries it covers (R320, R326, R337). Every other frame is free. -/
inductive Tie where
  | free
  | result (rs : RsId) (seq : Nat)
  | entry (rs : RsId) (seq : Option Nat)   -- the SEQUENCE of a completion; none for an event or a drain record
  | notice (rs : RsId)
  deriving DecidableEq, Repr

/-- A frame tied so leaves after one tied so. -/
def Tie.after : Tie → Tie → Bool
  | .entry rs s, .result rs' s' => rs == rs' && s == some s'
  | .entry rs _, .entry rs' _ => rs == rs'
  | .notice rs, .entry rs' _ => rs == rs'
  | .notice rs, .notice rs' => rs == rs'
  | _, _ => false

/-- A request packet of a remote ring set's connection that has not been completed: its service class, its payload bytes, the packet,
and what it leaves after (R438). -/
structure RoceOut where
  svc : Nat
  len : Nat
  out : Output
  tie : Tie
  deriving DecidableEq, Repr

def RoceOut.isRead (o : RoceOut) : Bool := match o.out with
  | .rdmaRead _ _ _ _ _ => true
  | _ => false

/-- The requester side of a remote ring set's connection (R336, R438). -/
structure Roce where
  outstanding : List RoceOut    -- requests sent and not yet completed, oldest first
  sentAt : Nat                  -- fabric time of the last one sent or completed
  retries : Nat
  lastCnp : Option Nat
  rate : Nat                    -- send rate, in halvings below the port rate
  failed : Bool
  held : List RoceOut           -- READs that wait while 16 are outstanding, oldest first
  deriving DecidableEq, Repr

structure RingSet where
  regs : RingRegs
  run : RingRun
  inflight : List Req
  entries : List WaitEntry
  drain : Option Drain
  roce : Roce
  dropped : Nat                 -- completions left unwritten by a fault (R446)
  deriving DecidableEq, Repr

def RingRegs.reset (q : Nat) : RingRegs :=
  ⟨0, 0, 0, 4, 4, false, false, 0, 0, 0, q, 0, 16, 1000, 250, 100000⟩

def RingRun.reset : RingRun :=
  ⟨.idle, 0, 0, 0, 0, 0, true, 0, [], 250, 0, 0, false, 0, 0, 0, 0, 0, false, 0, 0, 0, 0⟩

def RingSet.reset (q : Nat) : RingSet := ⟨RingRegs.reset q, RingRun.reset, [], [], none, ⟨[], 0, 0, none, 0, false, []⟩, 0⟩

/-- What a long operation works on (R365, R367). -/
inductive OpWork where
  | probe (index : Nat) (block probe : Bytes) (epoch totalG totalHits flags : Nat)
  | build (index fmt object items : Nat) (live : List Nat)
  | compact (index : Nat) (targets : List Nat)
  | format (tick : Nat)
  | sanitise (erased : Nat) (byMgmt : Bool)
  | remat (stack chans mib : Nat) (channel : Option Nat)
  deriving DecidableEq, Repr

/-- A long operation (R365 to R368). State: 1 running, 2 suspended, 3 ended, 4 cancelling. -/
structure LongOp where
  rs : RsId
  seq : Nat
  opcode : Nat
  state : Nat
  endStatus : Nat
  cancellable : Bool
  done : Nat
  total : Nat
  carrier : Option ReqRef
  started : Nat
  ended : Nat
  resumed : Bool               -- continued after a power cycle (R375 state 5)
  work : OpWork
  deriving DecidableEq, Repr

end Sys2Proof.Machine
end

