-- ==== Sys2Proof/Machine/Screen.lean ====
section
/-! DEFINITION. Selection in the screen unit: ARGMAX, SELECT and MERGE (chapter 03: R55 to R74). -/

namespace Sys2Proof.Machine

/-- A screen-unit entry (R55). -/
structure Entry where
  handle : Nat
  list : Nat := 0
  tag : Nat := 0
  score : F32
  aux : Nat := 0
  deriving DecidableEq, Repr

def noHandle : Nat := 0xFFFFFFFFFF

/-- The empty slot (R55). -/
def Entry.empty : Entry := ⟨noHandle, 0, 0, f32nan, 0⟩

/-- R56. -/
def Entry.valid (e : Entry) : Bool := e.handle != noHandle

def Entry.bytes (e : Entry) : Bytes :=
  le 5 e.handle ++ le 1 e.list ++ le 2 e.tag ++ le 4 e.score.toNat ++ le 4 e.aux

def Entry.ofBytes (b : Bytes) : Entry :=
  ⟨fld b 0 5, fld b 5 1, fld b 6 2, BitVec.ofNat 32 (fld b 8 4), fld b 12 4⟩

/-- The rank of an entry as one number, lower ranking ahead: score key in the mode's sense, handle, then list number
or input position (R57). -/
def rankKey (maxMode : Bool) (pos : Nat) (e : Entry) : Nat :=
  let k := orderKey e.score
  ((if maxMode then 0xFFFFFFFF - k else k) * 2 ^ 40 + e.handle) * 2 ^ 32 + pos

/-- The bucket of a handle: the exclusive-or of its 6-bit fields (R59). -/
def fold (h : Nat) : Nat :=
  ([0, 1, 2, 3, 4, 5, 6].map fun i => h / 2 ^ (6 * i) % 64).foldl (· ^^^ ·) 0

/-- The exact sum of scores, rounded once (R68): NaN terms excluded, +0 for no term. -/
def scoreSum (l : List F32) : F32 :=
  match (l.filter fun x => !f32isNan x).map f32num with
  | [] => f32zero
  | x :: xs => toF32 (xs.foldl Num.add x)

/-- A ranked entry: its rank key with the entry. -/
abbrev Ranked := Nat × Entry

def rankAll (maxMode : Bool) (l : List Entry) : List Ranked :=
  ((indexed l).filter fun p => p.2.valid).map fun p => (rankKey maxMode p.1 p.2, p.2)

def sameKey (a b : Entry) : Bool := orderKey a.score == orderKey b.score

structure PassOut where
  out : List Ranked
  inexact : Nat        -- bit b: bucket b set inexact
  firstLeft : Option Ranked
  deriving Repr, DecidableEq

/-- One pass of SELECT (R60, R61): each bucket keeps its `d` first-ranked entries. -/
def selectPass (sorted : List Ranked) (w d : Nat) : PassOut :=
  let buckets := (List.range 64).map fun b => sorted.filter fun r => fold r.2.handle == b
  let keep := sorted.filter fun r =>
    decide ((((buckets.getD (fold r.2.handle) []).takeWhile fun q => q.1 != r.1)).length < d)
  let out := keep.take w
  let inx := (indexed buckets).foldl (fun m p =>
    if d < p.2.length && (match p.2[d - 1]? with
      | some s => out.any fun r => r.1 == s.1
      | none => false) then m + 2 ^ p.1 else m) 0
  ⟨out, inx, if out.length = w then keep[w]? else none⟩

structure SelOut where
  out : List Entry
  inexact : Nat
  firstLeft : Option Entry
  passes : Nat
  deriving Repr, DecidableEq

/-- SELECT with more than 64 results: passes over what ranks after the last selected entry (R72). -/
def selectPasses (k d : Nat) : Nat → List Ranked → SelOut → SelOut
  | 0, _, acc => acc
  | fuel + 1, sorted, acc =>
    if k ≤ acc.out.length then acc else
    let w := min 64 (k - acc.out.length)
    let p := selectPass sorted w d
    let acc' : SelOut := ⟨acc.out ++ p.out.map (·.2), acc.inexact ||| p.inexact, p.firstLeft.map (·.2), acc.passes + 1⟩
    if p.out.length < w then acc' else
    match p.out.getLast? with
    | none => acc'
    | some last => selectPasses k d fuel (sorted.filter fun r => decide (last.1 < r.1)) acc'

/-- The summary block of R74. -/
structure Summary where
  validCount : Nat
  flags : Nat
  duplicates : Nat
  selectedSum : F32
  leftOutSum : F32
  inputValid : Nat
  k : Nat
  dUsed : Nat
  operation : Nat
  maxMode : Bool
  inexactSources : Nat
  orderFault : Bool
  passes : Nat
  deriving DecidableEq, Repr

def Summary.bytes (s : Summary) : Bytes :=
  le 2 s.validCount ++ le 2 s.flags ++ le 4 s.duplicates ++ le 4 s.selectedSum.toNat ++ le 4 s.leftOutSum.toNat ++
  le 4 s.inputValid ++ le 2 s.k ++ le 1 s.dUsed ++ le 1 (s.operation + 4 * b2n s.maxMode) ++ le 8 s.inexactSources ++
  le 1 (b2n s.orderFault) ++ le 1 s.passes ++ zeros 6

/-- Result flags (R13). -/
def flagINEXACT : Nat := 1
def flagTIE : Nat := 2
def flagNAN : Nat := 4
def flagDUP : Nat := 8
def flagSAT : Nat := 16
def flagFALLBACK : Nat := 32

def mkFlags (inexact tie nan dup : Bool) : Nat := b2n inexact + 2 * b2n tie + 4 * b2n nan + 8 * b2n dup

/-- `k` slots: the entries, then empty slots (R67). -/
def padSlots (k : Nat) (l : List Entry) : List Entry := l.take k ++ List.replicate (k - l.length) Entry.empty

def clearList (e : Entry) : Entry := { e with list := 0 }

/-- ARGMAX (R73). -/
def argmaxOp (maxMode : Bool) (l : List Entry) : List Entry × Summary :=
  let s := sortBy (·.1) (rankAll maxMode l)
  let es := s.map (·.2)
  let out := (es.take 1).map clearList
  let tie := match es with
    | a :: rest => rest.any (sameKey a)
    | [] => false
  (padSlots 1 out,
   { validCount := out.length, flags := mkFlags false tie (es.any fun e => f32isNan e.score) false, duplicates := 0,
     selectedSum := scoreSum (out.map (·.score)), leftOutSum := scoreSum ((es.drop 1).map (·.score)),
     inputValid := es.length, k := 1, dUsed := 0, operation := 0, maxMode := maxMode, inexactSources := 0,
     orderFault := false, passes := 1 })

/-- SELECT (R60, R65 to R68, R72). -/
def selectOp (maxMode : Bool) (k d : Nat) (l : List Entry) : List Entry × Summary :=
  let s := sortBy (·.1) (rankAll maxMode l)
  let r := selectPasses k d 16 s ⟨[], 0, none, 0⟩
  let keys := s.map (·.2)
  -- the left-out entries are the valid ones that were not selected, position by position
  let left := r.out.foldl (fun acc e => acc.erase e) keys
  let tie := r.out.length == k && (match r.out.getLast?, r.firstLeft with
    | some a, some b => sameKey a b
    | _, _ => false)
  (padSlots k (r.out.map clearList),
   { validCount := r.out.length, flags := mkFlags (r.inexact != 0) tie (keys.any fun e => f32isNan e.score) false,
     duplicates := 0, selectedSum := scoreSum (r.out.map (·.score)), leftOutSum := scoreSum (left.map (·.score)),
     inputValid := keys.length, k := k, dUsed := d, operation := 1, maxMode := maxMode,
     inexactSources := r.inexact, orderFault := false, passes := r.passes })

/-- A MERGE input list with its truncated bit (R58, R71). -/
structure MergeList where
  entries : List Entry
  truncated : Bool := false
  deriving DecidableEq, Repr

/-- Strictly rising rank keys. -/
def rising : List Nat → Bool
  | [] => true
  | [_] => true
  | a :: b :: l => decide (a < b) && rising (b :: l)

/-- R69: valid entries in rank order with no handle repeated. -/
def listInOrder (maxMode : Bool) (l : MergeList) : Bool :=
  let v := l.entries.filter (·.valid)
  rising (v.map (rankKey maxMode 0)) && decide (v.map (·.handle)).Nodup

structure MergeAcc where
  emitted : List Ranked
  dups : Nat
  left : List Entry
  deriving Repr

/-- The walk of R70 over the entries in rank order; at most `k + 1` are emitted. -/
def mergeWalk (k : Nat) : List Ranked → MergeAcc → MergeAcc
  | [], a => a
  | r :: rs, a =>
    if a.emitted.any (fun q => q.2.handle == r.2.handle) then mergeWalk k rs { a with dups := a.dups + 1 }
    else if a.emitted.length ≤ k then mergeWalk k rs { a with emitted := a.emitted ++ [r] }
    else mergeWalk k rs { a with left := a.left ++ [r.2] }

/-- MERGE (R69 to R72). -/
def mergeOp (maxMode : Bool) (k : Nat) (lists : List MergeList) : List Entry × Summary :=
  let passes := ceilDiv k 64
  if !lists.all (listInOrder maxMode) then
    (padSlots k [], { validCount := 0, flags := 0, duplicates := 0, selectedSum := f32zero, leftOutSum := f32zero,
                      inputValid := 0, k := k, dUsed := 0, operation := 2, maxMode := maxMode, inexactSources := 0,
                      orderFault := true, passes := passes })
  else
    let all := (indexed lists).flatMap fun p =>
      ((p.2.entries.filter (·.valid)).map fun e => (rankKey maxMode p.1 e, { e with list := p.1 }) : List Ranked)
    let a := mergeWalk k (sortBy (·.1) all) ⟨[], 0, []⟩
    let out := a.emitted.take k
    let left := (a.emitted.drop k).map (·.2) ++ a.left
    let inx := (indexed lists).foldl (fun m p =>
      if p.2.truncated && (decide (out.length < k) ||
          (match (p.2.entries.filter (·.valid)).getLast?, out.getLast? with
            | some e, some o => decide (rankKey maxMode p.1 e ≤ o.1)
            | none, _ => true
            | _, none => true))
      then m ||| 2 ^ (p.1 % 64) else m) 0
    let tie := out.length == k && (match out.getLast?, a.emitted[k]? with
      | some x, some y => sameKey x.2 y.2
      | _, _ => false)
    (padSlots k (out.map (·.2)),
     { validCount := out.length, flags := mkFlags (inx != 0) tie (all.any fun r => f32isNan r.2.score) (a.dups != 0),
       duplicates := a.dups, selectedSum := scoreSum (out.map fun r => r.2.score),
       leftOutSum := scoreSum (left.map (·.score)), inputValid := all.length, k := k, dUsed := 0, operation := 2,
       maxMode := maxMode, inexactSources := inx, orderFault := false, passes := passes })

/-- The depths SELECT accepts (R58). -/
def depthOk (d : Nat) : Bool := [1, 2, 4, 8, 16, 32, 64].contains d

end Sys2Proof.Machine
end

