-- ==== Sys2Proof/Machine/Index.lean ====
section
/-! DEFINITION. The index: sketches, stored vectors, exact scores, predicates, summaries, walk, bench scan and pruning
(chapters 02, 04 and 05: R79 to R98, R114 to R137, R353, R527). -/

namespace Sys2Proof.Machine

/-- Element of a generated projection: +1.0 or −1.0 (R353). -/
def genProj (seed bits i j : Nat) : F16 :=
  if mix (seed + i * bits + j) / 2 ^ 63 = 0 then 0x3C00#16 else 0xBC00#16

def IndexParams.projAt (p : IndexParams) (i j : Nat) : F16 :=
  if p.projGiven then p.proj.getD (i * p.sketchBits + j) 0#16 else genProj p.seed p.sketchBits i j

/-- FP32 accumulation of one exact product (R41, R42, R45). -/
def accMul (acc : F32) (x y : Num) : F32 := toF32 ((f32num acc).add (x.mul y))

/-- The sketch of element values and the number of saturated elements (R84, R40, R49). -/
def sketchOf (p : IndexParams) (v : List F32) : Nat × Nat :=
  let h := v.map fun x => quantise .b16 (f32num x)
  let nums := h.map fun c => Fmt.f16.decode c.1
  let cols := (List.range p.sketchBits).map fun j =>
    quantBit (f32num ((indexed nums).foldl (fun acc q => accMul acc q.2 (f16num (p.projAt q.1 j))) f32zero))
  ((indexed cols).foldl (fun s c => s + c.2.1 * 2 ^ c.1) 0,
   (h.filter (·.2)).length + (cols.filter (·.2)).length)

/-- The Hamming distance of two sketches. -/
def ham (bits a b : Nat) : Nat := popcount bits (a ^^^ b)

/-- Packs element codes under R33: two int4 elements per byte, low nibble first. -/
def packNibbles : List Nat → Bytes
  | [] => []
  | [a] => [BitVec.ofNat 8 (a % 16)]
  | a :: b :: l => BitVec.ofNat 8 (a % 16 + 16 * (b % 16)) :: packNibbles l

def packElems (fmt : Nat) (codes : List Nat) : Bytes :=
  if fmt = 1 then packNibbles codes
  else if fmt = 4 then codes.flatMap (le 2) else codes.flatMap (le 1)

/-- Element code `i` of a packed vector. -/
def elemCode (f : Elem) (b : Bytes) (i : Nat) : Nat :=
  let w := f.bits
  if 8 ≤ w then fld b (i * (w / 8)) (w / 8) else fld b (i * w / 8) 1 / 2 ^ (i * w % 8) % 2 ^ w

def vecElem (fmt : Nat) : Elem := (Elem.ofCode fmt).getD .b16

/-- A stored vector from FP32 values: body, scale and saturated elements (R119). -/
def storeVec (fmt : Nat) (x : List F32) : Bytes × F16 × Nat :=
  if fmt = 0 ∨ fmt = 1 then
    let q : Nat := if fmt = 0 then 127 else 7
    -- the largest finite magnitude; FP32 magnitudes order as their bits
    let m := (x.filter f32isFinite).foldl (fun a e => max a (e.toNat % 2 ^ 31)) 0
    let mag := f32num (BitVec.ofNat 32 m)
    let s : Nat × Bool :=
      match mag with
      | .fin _ mm e =>
        if mm = 0 then (0x3C00, false)
        else
          let r := Fmt.f16.roundMag mm q e
          if r = 0 then (1, false) else if Fmt.f16.maxMag < r then (Fmt.f16.maxMag, true) else (r, false)
      | _ => (0x3C00, false)
    let r := f32div f32one (f16toF32 (BitVec.ofNat 16 s.1))
    let c := x.map fun e => quantise (vecElem fmt) ((f32num e).mul (f32num r))
    (packElems fmt (c.map (·.1)), BitVec.ofNat 16 s.1, (c.filter (·.2)).length + b2n s.2)
  else
    let c := x.map fun e => quantise (vecElem fmt) (f32num e)
    (packElems fmt (c.map (·.1)), 0#16, (c.filter (·.2)).length)

/-- Element values v of a stored vector (R98). -/
def vecValues (p : IndexParams) (body : Bytes) (scale : F16) : List F32 :=
  (List.range p.dim).map fun i =>
    let n := (vecElem p.fmt).num (elemCode (vecElem p.fmt) body i)
    if p.fmt = 0 ∨ p.fmt = 1 then toF32 (n.mul (f16num scale)) else toF32 n

/-- The rounded sum of rounded products, ascending, from +0 (R44, R98). -/
def dot (a b : List F32) : F32 := (a.zip b).foldl (fun s p => f32add s (f32mul p.1 p.2)) f32zero

/-- The reciprocal norm (R98). -/
def recipNorm (v : List F32) : F32 := f32recipSqrt (dot v v)

/-- The exact score of R98 for a metric: 0 inner product, 1 squared L2, 2 cosine. -/
def exactScore (metric : Nat) (v q : List F32) (rnV rnQ : F32) : F32 :=
  if metric = 0 then dot v q
  else if metric = 1 then
    let t := (v.zip q).map fun p => f32sub p.1 p.2
    dot t t
  else f32mul (f32mul (dot v q) rnV) rnQ

/-- A predicate clause (R90). -/
structure Clause where
  offset : Nat
  width : Nat
  op : Nat
  const : Nat
  deriving DecidableEq, Repr

def Clause.ofBytes (b : Bytes) : Clause := ⟨fld b 0 1, fbits b 1 5 0, fbits b 2 2 0, fld b 4 4⟩

/-- R90: widths, reserved bits, extent and constant. -/
def Clause.ok (c : Clause) (raw : Bytes) (attrBytes : Nat) : Bool :=
  decide (c.offset ≤ 127) && decide (1 ≤ c.width) && decide (c.width ≤ 32) && fbits raw 1 7 6 == 0 &&
  fbits raw 2 7 3 == 0 && zeroAt raw 3 1 && decide (c.offset + c.width ≤ 8 * attrBytes) && decide (c.const < 2 ^ c.width)

def Clause.field (c : Clause) (attrs : Nat) : Nat := attrs / 2 ^ c.offset % 2 ^ c.width

/-- R91. -/
def Clause.holds (c : Clause) (attrs : Nat) : Bool :=
  let x := c.field attrs
  match c.op with
  | 0 => x == c.const
  | 1 => x != c.const
  | 2 => decide (x < c.const)
  | 3 => decide (x ≤ c.const)
  | 4 => decide (c.const < x)
  | 5 => decide (c.const ≤ x)
  | 6 => x &&& c.const != 0
  | _ => x &&& c.const == 0

/-- The summary of a range or a block (R80). -/
structure Summ where
  or : Nat
  and : Nat
  live : Nat
  deriving DecidableEq, Repr

/-- R92: a clause excludes the range or block. -/
def Clause.excludes (c : Clause) (s : Summ) : Bool :=
  let o := c.field s.or
  let a := c.field s.and
  match c.op with
  | 0 => (c.const &&& o != c.const) || (a &&& c.const != a)
  | 1 => o == c.const && a == c.const
  | 2 => decide (c.const ≤ a)
  | 3 => decide (c.const < a)
  | 4 => decide (o ≤ c.const)
  | 5 => decide (o < c.const)
  | 6 => o &&& c.const == 0
  | _ => a &&& c.const != 0

def Summ.excluded (s : Summ) (cs : List Clause) : Bool := s.live == 0 || cs.any (·.excludes s)

namespace Node

/-- R114. -/
def eligible (n : Node) (r : Nat) (cs : List Clause) : Bool :=
  (match n.commit with
    | some c => decide (c ≤ r)
    | none => false) &&
  (match n.tomb with
    | some t => decide (r < t)
    | none => true) &&
  !n.withdrawn && !n.freed && cs.all (·.holds n.attrs)

/-- R121. -/
def linkable (n : Node) (self adm : Nat) : Bool :=
  !n.sketchPoison && !n.withdrawn && n.slot != self && !n.freed &&
  (match n.tomb with
    | some t => decide (adm < t)
    | none => true)

/-- The state of R127: 0 unused, 1 settled live, 2 changing, 3 settled tombstoned or withdrawn. -/
def state (n : Node) : Nat :=
  if n.freed then 0
  else if n.withdrawn then 3
  else if !n.settled then 2
  else if n.tomb.isSome then 3 else 1

/-- The neighbour list a walk reads: as it stands, or the newest version written in an epoch below `r` (R89, R137). -/
def listAt (n : Node) (repro : Bool) (r : Nat) : List Nat :=
  if repro then ((n.versions.find? fun v => decide (v.1 < r)).map (·.2)).getD []
  else (n.versions.head?.map (·.2)).getD []

def list (n : Node) : List Nat := (n.versions.head?.map (·.2)).getD []

/-- Rewrites the list as one unit (R26), keeping the previous version in a reproducible partition (R137). -/
def setList (n : Node) (repro : Bool) (epoch : Nat) (l : List Nat) : Node :=
  { n with versions := (epoch, l) :: (if repro then n.versions else []) }

/-- Tombstoned in the sense of R117: marked, or withdrawn. -/
def dead (n : Node) : Bool := n.marked || n.withdrawn

/-- Marks a tombstone, with its epoch where that is assigned; the node changes again (R115, R117, R127). -/
def bury (n : Node) (tomb : Option Nat) : Node := { n with marked := true, tomb := tomb, settled := false }

/-- Settles a node whose epochs are at or below the horizon (R127). -/
def settle (n : Node) (horizon : Nat) : Node :=
  match n.commit with
  | none => n
  | some c =>
    if decide (c ≤ horizon) && (match n.tomb with
        | some t => decide (t ≤ horizon)
        | none => !n.marked) then { n with settled := true } else n

/-- Releases list versions superseded by one written strictly below the horizon (R137). -/
def releaseVersions (n : Node) (horizon : Nat) : Node :=
  let fresh := n.versions.takeWhile fun v => decide (horizon ≤ v.1)
  { n with versions := fresh ++ (n.versions.drop fresh.length).take 1 }

end Node

/-! ### The handle directory (R251) -/

namespace Directory

def bucket (d : Directory) (n : Nat) : DirBucket := (d.buckets.find? fun b => b.num == n).getD ⟨n, [], none⟩

/-- Writes a bucket; an empty one with no link is not listed. -/
def put (d : Directory) (b : DirBucket) : Directory :=
  let rest := d.buckets.filter fun k => k.num != b.num
  { d with buckets := if b.ents.isEmpty ∧ b.link.isNone then rest else insertBy (·.num) b rest }

/-- A bucket and the overflow buckets behind it. -/
def chain (d : Directory) : Nat → Nat → List DirBucket
  | 0, _ => []
  | n + 1, k =>
    let b := d.bucket k
    b :: (match b.link with
      | some o => d.chain n o
      | none => [])

def chainOf (d : Directory) (h : Nat) : List DirBucket := d.chain (d.buckets.length + 1) (h % d.m)

/-- The node slots entered for a handle. -/
def slots (d : Directory) (h : Nat) : List Nat :=
  (d.chainOf h).flatMap fun b => (b.ents.filter fun e => e.2 == h / d.m).map (·.1)

/-- Entries held: one for each slot in use (R251). -/
def count (d : Directory) : Nat := sumNat (fun b => b.ents.length) d.buckets

/-- Enters a slot in the first bucket of the chain with room; a full chain grows by an overflow bucket, whose number takes the place of
entry 7 of the last. -/
def add (d : Directory) (h slot : Nat) : Directory :=
  let l := d.chainOf h
  let e := (slot, h / d.m)
  match l.find? fun b => decide (b.ents.length < (if b.link.isSome then 7 else 8)) with
  | some b => d.put { b with ents := b.ents ++ [e] }
  | none =>
    match l.getLast? with
    | none => d
    | some b =>
      let d := d.put { b with ents := b.ents.take 7, link := some d.nextOver }
      { d.put ⟨d.nextOver, b.ents.drop 7 ++ [e], none⟩ with nextOver := d.nextOver + 1 }

def remove (d : Directory) (h slot : Nat) : Directory :=
  (d.chainOf h).foldl (fun d b => d.put { b with ents := b.ents.filter fun e => e != (slot, h / d.m) }) d

/-- The number of buckets for `s` slots in use. -/
def sizeFor (s : Nat) : Nat := max 1 (ceilDiv s (7 * 131072)) * 131072

/-- A directory of `m` buckets for given slots. -/
def ofList (m : Nat) (l : List (Nat × Nat)) : Directory := l.foldl (fun d e => d.add e.1 e.2) ⟨m, [], m⟩

end Directory

namespace Graph

def node? (g : Graph) (slot : Nat) : Option Node := g.nodes.find? fun n => n.slot == slot

/-- The node of a handle, by the handle directory: of the nodes that still hold a slot the newest that is not tombstoned, else the
newest (R116, R117, R251). -/
def byHandle (g : Graph) (h : Nat) : Option Node :=
  let l := sortBy (·.slot) (((g.dir.slots h).filterMap g.node?).filter fun n => n.handle == h && !n.freed)
  match (l.filter fun n => !n.dead).getLast? with
  | some n => some n
  | none => l.getLast?

/-- Rewrites the entry points, keeping the ones before in a reproducible partition (R105, R137). -/
def setEps (g : Graph) (repro : Bool) (epoch : Nat) (l : List Nat) : Graph :=
  if l = g.eps then g else { g with eps := l, oldEps := if repro then (epoch, g.eps) :: g.oldEps else [] }

/-- The entry points a walk starts from: those held, or in a reproducible partition those held before its read epoch (R105). -/
def epsAt (g : Graph) (repro : Bool) (r : Nat) : List Nat :=
  if repro then (((g.oldEps.filter fun e => decide (r ≤ e.1)).getLast?).map (·.2)).getD g.eps else g.eps

/-- Slots are freed: their directory entries go (R129, R251). -/
def free (g : Graph) (slots : List Nat) : Graph :=
  { g with nodes := modIf (fun n => slots.contains n.slot) (fun n => { n with freed := true }) g.nodes,
           dir := (g.nodes.filter fun n => slots.contains n.slot).foldl (fun d n => d.remove n.handle n.slot) g.dir }

def modNode (g : Graph) (slot : Nat) (f : Node → Node) : Graph :=
  { g with nodes := modIf (fun n => n.slot == slot) f g.nodes }

/-- The summary of a group of slots for a read epoch (R80). An insert's word enters OR and AND at its commit epoch, the latest time that
the rule leaves (DESIGN CHOICE, log 118). -/
def summary (g : Graph) (attrBytes : Nat) (r lo hi : Nat) (block : Bool) : Summ :=
  g.nodes.foldl (fun s n =>
    let inside := decide (lo ≤ n.slot) && decide (n.slot < hi) && !n.freed
    let seen := (match n.commit with
      | some c => decide (c ≤ r)
      | none => n.withdrawn)
    if inside && seen then
      let live := !n.withdrawn && (match n.tomb with
        | some t => decide (r < t)
        | none => true)
      if (if block then n.exclBlock else n.exclRange) then { s with live := s.live + b2n live }
      else ⟨s.or ||| n.attrs, s.and &&& n.attrs, s.live + b2n live⟩
    else s) ⟨0, 2 ^ (8 * attrBytes) - 1, 0⟩

/-- Resizes the directory once S / M passes 7.5 and the allowance has room for the old and the new one (R251). -/
def fitDir (g : Graph) (allowance : Nat) : Graph :=
  let used := g.nodes.filter fun n => !n.freed
  let m := Directory.sizeFor used.length
  let extra := g.dir.nextOver - g.dir.m
  if 15 * g.dir.m < 2 * used.length ∧ 64 * (g.dir.m + m + extra) ≤ allowance then
    { g with dir := Directory.ofList m (used.map fun n => (n.handle, n.slot)) }
  else g

def slotEnd (g : Graph) : Nat := g.nodes.foldl (fun m n => max m (n.slot + 1)) 0
def rangeCount (g : Graph) : Nat := ceilDiv g.slotEnd 512

/-- The end of the slots that a search meets: in a reproducible partition those of nodes committed at its read epoch (R105). -/
def slotEndAt (g : Graph) (repro : Bool) (r : Nat) : Nat :=
  (g.nodes.filter fun n => !repro || (match n.commit with
    | some c => decide (c ≤ r)
    | none => false)).foldl (fun m n => max m (n.slot + 1)) 0

def blockCount (g : Graph) : Nat := ceilDiv g.slotEnd 2097152

def rangeSumm (g : Graph) (attrBytes r i : Nat) : Summ := g.summary attrBytes r (512 * i) (512 * i + 512) false
def blockSumm (g : Graph) (attrBytes r i : Nat) : Summ := g.summary attrBytes r (2097152 * i) (2097152 * i + 2097152) true

end Graph

def Index.graph (x : Index) : Graph := x.graphs.headD Graph.empty

/-- The graph a read epoch uses (R131). -/
def Index.graphAt (x : Index) (r : Nat) : Graph :=
  (x.graphs.find? fun g => decide (g.since ≤ r)).getD (x.graphs.getLastD Graph.empty)

def Index.modGraph (x : Index) (f : Graph → Graph) : Index :=
  { x with graphs := match x.graphs with
      | [] => [f Graph.empty]
      | g :: gs => f g :: gs }

/-- A structure of the graph in use grows within the index's directory allowance of 10 bytes a slot (R251, R352; log 111). -/
def Index.fitDir (x : Index) : Index := x.modGraph fun g => g.fitDir (10 * x.params.capacity)

/-- A slot lies in a range whose image segment could not be read (R256). -/
def Index.lostSlot (x : Index) (slot : Nat) : Bool := x.lostRanges.contains (slot / 512)

/-- A lookup of a handle meets a poisoned line of the directory (R209, R251). -/
def Index.dirPoisoned (x : Index) (h : Nat) : Bool := x.dirBad.contains (h % max 1 x.graph.dir.m)

/-- The visited filter of R87: its size in bytes and the two bits of a handle. -/
def filterBytes (l : Nat) : Nat :=
  let n := max 512 (16 * l)
  if 2 ^ Nat.log2 n = n then n else 2 ^ (Nat.log2 n + 1)

def filterBits (l h : Nat) : Nat × Nat :=
  let f := Nat.log2 (8 * filterBytes l)
  (h * 0x6C0789654A3B2D1F % 2 ^ 64 / 2 ^ (64 - f), h * 0x3A9F51C7E2D8064B % 2 ^ 64 / 2 ^ (64 - f))

/-- A pool entry: Hamming distance, handle, slot, expanded (R86). -/
structure PoolEnt where
  h : Nat
  handle : Nat
  slot : Nat
  expanded : Bool
  deriving DecidableEq, Repr

/-- What a walk needs besides the graph: the two lists' depth, the sketch, and the tests of R86 and R121. -/
structure WalkCtx where
  bits : Nat
  depth : Nat
  q : Nat
  repro : Bool
  epoch : Nat
  clauses : List Clause
  insertSelf : Option Nat      -- an insert's neighbour search: the slot of the new node (R121)
  lost : List Nat := []        -- ranges whose image segment could not be read (R256)
  deriving Repr

structure WalkSt where
  pool : List PoolEnt
  elig : List (Nat × Nat × Nat)
  filter : List Nat
  visited : Nat
  dropped : Bool
  poisoned : Bool
  unreachable : Bool := false
  deriving Repr

def WalkSt.bad (w : WalkSt) : Bool := w.poisoned || w.unreachable

/-- Rank of a Hamming-ordered element: distance, then handle (R57, R86). -/
def hamRank (h handle slot : Nat) : Nat := (h * 2 ^ 40 + handle) * 2 ^ 40 + slot

def WalkCtx.test (c : WalkCtx) (n : Node) : Bool :=
  match c.insertSelf with
  | some self => n.linkable self c.epoch
  | none => n.eligible c.epoch c.clauses

/-- `visit` of R86. -/
def walkVisit (c : WalkCtx) (g : Graph) (slot : Nat) (w : WalkSt) : WalkSt :=
  match g.node? slot with
  | none => w
  | some n =>
    if c.lost.contains (slot / 512) then { w with unreachable := true } else
    let b := filterBits c.depth n.handle
    let w := { w with filter := b.1 :: b.2 :: w.filter, visited := w.visited + 1 }
    if n.sketchPoison then
      if c.insertSelf.isSome then w else { w with poisoned := true }
    else
      let h := ham c.bits c.q n.sketch
      let pool := insertBy (fun e => hamRank e.h e.handle e.slot) ⟨h, n.handle, slot, false⟩ w.pool
      let w := { w with pool := pool.take c.depth }
      if c.test n then
        let el := insertBy (fun e => hamRank e.1 e.2.1 e.2.2) (h, n.handle, slot) w.elig
        { w with elig := el.take c.depth, dropped := w.dropped || decide (c.depth < el.length) }
      else w

def inFilter (c : WalkCtx) (w : WalkSt) (h : Nat) : Bool :=
  let b := filterBits c.depth h
  w.filter.contains b.1 && w.filter.contains b.2

/-- What a walk has found when it stops. -/
def WalkSt.result (w : WalkSt) (hops : Nat) (converged : Bool) : WalkRes :=
  ⟨w.elig, w.dropped, hops, w.visited, converged && !w.bad, w.poisoned, w.unreachable⟩

def walkLoop (c : WalkCtx) (g : Graph) : Nat → Nat → WalkSt → WalkRes
  | 0, hops, w => w.result hops false
  | fuel + 1, hops, w =>
    if w.bad then w.result hops false else
    match w.pool.find? fun e => !e.expanded with
    | none => w.result hops true
    | some e =>
      let w := { w with pool := modIf (fun p => p.slot == e.slot) (fun p => { p with expanded := true }) w.pool }
      match g.node? e.slot with
      | none => walkLoop c g fuel (hops + 1) w
      | some n =>
        if n.listPoison then
          if c.insertSelf.isSome then walkLoop c g fuel (hops + 1) w
          else WalkSt.result { w with poisoned := true } (hops + 1) false
        else
          let w := (n.listAt c.repro c.epoch).foldl (fun w s =>
            match g.node? s with
            | none => w
            | some m => if inFilter c w m.handle then w else walkVisit c g s w) w
          walkLoop c g fuel (hops + 1) w

/-- The walk of R86; the neighbour search of R121 when `insertSelf` is given. The entry points' sketches are read to rank them: a
poisoned one ends a search and is passed over by an insert (R89, R121). -/
def walk (c : WalkCtx) (g : Graph) (hopBound seeds : Nat) : WalkRes :=
  let held := (g.epsAt c.repro c.epoch).filterMap g.node?
  let sound := held.filter fun n => !n.sketchPoison
  let eps := sound.map fun n => (hamRank (ham c.bits c.q n.sketch) n.handle n.slot, n.slot)
  let w0 : WalkSt := ⟨[], [], [], 0, false, c.insertSelf.isNone && held.any (·.sketchPoison), held.any fun n => c.lost.contains (n.slot / 512)⟩
  let start := ((sortBy (·.1) eps).take seeds).foldl (fun w e => if w.bad then w else walkVisit c g e.2 w) w0
  walkLoop c g hopBound 0 start

/-- The pruning rule of R123 over candidates `(distance, slot)` in rank order. -/
def prune (bits : Nat) (g : Graph) (cands : List (Nat × Nat)) (deg slack : Nat) : List Nat :=
  let sk := fun s => ((g.node? s).map (·.sketch)).getD 0
  let r := cands.foldl (fun (acc : List Nat × List Nat) c =>
    if acc.1.length = deg then acc
    else if acc.1.all (fun a => decide (c.1 ≤ ham bits (sk a) (sk c.2) + slack)) then (acc.1 ++ [c.2], acc.2)
    else (acc.1, acc.2 ++ [c.2])) ([], [])
  (r.1 ++ r.2).take deg

/-- Slots ranked by Hamming distance to a sketch, ties by handle (R123). -/
def rankSlots (bits : Nat) (g : Graph) (q : Nat) (slots : List Nat) : List (Nat × Nat) :=
  (sortBy (·.1) ((slots.filterMap g.node?).map fun n =>
    (hamRank (ham bits q n.sketch) n.handle n.slot, (ham bits q n.sketch, n.slot)))).map (·.2)

/-- Adds `x` to the list of `y` (R124); a replay adds it only when absent (R134). -/
def reverseLink (bits deg slack : Nat) (repro : Bool) (epoch x : Nat) (g : Graph) (y : Nat) : Graph :=
  match g.node? y with
  | none => g
  | some n =>
    if n.listPoison || n.list.contains x then g
    else if n.list.length < deg then g.modNode y fun m => m.setList repro epoch (n.list ++ [x])
    else
      let keep := n.list.filter fun s => match g.node? s with
        | some m => !m.withdrawn && (match m.tomb with
            | some t => decide (epoch < t)
            | none => true)
        | none => false
      if keep.length < deg then g.modNode y fun m => m.setList repro epoch (keep ++ [x])
      else
        let l := prune bits g (rankSlots bits g n.sketch (keep ++ [x])) deg slack
        g.modNode y fun m => m.setList repro epoch l

def InsertPolicy.hops (p : InsertPolicy) : Nat := if p.hopBound = 0 then 8 * p.pool else p.hopBound

/-- The neighbour search of a placed node (R121). -/
def linkWalk (p : IndexParams) (pol : InsertPolicy) (lost : List Nat) (adm : Nat) (n : Node) (g : Graph) : WalkRes :=
  walk ⟨p.sketchBits, pol.pool, n.sketch, false, adm, [], some n.slot, lost⟩ g pol.hops pol.seeds

/-- Writes the links of a node already placed in its slot: neighbour search, forward list, reverse links
(R121 to R124). -/
def linkNode (p : IndexParams) (pol : InsertPolicy) (repro : Bool) (epoch adm slot : Nat) (g : Graph) : Graph :=
  match g.node? slot with
  | none => g
  | some n =>
    let w := linkWalk p pol [] adm n g
    let cands := (w.elig.filter fun e => e.2.2 != slot).map fun e => (e.1, e.2.2)
    let fwd := prune p.sketchBits g cands p.degree pol.slack
    let g := g.modNode slot fun m => m.setList repro epoch fwd
    fwd.foldl (reverseLink p.sketchBits p.degree pol.slack repro epoch slot) g

/-- Places a node in its slot, with its directory entry; it becomes an entry point while fewer than 64 are held (R251, R527). A
replay writes the sketch into the slot again and leaves the rest as it stands (R134). -/
def placeNode (repro : Bool) (epoch : Nat) (n : Node) (g : Graph) : Graph :=
  if (g.node? n.slot).isSome then
    g.modNode n.slot fun m => { m with sketch := n.sketch }
  else
    let g : Graph := { g with nodes := insertBy (·.slot) n g.nodes, nextSlot := max g.nextSlot (n.slot + 1),
                              dir := g.dir.add n.handle n.slot }
    if g.eps.length < 64 then g.setEps repro epoch (g.eps ++ [n.slot]) else g

/-- A node from FP32 values: stored vector, reciprocal norm and sketch (R119); and the saturated elements. -/
def mkNode (p : IndexParams) (slot handle attrs : Nat) (x : List F32) (doc : Bytes) (docTokens jseq : Nat) :
    Node × Nat :=
  let s := storeVec p.fmt x
  let v := vecValues p s.1 s.2.1
  let k := sketchOf p v
  ({ slot := slot, handle := handle, sketch := k.1, attrs := attrs, body := s.1, scale := s.2.1, rn := recipNorm v,
     doc := doc, docTokens := docTokens, journalSeq := jseq }, s.2.2 + k.2)

end Sys2Proof.Machine
end

