-- ==== Sys2Proof/Machine/SearchCore.lean ====
section
/-! DEFINITION. One search from its parameter block to its result record (chapter 04: R82 to R107). -/

namespace Sys2Proof.Machine

/-- Fields of the search parameter block (R82). -/
structure SBlock where
  index : Nat
  mode : Nat
  metric : Nat
  skipUnreachable : Bool
  ce : Bool
  qf16 : Bool
  pool : Nat
  prefetch : Nat
  depth : Nat
  k : Nat
  d : Nat
  hops : Nat
  seeds : Nat
  preds : Nat
  dim : Nat
  ceModel : Nat
  ceDepth : Nat
  margin : F32
  qTokens : Nat
  resAddr : Nat
  resLen : Nat
  deriving DecidableEq, Repr

def SBlock.ofBytes (b : Bytes) : SBlock :=
  { index := fbits b 0 3 0, mode := fbits b 1 1 0, metric := fbits b 1 3 2, skipUnreachable := fbits b 1 4 4 == 1,
    ce := fbits b 1 5 5 == 1, qf16 := fbits b 1 6 6 == 1, pool := fld b 2 2, prefetch := fld b 4 1,
    depth := fld b 5 1, k := fld b 6 2, d := fld b 8 2, hops := fld b 10 2, seeds := fld b 12 1, preds := fld b 13 1,
    dim := fld b 14 2, ceModel := fld b 16 2, ceDepth := fld b 18 2, margin := BitVec.ofNat 32 (fld b 20 4),
    qTokens := fld b 24 2, resAddr := fld b 32 8, resLen := fld b 40 4 }

/-- Length of a search block with its query and tokens (R83). -/
def SBlock.len (s : SBlock) : Nat := roundUp (128 + s.dim * (if s.qf16 then 2 else 4) + 4 * s.qTokens) 8

def SBlock.reservedOk (b : Bytes) : Bool :=
  fbits b 0 7 4 == 0 && fbits b 1 7 7 == 0 && zeroAt b 26 6 && zeroAt b 44 20

def SBlock.clauses (s : SBlock) (b : Bytes) : List Clause :=
  (List.range s.preds).map fun i => Clause.ofBytes (b.drop (64 + 8 * i))

/-- Hop bound in force: 0 means eight times the pool (R82). -/
def SBlock.hopBound (s : SBlock) : Nat := if s.hops = 0 then 8 * s.pool else s.hops
/-- Bucket depth of the search-path SELECTs (R82, R64). -/
def SBlock.depthUsed (s : SBlock) (repro : Bool) : Nat := if repro || s.depth == 0 then 64 else s.depth
/-- C of R95: candidates kept. -/
def SBlock.c (s : SBlock) : Nat := if s.d = 0 then s.k else s.d
def SBlock.maxMode (s : SBlock) : Bool := s.d != 0 && s.metric != 1

/-- Margin at least +0 and not NaN (R82, R83). -/
def marginOk (m : F32) : Bool := !f32isNan m && (m.toNat < 2 ^ 31 || m == 0x80000000#32)

/-- The checks of R82 and R83 that need no index. `probe` is the block of a RECALL_PROBE, whose QUERY, CE and result
fields are ignored (R348). -/
def SBlock.rangeOk (s : SBlock) (b : Bytes) (probe : Bool) : Bool :=
  SBlock.reservedOk b && decide (s.metric ≤ 2) && decide (16 ≤ s.pool) && decide (s.pool ≤ 1024) &&
  decide (1 ≤ s.prefetch) && decide (s.prefetch ≤ 8) && (s.depth == 0 || depthOk s.depth) && decide (1 ≤ s.k) &&
  decide (s.k ≤ 1024) && decide (s.d ≤ 256) && decide (1 ≤ s.seeds) && decide (s.seeds ≤ 64) && decide (s.preds ≤ 8) &&
  (s.mode == 2 || (decide (s.k ≤ s.pool) && decide (s.d ≤ s.pool))) && (s.d == 0 || decide (s.k ≤ s.d)) &&
  (if probe then s.qTokens == 0 && b.length == 128
   else decide (s.qTokens ≤ 512) && b.length == s.len && decide (64 + 16 * s.k ≤ s.resLen) && marginOk s.margin &&
     (!s.ce || (decide (0 < s.d) && decide (s.k ≤ s.ceDepth) && decide (s.ceDepth ≤ s.d))))

/-- The checks of R83 and R90 that need the index. -/
def SBlock.indexOk (s : SBlock) (b : Bytes) (p : IndexParams) : Bool :=
  s.dim == p.dim && (p.attrBytes != 0 || s.preds == 0) &&
  (List.range s.preds).all fun i =>
    let raw := (b.drop (64 + 8 * i)).take 8
    (Clause.ofBytes raw).ok raw p.attrBytes

/-- The FP32 query of R84: elements widened exactly from binary16 (R37). -/
def queryElems (f16 : Bool) (dim : Nat) (b : Bytes) : List F32 :=
  (List.range dim).map fun i =>
    if f16 then f16toF32 (BitVec.ofNat 16 (fld b (2 * i) 2)) else BitVec.ofNat 32 (fld b (4 * i) 4)

/-- Context-pool bytes of a search (R85). "BENCH mode" is taken as MODE 2; a search that AUTO sends to the bench scan counts its POOL
(DESIGN CHOICE, log 112). -/
def SBlock.footprint (s : SBlock) (bits : Nat) : Nat :=
  let l := if s.mode = 2 then 0 else s.pool
  256 + bits / 8 + 16 * l + filterBytes l + 16 * max s.d s.k

/-- Search policy of R94. -/
structure SearchPolicy where
  small : Nat
  bench : F32
  both : F32
  deriving DecidableEq, Repr

/-- `a / b ≤ x` for a finite non-negative FP32 `x`, exactly (R93). -/
def ratioLe (a b : Nat) (x : F32) : Bool :=
  match f32num x with
  | .fin _ m e => if 0 ≤ e then decide (a ≤ b * m * 2 ^ e.toNat) else decide (a * 2 ^ (-e).toNat ≤ b * m)
  | _ => false

/-- The path of a search: 0 walk, 1 bench, 2 both (R93). -/
def choosePath (s : SBlock) (cs : List Clause) (pol : SearchPolicy) (p : IndexParams) (g : Graph) (r : Nat) : Nat :=
  if s.mode = 1 then 0 else if s.mode = 2 then 1 else if s.mode = 3 then 2 else
  let bl := (List.range g.blockCount).map (g.blockSumm p.attrBytes r)
  let total := sumNat (·.live) bl
  if total ≤ pol.small then 1
  else if s.preds = 0 then 0
  else
    let kept := sumNat (·.live) (bl.filter fun x => !x.excluded cs)
    if ratioLe kept total pol.bench then 1 else if ratioLe kept total pol.both then 2 else 0

def pathWalks (path : Nat) : Bool := path != 1
def pathBenches (path : Nat) : Bool := path != 0

/-- The bench scan of R95 over `engines` bank engines; `lost` are ranges whose image segment could not be read (R256). -/
def benchScan (p : IndexParams) (g : Graph) (q r c engines : Nat) (cs : List Clause) (repro : Bool) (lost : List Nat) : BenchRes :=
  let ranges := List.range (ceilDiv (g.slotEndAt repro r) 512)
  let live := ranges.filter fun i =>
    !(g.blockSumm p.attrBytes r (i / 4096)).excluded cs && !(g.rangeSumm p.attrBytes r i).excluded cs
  let db := min 64 c
  let inRanges := g.nodes.filter fun n => live.contains (n.slot / 512) && !n.freed
  let lists := (List.range engines).map fun e =>
    let el := (inRanges.filter fun n => n.slot / 512 % engines == e && n.eligible r cs).map
      fun n => (ham p.sketchBits q n.sketch, n.handle, n.slot)
    let s := sortBy (fun x => hamRank x.1 x.2.1 x.2.2) el
    (s.take db, decide (db < s.length))
  ⟨lists, live.length, ranges.length - live.length, inRanges.any (·.sketchPoison), live.any lost.contains⟩

/-- A Hamming-scored screen-unit entry; AUX carries nothing on the search path. -/
def hamEntry (h handle : Nat) (tag : Nat) : Entry := ⟨handle, 0, tag, natToF32 h, 0⟩

/-- Candidate selection for the walk path (R97): SELECT over the eligible list. -/
def walkCands (w : WalkRes) (c d : Nat) : List (Nat × Nat × Nat) × Summary :=
  let r := selectOp false c d (w.elig.map fun e => hamEntry e.1 e.2.1 0)
  ((r.1.filter (·.valid)).filterMap fun e => w.elig.find? fun x => x.2.1 == e.handle, r.2)

/-- Merge of the bank-engine lists in one or two levels (R96), with the walk's list first in BOTH mode. -/
def benchMerge (b : BenchRes) (w : Option WalkRes) (c : Nat) : List Entry × List Summary :=
  let toList := fun (x : List (Nat × Nat × Nat) × Bool) =>
    (⟨x.1.map fun e => hamEntry e.1 e.2.1 0, x.2⟩ : MergeList)
  let ls := b.lists.map toList
  let room := if w.isSome then 255 else 256
  let first := if ls.length ≤ room then (ls, ([] : List Summary)) else
    let outs := (chunks 256 ls).map fun g =>
      let r := mergeOp false c g
      let all := g.flatMap fun l => l.entries.filter (·.valid)
      -- truncated: the MERGE had a first left-out entry, or set INEXACT
      let left := decide (r.2.validCount + r.2.duplicates < all.length)
      ((⟨r.1.filter (·.valid), left || r.2.flags % 2 == 1⟩ : MergeList), r.2)
    (outs.map (·.1), outs.map (·.2))
  let lists := match w with
    | some x => (⟨x.elig.map fun e => hamEntry e.1 e.2.1 0, x.dropped⟩ : MergeList) :: first.1
    | none => first.1
  let r := mergeOp false c lists
  (r.1.filter (·.valid), first.2 ++ [r.2])

/-- One result slot (R107). -/
structure Slot where
  handle : Nat
  reranked : Bool := false
  exited : Bool := false
  viaWalk : Bool := false
  viaBench : Bool := false
  ham : Nat := 0xFFFF
  score : F32
  pre : F32
  deriving DecidableEq, Repr

def Slot.bytes (s : Slot) : Bytes :=
  le 5 s.handle ++ le 1 (b2n s.reranked + 2 * b2n s.exited + 4 * b2n s.viaWalk + 8 * b2n s.viaBench) ++ le 2 s.ham ++
  le 4 s.score.toNat ++ le 4 s.pre.toNat

def Slot.empty : Slot := { handle := noHandle, score := f32nan, pre := f32nan }

def slotsBytes (k : Nat) (l : List Slot) : Bytes :=
  (l.take k ++ List.replicate (k - l.length) Slot.empty).flatMap Slot.bytes

/-- The result record (R106, R107). -/
structure RecHdr where
  valid : Nat
  flags : Nat
  k : Nat
  path : Nat
  metric : Nat
  timeLost : Bool
  rerank : Bool
  walkEnd : Nat
  dUsed : Nat
  epoch : Nat
  exact : Nat
  cacheHits : Nat
  hops : Nat
  visited : Nat
  scanned : Nat
  skipped : Nat
  dups : Nat
  unreachable : Nat
  exitedCount : Nat
  deriving DecidableEq, Repr

def RecHdr.bytes (h : RecHdr) : Bytes :=
  le 2 h.valid ++ le 2 h.flags ++ le 2 h.k ++
  le 1 (h.path + 4 * h.metric + 16 * b2n h.timeLost + 32 * b2n h.rerank + 64 * h.walkEnd) ++ le 1 h.dUsed ++
  le 8 h.epoch ++ le 2 h.exact ++ le 2 h.cacheHits ++ le 4 h.hops ++ le 4 h.visited ++ le 4 h.scanned ++
  le 4 h.skipped ++ le 4 h.dups ++ le 2 h.unreachable ++ le 2 h.exitedCount ++ zeros 20

/-- An item in the rerank of R102: its position in the pre-rerank order, its scores at each exit point then at the
last layer, and where it stopped. -/
structure CeItem where
  pos : Nat
  handle : Nat
  scores : List F32
  stop : Nat := 0
  score : F32 := f32nan
  deriving DecidableEq, Repr

def ceKth (k : Nat) (l : List F32) : F32 :=
  ((sortBy (fun x => 0xFFFFFFFF - orderKey x) l)[k - 1]?).getD f32nan

/-- The exit rule at one exit point `j` (R102): items below `c − M` in the order of R46 exit. -/
def ceExit (k : Nat) (m : F32) (j : Nat) (run : List CeItem) : List CeItem × List CeItem :=
  let at_ := run.map fun i => { i with stop := j, score := i.scores.getD j f32nan }
  if run.length ≤ k ∨ m = f32inf then (at_, [])
  else
    let t := f32sub (ceKth k (at_.map (·.score))) m
    (at_.filter fun i => !decide (orderKey i.score < orderKey t), at_.filter fun i => decide (orderKey i.score < orderKey t))

def ceRun (k : Nat) (m : F32) : Nat → Nat → List CeItem → List CeItem → List CeItem × Bool
  | 0, j, run, done => ((run.map fun i => { i with stop := j, score := i.scores.getD j f32nan }) ++ done,
      run.any fun i => f32isNan (i.scores.getD j f32nan))
  | n + 1, j, run, done =>
    let nan := run.any fun i => f32isNan (i.scores.getD j f32nan)
    let r := ceExit k m j run
    let rest := ceRun k m n (j + 1) r.1 (r.2 ++ done)
    (rest.1, nan || rest.2)

/-- The final order of R102: later stop first, then max-k by score, ties by handle. -/
def ceOrder (l : List CeItem) : List CeItem :=
  sortBy (fun i => (100 - i.stop) * 2 ^ 72 + (0xFFFFFFFF - orderKey i.score) * 2 ^ 40 + i.handle) l

structure CeOut where
  items : List CeItem      -- all items in final order
  tie : Bool
  nan : Bool
  exited : Nat
  deriving Repr

def ceRank (k exits : Nat) (m : F32) (items : List CeItem) : CeOut :=
  let r := ceRun k m exits 0 items []
  let o := ceOrder r.1
  ⟨o, match o[k - 1]?, o[k]? with
      | some a, some b => a.stop == b.stop && orderKey a.score == orderKey b.score
      | _, _ => false, r.2, (o.filter fun i => decide (i.stop < exits)).length⟩

/-- Scores one exact list per source, the two storage dies and the cache path, and merges them (R101); a SELECT is not used in the exact pass. -/
def exactMerge (maxMode : Bool) (k : Nat) (cs : List Cand) : List Entry × Summary :=
  let lst := fun (side : Nat) =>
    let es := cs.filterMap fun c => if c.side = side ∨ c.also = some side then c.score.map fun s => (⟨c.handle, 0, 0, s, 0⟩ : Entry) else none
    (⟨(sortBy (rankKey maxMode 0) es), false⟩ : MergeList)
  mergeOp maxMode k [lst 0, lst 1, lst 2]

end Sys2Proof.Machine
end

