-- ==== Sys2Proof/Machine/PartTypes.lean ====
section
/-! DEFINITION. The data of a partition: composition record, set-up page, features, keys, epochs, objects, journal
(chapters 02, 05, 09, 11, 12 and 13). -/

namespace Sys2Proof.Machine

/-- One partition record of a composition map (R383, R442). -/
structure PartCfg where
  present : Bool
  repro : Bool
  maint : Bool
  info : Bool
  ownerRemote : Bool
  ownerPeer : Nat
  sites : Nat            -- bitmap of tile sites
  channels : Nat         -- bitmap of channels
  dramQuota : Nat
  stagingGib : Nat
  screenWeight : Nat
  places : Nat           -- in units of 64
  changeQuota : Nat
  contextQuota : Nat
  flash0 : Nat           -- superblocks
  flash1 : Nat
  wbMib : Nat
  sources : List Nat
  sourcesUsed : Nat
  deriving DecidableEq, Repr

def PartCfg.none : PartCfg :=
  ⟨false, false, false, false, false, 0, 0, 0, 0, 0, 0, 0, 0, 0, 0, 0, 0, [], 0⟩

/-- STATE (R312). -/
inductive PartSt where
  | closed | opened | started | draining | fenced
  deriving DecidableEq, Repr

def PartSt.code : PartSt → Nat
  | .closed => 0
  | .opened => 1
  | .started => 2
  | .draining => 3
  | .fenced => 4

/-- A partition reset under way (R393). -/
structure PReset where
  start : Nat
  trigger : Nat            -- 1 hang, 2 ECC storm, 3 runaway program (R392)
  stayFenced : Bool
  after : Nat              -- 0 nothing, 1 DISABLE, 2 Function Level Reset to apply at its end (R401)
  managed : Bool := false  -- the fabric manager has fenced the partition meanwhile (R400, R401)
  deriving DecidableEq, Repr

/-- The life of a partition (R397 to R401). -/
structure PartLife where
  st : PartSt
  keyAtFence : Bool        -- the media key was held at the fence
  flr : Bool               -- the drain under way is a Function Level Reset's
  reset : Option PReset
  resets : List Nat        -- start times of recent resets, newest first (R396)
  busMaster : Bool
  admitPaused : Bool       -- paused by a composition change (R443) or a firmware activation (R496)
  everOpened : Bool
  dramValid : Bool         -- DRAM contents still stand since the last close (R399)
  unfilled : List Nat      -- channel positions without a channel (R262)
  sites : List Nat         -- tile sites by position (R442); a spared site keeps its position
  chans : List Nat         -- channels by position (R259)
  deriving DecidableEq, Repr

/-- Set-up page fields outside the ring set blocks (R311). -/
structure PartRegs where
  drainBound : Nat
  eventRing : Nat
  eventEnable : Nat
  rejected : Bool
  keyRefused : Bool
  keyData : Bytes          -- 32 bytes
  deriving DecidableEq, Repr

/-- Events of a partition (R329); a held event is its 32 entry bytes without PHASE. -/
structure EventState where
  seq : Nat
  lost : Nat
  held : List Bytes
  deriving DecidableEq, Repr

/-- Saturation counters (R48, R52). -/
structure SatCounters where
  count : List Nat
  threshold : List Nat
  armed : List Bool
  deriving DecidableEq, Repr

def SatCounters.reset : SatCounters := ⟨List.replicate 16 0, List.replicate 16 65536, List.replicate 16 true⟩

/-- Placement policy (R255). -/
structure Placement where
  hotMib : Nat
  admitMode : Nat
  tableJournal : Bool
  stagingMib : Nat
  checkpointS : Nat
  deriving DecidableEq, Repr

/-- The features of a partition (R376). -/
structure Features where
  sat : SatCounters
  search : SearchPolicy
  insert : InsertPolicy
  insertBatch : InsertPolicy   -- in force for the batch of the current epoch (R122)
  window : Nat             -- bank policy: MEMORY_WINDOW (R216)
  place : Placement
  lowWater : Nat
  highWater : Nat
  deriving DecidableEq, Repr

def Features.reset : Features :=
  ⟨SatCounters.reset, ⟨1048576, 0x3B800000#32, 0x3D000000#32⟩, ⟨128, 0, 1, 0⟩, ⟨128, 0, 1, 0⟩, 2000, ⟨4096, 0, false, 1024, 60⟩, 40, 80⟩

/-- The wrapped-key record of a partition's metadata pages (R403). The wrapped bytes are kept as the pair of keys they
join: the AES key wrap is opened by exactly the key that made it. -/
structure WrapRec where
  gen : Nat
  alg : Nat
  count : Nat
  created : Nat
  owner : Bytes
  media : Bytes
  deriving DecidableEq, Repr

/-- Keys of a partition (R402). -/
structure Keys where
  owner : Option Bytes
  transport : Option Bytes
  media : Option Bytes
  record : Option WrapRec
  gen : Nat                -- key generation in force (R290)
  deriving DecidableEq, Repr

/-- Visibility epochs (R111, R112). -/
structure Vis where
  tick : Nat               -- ns
  origin : Nat
  base : Nat
  cur : Nat                -- current epoch
  highest : Nat            -- highest epoch assigned, reported or taken
  deriving DecidableEq, Repr

/-- Kinds of object with windows (R247). -/
inductive ObjKind where
  | staging | stored | tensor | state | table | resident
  deriving DecidableEq, Repr

/-- An object of the partition range (R245). -/
structure Obj where
  first : Nat
  count : Nat
  kind : ObjKind
  size : Nat               -- highest byte written plus one; whole size for DRAM objects
  capGib : Nat
  single : Bool
  owner : Nat              -- model identifier or table number
  deriving DecidableEq, Repr

/-- Bank-group lines in use: of a resident tensor (kind 0, its window), a table (1, its number) or an index (2, its number). The
lines are counted in common for every bank group of the partition (DESIGN CHOICE, log 106). -/
structure LineUse where
  kind : Nat
  id : Nat
  first : Nat
  count : Nat
  deriving DecidableEq, Repr

/-- A journal record (R27, R120, R126, R136, R258). Kinds: 1 insert, 2 upsert, 3 delete, 4 vector record, 5 cancel. -/
structure JRec where
  seq : Nat
  kind : Nat
  index : Nat
  handle : Nat
  target : Nat             -- journal sequence that a vector or cancel record refers to
  rs : RsId
  cmdSeq : Nat
  epoch : Nat              -- admission epoch
  upd : UpdRun
  applied : Bool
  pos : Nat                -- first byte in the journal's record packs (R277)
  len : Nat
  deriving DecidableEq, Repr

structure Journal where
  next : Nat
  pos : Nat                -- bytes of record packs used
  recs : List JRec
  structs : List (Nat × Nat × Nat)   -- structure records not yet in an image segment or checkpoint: index, or 16 for tables; first byte; length (R258)
  dirty : List (Nat × Nat)           -- index and slot of nodes whose state has changed since their last structure record (R127, R258)
  deriving DecidableEq, Repr

/-- An entry of the hot-vector cache: its index and node slot, its bytes, the clock's reference bit, and whether a line of it is
poisoned (R254). -/
structure HotEnt where
  index : Nat
  slot : Nat
  size : Nat
  ref : Bool
  bad : Bool
  deriving DecidableEq, Repr

/-- The hot-vector cache of a partition (R254): its entries from the clock's hand on, the number of exact reads made, and the slots
read from flash among the last 2²⁰ of them, as (index, slot, number of the read) (R255). -/
structure HotCache where
  ents : List HotEnt
  count : Nat
  recent : List (Nat × Nat × Nat)
  deriving DecidableEq, Repr

/-- The memory of a partition: DRAM-homed windows, flash-homed windows, poisoned 64-byte lines, and the read staging
units held for flash-homed windows, least recently used first (R204, R208, R244, R249). -/
structure PartMem where
  dram : Memory
  flash : Memory
  poison : List Nat
  staged : List Nat
  discarded : List Nat     -- 16 KiB units of flash windows unmapped by a discard
  ckpt : Memory            -- tables and trainable tensors as their last checkpoint holds them (R255, R260)
  ckptTime : Nat           -- fabric time of that checkpoint (R263)
  ckptFrom : Nat           -- from when the checkpoint interval runs (R255)
  ckptLost : Bool          -- the time-lost state stood at the last checkpoint (R263)
  ckptCopies : List (Nat × Bool)   -- models, and which working copy was current at the last checkpoint (R187, R201)
  deriving DecidableEq, Repr

end Sys2Proof.Machine
end

