-- ==== Sys2Proof/Machine/RecTypes.lean ====
section
/-! DEFINITION. The data of the event recorder, the black box and the generation fence (chapter 15). -/

namespace Sys2Proof.Machine

/-- An event record (R471), but for CHECK and VALID. -/
structure EvRec where
  seq : Nat
  opTime : Nat          -- seconds
  cycles : Nat
  time : Nat            -- zero when not valid
  timeState : Nat
  writer : Nat
  single : Bool
  sev : Nat
  code : Nat
  kind : Nat
  idx : Nat
  gen : Nat
  part : Option Nat
  d0 : Nat
  d1 : Nat
  d2 : Nat
  deriving DecidableEq, Repr

/-- A window of a coalesced code (R474): its first occurrence, how many there were, and when it closes. -/
structure CoWin where
  first : EvRec
  count : Nat
  closes : Nat
  deriving DecidableEq, Repr

/-- A black-box slot (R478, R479). -/
structure Snapshot where
  seq : Nat
  fatalSeq : Nat
  opTime : Nat
  cycles : Nat
  time : Nat
  timeState : Nat
  writer : Nat
  nextSeq : Nat
  ring : List EvRec
  deriving DecidableEq, Repr

/-- One keeper (R470, R504 to R507). -/
structure Keeper where
  present : Bool        -- in service
  ring : List EvRec     -- at most one record a slot (RECORD_SEQ mod 4,096)
  skipped : Nat         -- since it was powered
  missed : Nat          -- heartbeats missed by it
  deriving DecidableEq, Repr

/-- The event recorder of the two keepers (R470 to R479). -/
structure Recorder where
  nextSeq : Nat
  active : Nat
  k0 : Keeper
  k1 : Keeper
  frozen : Option Nat        -- fabric time of the last RECORDER_FREEZE
  frozeAt : Nat              -- fabric time at which the present freeze began
  held : List EvRec          -- at most 256
  skippedNow : Nat           -- events skipped in the present freeze
  windows : List CoWin
  boxes : List Snapshot      -- at most 8
  fatal : Bool               -- the module is in the fatal state (R477)
  deriving DecidableEq, Repr

/-- The generation fence and the spares (R461 to R465). A unit that no list names has generation 1 and is in service. -/
structure Units where
  gens : List (Nat × Nat × Nat)       -- kind, index, generation
  retired : List (Nat × Nat)          -- kind and index of retired units
  spare : List (Nat × Nat)            -- tested units that stand by
  stale : List Nat                    -- stale-speaker drops by kind
  count : Nat                         -- units retired since manufacture
  deriving DecidableEq, Repr

/-- Sixteen spare tile sites (T144 to T159) and eight spare traverse engines (TE256 to TE263) stand by at manufacture. -/
def Units.reset : Units :=
  ⟨[], [], ((List.range 16).map fun i => (1, 144 + i)) ++ ((List.range 8).map fun i => (2, 256 + i)), List.replicate 16 0, 0⟩

def Recorder.reset : Recorder := ⟨0, 0, ⟨true, [], 0, 0⟩, ⟨true, [], 0, 0⟩, none, 0, [], 0, [], [], false⟩

/-- Kinds that carry a generation (R465). -/
def kindHasGen (k : Nat) : Bool := [1, 2, 3, 4, 6, 7, 8, 10, 11].contains k

def Units.gen (u : Units) (k i : Nat) : Nat :=
  if kindHasGen k then ((u.gens.find? fun e => e.1 == k && e.2.1 == i).map (·.2.2)).getD 1 else 0

def Units.isRetired (u : Units) (k i : Nat) : Bool := u.retired.contains (k, i)

/-- Raises the generation of a name, which stays retired at its largest value (R461). -/
def Units.raise (u : Units) (k i : Nat) : Units :=
  if kindHasGen k then { u with gens := (k, i, min 0xFFFF (u.gen k i + 1)) :: u.gens.filter fun e => !(e.1 == k && e.2.1 == i) }
  else u

/-- Retires a unit (R461, R463). -/
def Units.retire (u : Units) (k i : Nat) : Units :=
  if u.isRetired k i then u
  else { u.raise k i with retired := (k, i) :: u.retired, spare := u.spare.filter fun e => e != (k, i), count := u.count + 1 }

def Units.spares (u : Units) (k : Nat) : List Nat := (u.spare.filter fun e => e.1 == k).map (·.2)

/-- CRC-8 with polynomial 0x07 (R471). -/
def crc8 (b : Bytes) : Nat :=
  b.foldl (fun c x => (List.range 8).foldl (fun c _ => if 128 ≤ c then (2 * c % 256) ^^^ 7 else 2 * c) (c ^^^ x.toNat)) 0

/-- The 64 bytes of a record (R471). -/
def EvRec.bytes (e : EvRec) : Bytes :=
  let b := le 4 e.seq ++ le 5 e.opTime ++ le 3 e.cycles ++ le 8 e.time ++
    le 1 (e.timeState + 4 * e.writer + 8 * b2n e.single) ++ le 1 e.sev ++ le 2 e.code ++ le 1 e.kind ++ le 2 e.idx ++ zeros 1 ++
    le 2 e.gen ++ le 1 (match e.part with
      | some p => p % 64 + 64
      | none => 0) ++ zeros 1 ++ le 8 e.d0 ++ le 8 e.d1 ++ le 8 e.d2 ++ zeros 6
  b ++ le 1 (crc8 b) ++ le 1 0xA5

/-- Coalesced codes (R473). -/
def codeCoalesced (code : Nat) : Bool :=
  [0x0104, 0x0201, 0x0205, 0x0301, 0x0302, 0x0303, 0x0603].contains code

/-- Codes posted to the management function (R473). -/
def codePosted (code : Nat) : Bool :=
  !([0x0205, 0x0301, 0x0302, 0x0303, 0x0304, 0x0603, 0x0701, 0x0802, 0x0803].contains code)

/-- Severity of a code (R473). -/
def codeSev (code : Nat) : Nat :=
  if [0x0102, 0x0204, 0x0304, 0x0401, 0x0403, 0x0404, 0x0501, 0x0502, 0x0503, 0x0505, 0x0701, 0x0702, 0x0802].contains code then 0
  else if [0x0104, 0x0201, 0x0205, 0x0301, 0x0302, 0x0303, 0x0308, 0x0402, 0x0602, 0x0603, 0x0604, 0x0704, 0x0801].contains code then 1
  else if code = 0x0305 ∨ code = 0x0306 then 3
  else if code = 0x0803 then 4
  else 2

end Sys2Proof.Machine
end

