-- ==== Sys2Proof/Machine/SysTypes.lean ====
section
/-! DEFINITION. The data of the fabric ports, fabric time over PTP, the transport and traffic control (chapter 14), of bring-up,
firmware and sleep (chapter 16), of the supplies, pins and temperatures (chapter 17), and of the pause accounts (R418). -/

namespace Sys2Proof.Machine

open Sys2Proof

/-! ### Fabric (R419 to R456) -/

/-- A peer record (R441). -/
structure Peer where
  id : Nat
  isModule : Bool
  ports : Nat               -- bitmap
  addr : Nat
  deriving DecidableEq, Repr

/-- The fabric configuration (R441). -/
structure FabricCfg where
  moduleNumber : Nat
  ptpUdp : Bool
  ptpDomain : Nat
  transportPort : Nat
  vlan : Nat
  addrs : List Nat          -- 16 IPv6 addresses
  peers : List Peer
  deriving DecidableEq, Repr

def FabricCfg.reset : FabricCfg := ⟨0, false, 0, 0, 0, List.replicate 16 0, []⟩

/-- A gate schedule (R452). -/
structure GateSched where
  start : Nat               -- fabric time from which it holds (R454)
  base : Nat
  cycle : Nat
  entries : List (Nat × Nat)   -- offset, mask
  deriving DecidableEq, Repr

/-- A neighbour (R425). -/
structure Neigh where
  chassis : Nat
  portId : Nat
  expires : Nat
  deriving DecidableEq, Repr

/-- A frame waiting to be sent (R448). `urgent`: PTP and LLDP frames. -/
structure Frame where
  urgent : Bool
  sub : Nat                 -- 0 to 64
  service : Nat
  len : Nat                 -- destination address to FCS
  waited : Bool             -- already counted as waiting for its gate (R456)
  out : Output
  tie : Tie                 -- what leaves before it (R326, R337)
  deriving DecidableEq, Repr

/-- A fabric port. -/
structure Port where
  up : Bool
  busy : Bool
  endsAt : Nat              -- end of the frame on the wire, in units of 5 ps
  queue : List Frame
  sched : Option GateSched
  nextSched : Option GateSched
  fallback : Bool           -- the fallback of R455 holds until the next entry boundary
  neighbours : List Neigh
  lldpNext : Nat
  lldpSent : Nat            -- since the port came up
  resolved : List Nat       -- addresses resolved by neighbour discovery (R422)
  errors : Nat
  gateWaits : Nat
  turn : Nat                -- round-robin position among subscribers
  deficits : List (Nat × Nat)           -- subscriber, deficit
  svcTurn : List (Nat × Nat)            -- subscriber, service at its turn
  svcDeficits : List (Nat × Nat)        -- 4 × subscriber + service, deficit
  gateDone : Nat            -- gate boundaries up to this instant have taken place (R28, R452)
  deriving DecidableEq, Repr

def Port.reset : Port := ⟨false, false, 0, [], none, none, false, [], 0, 0, [], 0, 0, 0, [], [], [], 0⟩

/-- A token bucket: tokens in units of 1/8,000 byte, so that 1 Mb/s adds one unit each ns (R448, R451). -/
structure Bucket where
  rate : Nat                -- Mb/s; 0 disables
  burst : Nat               -- bytes
  tokens : Nat
  last : Nat
  deriving DecidableEq, Repr

def Bucket.off : Bucket := ⟨0, 0, 0, 0⟩

/-- A subscriber record with its buckets (R449). -/
structure Subscriber where
  weight : Nat
  query : Nat
  ingest : Nat
  replication : Nat
  shaper : Bucket
  ingress : Bucket
  services : List Bucket    -- 4
  deriving DecidableEq, Repr

def Subscriber.reset : Subscriber := ⟨16, 8, 4, 2, Bucket.off, Bucket.off, List.replicate 4 Bucket.off⟩

/-- What a partition has accepted from one source (R434). -/
structure RxWin where
  kind : Nat
  source : Nat
  highest : Option Nat
  seen : List Nat           -- accepted values within the window below the highest
  deriving DecidableEq, Repr

/-- The answer given to an accepted SETUP_WRITE or UPDATE, or none while it has not ended (R434). -/
structure Answer where
  kind : Nat
  source : Nat
  sequence : Nat
  type : Nat
  payload : Option Bytes
  keyed : Bool
  deriving DecidableEq, Repr

/-- An UPDATE sent and not yet acknowledged (R433). -/
structure OutUpdate where
  sequence : Nat
  peer : Nat
  hdr : Bytes
  payload : Bytes
  next : Nat                -- fabric time of the next repeat
  interval : Nat
  deriving DecidableEq, Repr

/-- The transport of one partition (R433, R434, R456). -/
structure TransportPart where
  seq : Nat                 -- next SEQUENCE
  mark : Nat                -- durable high mark
  windows : List RxWin
  answers : List Answer
  outs : List OutUpdate
  drops : List Nat          -- policer drops by service
  authFails : Nat
  replays : Nat
  stale : Nat
  dropped : Nat
  deriving DecidableEq, Repr

def TransportPart.reset : TransportPart := ⟨0, 0, [], [], [], [0, 0, 0, 0], 0, 0, 0, 0⟩

/-- The last Announce of a master on a port (R427). -/
structure Master where
  port : Nat
  heard : Nat
  m : PtpMsg
  deriving DecidableEq, Repr

/-- The PTP port (R426 to R429). -/
structure Ptp where
  masters : List Master
  bound : Option (Nat × Nat)        -- port and master
  sync : Option (Nat × Nat × Int)   -- SEQUENCE, arrival and correction of a two-step Sync
  lastSync : Option (Int × Nat)     -- t1 and t2 of the last whole Sync
  reqAt : Option (Nat × Nat)        -- SEQUENCE and departure time of the last Delay_Req
  reqSeq : Nat
  delay : Int
  offset : Int                      -- last measured offset of the master from the count
  good : Nat                        -- consecutive offsets within ±250 ns
  lostAt : Nat
  deriving DecidableEq, Repr

def Ptp.reset : Ptp := ⟨[], none, none, none, none, 0, 0, 0, 0, 0⟩

structure Fabric where
  cfg : FabricCfg
  portConfig : Nat          -- in force (R420)
  storedPortConfig : Nat    -- taken at the next stage 3
  ports : List Port         -- 16
  overhead : List Nat       -- 16 (R449)
  subs : List Subscriber    -- 65
  parts : List TransportPart   -- 64
  ptp : Ptp
  roceDrops : Nat           -- inbound request packets dropped and counted (R438)
  deriving DecidableEq, Repr

def Fabric.reset : Fabric :=
  ⟨FabricCfg.reset, 0, 0, List.replicate 16 Port.reset, List.replicate 16 20, List.replicate 65 Subscriber.reset,
   List.replicate 64 TransportPart.reset, Ptp.reset, 0⟩

/-! ### Bring-up, firmware, power (R480 to R525) -/

/-- A stage record of log 0x80 (R488). -/
structure StageRec where
  stage : Nat
  outcome : Nat
  full : Bool
  cause : Nat
  duration : Nat
  opTime : Nat
  cycles : Nat
  time : Nat
  spared : Nat
  failed : Nat
  firstFailed : Nat
  d0 : Nat
  d1 : Nat
  deriving DecidableEq, Repr

def StageRec.empty (n : Nat) : StageRec := ⟨n, 0, false, 0, 0, 0, 0, 0, 0, 0, 0, 0, 0⟩

/-- A firmware slot (R493). -/
structure FwSlot where
  state : Nat
  security : Nat
  size : Nat
  version : Nat
  minLive : Nat
  writtenOp : Nat
  writtenCycles : Nat
  activateAt : Nat
  digest : Bytes
  deriving DecidableEq, Repr

def FwSlot.empty : FwSlot := ⟨0, 0, 0, 0, 0, 0, 0, 0, []⟩

/-- Live firmware (R377, R493 to R497). -/
structure Firmware where
  slots : List FwSlot       -- 2
  active : Nat
  floor : Nat               -- lowest SECURITY_VERSION accepted
  staging : Option (ReqRef × Nat × Nat)    -- the FW_COMMIT, its slot and its ACTIVATE_AT
  target : Nat              -- slot scheduled
  keeperChanged : Bool      -- the activation changed the keeper section
  copy : Option Nat         -- VERSION of the image whose copy stands in a module channel (R490)
  deriving DecidableEq, Repr

def Firmware.reset : Firmware := ⟨[{ FwSlot.empty with state := 2 }, FwSlot.empty], 0, 0, none, 0, false, none⟩

/-- What the module as a whole is doing (R480 to R484, R498 to R503, R477, R524). -/
inductive Mode where
  | off                     -- 48 V not within limits
  | bringup (stage : Nat)   -- a stage is running
  | stopped                 -- a stage stopped bring-up
  | up
  | sleep
  | held                    -- every die held in reset by MODULE_RESET_N after 100 ms
  | fatal
  | shutdown                -- thermal shutdown
  deriving DecidableEq, Repr

/-- The supplies, pins, resets and temperatures. -/
structure Power where
  mode : Mode
  warm : Bool               -- the bring-up takes the fast path where it may
  path : Nat                -- PATH of log 0x80
  bringups : Nat
  records : List StageRec   -- 11
  inputOk : Bool            -- 48 V within limits
  auxOk : Bool
  resetLow : Bool           -- MODULE_RESET_N asserted for 1 ms or more
  heldReset : Bool          -- a MODULE_RESET waits for the end of thermal shutdown
  perst : List Bool         -- asserted
  refclk : List Bool        -- toggling
  sris : List Bool          -- the port trains in SRIS mode
  hostLink : List Bool
  carrierPresent : List Bool
  carrierSupply : List Bool
  sealed : Bool             -- module-channel CRCs sealed in keeper SRAM
  dramKept : Bool           -- DRAM in self-refresh holds its contents
  wakeSources : Nat
  wakeAt : Nat
  floor : Nat               -- fabric-time floor of the boot flash
  floorHour : Nat           -- hour of operating time of the last periodic floor write
  holdupAt : Nat            -- operating time of the last hold-up measurement, in ns
  temp : Int                -- hottest junction, 0.1 °C
  thermalStep : Nat
  thermalSince : List (Option Nat)   -- for steps 1 to 3: fabric time since which T has stayed 4 °C below its threshold
  powerStep : Nat
  powerSince : Nat          -- fabric time of the last POWER_LIMITED
  powerCap : Nat            -- ceiling that the power limit puts on token budgets (R20)
  leak : Bool
  storedMap : Option (List PartCfg) -- composition records of the boot flash (R485)
  storedEpoch : Nat
  scanPending : Bool        -- a map scan of R261 runs
  keeperLinkOk : Bool
  receiver : Option (Nat × Nat)     -- event receiver: EID and tag (R469)
  snapshots : Nat           -- black-box snapshots written in the module's life (R479)
  kept : Bool               -- a keeper has kept the count of fabric time (R430)
  fromFloor : Bool          -- fabric time runs from the floor, with no master yet followed (R430)
  tapIr : List Nat          -- instruction registers of the 25 test access ports (R519)
  deriving DecidableEq, Repr

def Power.reset : Power :=
  { mode := .off, warm := false, path := 0, bringups := 0, records := (List.range 11).map fun i => StageRec.empty (i + 1),
    inputOk := false, auxOk := true, resetLow := false, heldReset := false, perst := [false, false], refclk := [true, true],
    sris := [false, false], hostLink := [false, false], carrierPresent := [true, true], carrierSupply := [true, true],
    sealed := false, dramKept := false, wakeSources := 0, wakeAt := 0, floor := 0, floorHour := 0, holdupAt := 0, temp := 0,
    thermalStep := 0, thermalSince := [none, none, none], powerStep := 0, powerSince := 0, powerCap := 96, leak := false, storedMap := none, storedEpoch := 0,
    scanPending := false, keeperLinkOk := true, receiver := none, snapshots := 0, kept := false, fromFloor := false, tapIr := List.replicate 25 2 }

/-- One hour of a partition's pause account (R418): hour of operating time, counted, longest counted and uncounted pause in µs,
and the ns in which the partition was started. -/
structure PauseHour where
  hour : Nat
  counted : Nat
  longest : Nat
  uncounted : Nat
  started : Nat
  deriving DecidableEq, Repr

/-- A pause under way (R416, R417): its start, its row of R417 and whether it is counted. -/
structure Pause where
  start : Nat
  cause : Nat
  counted : Bool
  deriving DecidableEq, Repr

/-- The pause account of a partition (R416 to R418). -/
structure PauseAcct where
  hours : List PauseHour    -- newest first
  startedAt : Option Nat    -- operating time in ns since which the partition has been started and not yet accounted
  running : List Pause
  deriving DecidableEq, Repr

def PauseAcct.reset : PauseAcct := ⟨[], none, []⟩

end Sys2Proof.Machine
end

