-- ==== Sys2Proof/Machine/TableTypes.lean ====
section
/-! DEFINITION. The data of embedding tables, channels, bank engines and power tokens (chapter 08). -/

namespace Sys2Proof.Machine

open Sys2Proof

/-- Statistics of a table (R243). -/
structure TabStats where
  lookups : Nat
  rowsRead : Nat
  defaulted : Nat
  updatePositions : Nat
  rowsUpdated : Nat
  droppedRange : Nat
  droppedPoison : Nat
  subBatches : Nat
  deriving DecidableEq, Repr

def TabStats.reset : TabStats := ⟨0, 0, 0, 0, 0, 0, 0, 0⟩

/-- An embedding table (R229). -/
structure Table where
  num : Nat
  rows : Nat
  dim : Nat
  opt : Nat             -- 0 none, 1 SGD, 2 SGD with momentum, 3 Adam
  beta1 : F32
  beta2 : F32
  eps : F32
  lambda : F32
  defaultMode : Nat
  defaultRow : Nat
  channels : List Nat   -- channel positions
  first : Nat           -- first window
  mib : Nat
  model : Option Nat    -- made by MODEL_LOAD for this model
  stats : TabStats
  deriving DecidableEq, Repr

/-- An update batch of a remote partition held for its barrier epoch (R140, R436). -/
structure RemoteUpd where
  source : Nat           -- source number
  service : Nat
  sequence : Nat
  barrier : Nat
  batch : Bytes
  deriving DecidableEq, Repr

/-- State of a channel (R211). -/
inductive ChMode where
  | memory | processor | toProcessor | toMemory
  deriving DecidableEq, Repr

/-- A queued or running command group (R217, R221). -/
structure Group where
  eng : Nat             -- bank group of the channel, 0 to 7
  part : Nat
  bound : Nat           -- ns
  start : Nat
  ord : Nat             -- order in which the device's groups were queued (R219)
  entry : Option Nat    -- plan entry of the bank phase it belongs to
  cmds : List Bytes     -- 1 to 64 command records
  next : Nat            -- commands that have run
  serves : List ReqRef  -- requests it serves
  deriving DecidableEq, Repr

/-- A stack channel and its bank engines (R204, R211, R220). -/
structure Channel where
  mode : ChMode
  queue : List Group
  running : List Group
  oldest : Option Nat   -- arrival of the oldest ordinary access waiting
  memSince : Nat        -- fabric time of the last switch into memory mode (R214)
  windowEnd : Option Nat
  closed : Bool         -- admission to the memory window is closed (R214)
  spareUsed : Bool      -- the spare engine stands in for a failed one (R220)
  lost : Bool
  dirty : Option Nat    -- partition whose content it last held (R385)
  deriving DecidableEq, Repr

def Channel.reset : Channel := ⟨.memory, [], [], none, 0, none, false, false, false, none⟩

/-- Power tokens of one partition in one stack (R219). -/
structure TokShare where
  part : Nat
  grant : Nat
  held : Nat
  maxHeld : Nat
  waited : Bool
  deriving DecidableEq, Repr

/-- The power-token arbiter of one stack (R217 to R219). -/
structure Arbiter where
  set : Nat
  effective : Nat
  cap : Nat             -- ceiling that a thermal or power step puts on the budget (R218, R522)
  shares : List TokShare
  deriving DecidableEq, Repr

def Arbiter.reset : Arbiter := ⟨64, 64, 96, []⟩

end Sys2Proof.Machine
end

