-- ==== Sys2Proof/Machine/State.lean ====
section
/-! DEFINITION. The state of the block: the queue of waiting commands, the clock, and the device. -/

namespace Sys2Proof.Machine

open Sys2Proof

/-- Why a command could stop the block. The spec answers every error by a status byte, an event or a counter (R9, R10), so
no command of this model raises a fault. -/
inductive Fault where
  /-- Raised by no command: it only makes the type inhabited (safe). -/
  | none
  deriving DecidableEq, Repr

/-- Why a command is refused. -/
inductive Refusal where
  /-- The command has no meaning yet; raised by its arm of exec alone, and by no arm of this model (safe). -/
  | notModelled (mnemonic : String)
  deriving DecidableEq, Repr

/-- The keeper's counts (R28, R310, R428 to R430). -/
structure Clock where
  time : Nat                 -- fabric time in ns
  timeLost : Bool
  ptpLocked : Bool
  everLocked : Bool          -- locked since the keeper was powered: fabric time is valid (R471)
  opTime : Nat               -- operating time in ns
  powerCycles : Nat
  slew : Nat                 -- ns of backward correction not yet absorbed (R29)
  fast : Nat                 -- ns of forward correction not yet absorbed (R428)
  slewAcc : Nat              -- ns counted since the last absorbed one
  powered : Bool             -- 48 V within limits: operating time counts
  deriving DecidableEq, Repr

/-- An MSI-X table entry and its pending bit (R310, R311, R326). -/
structure MsixVec where
  addr : Nat
  data : Nat
  masked : Bool
  pending : Bool
  deriving DecidableEq, Repr

def MsixVec.reset : MsixVec := ⟨0, 0, true, false⟩

/-- A partition. -/
structure Part where
  cfg : PartCfg
  next : Option PartCfg      -- changes that wait for the next close (R384)
  life : PartLife
  regs : PartRegs
  feat : Features
  ev : EventState
  msix : List MsixVec
  rings : List RingSet
  ops : List LongOp
  lastFormat : Option LongOp    -- the last FORMAT or SANITISE (R375 log 0x04)
  keys : Keys
  vis : Vis
  idx : List Index
  objs : List Obj
  mem : PartMem
  journal : Journal
  tables : List Table
  models : List Model
  versions : List (Nat × Nat)   -- highest version each model identifier has had (R186)
  invs : List Inv            -- running invocations, oldest first
  outs : List RowOut         -- rows that invocations have finished and their requests have not yet taken
  lines : List LineUse       -- bank-group lines in use (R225 to R227, R231)
  remoteHeld : List RemoteUpd
  rowsHeld : List HeldRows    -- row updates of bank engines that wait for their barrier epoch (R242)
  scratch : Memory           -- bank-engine scratch: engine position × 65,536 + byte (R220)
  scratchBad : List Nat      -- 64-byte lines of scratch computed from a poisoned line (R208)
  hot : HotCache             -- R254
  fwBuf : Memory             -- firmware download buffer (R377)
  fwLen : Nat                -- bytes held in it
  acct : PauseAcct           -- R418
  deriving DecidableEq, Repr

/-- The management function (R310). -/
structure Mgmt where
  stage : Nat
  reserve : Nat
  holdupJ : Nat
  unflushedLimit : Nat
  eventRing : Nat
  rejected : Bool
  ev : EventState
  rings : List RingSet
  msix : List MsixVec
  fwBuf : Memory
  fwLen : Nat
  deriving DecidableEq, Repr

/-- Composition epochs (R442 to R444). -/
structure Comp where
  epoch : Nat
  prev : Nat
  graceEnd : Nat             -- 0 when no previous epoch is in its grace
  pending : Option (Nat × Nat × Nat × List PartCfg)   -- epoch, grace in µs, effective time, records
  deriving DecidableEq, Repr

/-- The device but for the queue and the clock. -/
structure Dev where
  parts : List Part
  mgmt : Mgmt
  comp : Comp
  flash : Flash
  channels : List Channel
  modChans : List Nat        -- module channels (R252)
  modSide1 : List Nat        -- those with the map entries of SD1-side pages and the second copy of the write buffer (R252)
  reserve : List Nat         -- free reserve channels (R253)
  arbiters : List Arbiter
  nextPoint : Nat            -- fabric time of the next rebalancing point (R218)
  tiles : List Tile          -- 160 sites
  recorder : Recorder
  units : Units
  fabric : Fabric
  power : Power
  fw : Firmware
  latches : List (Fn × Nat × Nat)    -- function, register offset, latched high half (R309)
  free : Nat                         -- free-value counter (the model's own)
  out : List Output                  -- newest first (the model's own)
  deriving DecidableEq, Repr

/-- The whole block. -/
structure State where
  pending : List Instr
  clock : Clock
  dev : Dev
  deriving DecidableEq, Repr

/-- The staging object of window 0 (R245). -/
def stagingObj (gib : Nat) : Obj := ⟨0, 1, .staging, gib * 2 ^ 30, gib, false, 0⟩

def Part.reset (p : Nat) : Part :=
  { cfg := PartCfg.none, next := none,
    life := ⟨.closed, false, false, none, [], true, false, false, false, [], [], []⟩,
    regs := ⟨10, 0, 0x1F, false, false, zeros 32⟩, feat := Features.reset, ev := ⟨0, 0, []⟩,
    msix := List.replicate 16 MsixVec.reset,
    rings := (List.range 16).map fun n => RingSet.reset (Config.localQpn p n),
    ops := [], lastFormat := none, keys := ⟨none, none, none, none, 0⟩, vis := ⟨100000, 0, 0, 0, 0⟩, idx := [], objs := [],
    mem := ⟨[], [], [], [], [], [], 0, 0, false, []⟩, journal := ⟨1, 0, [], [], []⟩, tables := [], models := [],
    versions := [], invs := [], outs := [], lines := [], remoteHeld := [], rowsHeld := [], scratch := [], scratchBad := [], hot := ⟨[], 0, []⟩, fwBuf := [], fwLen := 0, acct := PauseAcct.reset }

def Mgmt.reset : Mgmt :=
  { stage := 0, reserve := 1, holdupJ := 0, unflushedLimit := 0, eventRing := 0, rejected := false, ev := ⟨0, 0, []⟩,
    rings := (List.range 4).map fun n => RingSet.reset (Config.localQpn 64 n), msix := List.replicate 32 MsixVec.reset,
    fwBuf := [], fwLen := 0 }

def Dev.reset : Dev :=
  { parts := (List.range 64).map Part.reset, mgmt := Mgmt.reset, comp := ⟨0, 0, 0, none⟩, flash := Flash.reset,
    channels := List.replicate 320 Channel.reset, modChans := [], modSide1 := [], reserve := [], arbiters := List.replicate 20 Arbiter.reset, nextPoint := 0,
    tiles := List.replicate 160 Tile.reset, recorder := Recorder.reset, units := Units.reset, fabric := Fabric.reset,
    power := Power.reset, fw := Firmware.reset, latches := [],
    free := 0, out := [] }

/-- The block right after reset. -/
def State.reset : State :=
  { pending := [], clock := ⟨0, true, false, false, 0, 0, 0, 0, 0, false⟩, dev := Dev.reset }

end Sys2Proof.Machine
end

