-- ==== Sys2Proof/Machine/Access.lean ====
section
/-! DEFINITION. Access to partitions, ring sets and ports, and the block's output. -/

namespace Sys2Proof.Machine

open Sys2Proof

def Dev.emit (d : Dev) (o : Output) : Dev := { d with out := o :: d.out }

/-- A fresh free value of a step (log 8). -/
def Dev.fresh (d : Dev) : Dev := { d with free := d.free + 1 }

def Dev.part (d : Dev) (p : Nat) : Part := d.parts.getD p (Part.reset p)
def Dev.modPart (d : Dev) (p : Nat) (f : Part → Part) : Dev := { d with parts := modAt f p d.parts }

def Dev.ring (d : Dev) : RsId → RingSet
  | .part p n => (d.part p).rings.getD n (RingSet.reset 0)
  | .mgmt n => d.mgmt.rings.getD n (RingSet.reset 0)

def Dev.modRing (d : Dev) (rs : RsId) (f : RingSet → RingSet) : Dev :=
  match rs with
  | .part p n => d.modPart p fun x => { x with rings := modAt f n x.rings }
  | .mgmt n => { d with mgmt := { d.mgmt with rings := modAt f n d.mgmt.rings } }

def Dev.modRun (d : Dev) (rs : RsId) (f : RingRun → RingRun) : Dev := d.modRing rs fun r => { r with run := f r.run }

def Dev.modFabric (d : Dev) (f : Fabric → Fabric) : Dev := { d with fabric := f d.fabric }
def Dev.port (d : Dev) (n : Nat) : Port := d.fabric.ports.getD n Port.reset
def Dev.modPort (d : Dev) (n : Nat) (f : Port → Port) : Dev := d.modFabric fun x => { x with ports := modAt f n x.ports }
def Dev.transport (d : Dev) (p : Nat) : TransportPart := d.fabric.parts.getD p TransportPart.reset
def Dev.modTransport (d : Dev) (p : Nat) (f : TransportPart → TransportPart) : Dev :=
  d.modFabric fun x => { x with parts := modAt f p x.parts }
def Dev.sub (d : Dev) (n : Nat) : Subscriber := d.fabric.subs.getD n Subscriber.reset
def Dev.modSub (d : Dev) (n : Nat) (f : Subscriber → Subscriber) : Dev := d.modFabric fun x => { x with subs := modAt f n x.subs }

/-! ### Tiles, channels and invocations -/

/-- The position of an element of a list. -/
def posOf (l : List Nat) (a : Nat) : Option Nat := if l.contains a then some (l.idxOf a) else none

def Dev.tile (d : Dev) (t : Nat) : Tile := d.tiles.getD t Tile.reset
def Dev.modTile (d : Dev) (t : Nat) (f : Tile → Tile) : Dev := { d with tiles := modAt f t d.tiles }
def Dev.chan (d : Dev) (ch : Nat) : Channel := d.channels.getD ch Channel.reset
def Dev.modChan (d : Dev) (ch : Nat) (f : Channel → Channel) : Dev := { d with channels := modAt f ch d.channels }
def Dev.arb (d : Dev) (s : Nat) : Arbiter := d.arbiters.getD s Arbiter.reset
def Dev.modArb (d : Dev) (s : Nat) (f : Arbiter → Arbiter) : Dev := { d with arbiters := modAt f s d.arbiters }

/-- The partition and position that a site serves (R144). -/
def Dev.siteOf (d : Dev) (t : Nat) : Option (Nat × Nat) :=
  (indexed d.parts).findSome? fun p => (posOf p.2.life.sites t).map fun i => (p.1, i)

/-- The site at a position of a partition's tile group. -/
def Dev.siteAt (d : Dev) (p pos : Nat) : Nat := (d.part p).life.sites.getD pos 160

/-- The partition that owns a channel and the channel's position in its list (R205). -/
def Dev.chanOwner (d : Dev) (ch : Nat) : Option (Nat × Nat) :=
  (indexed d.parts).findSome? fun p => (posOf p.2.life.chans ch).map fun i => (p.1, i)

/-- Stops every tile of a partition's group. -/
def Dev.stopTiles (d : Dev) (p : Nat) : Dev :=
  (d.part p).life.sites.foldl (fun d t => d.modTile t fun x =>
    { x with running := false, queues := List.replicate 5 [], held := [], entry := none }) d

/-- The running invocation of a partition ends: its tiles stop, its queued groups leave their channels, and a group that runs
goes on to its end for no request (R178, R179, R221). -/
def Dev.stopInv (d : Dev) (p : Nat) : Dev :=
  let mine := fun (g : Group) => g.part == p && g.entry.isSome
  let d := d.stopTiles p
  (d.part p).life.chans.foldl (fun d ch => d.modChan ch fun y =>
    { y with queue := y.queue.filter fun g => !mine g,
             running := modIf mine (fun g => { g with entry := none, serves := [] }) y.running }) d

/-- A request leaves the invocations of its partition: a row of a waiting one goes, a row of the running one is no longer waited
for, and an invocation for which no request waits ends (R178). -/
def Part.leaveInvs (x : Part) (r : ReqRef) : Part :=
  let one := fun (i : Inv) =>
    if i.going then { i with rows := modIf (fun w => w.req == r) (fun w => { w with live := false }) i.rows }
    else { i with rows := i.rows.filter fun w => w.req != r }
  { x with invs := (x.invs.map one).filter fun i => i.rows.any (·.live), outs := x.outs.filter fun o => o.req != r }

def Dev.leaveInvs (d : Dev) (r : ReqRef) : Dev :=
  match r.rs with
  | .mgmt _ => d
  | .part p _ =>
    let was := (d.part p).invs.any (·.going)
    let d := d.modPart p fun x => x.leaveInvs r
    if was && !((d.part p).invs.any (·.going)) then d.stopInv p else d

end Sys2Proof.Machine
end

