-- ==== Sys2Proof/Machine/Egress.lean ====
section
/-! DEFINITION. Sending on the fabric ports: gate schedules, shapers, the three levels of the egress scheduler, and the
packets of the module transport (R431 to R433, R448 to R455). -/

namespace Sys2Proof.Machine

open Sys2Proof

/-! ### Ports (R419, R450) -/

def Fabric.portCount (f : Fabric) : Nat := if f.portConfig = 0 then 4 else if f.portConfig = 1 then 8 else 16

/-- Units of 5 ps that a byte occupies at the port rate: 1.6 Tb/s, 800 Gb/s or 400 Gb/s (R419). -/
def Fabric.perByte (f : Fabric) : Nat := if f.portConfig = 0 then 1 else if f.portConfig = 1 then 2 else 4

/-- Whole ns that `n` bytes take at the port rate (R453). -/
def Fabric.nsOf (f : Fabric) (n : Nat) : Nat := ceilDiv (n * f.perByte) 200

/-- The counted length of a frame (R450). -/
def Fabric.counted (f : Fabric) (port len : Nat) : Nat := len + f.overhead.getD port 20

/-! ### Gates (R452 to R455) -/

/-- Offset of a time in its cycle. -/
def GateSched.offset (g : GateSched) (t : Nat) : Nat := (t - g.base) % g.cycle

def GateSched.maskAt (g : GateSched) (t : Nat) : Nat :=
  (((g.entries.filter fun e => decide (e.1 ≤ g.offset t)).getLast?).map (·.2)).getD 15

/-- The next entry boundary after `t`. -/
def GateSched.next (g : GateSched) (t : Nat) : Nat :=
  t - g.offset t + (match g.entries.find? fun e => decide (g.offset t < e.1) with
    | some e => e.1
    | none => g.cycle)

/-- The schedule in force at `t` (R454). -/
def Port.schedAt (x : Port) (t : Nat) : Option GateSched :=
  match x.nextSched with
  | some g => if g.start ≤ t then some g else x.sched
  | none => x.sched

def Port.maskAt (x : Port) (t : Nat) : Nat :=
  match x.schedAt t with
  | some g => g.maskAt t
  | none => 15

/-- The next instant after `t` at which a gate may change. -/
def Port.nextBoundary (x : Port) (t : Nat) : Option Nat :=
  let a := (x.schedAt t).map fun g => g.next t
  match x.nextSched with
  | some g => if t < g.start then some (match a with
      | some b => min b g.start
      | none => g.start) else a
  | none => a

/-- The boundary that has not taken place yet: one at the present instant, or already passed, is due at once (R28, R29). -/
def Port.dueBoundary (x : Port) : Option Nat := x.nextBoundary x.gateDone

/-- The first boundary after `t` at which the gate of a service is closed; none when it stays open (R452). -/
def Port.closing (x : Port) (svc : Nat) : Nat → Nat → Option Nat
  | 0, _ => none
  | n + 1, t => match x.nextBoundary t with
    | none => none
    | some b => if bitAt (x.maskAt b) svc then x.closing svc n b else some b

/-- A frame of `svc` and counted length `len` may start at `at5`, in units of 5 ps (R453, R455). -/
def Dev.gateLets (d : Dev) (c : Clock) (port svc len at5 : Nat) : Bool :=
  let x := d.port port
  let t := at5 / 200
  if c.timeLost then svc != 2
  else (if x.fallback then svc != 2 else bitAt (x.maskAt t) svc) &&
    (match x.closing svc 200 t with
    | some b => decide (at5 + 200 * d.fabric.nsOf len ≤ 200 * b)
    | none => true)

/-! ### Token buckets (R448, R451) -/

def Bucket.refill (b : Bucket) (now : Nat) : Bucket :=
  { b with tokens := min (b.burst * 8000) (b.tokens + b.rate * (now - b.last)), last := now }

def Bucket.holds (b : Bucket) (now len : Nat) : Bool := b.rate == 0 || decide (len * 8000 ≤ (b.refill now).tokens)

def Bucket.take (b : Bucket) (now len : Nat) : Bucket :=
  if b.rate = 0 then b else { b.refill now with tokens := (b.refill now).tokens - len * 8000 }

/-- A bucket starts full when its rate is set (R451). -/
def Bucket.start (rate burst now : Nat) : Bucket := ⟨rate, burst, burst * 8000, now⟩

/-! ### Deficit-weighted round robin (R448) -/

def getKey (l : List (Nat × Nat)) (k : Nat) : Nat := ((l.find? fun e => e.1 == k).map (·.2)).getD 0
def setKey (l : List (Nat × Nat)) (k v : Nat) : List (Nat × Nat) := (k, v) :: l.filter fun e => e.1 != k

/-- Chooses among keys in rising order, each with the length of its head frame: the key at its turn sends while its
deficit covers the frame; then the next key gets its quantum. Keys with nothing to send hold no deficit. -/
def dwrr (elig : List (Nat × Nat)) (quantum : Nat → Nat) : Nat → Nat → List (Nat × Nat) → Option (Nat × List (Nat × Nat))
  | 0, _, _ => none
  | n + 1, turn, df =>
    match elig.find? fun e => e.1 == turn && decide (e.2 ≤ getKey df turn) with
    | some e => some (turn, setKey df turn (getKey df turn - e.2))
    | none =>
      match (elig.find? fun e => decide (turn < e.1)).or elig.head? with
      | none => none
      | some e => dwrr elig quantum n e.1 (setKey df e.1 (getKey df e.1 + quantum e.1))

/-- Deficits of keys that have something to send. -/
def keepKeys (elig df : List (Nat × Nat)) : List (Nat × Nat) := df.filter fun e => elig.any fun k => k.1 == e.1

/-! ### The scheduler (R448) -/

/-- A frame that has to leave before it still waits in the queue: the results, then the completion, then its notification (R320, R326,
R337). -/
def Port.follows (x : Port) (f : Frame) : Bool := (x.queue.takeWhile fun g => g != f).any fun g => f.tie.after g.tie

/-- The head frames of a port's classes; one that follows another that waits does not stand in its class yet (R337; DESIGN CHOICE, log
130), so that polls and completions of other commands go on while a class waits for its gate (R455). -/
def Port.heads (x : Port) : List Frame :=
  x.queue.foldl (fun (l : List Frame) f =>
    if f.urgent || x.follows f || l.any (fun g => g.sub == f.sub && g.service == f.service) then l else l ++ [f]) []

/-- Starts a frame: it leaves its queue, the port is busy until its last byte, and its shaper pays (R448, R450). -/
def Dev.startFrame (d : Dev) (c : Clock) (port at5 : Nat) (f : Frame) : Dev :=
  let len := d.fabric.counted port f.len
  let d := d.modPort port fun x => { x with busy := true, endsAt := at5 + len * d.fabric.perByte, queue := x.queue.erase f }
  let d := if f.urgent then d else d.modSub f.sub fun s => { s with shaper := s.shaper.take c.time len }
  d.emit f.out

/-- Service weights within a subscriber: quanta of 1,024 bytes a unit (DESIGN CHOICE, log 27). -/
def Subscriber.svcWeight (s : Subscriber) (svc : Nat) : Nat :=
  1024 * (if svc = 0 then s.query else if svc = 1 then s.ingest else s.replication)

/-- The service that a subscriber sends next, with its new deficits: admin first. -/
def Dev.pickService (d : Dev) (port sub : Nat) (elig : List Frame) : Option (Frame × List (Nat × Nat)) :=
  let x := d.port port
  match elig.find? fun f => f.service == 3 with
  | some f => some (f, x.svcDeficits)
  | none =>
    let l := sortBy (·.1) (elig.map fun f => (f.service, d.fabric.counted port f.len))
    let mine := keepKeys l ((x.svcDeficits.filter fun e => e.1 / 4 == sub).map fun e => (e.1 % 4, e.2))
    match dwrr l (d.sub sub).svcWeight 64 (getKey x.svcTurn sub) mine with
    | none => none
    | some (s, df) => (elig.find? fun f => f.service == s).map fun f =>
        (f, (x.svcDeficits.filter fun e => e.1 / 4 != sub) ++ df.map fun e => (4 * sub + e.1, e.2))

/-- Chooses and starts the next frame of a port that is up and idle, at `at5` in units of 5 ps (R448, R453). -/
def Dev.kickAt (d : Dev) (c : Clock) (port at5 : Nat) : Dev :=
  let x := d.port port
  if !x.up || x.busy then d else
  match x.queue.find? (·.urgent) with
  | some f => d.startFrame c port at5 f
  | none =>
    let lets := fun (f : Frame) => d.gateLets c port f.service (d.fabric.counted port f.len) at5
    let late := x.heads.filter fun f => !f.waited && !lets f
    let d := d.modPort port fun y =>
      { y with gateWaits := min (y.gateWaits + late.length) 0xFFFFFFFF,
               queue := late.foldl (fun (q : List Frame) f => q.map fun g => if g == f then { g with waited := true } else g) y.queue }
    let heads := (d.port port).heads.filter fun f => lets f &&
      (d.sub f.sub).shaper.holds c.time (d.fabric.counted port f.len)
    let subs := sortBy id (dedupNat (heads.map (·.sub)))
    let picks := subs.filterMap fun s => (d.pickService port s (heads.filter fun f => f.sub == s)).map fun r => (s, r)
    let l := picks.map fun k => (k.1, d.fabric.counted port k.2.1.len)
    match dwrr l (fun s => (d.sub s).weight * 1024) 1024 x.turn (keepKeys l x.deficits) with
    | none => d
    | some (s, df) =>
      match picks.find? fun k => k.1 == s with
      | none => d
      | some (_, f, sd) =>
        (d.modPort port fun y => { y with turn := s, deficits := df, svcTurn := setKey y.svcTurn s f.service,
                                          svcDeficits := sd }).startFrame c port at5 f

def Dev.kick (d : Dev) (c : Clock) (port : Nat) : Dev := d.kickAt c port (200 * c.time)

/-- Every idle port looks for a frame again. -/
def Dev.kickAll (d : Dev) (c : Clock) : Dev := (List.range 16).foldl (fun (d : Dev) i => d.kick c i) d

/-- Hands a frame to a port; it is sent at once on an idle port that lets it. A port that is down sends nothing. -/
def Dev.sendFrame (d : Dev) (c : Clock) (port : Nat) (f : Frame) : Dev :=
  if (d.port port).up then (d.modPort port fun x => { x with queue := x.queue ++ [f] }).kick c port else d

/-! ### The transport (R423, R431 to R433) -/

def Fabric.peer? (f : Fabric) (id : Nat) (isModule : Bool) : Option Peer :=
  f.cfg.peers.find? fun k => k.id == id && k.isModule == isModule

/-- The port of a flow: by a hash among the eligible ports; while that one is down, by the hash among those that are up, so that only its
flows move (R423, log 25). -/
def Fabric.flowPort (f : Fabric) (flow : Nat) (k : Peer) : Option Nat :=
  let pick := fun (l : List Nat) => l[Config.flowHash flow % max 1 l.length]?
  let l := (List.range f.portCount).filter (bitAt k.ports)
  let up := fun (i : Nat) => (f.ports.getD i Port.reset).up
  ((pick l).filter up).or (pick (l.filter up))

/-- Bytes of a transport frame from destination address to FCS (R431). -/
def Fabric.frameLen (f : Fabric) (payload : Nat) (keyed : Bool) : Nat :=
  max 64 (14 + (if f.cfg.vlan = 0 then 0 else 4) + 40 + 8 + 32 + payload + (if keyed then 16 else 0) + 4)

/-- Takes the partition's next SEQUENCE; the durable mark goes ahead of it in steps of 2^24 (R433). -/
def Dev.nextSequence (d : Dev) (p : Nat) : Dev × Nat :=
  let t := d.transport p
  (d.modTransport p fun t => { t with seq := t.seq + 1, mark := if t.mark ≤ t.seq then t.seq / 2 ^ 24 * 2 ^ 24 + 2 ^ 24 else t.mark },
   t.seq)

/-- The transport header of a packet that partition `p` sends (R432). -/
def Dev.header (d : Dev) (p type : Nat) (keyed : Bool) (svc len seq : Nat) : Bytes :=
  le 1 (1 + 16 * type) ++ le 1 (b2n keyed + 2 * svc) ++ le 1 p ++ zeros 1 ++ le 2 (d.fabric.cfg.moduleNumber * 64 + p) ++
  le 2 len ++ le 4 d.comp.epoch ++ zeros 4 ++ le 8 seq ++ zeros 8

/-- Sends a packet with this header to a peer; with no eligible port up the peer is unreachable and the packet is lost
(R423, log 25). Frames of one connection take one port (R337). -/
def Dev.sendTo (d : Dev) (c : Clock) (sub flow : Nat) (tie : Tie) (svc : Nat) (k : Peer) (keyed : Bool) (len : Nat) (out : Nat → Output) : Dev :=
  match d.fabric.flowPort flow k with
  | none => d
  | some port => d.sendFrame c port ⟨false, sub, svc, d.fabric.frameLen len keyed, false, out port, tie⟩

/-- Sends a transport packet of a partition to a peer, with the flow it goes with (R431 to R433). -/
def Dev.sendPacketOn (d : Dev) (c : Clock) (p type : Nat) (keyed : Bool) (svc peer : Nat) (isModule : Bool) (flow : Nat) (tie : Tie)
    (payload : Bytes) : Dev :=
  match d.fabric.peer? peer isModule with
  | none => d
  | some k =>
    let n := d.nextSequence p
    let hdr := n.1.header p type keyed svc payload.length n.2
    n.1.sendTo c p flow tie svc k keyed payload.length fun port => .packet port peer hdr payload

def Dev.sendPacket (d : Dev) (c : Clock) (p type : Nat) (keyed : Bool) (svc peer : Nat) (isModule : Bool) (payload : Bytes) : Dev :=
  d.sendPacketOn c p type keyed svc peer isModule p .free payload

/-! ### Host memory (R320, R336, R438) -/

/-- At most 16 READs are outstanding on a queue pair: a further one waits behind those that wait (R438). -/
def Roce.mayIssue (x : Roce) (o : RoceOut) : Bool :=
  !o.isRead || (x.held.isEmpty && decide ((x.outstanding.filter (·.isRead)).length < 16))

/-- An RDMA packet of a remote ring set goes out, in the service class of its command, and is outstanding (R436, R438, R448). -/
def Dev.issueRdma (d : Dev) (c : Clock) (rs : RsId) (k : Peer) (o : RoceOut) : Dev :=
  let d := (d.nextSequence rs.partNo).1.modRing rs fun x =>
    { x with roce := { x.roce with outstanding := x.roce.outstanding ++ [o], sentAt := c.time } }
  d.sendTo c rs.partNo (d.ring rs).regs.localQpn o.tie o.svc k true o.len fun _ => o.out

def Dev.sendRdma (d : Dev) (c : Clock) (rs : RsId) (o : RoceOut) : Dev :=
  match d.fabric.peer? (d.ring rs).regs.peerId false with
  | none => d
  | some k =>
    if (d.ring rs).roce.mayIssue o then d.issueRdma c rs k o
    else d.modRing rs fun x => { x with roce := { x.roce with held := x.roce.held ++ [o] } }

/-- READs that waited go out while fewer than 16 are outstanding (R438). -/
def Dev.issueHeld (d : Dev) (c : Clock) (rs : RsId) : Nat → Dev
  | 0 => d
  | n + 1 =>
    match (d.ring rs).roce.held with
    | [] => d
    | o :: l =>
      let d' := d.modRing rs fun x => { x with roce := { x.roce with held := [] } }
      if (d'.ring rs).roce.mayIssue o then
        ((d'.sendRdma c rs o).modRing rs fun x => { x with roce := { x.roce with held := l } }).issueHeld c rs n
      else d

/-- Writes bytes to the memory of a ring set's owner: over PCI Express, or by RDMA WRITEs of at most 4,096 bytes to PEER_QPN under RKEY
(R336, R438). -/
def Dev.writeHost (d : Dev) (c : Clock) (rs : RsId) (tie : Tie) (svc addr : Nat) (b : Bytes) : Dev :=
  let g := (d.ring rs).regs
  if g.remote then
    (indexed (chunks 4096 b)).foldl (fun d k =>
      d.sendRdma c rs ⟨svc, 12 + 16 + k.2.length, .rdmaWrite rs g.peerQpn g.rkey (addr + 4096 * k.1) k.2, tie⟩) d
  else d.emit (.hostWrite rs addr b)

/-- Asks for bytes of the memory of a ring set's owner (R323, R317): an RDMA READ request for a remote one. -/
def Dev.readHost (d : Dev) (c : Clock) (rs : RsId) (svc addr len : Nat) : Dev :=
  let g := (d.ring rs).regs
  if g.remote then d.sendRdma c rs ⟨svc, 12 + 16, .rdmaRead rs g.peerQpn g.rkey addr len, .free⟩ else d.emit (.hostRead rs addr len)

end Sys2Proof.Machine
end

