-- ==== Sys2Proof/Machine/FlashCore.lean ====
section
/-! DEFINITION. Acceptance, stripes, map rebuild, discard and reclaim of the flash (R272 to R303). -/

namespace Sys2Proof.Machine

def sideBit : Nat := 2 ^ 39
def pageBytes : Nat := 16384

/-- Assoc-list map entry (R273). -/
def mapGet (m : List (Nat × Nat)) (lpn : Nat) : Option Nat := (m.find? fun e => e.1 == lpn).map (·.2)
def mapSet (m : List (Nat × Nat)) (lpn seq : Nat) : List (Nat × Nat) := (lpn, seq) :: m.filter fun e => e.1 != lpn
def mapDel (m : List (Nat × Nat)) (lpn : Nat) : List (Nat × Nat) := m.filter fun e => e.1 != lpn

/-- Extent owners (R274): an object's first window; the vector packs of an index, the journal, the document packs of an index, the metadata
pages, and the image segments of an index's ranges and of its handle directory. -/
def ownerVector (index : Nat) : Nat := 2 ^ 16 + index
def ownerJournal : Nat := 2 ^ 17
def ownerDocs (index : Nat) : Nat := 2 ^ 17 + 1 + index
def ownerMeta : Nat := 2 ^ 18
def ownerImage (index : Nat) : Nat := 2 ^ 18 + 1 + index
def ownerDir (index : Nat) : Nat := 2 ^ 18 + 17 + index

/-! ### NAND dies, superblocks and their places (R264, R282, R302) -/

/-- The chip-enable line and the LUN that select a die of a channel: LUN n mod 4 of target n / 4 (R264). -/
def dieTarget (n : Nat) : Nat := n / 4
def dieLun (n : Nat) : Nat := n % 4

/-- The sixteen of F0 to F63 that a superblock's channels are (R264, R282). -/
def Super.sixteen (s : Super) : Nat := 2 * s.side + s.group

/-- Bits that an LPN sets in a superblock's filter (R302; the hash is open, log 120). -/
def lpnBits (lpn : Nat) : List Nat := (Config.filterBits lpn).map (· % 4096)

/-- The filter holds an LPN, or may: it never misses one that was inserted. -/
def Super.tests (s : Super) (lpn : Nat) : Bool := (lpnBits lpn).all s.filter.contains
def Super.insert (s : Super) (lpn : Nat) : Super := { s with filter := s.filter ++ (lpnBits lpn).filter fun b => !s.filter.contains b }

namespace Flash

def lost (f : Flash) (side : Nat) : Bool := if side = 0 then f.lost0 else f.lost1

/-- Pages of a block, which are the stripes of a superblock (R282). -/
def blockPages (f : Flash) : Nat := f.geom.superPages / 64

def superOf (f : Flash) (sb : Nat) : Option Super := f.supers.find? fun s => s.id == sb

/-- The sixteen channels of a page's stripe group. -/
def groupOf (f : Flash) (side sb : Nat) : Nat := ((f.superOf sb).map Super.sixteen).getD (2 * side)

/-- The die number that a superblock takes on each channel of its group (R282). -/
def dieOf (f : Flash) (sb : Nat) : Nat := ((f.superOf sb).map (·.die)).getD 0

/-- Stripes that a superblock holds. -/
def stripesIn (f : Flash) (sb : Nat) : Nat := (f.stripes.filter fun k => k.super == sb).length

/-- Channels of a sixteen that are retired, as positions in it (R284). -/
def lostMembers (f : Flash) (sixteen : Nat) : List Nat := (f.lostCh.filter fun c => c / 16 == sixteen).map (· % 16)

/-- Places of a stripe that hold data: on each of four planes 15 die positions, or 14 in a group that has lost a channel (R282, R284). -/
def places (f : Flash) (id sixteen : Nat) : List Nat :=
  ((List.range 16).filter fun m => m != id % 16 && !(f.lostMembers sixteen).contains m).flatMap fun m => (List.range 4).map (4 * m + ·)

/-- A new superblock: a die number in use in its group, and the lowest block of it that is free and sound (R282; the group and the die
number are free values, log 75). -/
def newSuper (f : Flash) (part side : Nat) : Super :=
  let v := Config.superPlace f.nextSuper
  let group := v % 2
  let sound := (List.range f.geom.dies).filter fun n => !(f.lostDies.any fun k => k / 256 == 2 * side + group && k % 16 == n)
  let die := sound.getD (v / 2 % max 1 sound.length) 0
  let used := (f.supers.filter fun s => s.side == side && s.group == group && s.die == die).map (·.block) ++
    (f.badBlocks.filter fun b => b.1 / 16 == 2 * side + group && b.2.1 == die).map (·.2.2)
  { id := f.nextSuper, side := side, part := part, erases := 0, group := group, die := die,
    block := ((List.range (used.length + 1)).find? fun b => !used.contains b).getD 0, filter := [] }

/-- The open superblock of an owner and side, opening a new one when the last is full or has lost a member (R282). -/
def openSuper (f : Flash) (part side : Nat) : Flash × Nat :=
  match f.supers.find? fun s => s.part == part && s.side == side && !f.hurt.contains s.id && decide (f.stripesIn s.id < f.blockPages) with
  | some s => (f, s.id)
  | none => ({ f with supers := f.supers ++ [f.newSuper part side], nextSuper := f.nextSuper + 1 }, f.nextSuper)

/-- The next stripe number whose parity has a channel to stand on (R282, R284). -/
def stripeNo (f : Flash) (sixteen : Nat) : Nat :=
  (((List.range 16).map (f.nextStripe + ·)).find? fun n => !(f.lostMembers sixteen).contains (n % 16)).getD f.nextStripe

/-- The open stripe of an owner and side, for accepted pages or for the groomer's copies (R283). -/
def openStripe (f : Flash) (part side now : Nat) (copies : Bool) : Flash × Nat × Nat :=
  match f.stripes.find? fun s => s.part == part && s.side == side && s.isOpen && s.copies == copies with
  | some s => (f, s.id, s.super)
  | none =>
    let r := f.openSuper part side
    let id := r.1.stripeNo (r.1.groupOf side r.2)
    ({ r.1 with stripes := r.1.stripes ++ [{ id := id, side := side, part := part, super := r.2, openedAt := now, isOpen := true,
                                             durable := false, pads := [], page := r.1.stripesIn r.2, copies := copies }],
                nextStripe := id + 1 }, id, r.2)

/-- Places of a stripe that no page has taken. -/
def freePlaces (f : Flash) (id sixteen : Nat) : List Nat :=
  (f.places id sixteen).filter fun k => !(f.pages.any fun p => p.stripe == id && p.pos == k)

/-- Closes a stripe, with pad pages in its free places (R283). -/
def closeStripe (f : Flash) (id : Nat) : Flash :=
  let close := fun (s : Stripe) => ({ s with isOpen := false, pads := f.freePlaces id (f.groupOf s.side s.super) } : Stripe)
  { f with stripes := modIf (fun s => s.id == id && s.isOpen) close f.stripes }

/-- The flash of a partition is used on a side (R296). -/
def touch (f : Flash) (part side now : Nat) : Flash :=
  { f with active := (part, side, now) :: f.active.filter fun e => !(e.1 == part && e.2.1 == side) }

/-- When the flash of a partition was last used on a side. -/
def lastUse (f : Flash) (part side : Nat) : Option Nat := (f.active.find? fun e => e.1 == part && e.2.1 == side).map (·.2.2)

/-- A page of an accepted write counts for the pacing of the next one (R297). -/
def pace (f : Flash) (part side now : Nat) : Flash :=
  let old := f.paced.find? fun e => e.part == part && e.side == side && e.time == now
  { f with paced := ⟨part, side, now, ((old.map (·.pages)).getD 0) + 1⟩ :: f.paced.filter fun e => !(e.part == part && e.side == side) }

/-- Puts a page version into the open stripe of its owner, and closes that when it is full; the superblock's filter takes its LPN, a trim's
apart (R282, R283, R302). -/
def place (f : Flash) (now : Nat) (copies : Bool) (p : FPage) : Flash :=
  let r := f.openStripe p.owner p.side now copies
  let f := r.1
  let free := f.freePlaces r.2.1 (f.groupOf p.side r.2.2)
  let p : FPage := { p with stripe := r.2.1, super := r.2.2, pos := free.headD 0 }
  let f : Flash := { f with pages := f.pages ++ [p],
                            supers := modIf (fun s => s.id == p.super && p.pack != .trim) (fun s => s.insert p.lpn) f.supers }
  let f := if copies then f else (f.touch p.owner p.side now).pace p.owner p.side now
  if free.length ≤ 1 then f.closeStripe r.2.1 else f

/-- The lowest free slot of the write buffer (R273, R291). -/
def freeSlot (f : Flash) : Nat :=
  let used := (f.pages.filter (·.buffered)).map (·.slot)
  ((List.range (used.length + 1)).find? fun n => !used.contains n).getD 0

/-- Accepts one logical page version (R281, R285, R286, R291): one SEQUENCE, one slot of the write buffer, one copy per side its class
requires, each with the same content. A module page carries no partition (R280). -/
def accept (f : Flash) (now part keyGen : Nat) (pack : Pack) (dual : Bool) (side lpn bytes aFirst aPages : Nat)
    (isModule : Bool) (body : PageBody) : Flash :=
  let s := f.nextSeq
  let slot := f.freeSlot
  let mk := fun (sd n : Nat) =>
    ({ lpn := lpn + sd * sideBit, part := if isModule then 0 else part, isModule := isModule, pack := pack, dual := dual, slc := false,
       keyGen := if isModule then 0 else keyGen, seq := s, atomicFirst := if aFirst = 0 then s else aFirst, atomicPages := aPages,
       trimPages := 0, buffered := true, stripe := 0, super := 0, pos := 0, slot := slot, stale := false, crcOk := true, bytes := n,
       body := body } : FPage)
  let f := { f with nextSeq := s + 1 }
  let put := fun (f : Flash) (sd n : Nat) =>
    let f := f.place now false (mk sd n)
    { f with map := mapSet f.map (lpn + sd * sideBit) s }
  if dual then
    if f.lost0 then put f 1 bytes else if f.lost1 then put f 0 bytes else put (put f 0 bytes) 1 0
  else put f side bytes

/-! ### The map (R273) -/

/-- The page that the map names for an LPN: of equal pages the one that is not stale (R273, R281, R290). -/
def named (f : Flash) (p : FPage) : Bool := !p.stale && mapGet f.map p.lpn == some p.seq
def pageAt (f : Flash) (lpn : Nat) : Option FPage := f.pages.find? fun p => p.lpn == lpn && f.named p

/-- The 5-byte map entry of an LPN: the slot of the write buffer with BUFFERED, or CHANNEL, DIE, PLANE and PAGE; all ones when it is
unmapped. -/
def mapEntry (f : Flash) (lpn : Nat) : Nat :=
  match f.pageAt lpn with
  | none => 2 ^ 40 - 1
  | some p =>
    if p.buffered then 2 ^ 39 + p.slot else
    let s := f.superOf p.super
    let index := ((f.stripes.find? fun k => k.id == p.stripe).map (·.page)).getD 0
    16 * ((s.map (·.group)).getD 0) + p.pos / 4 + 2 ^ 6 * ((s.map (·.die)).getD 0) + 2 ^ 10 * (p.pos % 4) +
    2 ^ 12 * (((s.map (·.block)).getD 0) * f.blockPages + index)

/-- The flash map: one entry for each LPN that is mapped, the side's own in its own module channels (R252, R273). -/
def entries (f : Flash) (side : Nat) : List (Nat × Nat) :=
  (f.map.filter fun e => e.1 / sideBit == side).map fun e => (e.1, f.mapEntry e.1)

/-- The LPN, without its side bit, of page `n` of an owner, where its extent is allotted (R272, R274). -/
def lpn? (f : Flash) (part owner n : Nat) : Option Nat :=
  (f.extents.find? fun e => e.part == part && e.owner == owner && e.index == n / 65536).map
    fun e => e.num * 65536 + n % 65536

/-- Content of the version of page `n` of an owner that the map names, the newer of its copies; blank when there is none. -/
def bodyOf (f : Flash) (part owner n : Nat) : PageBody :=
  match f.lpn? part owner n with
  | none => .blank
  | some l =>
    match f.pageAt l, f.pageAt (l + sideBit) with
    | some a, some b => if a.seq < b.seq then b.body else a.body
    | some a, none => a.body
    | none, some b => b.body
    | none, none => .blank

/-! ### Extents (R272, R274) -/

/-- An extent of an owner by its position, allotted at its first use. -/
def allot (f : Flash) (part owner i : Nat) : Flash × Nat :=
  match f.extents.find? fun e => e.part == part && e.owner == owner && e.index == i with
  | some e => (f, e.num)
  | none => ({ f with extents := f.extents ++ [⟨part, owner, f.nextExtent, i⟩], nextExtent := f.nextExtent + 1 }, f.nextExtent)

/-- Entries of a partition's extent list from number `first` on, 16 bytes each, at most 1,000 (their layout is a DESIGN CHOICE, log 121). -/
def extentList (f : Flash) (part first : Nat) : Bytes :=
  (((f.extents.filter fun e => e.part == part).drop first).take 1000).flatMap fun e => le 4 e.owner ++ le 4 e.index ++ le 8 e.num

/-- Metadata pages that a partition's extent list takes, after page 0. -/
def metaPages (f : Flash) (part : Nat) : Nat := ceilDiv (f.extents.filter fun e => e.part == part).length 1000

/-- Accepts versions of metadata pages of a partition, from page `first` on, as one atomic group: dual-copy pages of the module (R274, R278,
R280, R288, R403, R404). -/
def acceptMeta (f : Flash) (now part first : Nat) (pages : List Bytes) : Flash :=
  let base := f.nextSeq
  (indexed pages).foldl (fun (f : Flash) b =>
    let r := f.allot part ownerMeta 0
    r.1.accept now 0 0 .metadata true 0 (r.2 * 65536 + first + b.1) b.2.length base pages.length true ⟨b.2, [], 0, 0⟩) f

/-- What begins every metadata page of a partition: its wrapped-key record and its number (R403), as page 0 has them. -/
def metaHead (f : Flash) (part : Nat) : Bytes := fit 132 ((f.bodyOf part ownerMeta 0).data)

/-- The extent number of page `n` of an owner; at an allotment the extent list in the partition's metadata pages, which begins at their page
1, gets a version that holds it (R274). -/
def extentOf (f : Flash) (now part owner n : Nat) : Flash × Nat :=
  let i := n / 65536
  if f.extents.any fun e => e.part == part && e.owner == owner && e.index == i then f.allot part owner i
  else
    let r := f.allot part owner i
    let page := r.1.metaPages part
    (r.1.acceptMeta now part page [r.1.metaHead part ++ r.1.extentList part (1000 * (page - 1))], r.2)

/-- The LPN, without its side bit, of page `n` of an owner (R272, R274). -/
def lpnOf (f : Flash) (now part owner n : Nat) : Flash × Nat :=
  let r := f.extentOf now part owner n
  (r.1, r.2 * 65536 + n % 65536)

/-- Accepts the object pages of an atomic write, in order, each with the bytes it counts and its data (R347): the group carries its
first SEQUENCE. Their extents are there before the first of them. -/
def acceptGroup (f : Flash) (now part keyGen : Nat) (dual : Bool) (side owner : Nat) (first : Nat)
    (pages : List (Nat × Bytes)) : Flash :=
  let f := (indexed pages).foldl (fun (f : Flash) p => (f.lpnOf now part owner (first + p.1)).1) f
  let base := f.nextSeq
  (indexed pages).foldl (fun (f : Flash) p =>
    let r := f.lpnOf now part owner (first + p.1)
    r.1.accept now part keyGen .object dual side r.2 p.2.1 base pages.length false ⟨p.2.2, [], 0, 0⟩) f

/-- Accepts pages of an owner that are written alone: page number, bytes it counts, content (R280, R281). -/
def acceptPages (f : Flash) (now part keyGen : Nat) (pack : Pack) (dual : Bool) (side owner : Nat)
    (pages : List (Nat × Nat × PageBody)) : Flash :=
  pages.foldl (fun (f : Flash) p =>
    let r := f.lpnOf now part owner p.1
    r.1.accept now part keyGen pack dual side r.2 p.2.1 0 1 false p.2.2) f

/-! ### The write buffer and durability (R283, R291, R292) -/

/-- Unflushed bytes of a partition, or of the module (R292): accepted and not yet durable. -/
def unflushed (f : Flash) (part : Option Nat) : Nat :=
  sumNat (·.bytes) (f.pages.filter fun p => p.buffered && (match part with
    | some q => p.part == q && !p.isModule
    | none => true))

/-- Every page of a closed stripe becomes durable; a page leaves the write buffer when every copy its class requires
is durable (R283, R285). -/
def stripeDone (f : Flash) (id : Nat) : Flash :=
  let st := modIf (fun s => s.id == id && !s.isOpen) (fun s => { s with durable := true }) f.stripes
  let done := fun (p : FPage) => !p.buffered || st.any fun s => s.id == p.stripe && s.durable
  let all := fun (p : FPage) => f.pages.all fun q => !(q.seq == p.seq && q.owner == p.owner) || done q
  { f with stripes := st,
           pages := f.pages.map fun p => if p.buffered && done p && all p then { p with buffered := false } else p }

/-- Closes every open stripe of an owner and makes its pages durable; answers the bytes made durable (R346). -/
def flushPart (f : Flash) (part : Nat) : Flash × Nat :=
  let before := f.unflushed (some part)
  let ids := (f.stripes.filter fun s => s.part == part && !s.durable).map (·.id)
  let f := ids.foldl (fun f i => (f.closeStripe i).stripeDone i) f
  (f, before - f.unflushed (some part))

/-! ### Capacity (R287) -/

/-- Logical pages mapped on a side, of one partition or of all. -/
def usedPages (f : Flash) (part side : Nat) : Nat :=
  (f.map.filter fun e => e.1 / sideBit == side && f.pages.any fun p => p.lpn == e.1 && p.seq == e.2 && p.part == part && !p.isModule).length
def usedSide (f : Flash) (side : Nat) : Nat := (f.map.filter fun e => e.1 / sideBit == side).length

/-- The logical share of an allotment of superblocks: less parity and over-provisioning (R287). -/
def shareOf (f : Flash) (supers : Nat) : Nat := supers * f.geom.superPages * 15 / 16 * 93 / 100

/-- The logical capacity of a side in pages: raw less stripe parity, the SLC region and over-provisioning (R287; the SLC region's part of raw,
that of the rated 128 TB, is a DESIGN CHOICE, log 122). -/
def sideShare (f : Flash) : Nat := (f.geom.raw / 2 * 15 / 16 - f.geom.raw * 3 / 1280) * 93 / 100 / pageBytes

/-- Room for `n` new pages of a class (R287). -/
def fits (f : Flash) (part a0 a1 n : Nat) (dual : Bool) (side : Nat) : Bool :=
  let ok := fun (sd : Nat) => f.lost sd ||
    (decide (f.usedPages part sd + n ≤ f.shareOf (if sd = 0 then a0 else a1)) && decide (f.usedSide sd + n ≤ f.sideShare))
  if dual then ok 0 && ok 1 else ok side

/-- Pages of an owner in a range that no map entry names yet on its side, or on a side that stands (R287). -/
def unmapped (f : Flash) (part owner first n : Nat) (single : Bool) (side : Nat) : Nat :=
  let sd := if single then side else b2n f.lost0
  ((List.range n).filter fun i => match f.lpn? part owner (first + i) with
    | none => true
    | some l => (mapGet f.map (l + sd * sideBit)).isNone).length

/-! ### Trims (R300) -/

/-- Runs of consecutive numbers, each as its first and its length. -/
def runsOf : List Nat → List (Nat × Nat)
  | [] => []
  | a :: l => match runsOf l with
    | (b, n) :: rest => if b = a + 1 then (a, n + 1) :: rest else (a, 1) :: (b, n) :: rest
    | [] => [(a, 1)]

/-- Accepts one trim page on each side for a run of LPNs, each with its own SEQUENCE. -/
def acceptTrim (f : Flash) (now part keyGen l n : Nat) : Flash :=
  [0, 1].foldl (fun f sd =>
    if f.lost sd then f else
    let f' : Flash := { f with nextSeq := f.nextSeq + 1 }
    f'.place now false
      { lpn := l + sd * sideBit, part := part, isModule := false, pack := .trim, dual := true, slc := false, keyGen := keyGen,
        seq := f.nextSeq, atomicFirst := f.nextSeq, atomicPages := 1, trimPages := n, buffered := true, stripe := 0, super := 0, pos := 0,
        slot := f.freeSlot, stale := false, crcOk := true, bytes := 0, body := .none }) f

/-- Trims a run of pages of an owner (R300): unmaps each side and accepts one trim page a side, for each run of consecutive LPNs where
extents break the range (log 123). -/
def trim (f : Flash) (now part keyGen owner first n : Nat) : Flash × Nat :=
  let lpns := (List.range n).filterMap fun i => f.lpn? part owner (first + i)
  let gone := lpns.filter fun l => (mapGet f.map l).isSome || (mapGet f.map (l + sideBit)).isSome
  let m := lpns.foldl (fun m l => mapDel (mapDel m l) (l + sideBit)) f.map
  let f : Flash := { f with map := m }
  ((runsOf lpns).foldl (fun (f : Flash) r => f.acceptTrim now part keyGen r.1 r.2) f, gone.length)

/-! ### Which copies can be read (R25, R261, R270, R284, R286, R291) -/

/-- The version that the map names stood in a stripe that has lost two members (R270, R284). -/
def bad (f : Flash) (lpn : Nat) : Bool := f.dead.any fun v => v.1 == lpn && mapGet f.map lpn == some v.2

/-- The version that the map names stands in the write buffer: a read of it is served from there (R291). -/
def inBuffer (f : Flash) (lpn : Nat) : Bool := (f.pageAt lpn).any (·.buffered)

/-- A copy that can be read: from the write buffer, or its side is alive and its stripe can be read or made good (R270, R286, R291). -/
def goodCopy (f : Flash) (lpn : Nat) : Bool := f.inBuffer lpn || (!f.lost (lpn / sideBit) && !f.bad lpn)

/-- The copy of page `n` of an owner on a side is not known to be unreadable (R100, R270). -/
def sound (f : Flash) (part owner n side : Nat) : Bool := match f.lpn? part owner n with
  | some l => f.inBuffer (l + side * sideBit) || !f.bad (l + side * sideBit)
  | none => true

/-- Page `n` of an owner stands in the write buffer on a side. -/
def buffered (f : Flash) (part owner n side : Nat) : Bool := (f.lpn? part owner n).any fun l => f.inBuffer (l + side * sideBit)

/-- The copy of a version that a read may use. A page of a single-copy owner behind a lost storage die is unreachable. -/
def readable (f : Flash) (part owner n : Nat) (dual : Bool) (side : Nat) : Bool :=
  match f.lpn? part owner n with
  | none => true
  | some l =>
    let have_ := fun (sd : Nat) => (mapGet f.map (l + sd * sideBit)).isSome
    let good := fun (sd : Nat) => have_ sd && f.goodCopy (l + sd * sideBit)
    if have_ 0 || have_ 1 then (if dual then good 0 || good 1 else good side) else dual || !f.lost side

/-- The module channel, of `n` of its side, that holds an LPN's map entry (R252; which one is a DESIGN CHOICE, log 127). -/
def entryPlace (lpn n : Nat) : Nat := lpn % max 1 n

/-- The map entry of page `n` of an owner on a side lay on a lost channel and is not rebuilt yet (R261); a page in the write buffer has
its entry. -/
def entryLost (f : Flash) (part owner n side : Nat) : Bool :=
  (f.lpn? part owner n).any fun l => !f.inBuffer (l + side * sideBit) &&
    f.entriesLost.any fun e => e.1 == side && entryPlace l e.2.2 == e.2.1

/-- A read of page `n` of an owner waits until the map scan has rebuilt the entry that it needs (R261). -/
def waits (f : Flash) (part owner n : Nat) (dual : Bool) (side : Nat) : Bool :=
  let one := fun (sd : Nat) => f.lost sd || f.entryLost part owner n sd
  if dual then one 0 && one 1 && (f.entryLost part owner n 0 || f.entryLost part owner n 1) else f.entryLost part owner n side

/-! ### Transfers (R269) -/

/-- A read transfers only the codewords it needs. -/
def transfer (f : Flash) (n : Nat) : Flash := { f with moved := f.moved + n }

/-- A read of `len` bytes from data byte `off` of page `n` of an owner: the codewords that hold them, none from a page that stands in the
write buffer or is unmapped (R249, R269, R291). -/
def readCodewords (f : Flash) (now part owner n off len : Nat) : Flash :=
  let stands := fun (l : Nat) => !f.lost (l / sideBit) && (f.pageAt l).any fun p => !p.buffered
  match f.lpn? part owner n with
  | none => f
  | some l =>
    if len = 0 then f
    else if stands l then (f.transfer ((off + len - 1) / 2048 - off / 2048 + 1)).touch part 0 now
    else if stands (l + sideBit) then (f.transfer ((off + len - 1) / 2048 - off / 2048 + 1)).touch part 1 now
    else f

/-- A read of `len` bytes from byte `off` of an owner's pages. -/
def readRun (f : Flash) (now part owner off len : Nat) : Flash :=
  if len = 0 then f else
  (List.range ((off + len - 1) / pageBytes - off / pageBytes + 1)).foldl (fun (f : Flash) i =>
    let n := off / pageBytes + i
    let lo := max off (n * pageBytes)
    f.readCodewords now part owner n (lo - n * pageBytes) (min (off + len) ((n + 1) * pageBytes) - lo)) f

/-! ### Rebuilding the map (R303) -/

/-- The next of `best` under `offer` of R303: higher SEQUENCE wins, then the SLC copy. -/
def offer (best : List FPage) (h : FPage) : List FPage :=
  match best.find? fun b => b.lpn == h.lpn with
  | none => h :: best
  | some b =>
    if b.seq < h.seq ∨ (b.seq = h.seq ∧ h.slc ∧ !b.slc) then h :: best.filter fun x => x.lpn != h.lpn else best

/-- The headers that a scan finds: programmed to their end, on a side that can be read (R303). -/
def found_ (f : Flash) : List FPage := f.pages.filter fun h => !h.buffered && h.crcOk && !f.lost h.side

/-- The map rebuild of R303 over every programmed page; `gen` gives each partition's current key generation. -/
def rebuild (f : Flash) (gens : List Nat) : List FPage :=
  let live := f.found_.filter fun h => (h.isModule || h.keyGen == gens.getD h.part 0) && h.pack != .parity && h.pack != .pad
  let trims := live.filter fun h => h.pack == .trim
  let data := live.filter fun h => h.pack != .trim
  let alone := data.filter fun h => decide (h.atomicPages ≤ 1)
  let grouped := data.filter fun h => decide (1 < h.atomicPages)
  -- every page of the group on every live side that its class requires
  let whole := fun (h : FPage) => [0, 1].all fun sd =>
    f.lost sd || (!h.dual && sd != h.side) ||
    (List.range h.atomicPages).all fun i => grouped.any fun q =>
      q.atomicFirst == h.atomicFirst && q.side == sd && q.seq == h.atomicFirst + i
  let best := (alone ++ grouped.filter whole).foldl offer []
  best.filter fun b => !(trims.any fun t =>
    decide (t.lpn ≤ b.lpn) && decide (b.lpn < t.lpn + t.trimPages) && decide (b.seq < t.seq))

/-- The map, the LPN filters and the next SEQUENCE after a rebuild, which transfers one header codeword a page; of equal pages the map
names one (R269, R281, R303). -/
def rebuilt (f : Flash) (gens : List Nat) : Flash :=
  let best := f.rebuild gens
  let stale := fun (p : FPage) => (!p.isModule && p.keyGen != gens.getD p.part 0) ||
    best.any fun b => b.lpn == p.lpn && b.seq == p.seq && !(b.stripe == p.stripe && b.pos == p.pos)
  let filter := fun (s : Super) => f.found_.foldl (fun (s : Super) p => if p.super = s.id ∧ p.pack ≠ .trim then s.insert p.lpn else s) { s with filter := [] }
  { f with moved := f.moved + (f.pages.filter fun p => !p.buffered && !f.lost p.side).length,
           map := best.map fun h => (h.lpn, h.seq),
           pages := f.pages.map fun p => if p.buffered then p else { p with stale := stale p },
           supers := f.supers.map fun s => if f.lost s.side then s else filter s,
           nextSeq := f.found_.foldl (fun m h => max m (h.seq + 1)) 1 }

/-! ### Power loss (R294, R295, R304) -/

/-- Pages of stripes of copies that were not programmed to their end: their originals stand. -/
def dropCopies (f : Flash) : Flash :=
  let undone := f.pages.filter fun p => !p.buffered && f.stripes.any fun s => s.id == p.stripe && s.copies && !s.durable
  { f with pages := (f.pages.filter fun p => !(undone.any fun q => q.stripe == p.stripe && q.pos == p.pos && p.stripe != 0)).map fun p =>
             if undone.any fun q => q.lpn == p.lpn && q.seq == p.seq then { p with stale := false } else p,
           relocs := [] }

/-- Every unflushed page is written to the SLC region on hold-up power, with its own header and no stripe (R294). Programs in progress are
reset: stripes that were not durable hold nothing, and relocations end. Behind a storage die that is lost nothing is written; where the
supply of the NAND fails, the program does not complete (R295). -/
def toSlc (f : Flash) : Flash :=
  let f := f.dropCopies
  { f with pages := (f.pages.filter fun p => !(p.buffered && f.lost p.side)).map fun p =>
             if p.buffered then { p with buffered := false, slc := true, stripe := 0, super := 0, pos := 0, crcOk := !f.nandOff.contains p.side } else p,
           stripes := f.stripes.map fun s => { s with isOpen := false, durable := true } }

/-- DRAM is lost with pages still in the write buffer: they are lost, and so are copies that were not programmed to their end (R295,
R477). -/
def loseBuffer (f : Flash) : Flash :=
  let f := f.dropCopies
  { f with pages := f.pages.filter fun p => !p.buffered, stripes := f.stripes.map fun s => { s with isOpen := false, durable := true } }

/-- A page that the map names, or a trim still needed (R300). -/
def livePage (f : Flash) (p : FPage) : Bool :=
  f.named p ||
  (p.pack == .trim && !p.stale && f.pages.any fun q => q.pack != .trim && decide (p.lpn ≤ q.lpn) &&
    decide (q.lpn < p.lpn + p.trimPages) && decide (q.seq < p.seq))

def liveIn (f : Flash) (sb : Nat) : Nat := (f.pages.filter fun p => p.super == sb && f.livePage p).length

/-- Closes the stripes of copies of an owner and side, which are programmed to their end. -/
def closeCopies (f : Flash) (owner side : Nat) : Flash :=
  ((f.stripes.filter fun s => s.part == owner && s.side == side && s.copies && !s.durable).map (·.id)).foldl
    (fun f i => (f.closeStripe i).stripeDone i) f

/-- SLC pages that the map names, and trims still needed, are reprogrammed into normal stripes; then the region is erased (R304). -/
def fromSlc (f : Flash) (now : Nat) : Flash :=
  let kept := f.pages.filter fun p => p.slc && p.crcOk && f.livePage p
  let f : Flash := { f with pages := f.pages.filter fun p => !p.slc }
  let f := kept.foldl (fun (f : Flash) p => f.place now true { p with slc := false }) f
  (List.range 65).foldl (fun (f : Flash) o => (f.closeCopies o 0).closeCopies o 1) f

/-! ### Reclaim (R279, R281, R284, R290, R296 to R298, R302) -/

/-- A relocation writes a page of an owner and side: the net rate of R297 loses it, and gains what an erase frees. -/
def account (f : Flash) (part side now gain cost : Nat) : Flash :=
  { f with freed := ⟨part, side, now, gain, cost⟩ :: f.freed.filter fun e => decide (now ≤ e.time + 1000000) }

/-- Erases a superblock: its pages and stripes go, its filter is empty and its erase count rises (R296, R302). Where a die under it is out of
use it is not held any more. -/
def erase (f : Flash) (now sb : Nat) : Flash :=
  match f.superOf sb with
  | none => f
  | some s =>
    let gone := f.lostDies.any fun n => n / 256 == s.sixteen && n % 16 == s.die
    let f := f.account s.part s.side now (64 * f.stripesIn sb) 0
    { f with pages := f.pages.filter fun p => p.super != sb, stripes := f.stripes.filter fun k => k.super != sb,
             hurt := f.hurt.filter (· != sb),
             supers := if gone then f.supers.filter fun k => k.id != sb
               else modIf (fun k => k.id == sb) (fun k => { k with erases := k.erases + 1, filter := [] }) f.supers }

/-- The free fraction of R296 in per mille: the pages of erased superblocks held, and the unwritten ones of open superblocks that still take
stripes, of the allotment. -/
def freePages (f : Flash) (part side supers : Nat) : Nat :=
  supers * f.geom.superPages - sumNat (fun (s : Super) =>
    if s.part = part ∧ s.side = side then (if f.hurt.contains s.id then f.geom.superPages else 64 * f.stripesIn s.id) else 0) f.supers
def freePerMille (f : Flash) (part side supers : Nat) : Nat :=
  let total := supers * f.geom.superPages
  if total = 0 then 1000 else f.freePages part side supers * 1000 / total

/-- Takes a member from the stripes of every superblock that `hit` names: a stripe that has lost two has its pages' copies
unreadable, those still held in the write buffer or the SLC region apart (R284). -/
def loseMember (f : Flash) (hit : Super → Bool) : Flash :=
  let used := f.supers.filter fun s => f.pages.any fun p => p.super == s.id
  let again := (used.filter fun s => f.hurt.contains s.id && hit s).map (·.id)
  let first := (used.filter fun s => !f.hurt.contains s.id && hit s).map (·.id)
  { f with hurt := f.hurt ++ first,
           dead := f.dead ++ (f.pages.filter fun p => !p.buffered && !p.slc && again.contains p.super).map fun p => (p.lpn, p.seq) }

/-- The groomer's victim: stripes that have lost a member first (R284), then fewest live pages, then lowest erase count (R296). -/
def victim (f : Flash) (part side : Nat) : Option Super :=
  let c := f.supers.filter fun s => s.part == part && s.side == side &&
    f.pages.any (fun p => p.super == s.id) && !(f.pages.any fun p => p.super == s.id && p.buffered) &&
    !(f.stripes.any fun k => k.super == s.id && k.copies && !k.durable)
  (sortBy (fun s => (if f.hurt.contains s.id then 0 else 2 ^ 64) + f.liveIn s.id * 2 ^ 32 + s.erases) c).head?

/-- A copy of a page is programmed in a new stripe, with its SEQUENCE and its ciphertext; what it was copied from is stale (R281). -/
def copyPage (f : Flash) (now : Nat) (p : FPage) : Flash :=
  let f : Flash := { f with pages := modIf (fun q => q.stripe == p.stripe && q.pos == p.pos && q.lpn == p.lpn) (fun q => { q with stale := true }) f.pages }
  ((f.place now true p).account p.owner p.side now 0 1).transfer 9

/-- Starts the relocation of a superblock: each live page is copied to new stripes (R296, R298). -/
def relocate (f : Flash) (now : Nat) (sb : Super) (background : Bool) : Flash :=
  let pgs := f.pages.filter fun p => p.super == sb.id && f.livePage p
  if pgs.isEmpty then f.erase now sb.id
  else { f with relocs := f.relocs ++ pgs.map fun p => (⟨p.lpn, p.seq, sb.id, now, background⟩ : Reloc) }

/-- A relocation in the background stops at this page: the flash of its owner has been used since it began (R296). -/
def stops (f : Flash) (c : Reloc) : Bool :=
  c.background && (f.superOf c.victim).any fun s => (f.lastUse s.part s.side).any fun t => decide (c.since < t)

/-- A finished copy: it is programmed, and the map names it only when the entry still named the page copied (R298); the victim is erased once
nothing of it is left to copy. No copy is made into a superblock that is being relocated. In the background it goes no further when the flash
has been used meanwhile (R296). -/
def relocDone (f : Flash) (now i : Nat) : Flash :=
  match f.relocs[i]? with
  | none => f
  | some c =>
    let rest := f.relocs.eraseIdx i
    -- a copy made good from the other side (R270 step 3)
    let mended := fun (v : Nat × Nat) => v.1 == c.lpn && v.2 == c.seq &&
      f.pages.any (fun p => p.lpn == c.lpn && p.seq == c.seq && p.dual) && f.goodCopy (if c.lpn < sideBit then c.lpn + sideBit else c.lpn - sideBit)
    let halt := f.stops c
    let busy := halt || rest.any fun q => q.victim == c.victim
    let rest := if halt then rest.filter fun q => q.victim != c.victim else rest
    let old := f.supers
    let hidden : Flash := { f with relocs := rest, dead := f.dead.filter fun v => !mended v, hurt := c.victim :: f.hurt }
    let g := match f.pages.find? fun p => p.super == c.victim && p.lpn == c.lpn && p.seq == c.seq && !p.stale with
      | some p => hidden.copyPage now p
      | none => hidden
    let g : Flash := { g with hurt := if f.hurt.contains c.victim then f.hurt else g.hurt.filter (· != c.victim) }
    if busy then g else
    match old.find? fun s => s.id == c.victim with
    | some s => (g.closeCopies s.part s.side).erase now c.victim
    | none => g

/-- Pages of a partition under an earlier key generation are stale (R290). -/
def rekey (f : Flash) (part gen : Nat) : Flash :=
  { f with pages := modIf (fun p => p.part == part && !p.isModule && p.keyGen != gen) (fun p => { p with stale := true }) f.pages }

/-- Superblocks that hold or held a version of one of some LPNs, of either side, as their filters tell (R302). -/
def supersTesting (f : Flash) (lpns : List Nat) : List Nat :=
  (f.supers.filter fun s => lpns.any fun l => s.tests (l + s.side * sideBit)).map (·.id)

/-- Erases superblocks, after their live pages, and what the write buffer still holds of them, have been copied to new stripes of their side;
pages that `gone` names go from the write buffer too (R302). -/
def purge (f : Flash) (now : Nat) (sbs : List Nat) (gone : FPage → Bool) : Flash :=
  let f : Flash := { f with pages := f.pages.filter fun p => !(gone p && (p.buffered || sbs.contains p.super)) }
  let keep := f.pages.filter fun p => sbs.contains p.super && (p.buffered || f.livePage p)
  let hurt := f.hurt
  let f : Flash := { f with hurt := sbs ++ f.hurt, relocs := f.relocs.filter fun r => !sbs.contains r.victim }
  let f := keep.foldl (fun (f : Flash) p => f.copyPage now p) f
  let f := (List.range 65).foldl (fun (f : Flash) o => (f.closeCopies o 0).closeCopies o 1) f
  sbs.foldl (fun (f : Flash) i => f.erase now i) { f with hurt := hurt }

end Flash

/-- Where a run of `len` bytes begins in record packs that are written up to `pos`: there, or in the next extent when it would pass the end of
its own (R277). -/
def runAt (pos len : Nat) : Nat :=
  let extent := 65536 * pageBytes
  if len = 0 ∨ pos / extent = (pos + len - 1) / extent then pos else (pos / extent + 1) * extent

/-- Pages that `len` more bytes newly touch in a run of record packs (R277). -/
def newPages (pos len : Nat) : Nat := ceilDiv (runAt pos len + len) pageBytes - ceilDiv (runAt pos len) pageBytes

/-- Bytes of one part of a record: LENGTH has 16 bits and parts start on 16-byte steps (R277; how a longer record is cut is a
DESIGN CHOICE, log 13). -/
def partBytes : Nat := 65520

/-- Bytes that a record of `n` bytes takes in record packs: its parts, each after its header, on 16-byte steps (R277). -/
def runLen (n : Nat) : Nat := roundUp n 16 + 16 * max 1 (ceilDiv n partBytes)

/-- A record as its parts: TYPE 1 document, 2 journal, 3 structure record (R277). -/
def recordRun (type object : Nat) (b : Bytes) : Bytes :=
  let parts := if b.isEmpty then [[]] else chunks partBytes b
  (indexed parts).flatMap fun p =>
    le 1 type ++ le 1 (b2n (p.1 == 0) + 2 * b2n (p.1 + 1 == parts.length)) ++ le 2 p.2.length ++ le 8 object ++ le 4 (partBytes * p.1) ++
    fit (roundUp p.2.length 16) p.2

/-- Where the headers of a run of `len` bytes at `pos` begin (R277). -/
def runHeads (pos len : Nat) : List Nat := (List.range (ceilDiv len (partBytes + 16))).map fun i => pos + (partBytes + 16) * i

/-- A page of record packs after the bytes of a run that fall into it (R277, R280). -/
def PageBody.withRun (old : PageBody) (page pos : Nat) (b : Bytes) : PageBody :=
  let lo := page * pageBytes
  let head := (runHeads pos b.length).find? fun h => decide (lo ≤ h) && decide (h < lo + pageBytes)
  { old with data := patchGrow old.data (pos - lo) ((b.drop (lo - pos)).take (lo + pageBytes - max pos lo)),
             first := if old.first = 0xFFFF then (head.map (· - lo)).getD 0xFFFF else old.first }

/-- Accepts a run appended to record packs at `pos`: each page it touches gets a new version, and its bytes count once
(R277, R281, R292). -/
def Flash.acceptRun (f : Flash) (now part gen : Nat) (dual : Bool) (side owner pos : Nat) (b : Bytes) : Flash :=
  if b.isEmpty then f else
  let n0 := pos / pageBytes
  f.acceptPages now part gen .record dual side owner
    ((List.range (ceilDiv (pos % pageBytes + b.length) pageBytes)).map fun i =>
      (n0 + i, if i = 0 then b.length else 0, (f.bodyOf part owner (n0 + i)).withRun (n0 + i) pos b))

/-- The padding record that ends the page at `pos` when the next run begins in another extent (R277). -/
def padRun (pos len : Nat) : Bytes :=
  let left := pageBytes - pos % pageBytes
  if runAt pos len = pos ∨ left = pageBytes then [] else le 1 0 ++ le 1 3 ++ le 2 (left - 16) ++ zeros (left - 4)

/-- Accepts a record's run in record packs that are written up to `pos`: at `runAt`, after the padding that this leaves. -/
def Flash.acceptRecord (f : Flash) (now part gen : Nat) (dual : Bool) (side owner pos : Nat) (b : Bytes) : Flash :=
  (f.acceptRun now part gen dual side owner pos (padRun pos b.length)).acceptRun now part gen dual side owner (runAt pos b.length) b

/-- Position of the record header at byte `off` among the headers of its page, from 0 (R276): the headers are followed from
FIRST_OFFSET on. -/
def PageBody.recordNo (b : PageBody) (off : Nat) : Nat → Nat → Nat → Nat
  | 0, _, k => k
  | n + 1, at_, k => if off ≤ at_ then k else b.recordNo off n (at_ + runLen (fld b.data (at_ + 2) 2)) (k + 1)

/-- A vector pack's geometry: records per logical page and the stride (R275). -/
def packGeom (bodyLen : Nat) : Nat × Nat :=
  if 1024 ≤ bodyLen then
    let s := roundUp bodyLen 64
    (min 16 (16384 / s), s)
  else
    let r := roundUp (bodyLen + 16) 64
    (8 * (2048 / r), r)

/-! ### Transfers (R269) -/

/-- Codewords that hold `n` bytes from data byte `off` on. -/
def codewordsOf (off n : Nat) : Nat := if n = 0 then 0 else (off + n - 1) / 2048 - off / 2048 + 1

/-- Codewords that an exact read of entry `e` transfers: those of the body, and the header where the directory stands in it; an inline
record lies in one (R275). -/
def vectorCodewords (bodyLen e : Nat) : Nat :=
  if 1024 ≤ bodyLen then codewordsOf (e * (packGeom bodyLen).2) bodyLen + 1 else 1

/-- The unflushed limit in MiB for a measured energy in joules (R293). -/
def unflushedLimit (j : Nat) : Nat := if 80 ≤ j then 2048 else if j < 40 then 0 else 2048 * j / 80

end Sys2Proof.Machine
end

