-- ==== Sys2Proof/Machine/TableCore.lean ====
section
/-! DEFINITION. Embedding tables: row records, gathers, update folds and row read-modify-writes
(R200, R229 to R243). -/

namespace Sys2Proof.Machine

def satCap (bitsN v : Nat) : Nat := min v (2 ^ bitsN - 1)

/-- Size ρ of one row record (R230). -/
def Table.rho (t : Table) : Nat :=
  let base := 2 * t.dim
  let n := if t.opt = 2 then 2 * base else if t.opt = 3 then 3 * base + 8 else base
  roundUp n 64

/-- Engines holding the table (R231). -/
def Table.engines (t : Table) : Nat := 8 * t.channels.length

/-- Bytes committed: the rows of the fullest engine in each of the E bank groups (R231). -/
def Table.bytes (t : Table) : Nat := ceilDiv t.rows t.engines * t.engines * t.rho

/-- Window size in bytes: 64 GiB (R244). -/
def windowBytes : Nat := 2 ^ 36

/-- Partition address of a row record; rows lie in order in the table's windows (DESIGN CHOICE, log 12). -/
def Table.rowAddr (t : Table) (r : Nat) : Nat := t.first * windowBytes + r * t.rho

/-- Part `i` of a row record as FP32 values, widened exactly (R232): 0 values, 1 and 2 optimiser values. -/
def Table.part (t : Table) (m : Memory) (r i : Nat) : List F32 :=
  (List.range t.dim).map fun e =>
    f16toF32 (BitVec.ofNat 16 (m.readLe (t.rowAddr r + 2 * t.dim * i + 2 * e) 2))

def Table.step (t : Table) (m : Memory) (r : Nat) : Nat :=
  if t.opt = 3 then m.readLe (t.rowAddr r + 6 * t.dim) 4 else 0

/-- A row is poisoned when one of its lines is (R208). -/
def Table.rowPoisoned (t : Table) (poison : List Nat) (r : Nat) : Bool :=
  (List.range (t.rho / 64)).any fun i => poison.contains (t.rowAddr r / 64 + i)

/-- A gather batch (R233). -/
structure GBatch where
  bags : Nat
  positions : Nat
  pool : Nat
  table : Nat
  offsets : List Nat
  indices : List Nat
  weights : List F32
  len : Nat
  deriving DecidableEq, Repr

def u32s (b : Bytes) (off n : Nat) : List Nat := (List.range n).map fun i => fld b (off + 4 * i) 4

def GBatch.ofBytes (b : Bytes) : GBatch :=
  let bags := fld b 0 4
  let pos := fld b 4 4
  let o1 := 16 + roundUp (4 * (bags + 1)) 8
  let o2 := o1 + roundUp (4 * pos) 8
  let pool := fbits b 8 1 0
  { bags := bags, positions := pos, pool := pool, table := fld b 9 1,
    offsets := if b.length < o1 then [] else u32s b 16 (bags + 1),
    indices := if b.length < o2 then [] else u32s b o1 pos,
    weights := if pool = 1 ∧ o2 ≤ b.length then (u32s b o2 pos).map (BitVec.ofNat 32) else [],
    len := o2 + (if pool = 1 then roundUp (4 * pos) 8 else 0) }

def steps : List Nat → List (Nat × Nat)
  | a :: b :: l => (a, b) :: steps (b :: l)
  | _ => []

/-- The rules of the table of R233. -/
def GBatch.ok (g : GBatch) (b : Bytes) : Bool :=
  decide (1 ≤ g.bags) && decide (g.bags ≤ 65536) && decide (1 ≤ g.positions) && decide (g.positions ≤ 2 ^ 20) &&
  decide (g.pool ≤ 2) && fbits b 8 7 2 == 0 && zeroAt b 10 6 && b.length == g.len &&
  g.offsets.head? == some 0 && g.offsets.getLast? == some g.positions &&
  (steps g.offsets).all fun p => decide (p.1 ≤ p.2) && decide (p.2 - p.1 ≤ 65536)

/-- The row an index names (R234). -/
def Table.rowNamed (t : Table) (i : Nat) : Option Nat :=
  if i < t.rows then some i else if t.defaultMode = 1 then some t.defaultRow else none

def padIndex : Nat := 0xFFFFFFFF

/-- The rows of a bag in order of first position with their weights, and n (R235). -/
def bagRows (t : Table) (pos : List (Nat × F32)) : List (Nat × F32) × Nat :=
  pos.foldl (fun acc p =>
    if p.1 = padIndex then acc
    else match t.rowNamed p.1 with
      | none => (acc.1, acc.2 + 1)
      | some r =>
        (if acc.1.any (fun x => x.1 == r) then
           modIf (fun x => x.1 == r) (fun x => (x.1, f32add x.2 p.2)) acc.1
         else acc.1 ++ [(r, f32add f32zero p.2)], acc.2 + 1)) ([], 0)

/-- One bag's output (R235). -/
def gatherBag (t : Table) (m : Memory) (pool : Nat) (pos : List (Nat × F32)) : List F32 :=
  let rw := bagRows t pos
  let acc := rw.1.foldl (fun acc r =>
    (acc.zip (t.part m r.1 0)).map fun p => f32add p.1 (f32mul r.2 p.2)) (List.replicate t.dim f32zero)
  if pool = 2 then
    (if 0 < rw.2 then acc.map fun a => f32div a (natToF32 rw.2) else List.replicate t.dim f32zero)
  else acc

def GBatch.bag (g : GBatch) (j : Nat) : List (Nat × F32) :=
  let lo := g.offsets.getD j 0
  let hi := g.offsets.getD (j + 1) 0
  (List.range (hi - lo)).map fun i =>
    (g.indices.getD (lo + i) padIndex, if g.pool = 1 then g.weights.getD (lo + i) f32zero else f32one)

/-- Sub-batches of whole bags with at most 65,536 distinct rows each: the distinct rows of each (R236). -/
def subBatches (rows : List (List Nat)) : List (List Nat) :=
  rows.foldl (fun acc bag =>
    match acc.getLast? with
    | none => [bag]
    | some cur =>
      let u := cur ++ bag.filter fun r => !cur.contains r
      if 65536 < u.length then acc ++ [bag] else acc.dropLast ++ [u]) []

structure GatherOut where
  out : List (List F32)
  rowsRead : Nat
  stats : TabStats
  poisoned : Bool
  deriving Repr

/-- A whole gather (R235 to R237). -/
def gatherAll (t : Table) (m : Memory) (poison : List Nat) (g : GBatch) : GatherOut :=
  let bags := (List.range g.bags).map g.bag
  let rows := bags.map fun b => (bagRows t b).1.map (·.1)
  let subs := subBatches rows
  let reads := sumNat List.length subs
  let n := sumNat (fun b => (bagRows t b).2) bags
  let dflt := (g.indices.filter fun i => i != padIndex && decide (t.rows ≤ i)).length
  { out := bags.map (gatherBag t m g.pool), rowsRead := reads,
    stats := { t.stats with lookups := satCap 64 (t.stats.lookups + n), rowsRead := satCap 64 (t.stats.rowsRead + reads),
                            defaulted := satCap 64 (t.stats.defaulted + dflt),
                            subBatches := satCap 64 (t.stats.subBatches + (subs.length - 1)) },
    poisoned := rows.any fun b => b.any (t.rowPoisoned poison) }

/-- An update batch (R238). -/
structure UBatch where
  positions : Nat
  mode : Nat
  table : Nat
  rate : F32
  step : Nat
  indices : List Nat
  valuesOff : Nat
  deriving DecidableEq, Repr

def UBatch.ofBytes (b : Bytes) : UBatch :=
  let pos := fld b 0 4
  let o := 16 + roundUp (4 * pos) 8
  { positions := pos, mode := fbits b 4 1 0, table := fld b 5 1, rate := BitVec.ofNat 32 (fld b 8 4),
    step := fld b 12 4, indices := if b.length < o then [] else u32s b 16 pos, valuesOff := o }

def UBatch.len (u : UBatch) (dim : Nat) : Nat := u.valuesOff + 4 * u.positions * dim

/-- The rules of the table of R238, without the table's DIM. -/
def UBatch.ok (u : UBatch) (b : Bytes) : Bool :=
  decide (1 ≤ u.positions) && decide (u.positions ≤ 2 ^ 20) && decide (u.mode ≤ 2) && fbits b 4 7 2 == 0 &&
  zeroAt b 6 2 && (u.mode == 2 || u.rate == 0#32) && decide (u.valuesOff ≤ b.length)

def UBatch.value (b : Bytes) (u : UBatch) (dim i : Nat) : List F32 :=
  (u32s b (u.valuesOff + 4 * dim * i) dim).map (BitVec.ofNat 32)

/-- The combined value of each distinct row, in order of first position (R239). Indices out of range and padding are
left out (R241). -/
def foldUpdates (mode rows : Nat) (pos : List (Nat × List F32)) : List (Nat × List F32) :=
  pos.foldl (fun acc p =>
    if rows ≤ p.1 then acc
    else if acc.any (fun x => x.1 == p.1) then
      modIf (fun x => x.1 == p.1) (fun x =>
        (x.1, if mode = 1 then p.2 else (x.2.zip p.2).map fun q => f32add q.1 q.2)) acc
    else acc ++ [p]) []

/-- `b` to the power `t` by repeated multiplication in FP32 (R200). -/
def f32pow (b : F32) : Nat → F32
  | 0 => f32one
  | n + 1 => f32mul (f32pow b n) b

/-- Hyper-parameters of an optimiser (R182, R200). -/
structure Hyper where
  opt : Nat
  eta : F32
  beta1 : F32
  beta2 : F32
  eps : F32
  lambda : F32
  deriving DecidableEq, Repr

/-- One element's optimiser step: new value and optimiser values (R200). -/
def optStep (h : Hyper) (t : Nat) (w g s1 s2 : F32) : F32 × F32 × F32 :=
  match h.opt with
  | 1 => (f32sub w (f32mul h.eta g), s1, s2)
  | 2 =>
    let u := f32add (f32mul h.beta1 s1) g
    (f32sub w (f32mul h.eta u), u, s2)
  | _ =>
    let m := f32add (f32mul h.beta1 s1) (f32mul (f32sub f32one h.beta1) g)
    let v := f32add (f32mul h.beta2 s2) (f32mul (f32sub f32one h.beta2) (f32mul g g))
    let mh := f32div m (f32sub f32one (f32pow h.beta1 t))
    let vh := f32div v (f32sub f32one (f32pow h.beta2 t))
    (f32sub w (f32mul h.eta (f32add (f32div mh (f32add (f32sqrt vh) h.eps)) (f32mul h.lambda w))), m, v)

/-- Narrowed binary16 bytes of FP32 values and the saturated elements (R232, R38). -/
def narrow16 (l : List F32) : Bytes × Nat :=
  let c := l.map fun x => quantise .b16 (f32num x)
  (c.flatMap fun q => le 2 q.1, (c.filter (·.2)).length)

/-- The new row record and the saturated elements of one read-modify-write (R240). -/
def Table.newRow (t : Table) (m : Memory) (mode : Nat) (eta : F32) (r : Nat) (s : List F32) : Bytes × Nat :=
  let x := t.part m r 0
  let u1 := t.part m r 1
  let u2 := t.part m r 2
  if mode = 0 then
    let v := narrow16 ((x.zip s).map fun p => f32add p.1 p.2)
    -- the optimiser part stays as it is
    (v.1 ++ (m.readN (t.rowAddr r + 2 * t.dim) (t.rho - 2 * t.dim)), v.2)
  else if mode = 1 then
    let v := narrow16 s
    (fit t.rho v.1, v.2)
  else
    let st := min (t.step m r + 1) 0xFFFFFFFF
    let h : Hyper := ⟨t.opt, eta, t.beta1, t.beta2, t.eps, t.lambda⟩
    let e := (List.range t.dim).map fun i =>
      optStep h st (x.getD i f32zero) (s.getD i f32zero) (u1.getD i f32zero) (u2.getD i f32zero)
    let v := narrow16 (e.map (·.1))
    let a := narrow16 (e.map (·.2.1))
    let b := narrow16 (e.map (·.2.2))
    if t.opt = 2 then (fit t.rho (v.1 ++ a.1), v.2 + a.2)
    else if t.opt = 3 then (fit t.rho (v.1 ++ a.1 ++ b.1 ++ le 4 st), v.2 + a.2 + b.2)
    else (fit t.rho v.1, v.2)

structure UpdOut where
  mem : Memory
  poison : List Nat
  updated : Nat
  dropped : Nat      -- poisoned rows left as they are
  sat : Nat
  written : List Nat -- rows written
  deriving Repr

/-- One row's read-modify-write, atomic (R240 to R242). A row of `bad` was computed from a poisoned line: its lines are written
poisoned (R208). -/
def Table.applyRow (t : Table) (mode : Nat) (eta : F32) (bad : List Nat) (o : UpdOut) (p : Nat × List F32) : UpdOut :=
  if t.rowPoisoned o.poison p.1 ∧ mode ≠ 1 then { o with dropped := o.dropped + 1 }
  else
    let n := t.newRow o.mem mode eta p.1 p.2
    let lines := (List.range (t.rho / 64)).map fun i => t.rowAddr p.1 / 64 + i
    let clean := o.poison.filter fun l => !lines.contains l
    { mem := o.mem.writeN (t.rowAddr p.1) n.1, poison := if bad.contains p.1 then clean ++ lines else clean,
      updated := o.updated + 1, dropped := o.dropped, sat := o.sat + n.2,
      written := if o.written.contains p.1 then o.written else o.written ++ [p.1] }

structure ScatterOut where
  mem : Memory
  poison : List Nat
  stats : TabStats
  updated : Nat
  dropped : Nat        -- positions dropped (R362)
  anyPoison : Bool
  sat : Nat
  distinct : Nat
  written : List Nat
  deriving Repr

/-- A whole update batch applied to a table (R239 to R243). -/
def scatterAll (t : Table) (m : Memory) (poison : List Nat) (mode : Nat) (eta : F32) (tainted : List Nat)
    (pos : List (Nat × List F32)) : ScatterOut :=
  let named := pos.filter fun p => p.1 != padIndex
  let range := (named.filter fun p => decide (t.rows ≤ p.1)).length
  let rows := foldUpdates mode t.rows named
  let bad := rows.filter fun p => t.rowPoisoned poison p.1 && mode != 1
  let o := rows.foldl (t.applyRow mode eta tainted) ⟨m, poison, 0, 0, 0, []⟩
  let badPos := (named.filter fun p => bad.any fun q => q.1 == p.1).length
  let subs := ceilDiv rows.length 65536
  { mem := o.mem, poison := o.poison, updated := o.updated, dropped := range + badPos, anyPoison := !bad.isEmpty,
    sat := o.sat, distinct := rows.length, written := o.written,
    stats := { t.stats with updatePositions := satCap 64 (t.stats.updatePositions + named.length),
                            rowsUpdated := satCap 64 (t.stats.rowsUpdated + o.updated),
                            droppedRange := satCap 64 (t.stats.droppedRange + range),
                            droppedPoison := satCap 64 (t.stats.droppedPoison + o.dropped),
                            subBatches := satCap 64 (t.stats.subBatches + (subs - 1)) } }

/-- Bytes of the table statistics log (R243). -/
def TabStats.bytes (s : TabStats) : Bytes :=
  le 8 s.lookups ++ le 8 s.rowsRead ++ le 8 s.defaulted ++ le 8 s.updatePositions ++ le 8 s.rowsUpdated ++
  le 8 s.droppedRange ++ le 8 s.droppedPoison ++ le 8 s.subBatches

end Sys2Proof.Machine
end

