-- ==== Sys2Proof/Machine/Ops.lean ====
section
/-! DEFINITION. The named operations over the state: access to partitions and ring sets, completion entries, events,
notifications, saturation counters, saved time. -/

namespace Sys2Proof.Machine

open Sys2Proof

/-- The outcome of every command that has its effect. -/
abbrev Out := Host.Outcome State Fault Refusal

/-- An effect on the device at the present fabric time; the queue and the clock stand. -/
def State.onDev (s : State) (f : Clock → Dev → Dev) : Out := .next { s with dev := f s.clock s.dev }

/-- Fabric time reaches `t`: the count never decreases (R29), and operating time counts what passed while the module is
powered (R310, R480). -/
def Clock.reach (c : Clock) (t : Nat) : Clock :=
  { c with time := max c.time t, opTime := if c.powered then c.opTime + (t - c.time) else c.opTime }

/-- A command placed on fabric time: the clock reaches its due time, then the effect takes place (R28). -/
def State.atTime (s : State) (t : Nat) (f : Clock → Dev → Dev) : Out :=
  let c := s.clock.reach t
  .next { s with clock := c, dev := f c s.dev }

/-! ### Requests in flight -/

def RingSet.req? (r : RingSet) (seq : Nat) : Option Req := r.inflight.find? fun q => q.seq == seq
def Dev.req? (d : Dev) (r : ReqRef) : Option Req := (d.ring r.rs).req? r.seq

def Dev.modReq (d : Dev) (r : ReqRef) (f : Req → Req) : Dev :=
  d.modRing r.rs fun x => { x with inflight := modIf (fun q => q.seq == r.seq) f x.inflight }

/-- A MODEL_LOAD that ends without a switch epoch assigned leaves its identifier as it was: no longer in the loading state, and gone
when it holds no version (R185, R186). -/
def Part.endLoad (x : Part) (m : Nat) : Part :=
  let keep := fun (k : Model) => k.id != m || k.cur.isSome || k.next.isSome
  { x with models := (modIf (fun (k : Model) => k.id == m && k.next.isNone) (fun k => { k with loading := false, unloading := false })
      x.models).filter keep }

/-- The horizon of R127. -/
def Part.horizon (x : Part) : Nat :=
  let reqs := x.rings.flatMap fun r => r.inflight.filter fun q => q.admitted && (match q.work with
    | .searches _ => true
    | .upd _ => true
    | _ => false)
  let probes := x.ops.filterMap fun o => match o.work with
    | .probe _ _ _ e _ _ _ => if o.state = 1 ∨ o.state = 2 then some e else none
    | _ => none
  (probes ++ reqs.map (·.epoch)).foldl min x.vis.cur

/-- Change-table entries in use (R127). -/
def Part.changing (x : Part) : Nat :=
  sumNat (fun i => sumNat (fun g => (g.nodes.filter fun n => n.state == 2).length) i.graphs) x.idx

/-- Nodes settle and old list versions are released as the horizon passes (R127, R137); structure records of the nodes follow (R258). -/
def Part.settle (x : Part) : Part :=
  let h := x.horizon
  let moved := x.idx.flatMap fun (i : Index) => (i.graph.nodes.filter fun n => !n.settled && (n.settle h).settled).map fun n => (i.num, n.slot)
  { x with journal := { x.journal with dirty := x.journal.dirty ++ moved }, idx := x.idx.map fun i => { i with graphs := i.graphs.map fun g =>
      { g with nodes := g.nodes.map fun n => (n.settle h).releaseVersions h,
               oldEps := g.oldEps.filter fun e => decide (h ≤ e.1) } } }

/-- Old graphs that no read epoch in use can name any more are let go (R89, R131). -/
def Part.dropGraphs (x : Part) : Part :=
  let h := x.horizon
  let rec keep : List Graph → List Graph
    | [] => []
    | g :: rest => if decide (g.since ≤ h) then [g] else g :: keep rest
  { x with idx := x.idx.map fun (i : Index) => { i with graphs := keep i.graphs } }

/-- The horizon has risen (R127, R137). -/
def Part.passHorizon (x : Part) : Part := x.settle.dropGraphs


/-- A request leaves the in-flight table, and the invocations that serve it (R178, R186, R318); the horizon may rise (R127). -/
def Dev.dropReq (d : Dev) (r : ReqRef) : Dev :=
  let d := match d.req? r, r.rs with
    | some q, .part p _ => if fld q.desc 0 1 == 0x40 && q.admitted then d.modPart p fun x => x.endLoad (fld q.desc 24 2) else d
    | _, _ => d
  let e := (d.leaveInvs r).modRing r.rs fun x => { x with inflight := x.inflight.filter fun q => q.seq != r.seq }
  match r.rs with
  | .mgmt _ => e
  | .part p _ => if (d.part p).horizon < (e.part p).horizon then e.modPart p Part.passHorizon else e

def RingSet.sqSize (r : RingSet) : Nat := 2 ^ r.regs.sqOrder
def RingSet.cqSize (r : RingSet) : Nat := 2 ^ r.regs.cqOrder

/-- SEQUENCE of every fetched descriptor that has not ended: in flight, or its completion entry waits for a slot (R318). -/
def RingSet.openSeqs (r : RingSet) : List Nat :=
  r.inflight.map (·.seq) ++ (r.entries.filter fun e => fbits e.bytes 0 2 1 == 0).map fun e => fld e.bytes 12 4

/-- Every descriptor fetched before this one has ended (R344). -/
def RingSet.alone (r : RingSet) (q : Req) : Bool := r.openSeqs == [q.seq]

/-- IN_FLIGHT (R314): fetched descriptors without a completion or an abort. -/
def RingSet.inFlight (r : RingSet) : Nat := r.openSeqs.length

/-- SQ_RELEASE (R318): the lowest ring index fetched and not ended, or SQ_FETCH. -/
def RingSet.sqRelease (r : RingSet) : Nat :=
  let age := fun (s : Nat) => (r.run.fetched + 2 ^ 32 - s) % 2 ^ 32
  match r.openSeqs with
  | [] => r.run.sqFetch
  | s :: l => (l.foldl (fun m k => if age m < age k then k else m) s) % r.sqSize

/-- No slot is free: one slot is never written (R321). -/
def RingSet.cqFull (r : RingSet) : Bool := (r.run.cqTail + 1) % r.cqSize == r.run.cqHead % r.cqSize

/-! ### Descriptor fields (R316) -/

def Req.opcode (q : Req) : Nat := fld q.desc 0 1
def Req.ordered (q : Req) : Bool := fbits q.desc 1 0 0 == 1
def Req.irqNow (q : Req) : Bool := fbits q.desc 1 1 1 == 1
def Req.service (q : Req) : Nat := fbits q.desc 2 1 0
def Req.commandId (q : Req) : Nat := fld q.desc 4 4
def Req.compEpoch (q : Req) : Nat := fld q.desc 8 4
def Req.deadline (q : Req) : Nat := fld q.desc 16 8

/-! ### Notifications (R326) -/

def Dev.msixVec (d : Dev) (fn : Fn) (v : Nat) : MsixVec :=
  match fn with
  | .pf => d.mgmt.msix.getD v MsixVec.reset
  | .vf n => (d.part n).msix.getD v MsixVec.reset
  | .remote n _ => (d.part n).msix.getD v MsixVec.reset

def Dev.modMsix (d : Dev) (fn : Fn) (v : Nat) (f : MsixVec → MsixVec) : Dev :=
  match fn with
  | .pf => { d with mgmt := { d.mgmt with msix := modAt f v d.mgmt.msix } }
  | .vf n => d.modPart n fun x => { x with msix := modAt f v x.msix }
  | .remote n _ => d.modPart n fun x => { x with msix := modAt f v x.msix }

/-- The ring set's notification: its MSI-X message, held back by the mask bit, or a NOTIFY packet to the peer, which leaves after the entries
that it covers (R326). -/
def Dev.notify (d : Dev) (c : Clock) (rs : RsId) : Dev :=
  let r := d.ring rs
  let d := d.modRun rs fun x => { x with pend := 0 }
  if r.regs.remote then
    d.sendPacketOn c rs.partNo 6 true 3 r.regs.peerId false r.regs.localQpn (.notice rs) (le 1 rs.num ++ zeros 1 ++ le 2 r.run.cqTail ++ zeros 4)
  else if (d.msixVec rs.fn r.regs.vector).masked then d.modMsix rs.fn r.regs.vector fun m => { m with pending := true }
  else d.emit (.msix rs.fn r.regs.vector)

/-- Unmasking delivers the one pending message (R326). -/
def Dev.unmask (d : Dev) (fn : Fn) (v : Nat) : Dev :=
  let m := d.msixVec fn v
  let d := d.modMsix fn v fun x => { x with masked := false, pending := false }
  if m.masked && m.pending then d.emit (.msix fn v) else d

/-! ### Completion-ring entries (R319 to R321) -/

/-- Writes one entry into the slot at CQ_TAIL, with PHASE and TIME_LOST in byte 0. -/
def Dev.writeSlot (d : Dev) (c : Clock) (rs : RsId) (e : WaitEntry) : Dev :=
  let r := d.ring rs
  let b0 := fld e.bytes 0 1 + b2n r.run.phase + 8 * b2n c.timeLost
  let isDone := fbits e.bytes 0 2 1 == 0
  let bytes := if isDone then patch e.bytes 4 (le 2 r.sqRelease) else e.bytes
  let tie := Tie.entry rs (if isDone then some (fld e.bytes 12 4) else none)
  let d := d.writeHost c rs tie 3 (r.regs.cqBase + 32 * r.run.cqTail) (le 1 b0 ++ bytes.drop 1)
  let d := if isDone then d.modRun rs fun x => { x with lastCompleted := fld e.bytes 12 4, anyCompleted := true } else d
  let tail := (r.run.cqTail + 1) % r.cqSize
  let d := d.modRun rs fun x =>
    { x with cqTail := tail, phase := if tail = 0 then !x.phase else x.phase,
             t0 := if x.pend = 0 then c.time else x.t0, modTime := r.regs.modTime, pend := x.pend + 1 }
  if e.now || decide (r.regs.modCount ≤ r.run.pend + 1) || r.regs.modTime == 0 then d.notify c rs else d

/-- Entries of a ring set that faulted with this cause are left unwritten (R332). -/
def unwritten (r : RingSet) : Bool :=
  r.run.st == .faulting && (r.run.failCause == 2 || r.run.failCause == 5 || r.run.failCause == 6)

/-- A fenced partition issues no DMA; during its reset its completions and events wait (R393, R394, R400). -/
def Dev.dmaOk (d : Dev) (rs : RsId) : Bool :=
  match rs with
  | .part p _ => (d.part p).life.st != .fenced
  | .mgmt _ => true

/-- The fabric manager has fenced the partition: it takes no nudge and no set-up write. A partition in its own reset has STATE 4 too, and
takes them (R393, R400, R401). -/
def Part.barred (x : Part) : Bool := x.life.st == .fenced && (match x.life.reset with
  | some r => r.managed
  | none => true)

/-- A nudge of the ring set, and its STOP, are taken (R325, R333, R400). -/
def Dev.heard (d : Dev) (rs : RsId) : Bool :=
  match rs with
  | .part p _ => !(d.part p).barred
  | .mgmt _ => true

/-- Writes an entry, or lets it wait for a slot (R321). -/
def Dev.putEntry (d : Dev) (c : Clock) (rs : RsId) (e : WaitEntry) : Dev :=
  let r := d.ring rs
  if unwritten r then d.modRing rs fun x => { x with dropped := x.dropped + 1 }
  else if r.entries.isEmpty && !r.cqFull && d.dmaOk rs then d.writeSlot c rs e
  else d.modRing rs fun x => { x with entries := x.entries ++ [e] }

/-- Writes waiting entries while slots are free (R321, R323). -/
def Dev.flushEntries (d : Dev) (c : Clock) (rs : RsId) : Nat → Dev
  | 0 => d
  | n + 1 =>
    let r := d.ring rs
    match r.entries with
    | [] => d
    | e :: rest =>
      if r.cqFull || !d.dmaOk rs then d
      else ((d.modRing rs fun x => { x with entries := rest }).writeSlot c rs e).flushEntries c rs n

/-! ### Events (R327 to R329, R468) -/

/-- The 32 bytes of an event entry, without PHASE. -/
def eventBytes (type seq : Nat) (payload : Bytes) : Bytes := le 1 4 ++ le 1 type ++ zeros 2 ++ le 4 seq ++ fit 24 payload

/-- Held events are written while the event ring set runs and has slots (R329). -/
def Dev.flushEvents (d : Dev) (c : Clock) (p : Nat) : Nat → Dev
  | 0 => d
  | n + 1 =>
    let x := d.part p
    let rs := RsId.part p x.regs.eventRing
    let r := d.ring rs
    match x.ev.held with
    | [] => d
    | e :: rest =>
      if r.run.st = .running ∧ x.life.st = .started ∧ r.entries.isEmpty ∧ !r.cqFull then
        ((d.modPart p fun y => { y with ev := { y.ev with held := rest } }).writeSlot c rs { bytes := e, now := true }).flushEvents c p n
      else d

/-- Posts an event to a partition (R329): numbered, discarded when its type is disabled, lost when 64 are held. -/
def Dev.postEvent (d : Dev) (c : Clock) (p type : Nat) (payload : Bytes) : Dev :=
  let x := d.part p
  let bump := fun (e : EventState) => { e with seq := (e.seq + 1) % 2 ^ 32 }
  if !bitAt x.regs.eventEnable (type - 1) then d.modPart p fun y => { y with ev := bump y.ev }
  else if 64 ≤ x.ev.held.length then
    d.modPart p fun y => { y with ev := bump { y.ev with lost := min (y.ev.lost + 1) 0xFFFFFFFF } }
  else
    (d.modPart p fun y => { y with ev := bump { y.ev with held := y.ev.held ++ [eventBytes type y.ev.seq payload] } }).flushEvents c p 64

/-- Held management events are written while their ring set runs and has slots (R468). -/
def Dev.flushMgmtEvents (d : Dev) (c : Clock) : Nat → Dev
  | 0 => d
  | n + 1 =>
    let rs := RsId.mgmt d.mgmt.eventRing
    let r := d.ring rs
    match d.mgmt.ev.held with
    | [] => d
    | e :: rest =>
      if r.run.st = .running ∧ r.entries.isEmpty ∧ !r.cqFull then
        (({ d with mgmt := { d.mgmt with ev := { d.mgmt.ev with held := rest } } } : Dev).writeSlot c rs { bytes := e, now := true }).flushMgmtEvents c n
      else d

/-- Flushes what waits for the slots of a ring set. -/
def Dev.flushRing (d : Dev) (c : Clock) (rs : RsId) : Dev :=
  let d := d.flushEntries c rs 65536
  match rs with
  | .part p n => if (d.part p).regs.eventRing = n then d.flushEvents c p 64 else d
  | .mgmt n => if d.mgmt.eventRing = n then d.flushMgmtEvents c 64 else d

/-! ### Ends of commands (R318, R319, R11, R14) -/

def statusSUCCESS : Nat := 0
def statusREPLAYED : Nat := 1
def statusPARTIAL : Nat := 2
def statusBADOP : Nat := 0x10
def statusBADFIELD : Nat := 0x11
def statusBADHANDLE : Nat := 0x12
def statusNOTPERM : Nat := 0x13
def statusABORTED : Nat := 0x20
def statusDRAINED : Nat := 0x21
def statusREDIRECT : Nat := 0x22
def statusDEADLINE : Nat := 0x23
def statusMEDIA : Nat := 0x30
def statusPOISON : Nat := 0x31
def statusEXHAUSTED : Nat := 0x32
def statusNOSPACE : Nat := 0x40
def statusQUOTA : Nat := 0x41
def statusSUSPENDED : Nat := 0x50
def statusNOTCANCEL : Nat := 0x51

/-- Success class (R10). -/
def okStatus (s : Nat) : Bool := decide (s < 0x10)

/-- What a command ends with. -/
structure Ending where
  status : Nat
  flags : Nat := 0
  r0 : Nat := 0
  r1 : Nat := 0
  deriving DecidableEq, Repr

/-- Status with replays counted: SUCCESS_PARTIAL wins (R11). -/
def withReplays (status replays : Nat) : Nat := if status = 0 ∧ 0 < replays then statusREPLAYED else status

/-- The 32 bytes of a completion entry, without PHASE and TIME_LOST (R319); SQ_RELEASE is set when it is written. -/
def completionBytes (q : Req) (release : Nat) (e : Ending) : Bytes :=
  let ok := okStatus e.status
  let keep := ok || e.status == statusREDIRECT || e.status == statusSUSPENDED || e.status == statusNOTCANCEL
  zeros 1 ++ le 1 e.status ++ le 2 (if ok then e.flags else 0) ++ le 2 release ++ zeros 2 ++ le 4 q.commandId ++ le 4 q.seq ++
  le 8 (if keep then e.r0 else 0) ++ le 8 (if keep then e.r1 else 0)

/-- A request ends: it leaves the in-flight table, its slot is released, and its entry is written, with SUCCESS_REPLAYED after a
replay; one for which the update of a poisoned row was dropped ends with DATA_POISONED (R11, R241, R318 to R321). -/
def Dev.finish (d : Dev) (c : Clock) (r : ReqRef) (e : Ending) : Dev :=
  match d.req? r with
  | none => d
  | some q =>
    let e : Ending := if q.poison && okStatus e.status then ⟨statusPOISON, 0, 0, 0⟩ else e
    let d := d.dropReq r
    d.putEntry c r.rs { bytes := completionBytes q 0 { e with status := withReplays e.status q.replays }, now := q.irqNow, ordered := q.ordered,
                        journaled := q.journaled && okStatus e.status }

/-- A request ends without an entry: aborted at a drain bound, or stopped by a fence (R333, R400). -/
def Dev.silence (d : Dev) (r : ReqRef) : Dev := d.dropReq r

/-! ### Saturation counters (R48 to R54) -/

/-- An armed counter above its threshold posts one calibration-drift event and is no longer armed (R52, R54). `source` is the
tile site, or 0xFFFF. -/
def Dev.drift (d : Dev) (c : Clock) (p counter source : Nat) : Dev :=
  let x := (d.part p).feat.sat
  let v := x.count.getD counter 0
  let th := x.threshold.getD counter 65536
  if x.armed.getD counter false && decide (th < v) then
    (d.modPart p fun y => { y with feat := { y.feat with sat :=
        { y.feat.sat with armed := modAt (fun _ => false) counter y.feat.sat.armed } } }).postEvent c p 1
      (le 1 counter ++ zeros 1 ++ le 2 source ++ le 4 v ++ le 4 th ++ le 8 c.time ++ le 1 (b2n c.timeLost) ++ zeros 3)
  else d

/-- Adds saturated elements to a counter of a partition (R48, R52). -/
def Dev.saturate (d : Dev) (c : Clock) (p counter n source : Nat) : Dev :=
  if n = 0 then d else
  (d.modPart p fun y => { y with feat := { y.feat with sat :=
      { y.feat.sat with count := modAt (fun v => min (v + n) 0xFFFFFFFF) counter y.feat.sat.count } } }).drift c p counter source

/-! ### Memory of a partition (R204, R208, R209, R244) -/

def granule : Nat := 64

/-- Whether any line of `[a, a + n)` is poisoned. -/
def PartMem.poisoned (m : PartMem) (a n : Nat) : Bool :=
  m.poison.any fun l => decide (a / 64 ≤ l) && decide (l * 64 < a + n)

/-- A write of a range: whole lines clear their poison; a partial write of a poisoned line leaves it (R208). -/
def PartMem.put (m : PartMem) (a : Nat) (b : Bytes) : PartMem :=
  let whole := fun (l : Nat) => decide (a ≤ l * 64) && decide (l * 64 + 64 ≤ a + b.length)
  let touched := fun (l : Nat) => decide (a / 64 ≤ l) && decide (l * 64 < a + b.length)
  let stuck := m.poison.filter fun l => touched l && !whole l
  let dram := (indexed b).foldl (fun mem p =>
    if stuck.contains ((a + p.1) / 64) then mem else mem.write (a + p.1) p.2) m.dram
  { m with dram := dram, poison := m.poison.filter fun l => !(whole l) }

/-- Whole lines `[a, a + n)` are written as zeros: their poison goes (R208). -/
def PartMem.clear (m : PartMem) (a n : Nat) : PartMem :=
  let gone := fun (l : Nat) => decide (a ≤ l * 64) && decide (l * 64 + 64 ≤ a + n)
  { m with dram := m.dram.zero a n, poison := m.poison.filter fun l => !gone l }

/-- The object that occupies an address (R244, R245). -/
def Part.objAt (x : Part) (a : Nat) : Option Obj :=
  x.objs.find? fun o => decide (o.first * 2 ^ 36 ≤ a) && decide (a < o.first * 2 ^ 36 + o.size)

/-- The end of the object's addresses: of a stored one its capacity (R244, R245, R357). -/
def Obj.endAddr (o : Obj) : Nat := o.first * 2 ^ 36 + (if o.kind = .stored then o.capGib * 2 ^ 30 else o.size)

/-- The parts of `[a, a + n)` by the objects that hold them, in address order: an extent may run from an object that fills its windows
into the next; none when some address is unmapped (R244, R245). `k` bounds the parts. -/
def Part.pieces (x : Part) : Nat → Nat → Nat → Option (List (Obj × Nat × Nat))
  | 0, _, n => if n = 0 then some [] else none
  | k + 1, a, n =>
    if n = 0 then some [] else
    match x.objs.find? fun o => decide (o.first * 2 ^ 36 ≤ a) && decide (a < o.endAddr) with
    | none => none
    | some o =>
      let m := min n (o.endAddr - a)
      (x.pieces k (a + m) (n - m)).map fun l => (o, a, m) :: l

def Part.mapped (x : Part) (a n : Nat) : Option (List (Obj × Nat × Nat)) := x.pieces (x.objs.length + 1) a n

/-- The whole range lies in DRAM-homed objects (R244, R247). -/
def Part.dramRange (x : Part) (a n : Nat) : Bool := (x.mapped a n).any fun l => l.all fun e => e.1.kind != .stored

/-- The lowest free run of `n` windows (R245). -/
def Part.freeWindows (x : Part) (n : Nat) : Option Nat :=
  ((List.range (4096 - n)).map (· + 1)).find? fun w =>
    decide (w + n ≤ 4096) && x.objs.all fun o => decide (o.first + o.count ≤ w) || decide (w + n ≤ o.first)

/-- DRAM committed by a partition's commands, in bytes (R22): indexes, models and tables, and models whose load is under way. -/
def Part.committed (x : Part) : Nat :=
  sumNat (fun (g : RingSet) => sumNat (fun (q : Req) => match q.work with
    | .load n => n
    | _ => 0) g.inflight) x.rings +
  sumNat (fun i => (i.mib + i.buildMib) * 2 ^ 20) x.idx +
  sumNat (fun o => if o.kind = .staging ∨ o.kind = .stored then 0 else o.size) x.objs

/-! ### Visibility epochs (R111, R112) -/

/-- Takes the current epoch as a read or admission epoch. -/
def Vis.take (v : Vis) : Vis := { v with highest := max v.highest v.cur }

/-- Assigns the first epoch that begins after now (R27, R115). -/
def Vis.assign (v : Vis) : Vis × Nat := ({ v with highest := max v.highest (v.cur + 1) }, v.cur + 1)

/-- Fabric time at which the next epoch begins (R111). -/
def Vis.nextTick (v : Vis) : Nat := v.origin + (v.cur + 1 - v.base) * v.tick

/-- The epoch that fabric time gives (R111). -/
def Vis.byTime (v : Vis) (t : Nat) : Nat := if t < v.origin then v.base else v.base + (t - v.origin) / v.tick

def Part.index? (x : Part) (n : Nat) : Option Index := x.idx.find? fun i => i.num == n
def Part.modIndex (x : Part) (n : Nat) (f : Index → Index) : Part := { x with idx := modIf (fun i => i.num == n) f x.idx }
def Dev.modIndex (d : Dev) (p n : Nat) (f : Index → Index) : Dev := d.modPart p fun x => x.modIndex n f

/-- The side of a single-copy index or object (R285). -/
def singleSide (num p : Nat) : Nat := (num + p) % 2

/-- The pages that a node's document record lies in (R277). -/
def Node.docPages (n : Node) : List Nat :=
  (List.range (if n.doc.isEmpty then 0 else ceilDiv (n.docAt % pageBytes + runLen n.doc.length) pageBytes)).map (n.docAt / pageBytes + ·)

/-- Whether a node's document record can be read: every page it lies in (R25, R103, R256, R270, R277). -/
def Dev.docReadable (d : Dev) (i : Index) (p : Nat) (n : Node) : Bool :=
  n.docPages.all fun k => d.flash.readable p (ownerDocs i.num) k (!i.params.single) (singleSide i.num p)

/-- A read of a node's document waits until a map scan has rebuilt an entry that it needs (R261). -/
def Dev.docWaits (d : Dev) (i : Index) (p : Nat) (n : Node) : Bool :=
  n.docPages.any fun k => d.flash.waits p (ownerDocs i.num) k (!i.params.single) (singleSide i.num p)

/-- A line that holds the node's document record in the write buffer is poisoned (R208, R209, R291). -/
def Dev.docPoisoned (d : Dev) (i : Index) (p : Nat) (n : Node) : Bool :=
  n.docPoison && n.docPages.any fun k => d.flash.buffered p (ownerDocs i.num) k 0 || d.flash.buffered p (ownerDocs i.num) k 1

/-- The document records of some nodes are read: the codewords that hold them are transferred (R269, R277). -/
def Dev.readDocs (d : Dev) (now : Nat) (i : Index) (p : Nat) (nodes : List Node) : Dev :=
  { d with flash := nodes.foldl (fun (f : Flash) n =>
      if n.doc.isEmpty then f else f.readRun now p (ownerDocs i.num) n.docAt (runLen n.doc.length)) d.flash }

/-- Bank engines of a partition (R205). -/
def Part.engineCount (x : Part) : Nat := 8 * x.life.chans.length

end Sys2Proof.Machine
end

