-- ==== Sys2Proof/Machine/Clock.lean ====
section
/-! DEFINITION. Counting fabric time (R28 to R30). -/

namespace Sys2Proof.Machine

/-- Nanoseconds of oscillator time between two that the count leaves out while it absorbs a backward correction
(R29: the count slows; DESIGN CHOICE, log 2: by one part in 10,000, 100 ppm). -/
def slewPeriod : Nat := 10000

/-- One nanosecond of the reference oscillator: fabric time counts it, unless it is left out to absorb a backward
correction (R29). Operating time counts while the module is powered (R310). -/
def Clock.tick (c : Clock) : Clock :=
  let c := { c with opTime := if c.powered then c.opTime + 1 else c.opTime }
  if 0 < c.slew then
    (if slewPeriod ≤ c.slewAcc + 1 then { c with slew := c.slew - 1, slewAcc := 0 }
     else { c with time := c.time + 1, slewAcc := c.slewAcc + 1 })
  else if 0 < c.fast then
    (if slewPeriod ≤ c.slewAcc + 1 then { c with time := c.time + 2, fast := c.fast - 1, slewAcc := 0 }
     else { c with time := c.time + 1, slewAcc := c.slewAcc + 1 })
  else { c with time := c.time + 1, slewAcc := 0 }

/-- A forward step of fabric time: the count jumps (R29). -/
def Clock.jump (c : Clock) (n : Nat) : Clock := { c with time := c.time + n, slew := 0, fast := 0 }

/-- A backward correction is absorbed by slowing the count, never by stepping it back (R29). -/
def Clock.slowBy (c : Clock) (n : Nat) : Clock := { c with slew := n, fast := 0 }

/-- A small forward correction is absorbed by quickening the count (R428). -/
def Clock.hastenBy (c : Clock) (n : Nat) : Clock := { c with fast := n, slew := 0 }

end Sys2Proof.Machine
end

