-- ==== Sys2Proof/Machine/FlashPages.lean ====
section
/-! DEFINITION. What stands on the media: codewords with their parity, encryption, the page header, stripe parity, and how many codewords
a read transfers (R269, R276, R280, R282, R288). -/

namespace Sys2Proof.Machine

open Sys2Proof

/-- The tweak of a data unit of a page: 0 to 7 its codewords, 8 its directory (R288). -/
def FPage.tweak (p : FPage) (unit : Nat) : Nat := p.lpn + 2 ^ 40 * unit + 2 ^ 64 * p.seq

/-- A data unit as stored: ciphertext, but for a pad page (R288). -/
def FPage.stored (p : FPage) (key : Bytes) (unit : Nat) (b : Bytes) : Bytes :=
  if p.pack = .pad then b else Config.xts key (p.tweak unit) b

/-- A codeword: its bytes and its own parity (R269). -/
def withParity (b : Bytes) : Bytes := b ++ Config.ldpc b

/-- Data codeword `j` carries data bytes 2,048 × j to 2,048 × j + 2,047 (R269). -/
def FPage.codeword (p : FPage) (key : Bytes) (j : Nat) : Bytes := withParity (p.stored key j (fit 2048 (p.body.data.drop (2048 * j))))

/-- The 256 bytes of a page header as stored, with its CRC (R280). -/
def Flash.header (f : Flash) (p : FPage) (key : Bytes) : Bytes :=
  let h := le 5 p.lpn ++ le 1 (p.part + 64 * b2n p.isModule) ++ le 1 (p.pack.code + 16 * b2n p.dual + 32 * b2n p.slc) ++
    le 1 p.keyGen ++ le 8 p.seq ++ le 8 p.atomicFirst ++ le 2 p.atomicPages ++ zeros 2 ++ le 4 p.trimPages ++
    le 4 p.stripe ++ le 1 (p.pos / 4 + 16 * (f.groupOf p.side p.super % 2)) ++ le 1 p.body.entries ++ le 2 p.body.first ++
    p.stored key 8 (fit 192 p.body.dir) ++ zeros 20
  h ++ le 4 (crc32c h)

/-- A physical page: eight data codewords and the header codeword (R269). -/
def Flash.physical (f : Flash) (p : FPage) (key : Bytes) : Bytes :=
  (List.range 8).flatMap (p.codeword key) ++ withParity (f.header p key)

/-- Byte-wise XOR, over the longer of two pages. -/
def xorBytes : Bytes → Bytes → Bytes
  | [], b => b
  | a, [] => a
  | x :: a, y :: b => (x ^^^ y) :: xorBytes a b

/-- A pad page of a stripe (R283; what it carries is open: zeros, log 115). -/
def Stripe.padPage (s : Stripe) (pos : Nat) : FPage :=
  { lpn := s.side * sideBit, part := s.part % moduleOwner, isModule := s.part == moduleOwner, pack := .pad, dual := false, slc := false, keyGen := 0,
    seq := 0, atomicFirst := 0, atomicPages := 1, trimPages := 0, buffered := false, stripe := s.id, super := s.super, pos := pos, slot := 0,
    stale := false, crcOk := true, bytes := 0, body := .none }

/-- The parity page of a stripe on one plane: the XOR of that plane's data pages as stored, each under its own key (R282, R288). -/
def Flash.parity (f : Flash) (s : Stripe) (plane : Nat) (key : FPage → Bytes) : Bytes :=
  let pages := (f.pages.filter fun q => q.stripe == s.id) ++ s.pads.map s.padPage
  (pages.filter fun q => q.pos % 4 == plane).foldl (fun b q => xorBytes b (f.physical q (key q))) []

/-! ### Vector packs (R275, R276) -/

/-- Data byte at which entry `e` of a vector pack begins: its body, or the prefix of an inline record (R275). -/
def entryAt (bodyLen e : Nat) : Nat :=
  let r := (packGeom bodyLen).2
  if 1024 ≤ bodyLen then e * r else e / (2048 / r) * 2048 + e % (2048 / r) * r

/-- The content of a vector pack after entry `e` is written (R275, R276, R280). -/
def PageBody.withEntry (old : PageBody) (e rn scale docLpn docRecord : Nat) (body : Bytes) : PageBody :=
  let dir := le 4 rn ++ le 2 scale ++ le 5 docLpn ++ le 1 docRecord
  let at_ := entryAt body.length e
  if 1024 ≤ body.length then
    ⟨patchGrow old.data at_ body, patchGrow old.dir (12 * e) dir, max old.entries (e + 1), 0⟩
  else ⟨patchGrow old.data at_ (dir ++ zeros 4 ++ body), [], min 16 (max old.entries (e + 1)), 0⟩

end Sys2Proof.Machine
end

