-- ==== Sys2Proof/Machine/Approx.lean ====
section
/-! DEFINITION. The approximated functions of the vector unit: a reference within 2^-200 of the exact value, rounded once,
and the value the device gives, within 2 units in the last place of it (R36, R161). -/

namespace Sys2Proof.Machine

open Sys2Proof

/-! Fixed point: `n` stands for `n / 2^512`. -/

def fxOne : Nat := 2 ^ 512

/-- A finite magnitude `m * 2^e` in fixed point. -/
def fxOf (m : Nat) (e : Int) : Nat := if 0 ≤ e + 512 then m * 2 ^ (e + 512).toNat else m / 2 ^ (-(e + 512)).toNat

def fxMul (a b : Nat) : Nat := a * b / fxOne
def fxDiv (a b : Nat) : Nat := if b = 0 then 0 else a * fxOne / b

/-- The sum of `t`, `t x / k`, `t x^2 / (k (k+1))`, ... with `n` terms: the exponential series from its first term on. -/
def fxExpSeries (x : Nat) : Nat → Nat → Nat → Nat
  | 0, _, _ => 0
  | n + 1, k, t => t + fxExpSeries x n (k + 1) (fxMul t x / k)

/-- Squares `n` times. -/
def fxSquares : Nat → Nat → Nat
  | 0, a => a
  | n + 1, a => fxSquares n (fxMul a a)

/-- e^x for x of at most 128. -/
def fxExp (x : Nat) : Nat := fxSquares 9 (fxExpSeries (x / 512) 80 1 fxOne)

/-- z + z^3/3 + z^5/5 + ... with `n` terms; `p` is the power of z. -/
def fxAtanh (z2 : Nat) : Nat → Nat → Nat → Nat
  | 0, _, _ => 0
  | n + 1, k, p => p / k + fxAtanh z2 n (k + 2) (fxMul p z2)

/-- log y for y from 1 to 2. -/
def fxLog1 (y : Nat) : Nat :=
  let z := fxDiv (y - fxOne) (y + fxOne)
  2 * fxAtanh (fxMul z z) 170 1 z

/-- arctan (1/q), with `n` terms of its series as a pair of sums of opposite sign. -/
def fxAtanInv (q : Nat) : Nat → Nat → Nat → Int
  | 0, _, _ => 0
  | n + 1, k, p => (p / k : Nat) - fxAtanInv q n (k + 2) (p / (q * q))

/-- π, by Machin's formula. -/
def fxPi : Nat := (4 * (4 * fxAtanInv 5 120 1 (fxOne / 5) - fxAtanInv 239 40 1 (fxOne / 239))).toNat

/-- z - z^3/(1! 3) + z^5/(2! 5) - ...: the series of erf without its factor 2/√π; `p` is z^(2k+1)/k!. -/
def fxErfSeries (z2 : Nat) : Nat → Nat → Nat → Int
  | 0, _, _ => 0
  | n + 1, k, p => (p / (2 * k + 1) : Nat) - fxErfSeries z2 n (k + 1) (fxMul p z2 / (k + 1))

/-- erf z for z of at most 12. -/
def fxErf (z : Nat) : Int := 2 * fxErfSeries (fxMul z z) 600 0 z * fxOne / isqrt (fxPi * fxOne)

/-- The FP32 value nearest to a fixed-point magnitude (R36). -/
def fxTo32 (neg : Bool) (n : Nat) : F32 := BitVec.ofNat 32 (Fmt.f32.ofRat neg n fxOne 0)

/-- 1 / (1 + e^-x). -/
def fxSigmoid (neg : Bool) (x : Nat) : Nat :=
  let e := fxExp (min x (110 * fxOne))
  if neg then fxDiv fxOne (fxOne + e) else fxDiv e (fxOne + e)

/-- The exact FP32 result of a function of R163 at an ordinary argument. -/
def exactFn (code : Nat) (x : F32) : F32 :=
  match f32num x with
  | .fin neg m e =>
    let v := fxOf m e
    match code with
    | 3 => if 128 * fxOne ≤ v then (if neg then f32zero else f32inf)
           else if neg then fxTo32 false (fxDiv fxOne (fxExp v)) else fxTo32 false (fxExp v)
    | 4 =>
      let k := (Nat.log2 m : Int) + e
      let l : Int := (k * 2 * fxAtanh (fxMul (fxOne / 3) (fxOne / 3)) 170 1 (fxOne / 3)) + fxLog1 (fxOf m (e - k))
      fxTo32 (decide (l < 0)) l.natAbs
    | 7 => f32recipSqrt x
    | 8 => fxTo32 neg (fxOne - fxDiv (2 * fxOne) (fxExp (2 * min v (50 * fxOne)) + fxOne))
    | 9 => fxTo32 false (fxSigmoid neg v)
    | 10 =>
      if 16 * fxOne ≤ v then (if neg then 0x80000000#32 else x)
      else
        let r := (fxErf (fxDiv v (isqrt (2 * fxOne * fxOne)))).toNat
        fxTo32 neg (fxMul v (if neg then fxOne - r else fxOne + r) / 2)
    | _ => fxTo32 neg (if 200 * fxOne ≤ v then (if neg then 0 else v) else fxMul v (fxSigmoid neg v))
  | _ => f32nan

/-- A finite result moved by up to two units in the last place, its sign kept: which of the five values is free (R161; log 5). -/
def nudge (y : F32) (pick : Nat) : F32 :=
  let m := y.toNat % 2 ^ 31
  if 0x7F800000 ≤ m then y else BitVec.ofNat 32 (y.toNat - m + min (m + pick % 5 - 2) 0x7F800000)

/-- A function of R163 within 2 units in the last place of the exact FP32 result, with the special values of R35 (R36, R161).
GELU and SILU of −∞ are the product of −∞ and 0. -/
def approxF (code : Nat) (x : F32) : F32 :=
  let neg := decide (2 ^ 31 ≤ x.toNat)
  let zero := decide (x.toNat % 2 ^ 31 = 0)
  let inf := decide (x.toNat % 2 ^ 31 = 0x7F800000)
  let near := nudge (exactFn code x) (Config.approx code x).toNat
  if f32isNan x then f32nan
  else match code with
    | 3 => if zero then f32one else if inf then (if neg then f32zero else f32inf) else near
    | 4 => if zero then 0xFF800000#32 else if neg then f32nan else if inf then f32inf
           else if x = f32one then f32zero else near
    | 7 => if zero then (if neg then 0xFF800000#32 else f32inf) else if neg then f32nan else if inf then f32zero else near
    | 8 => if zero then x else if inf then (if neg then 0xBF800000#32 else f32one) else near
    | 9 => if inf then (if neg then f32zero else f32one) else if zero then 0x3F000000#32 else near
    | _ => if zero then x else if inf then (if neg then f32nan else f32inf) else near

end Sys2Proof.Machine
end

