-- ==== Sys2Proof/Machine/TileCore.lean ====
section
/-! DEFINITION. What each tile descriptor computes on one tile's SRAM (chapter 06: R151 to R166, with R41 to R45). -/

namespace Sys2Proof.Machine

open Sys2Proof

def sramBytes : Nat := 12582912
def f32at (m : Memory) (a : Nat) : F32 := BitVec.ofNat 32 (m.readLe a 4)

/-! ### Static checks of a descriptor (R150, R151, R160, R163 to R166, R174, R176) -/

namespace Td
def cls (d : Bytes) : Nat := fbits d 0 3 0
def op (d : Bytes) : Nat := fbits d 0 7 4
def waitEn (d : Bytes) : Bool := fbits d 1 0 0 == 1
def signalEn (d : Bytes) : Bool := fbits d 1 1 1 == 1
def indirect (d : Bytes) : Bool := fbits d 1 2 2 == 1
def a24 (d : Bytes) (off : Nat) : Nat := fld d off 4 % 2 ^ 24
def top0 (d : Bytes) (off : Nat) : Bool := fld d (off + 3) 1 == 0
def base64 (d : Bytes) (off : Nat) : Bool := top0 d off && a24 d off % 64 == 0
def stride16 (d : Bytes) (off : Nat) : Bool := top0 d off && a24 d off % 16 == 0
end Td

/-- Weight and activation pairings of R41: reduction length per pass (R156). -/
def pairKb (w a : Elem) : Option Nat :=
  match w, a with
  | .int8, .int8 => some 128
  | .int4, .int8 => some 128
  | .int4, .int4 => some 256
  | .e4m3, .e4m3 => some 128
  | .e4m3, .e5m2 => some 128
  | .e5m2, .e4m3 => some 128
  | .e5m2, .e5m2 => some 128
  | .b16, .b16 => some 128
  | .bit, .bit => some 1024
  | _, _ => none

/-- The pairing is supported in the operation: 0 dense, 1 2:4, 2 block (R156). -/
def pairOk (op : Nat) (w a : Elem) : Bool :=
  (pairKb w a).isSome &&
  (op == 0 || (op == 1 && w != .bit && w != .b16 && !(w == .int4 && a == .int4)) ||
   (op == 2 && w != .bit && !(w == .int4 && a == .int4)))

/-- The body checks of one class (R157, R160, R163, R164, R165, R174, R176) for a descriptor of the tile at position `pos` of a
group of `n` tiles. Fields that the spec has a form ignore (S_ADDR with GROUP 0, META_ADDR of DENSE) are checked for their reserved
bits alone; every other address field must be a multiple of 64 also where the form does not use it (SRC1_ADDR of MAP and REDUCE,
SCALE_ADDR of modes 0 and 1, LIST_ADDR without MERGE, RS_ADDR with ROW_SCALE_EN 0, INDEX_ADDR of COPY), and COUNT_ADDR, which names no
operand, may be any byte address (both DESIGN CHOICE, log 101). A partition address of an XFER need not be a multiple of 64 (DESIGN
CHOICE, log 101), and TILE of a SYNC other than SIGNAL may hold any value (DESIGN CHOICE, log 102). -/
def tileBodyOk (d : Bytes) (pos n : Nat) (repro : Bool) : Bool :=
  let op := Td.op d
  match Td.cls d with
  | 0 =>
    decide (op ≤ 2) && [8, 12, 20, 24].all (Td.base64 d) && (if fbits d 39 1 0 = 0 then Td.top0 d 16 else Td.base64 d 16) &&
    (if op = 0 then Td.top0 d 28 else Td.base64 d 28) && decide (1 ≤ fld d 32 2) && decide (1 ≤ fld d 34 2) &&
    decide (1 ≤ fld d 36 2) && fbits d 38 7 6 == 0 && fbits d 39 7 6 == 0 && fbits d 48 7 4 == 0 && zeroAt d 49 11 &&
    Td.stride16 d 40 && Td.stride16 d 44 && Td.top0 d 60 &&
    (match Elem.ofCode (fbits d 38 5 3), Elem.ofCode (fbits d 38 2 0) with
      | some w, some a =>
        let acc := fbits d 39 3 3 == 1
        let rs := fbits d 39 2 2 == 1
        let o := fbits d 39 5 4
        pairOk op w a && decide (o ≤ 2) && ((o == 2) == (w == .bit)) && !(acc && rs) && !(w == .bit && rs) &&
        (!acc || w == .bit || o == 0)
      | _, _ => false)
  | 1 =>
    decide (op ≤ 2) && [8, 12, 16].all (Td.base64 d) && decide (1 ≤ fld d 20 2) && decide (1 ≤ fld d 22 2) &&
    fbits d 24 7 6 == 0 && decide (fbits d 24 5 4 ≤ 2) && fbits d 25 7 5 == 0 && fbits d 26 3 2 == 0 && zeroAt d 27 1 &&
    [32, 36, 40].all (Td.stride16 d) && zeroAt d 44 16 && Td.top0 d 60 &&
    decide (fbits d 25 4 0 < (if op = 0 then 14 else if op = 1 then 6 else 4)) &&
    (fbits d 24 5 4 != 2 || (op == 0 && fbits d 25 4 0 == 0 && decide (2 ≤ fbits d 24 1 0)))
  | 2 =>
    let src := fbits d 24 2 0
    let dst := fbits d 24 5 3
    let mode := fbits d 25 1 0
    decide (op ≤ 1) && [8, 12, 16].all (Td.base64 d) && decide (1 ≤ fld d 20 2) && decide (1 ≤ fld d 22 2) &&
    fbits d 24 7 6 == 0 && fbits d 25 3 2 == 0 && zeroAt d 26 2 && [32, 36].all (Td.stride16 d) && zeroAt d 40 20 &&
    Td.top0 d 60 &&
    (if op = 0 then (src == 4 || src == 6) && decide (dst ≤ 5) && (dst != 5 || mode == 0)
     else decide (src ≤ 3) && (dst == 4 || dst == 6) && mode != 3)
  | 3 =>
    decide (op ≤ 2) && [12, 16, 40].all (Td.base64 d) && (if op = 2 then Td.top0 d 8 else Td.base64 d 8) &&
    decide (1 ≤ fld d 20 2) && zeroAt d 22 2 &&
    decide (fld d 24 4 < 2 ^ 21) && (op == 2 || (decide (1 ≤ fld d 24 4) && decide (fld d 24 4 ≤ 2 ^ 20))) && decide (1 ≤ fld d 28 2) &&
    decide (fld d 28 2 ≤ 1024) && fbits d 30 7 3 == 0 && (fld d 31 1 == 0 || depthOk (fld d 31 1)) &&
    [32, 36].all (Td.stride16 d) && (op != 2 || (fbits d 30 1 1 == 0 && decide (1 ≤ fld d 44 2) && decide (fld d 44 2 ≤ 256))) &&
    zeroAt d 46 14 && Td.top0 d 60
  | 4 =>
    let sTile := fld d 24 2
    let dTile := fld d 26 2
    let tileOk := fun (t : Nat) => t == 0xFFFF || t == 0xFFFE || decide (t < n)
    let addrOk := fun (t off : Nat) => t == 0xFFFE || (fld d off 8 < 2 ^ 24 && fld d off 8 % 64 == 0)
    decide (op ≤ 4) && (op != 4 || !repro) && tileOk sTile && tileOk dTile && !(sTile == 0xFFFE && dTile == 0xFFFE) &&
    addrOk sTile 8 && addrOk dTile 16 && zeroAt d 30 2 && Td.top0 d 32 && decide (16 ≤ fld d 32 4) &&
    decide (fld d 32 4 ≤ sramBytes) && fld d 32 4 % 16 == 0 && decide (1 ≤ fld d 36 2) && zeroAt d 38 2 &&
    fld d 40 4 % 16 == 0 && fld d 44 4 % 16 == 0 && Td.base64 d 48 && zeroAt d 56 4 && Td.top0 d 60 &&
    (if op = 3 then decide (1 ≤ fld d 28 2) && decide (fld d 28 2 ≤ n) && dTile != 0xFFFE &&
       decide ((if dTile = 0xFFFF then pos else dTile) + fld d 28 2 ≤ n)
     else fld d 28 2 == 0) && (op != 4 || dTile != 0xFFFE)
  | 5 =>
    decide (op ≤ 3) && !Td.indirect d && fbits d 8 7 6 == 0 && zeroAt d 9 1 && zeroAt d 14 50 &&
    (if op ≤ 1 then decide (1 ≤ fld d 10 2) else fld d 10 2 == 0) &&
    (if op = 1 then fld d 12 2 == 0xFFFF || decide (fld d 12 2 < n) else true)
  | _ => false

/-- The common header (R151). With SIGNAL_EN 0, SIGNAL_TILE may hold any value (DESIGN CHOICE, log 102). -/
def tileHeadOk (d : Bytes) (n : Nat) : Bool :=
  d.length == 64 && fbits d 1 7 3 == 0 && fbits d 2 7 6 == 0 && fbits d 4 7 6 == 0 &&
  ((fld d 3 1 == 0) == !Td.waitEn d) && ((fld d 5 1 == 0) == !Td.signalEn d) &&
  (!Td.signalEn d || fld d 6 2 == 0xFFFF || (fld d 6 2 == 0xFFFE && Td.cls d == 4) || decide (fld d 6 2 < n))

/-- A static extent of SRAM (R167). -/
def inSram (a n : Nat) : Bool := decide (a + n ≤ sramBytes)

/-- A strided extent: `rows` rows of `n` bytes. -/
def rowsIn (a stride n rows : Nat) : Bool := rows == 0 || inSram (a + (rows - 1) * stride) n

/-- The SRAM extents of a descriptor that its fields and its count give, without data (R150, R167). The region that INDEX_LIMIT would give
for a GATHER's source or a SCATTER's destination on a tile is none of them: it is checked row by row when the descriptor runs, with
SRAM_RANGE (DESIGN CHOICE, log 103: R150 does not say whether the load checks it). -/
def tileExtents (d : Bytes) (rows : Nat) : Bool :=
  let a := Td.a24 d
  let op := Td.op d
  (!Td.indirect d || inSram (a 60) 4) &&
  (match Td.cls d with
  | 0 =>
    let aF := (Elem.ofCode (fbits d 38 2 0)).getD .int8
    let wF := (Elem.ofCode (fbits d 38 5 3)).getD .int8
    let kb := (pairKb wF aF).getD 128
    let k := fld d 34 2
    let n := fld d 36 2
    let group := fbits d 39 1 0
    let g := if group = 1 then 32 else if group = 2 then 64 else 128
    let panels := ceilDiv n 128
    rowsIn (a 8) (a 40) (ceilDiv (k * aF.bits) 8) rows && rowsIn (a 24) (a 44) (n * (if fbits d 39 5 4 = 1 then 2 else 4)) rows &&
    (op == 2 || inSram (a 12) (if op = 1 then panels * ceilDiv k 256 * (16384 * wF.bits / 8)
      else if wF = .bit then panels * ceilDiv k 1024 * 16384 else panels * ceilDiv k kb * (kb * 128 * wF.bits / 8))) &&
    (fbits d 39 2 2 == 0 || inSram (a 20) (4 * rows)) &&
    (group == 0 || wF == .bit || wF == .b16 || inSram (a 16) (256 * panels * ceilDiv k g)) &&
    (op != 1 || inSram (a 28) (panels * ceilDiv k 256 * 4096)) &&
    (op != 2 || inSram (a 28) (ceilDiv (ceilDiv k 16 * ceilDiv n 16) 8))
  | 1 =>
    let cols := fld d 22 2
    let vb := fun (f : Nat) => if f = 1 then 2 else if f = 3 then 1 else 4
    let f1 := vb (fbits d 24 3 2)
    let shape := fbits d 26 1 0
    rowsIn (a 8) (a 32) (cols * vb (fbits d 24 1 0)) rows &&
    rowsIn (a 16) (a 40) ((if op = 2 then 1 else cols) * vb (fbits d 24 5 4)) rows &&
    (op != 1 || shape == 3 || (if shape = 0 then rowsIn (a 12) (a 36) (cols * f1) rows
      else if shape = 1 then rowsIn (a 12) (a 36) f1 rows else inSram (a 12) (cols * f1)))
  | 2 =>
    let bitsOf := fun (c : Nat) => ((Elem.ofCode c).getD .fp32).bits
    let cols := fld d 22 2
    rowsIn (a 8) (a 32) (ceilDiv (cols * bitsOf (fbits d 24 2 0)) 8) rows &&
    rowsIn (a 12) (a 36) (ceilDiv (cols * bitsOf (fbits d 24 5 3)) 8) rows &&
    (decide (fbits d 25 1 0 ≤ 1) || inSram (a 16) (4 * rows))
  | 3 =>
    let k := if op = 0 then 1 else fld d 28 2
    rowsIn (a 12) (a 36) (16 * k) rows && inSram (a 16) (40 * rows) &&
    (if op = 2 then inSram (a 40) (8 * fld d 44 2 * rows)
     else rowsIn (a 8) (a 32) (if fbits d 30 1 1 == 1 then 4 * fld d 24 4 else 16 * fld d 24 4) rows)
  | 4 =>
    let n := fld d 32 4
    let gather := op == 1
    let scatter := op == 2 || (op == 4 && a 48 != 0)
    (fld d 24 2 == 0xFFFE || gather || rowsIn (fld d 8 8) (fld d 40 4) n rows) &&
    (fld d 26 2 == 0xFFFE || scatter || rowsIn (fld d 16 8) (fld d 44 4) n rows) &&
    (!(gather || scatter) || inSram (a 48) (4 * rows))
  | _ => true)

/-- The bound of a descriptor's count field (R149). -/
def tileBound (d : Bytes) : Nat :=
  match Td.cls d with
  | 0 => fld d 32 2
  | 4 => fld d 36 2
  | 5 => 0
  | _ => fld d 20 2

def tileDescOk (d : Bytes) (pos n : Nat) (repro : Bool) : Bool :=
  tileHeadOk d n && tileBodyOk d pos n repro && tileExtents d (tileBound d)

/-! ### Outcomes -/

/-- What one row of a descriptor leaves beside its data: its saturated elements and the result flags of its screen operation
(R49, R50, R198). -/
structure RowMark where
  row : Nat
  sat : Nat
  flags : Nat
  deriving DecidableEq, Repr

/-- What a descriptor does to its own tile's SRAM: the new SRAM, the saturation counter, the rows it ran and what they leave, or a
fault code with its detail and the SRAM as the fault leaves it (R179, R180). -/
inductive TileRes where
  | ok (sram : Memory) (counter rows : Nat) (marks : List RowMark)
  | fault (code detail : Nat) (sram : Memory)
  deriving Repr

/-- Cells written in order: row, address, bytes, saturated elements. -/
abbrev Cell4 := Nat × Nat × Bytes × Nat

def writeCells (m : Memory) (cells : List Cell4) : Memory := cells.foldl (fun mm c => mm.writeN c.2.1 c.2.2.1) m

/-- The rows of `cells` that hold saturated elements. -/
def satMarks (rows : Nat) (cells : List Cell4) : List RowMark :=
  (List.range rows).filterMap fun r =>
    let n := sumNat (fun c => c.2.2.2) (cells.filter fun c => c.1 == r)
    if n = 0 then none else some ⟨r, n, flagSAT⟩

/-- The count in force under R149: none is a COUNT_RANGE fault with its detail. -/
def countOf (m : Memory) (d : Bytes) (bound : Nat) : Except Nat Nat :=
  if Td.indirect d then
    let w := m.readLe (Td.a24 d 60) 4
    if bound < w then .error (min w 0xFFFFFF) else .ok w
  else .ok bound

/-! ### MATRIX (R152, R157 to R160) -/

/-- Element `i` of an array of format `f` at byte `a` (R33). -/
def elemAt (m : Memory) (f : Elem) (a i : Nat) : Nat :=
  let w := f.bits
  if 8 ≤ w then m.readLe (a + i * (w / 8)) (w / 8) else m.readLe (a + i * w / 8) 1 / 2 ^ (i * w % 8) % 2 ^ w

/-- Bit of the BLOCK mask (R159). -/
def maskBit (m : Memory) (meta_ : Nat) (i : Nat) : Bool := elemAt m .bit meta_ i == 1

/-- A band of a panel that is loaded (R159). -/
def bandLoaded (m : Memory) (meta_ n p r : Nat) : Bool :=
  let nb := ceilDiv n 16
  (List.range 8).any fun c => decide (8 * p + c < nb) && maskBit m meta_ (r * nb + 8 * p + c)

/-- The slab number of band `r` in panel `p`: loaded bands before it, panel by panel (R159). -/
def slabOf (m : Memory) (meta_ k n p r : Nat) : Nat :=
  let bands := ceilDiv k 16
  sumNat (fun q => ((List.range bands).filter (bandLoaded m meta_ n q)).length) (List.range p) +
  ((List.range r).filter (bandLoaded m meta_ n p)).length

/-- Reduction position and weight code of each weight of output column `n` that the array uses; one at or past K enters as zero (R152,
R157 to R159). -/
def weightsOf (m : Memory) (op : Nat) (f : Elem) (kb wAddr meta_ k nCols n : Nat) : List (Nat × Nat) :=
  let p := n / 128
  let col := n % 128
  if op = 2 then
    ((List.range (ceilDiv k 16)).filter (bandLoaded m meta_ nCols p)).flatMap fun r =>
      let slab := wAddr + slabOf m meta_ k nCols p r * (2048 * f.bits / 8)
      (List.range 16).filterMap fun i =>
        if r * 16 + i < k then some (r * 16 + i, elemAt m f slab (i * 128 + col)) else none
  else if op = 1 then
    -- 2:4: a block covers 256 reduction positions and holds 128 physical rows
    let nb := ceilDiv k 256
    (List.range nb).flatMap fun b =>
      let blk := p * nb + b
      (List.range 64).flatMap fun q =>
        let code := elemAt m .int4 (meta_ + blk * 4096 + q * 64) col
        let w := fun (row : Nat) => elemAt m f (wAddr + blk * (16384 * f.bits / 8)) (row * 128 + col)
        [(b * 256 + 4 * q + code % 4, w (2 * q)), (b * 256 + 4 * q + code / 4, w (2 * q + 1))].filter
          fun x => decide (x.1 < k)
  else
    let nb := ceilDiv k kb
    (List.range k).map fun r =>
      (r, elemAt m f (wAddr + (p * nb + r / kb) * (kb * 128 * f.bits / 8)) (r % kb * 128 + col))

/-- Weight bit of a 1-bit block (R157). -/
def weightBit (m : Memory) (wAddr k n r : Nat) : Nat :=
  let nb := ceilDiv k 1024
  let blk := wAddr + (n / 128 * nb + r / 1024) * 16384
  m.readLe (blk + r % 1024 / 8 * 128 + n % 128) 1 / 2 ^ (r % 8) % 2

/-- The scale groups that the array rescales, in ascending order: every group of the reduction length, the short last one too, whatever
weights it has (R45, R152). A group of a BLOCK panel none of whose bands is loaded is not rescaled, so that its scale does not enter:
R159 computes none of it, and does not say that its rescale stands (DESIGN CHOICE, log 104). -/
def scaleGroups (op g k : Nat) (ws : List (Nat × Nat)) : List Nat :=
  if op = 2 then dedupNat ((sortBy (·.1) ws).map fun x => x.1 / g) else List.range (ceilDiv k g)

/-- One output element before the row scale, over the scale groups `gs` (R42, R45); a NaN that the accumulator starts from is the
canonical one (R34). FP8 operands that are NaN or infinite, which a group register does not hold, are taken by R35 (DESIGN CHOICE,
log 104). -/
def dotGroups (w a : Elem) (g : Nat) (gs : List Nat) (scale : Nat → Num) (acc0 : F32) (ws : List (Nat × Nat)) (act : Nat → Nat) : F32 :=
  let prod := fun (x : Nat × Nat) => (w.num x.2).mul (a.num (act x.1))
  let acc0 := toF32 (f32num acc0)
  if w = .b16 then
    (sortBy (·.1) ws).foldl (fun acc x => toF32 ((f32num acc).add (prod x))) acc0
  else
    gs.foldl (fun acc i =>
      let p := (ws.filter fun x => x.1 / g == i).foldl (fun s x => s.add (prod x)) Num.zero
      toF32 ((f32num acc).add ((f32num (toF32 p)).mul (scale i)))) acc0

/-- Bytes of the weight area, for its SRAM extent. -/
def weightExtent (m : Memory) (op : Nat) (f : Elem) (kb meta_ k n : Nat) : Nat :=
  let panels := ceilDiv n 128
  if op = 2 then
    sumNat (fun q => ((List.range (ceilDiv k 16)).filter (bandLoaded m meta_ n q)).length) (List.range panels) *
      (2048 * f.bits / 8)
  else if op = 1 then panels * ceilDiv k 256 * (16384 * f.bits / 8)
  else if f = .bit then panels * ceilDiv k 1024 * 16384
  else panels * ceilDiv k kb * (kb * 128 * f.bits / 8)

def runMatrix (m : Memory) (d : Bytes) : TileRes :=
  let aF := (Elem.ofCode (fbits d 38 2 0)).getD .int8
  let wF := (Elem.ofCode (fbits d 38 5 3)).getD .int8
  let kb := (pairKb wF aF).getD 128
  let k := fld d 34 2
  let n := fld d 36 2
  let op := Td.op d
  let group := fbits d 39 1 0
  let g := if group = 1 then 32 else if group = 2 then 64 else 128
  let aA := Td.a24 d 8
  let wA := Td.a24 d 12
  let sA := Td.a24 d 16
  let rsA := Td.a24 d 20
  let oA := Td.a24 d 24
  let mA := Td.a24 d 28
  let aS := Td.a24 d 40
  let oS := Td.a24 d 44
  let acc := fbits d 39 3 3 == 1
  let rs := fbits d 39 2 2 == 1
  let outF := fbits d 39 5 4
  match countOf m d (fld d 32 2) with
  | .error w => .fault 4 w m
  | .ok rows =>
    if rows = 0 then .ok m 0 0 [] else
    let oB := if outF = 1 then 2 else 4
    let panels := ceilDiv n 128
    if !(tileExtents d rows && inSram wA (weightExtent m op wF kb mA k n)) then .fault 2 0 m
    else
    let cells := (List.range rows).flatMap fun r => (List.range n).map fun j =>
      let act := fun (i : Nat) => elemAt m aF (aA + r * aS) i
      let out := oA + r * oS + oB * j
      if wF = .bit then
        let h := sumNat (fun i => if act i = weightBit m wA k j i then 0 else 1) (List.range k)
        ((r, out, le 4 (modAdd h (if acc then m.readLe out 4 else 0)), 0) : Cell4)
      else
        let ws := weightsOf m op wF kb wA mA k n j
        let scale := fun (i : Nat) =>
          if group = 0 then f32num f32one
          else f16num (BitVec.ofNat 16 (m.readLe (sA + 256 * (i * panels + j / 128) + 2 * (j % 128)) 2))
        let y := dotGroups wF aF g (scaleGroups op g k ws) scale (if acc then f32at m out else f32zero) ws act
        let y := if rs then f32mul y (f32at m (rsA + 4 * r)) else y
        if outF = 1 then
          let q := quantise .b16 (f32num y)
          (r, out, le 2 q.1, b2n q.2)
        else (r, out, le 4 y.toNat, 0)
    .ok (writeCells m cells) (fbits d 48 3 0) rows (satMarks rows cells)
where
  modAdd (a b : Nat) : Nat := (a + b) % 2 ^ 32

/-! ### VECTOR (R161 to R163) -/

/-- The greater, or the lesser, under the order of R46; equal keys return the first (R161). -/
def f32max (a b : F32) : F32 := if orderKey a < orderKey b then canon b else canon a
where canon (x : F32) : F32 := if f32isNan x then f32nan else x
def f32min (a b : F32) : F32 := if orderKey b < orderKey a then f32max.canon b else f32max.canon a

/-- The unary functions of MAP. RELU is the greater of the value and +0 (R161); of −0, equal to +0 under R46, it gives −0 (DESIGN
CHOICE, log 50). -/
def mapFn (code : Nat) (x : F32) : F32 :=
  match code with
  | 0 => toF32 (f32num x)
  | 1 => toF32 (f32num x).neg
  | 2 => toF32 (f32num x).abs
  | 5 => f32div f32one x
  | 6 => f32sqrt x
  | 12 => f32max x f32zero
  | 13 => f32mul x x
  | c => approxF c x

def zipFn (code : Nat) (a b : F32) : F32 :=
  match code with
  | 0 => f32add a b
  | 1 => f32sub a b
  | 2 => f32mul a b
  | 3 => f32div a b
  | 4 => f32max a b
  | _ => f32min a b

/-- Bytes of a VECTOR source or destination element: 0 FP32, 1 binary16, 2 int32, 3 int8 (R163). -/
def vecBytes (f : Nat) : Nat := if f = 1 then 2 else if f = 3 then 1 else 4

/-- A source element widened to FP32 (R161). -/
def vecIn (m : Memory) (f a : Nat) : F32 :=
  match f with
  | 0 => toF32 (f32num (f32at m a))
  | 1 => f16toF32 (BitVec.ofNat 16 (m.readLe a 2))
  | 2 => intToF32 (toSigned 32 (m.readLe a 4))
  | _ => intToF32 (toSigned 8 (m.readLe a 1))

/-- A result in DST_FMT with whether it saturated (R38); a NaN is the canonical one (R34). -/
def vecOut (f : Nat) (x : F32) : Bytes × Bool :=
  if f = 1 then
    let q := quantise .b16 (f32num x)
    (le 2 q.1, q.2)
  else (le 4 (toF32 (f32num x)).toNat, false)

/-- The pairwise tree of R162; a value with no partner passes up. -/
def pairTree (f : F32 → F32 → F32) : Nat → List F32 → Option F32
  | 0, l => l.head?
  | n + 1, l => if l.length ≤ 1 then l.head? else pairTree f n (pairs f l)
where
  pairs (f : F32 → F32 → F32) : List F32 → List F32
    | a :: b :: r => f a b :: pairs f r
    | l => l

/-- REDUCE of one row (R162): lanes of stride 256 in ascending order, then the tree over the lanes that hold a value. -/
def reduceRow (func : Nat) (xs : List F32) : F32 :=
  let xs := if func = 3 then xs.map fun x => f32mul x x else xs
  let f := if func = 1 then f32max else if func = 2 then f32min else f32add
  let lanes := (List.range (min 256 xs.length)).filterMap fun l =>
    match (indexed xs).filter fun p => p.1 % 256 == l with
    | [] => none
    | p :: r => some (r.foldl (fun a q => f a q.2) p.2)
  (pairTree f 9 lanes).getD f32zero

def runVector (m : Memory) (d : Bytes) : TileRes :=
  let op := Td.op d
  let s0 := Td.a24 d 8
  let s1 := Td.a24 d 12
  let da := Td.a24 d 16
  let cols := fld d 22 2
  let f0 := fbits d 24 1 0
  let f1 := fbits d 24 3 2
  let fd := fbits d 24 5 4
  let func := fbits d 25 4 0
  let shape := fbits d 26 1 0
  let st0 := Td.a24 d 32
  let st1 := Td.a24 d 36
  let std := Td.a24 d 40
  match countOf m d (fld d 20 2) with
  | .error w => .fault 4 w m
  | .ok rows =>
    if !tileExtents d rows then .fault 2 0 m
    else
    let src := fun (r j : Nat) => vecIn m f0 (s0 + r * st0 + j * vecBytes f0)
    let other := fun (r j : Nat) =>
      if shape = 0 then vecIn m f1 (s1 + r * st1 + j * vecBytes f1)
      else if shape = 1 then vecIn m f1 (s1 + r * st1)
      else if shape = 2 then vecIn m f1 (s1 + j * vecBytes f1)
      else BitVec.ofNat 32 (fld d 28 4)
    let cells := (List.range rows).flatMap fun r =>
      if op = 2 then
        let v := vecOut fd (reduceRow func ((List.range cols).map (src r)))
        [((r, da + r * std, v.1, b2n v.2) : Cell4)]
      else (List.range cols).map fun j =>
        let a := da + r * std + j * vecBytes fd
        if op = 0 ∧ fd = 2 then
          -- COPY of an integer: the value itself
          let i := if f0 = 3 then toSigned 8 (m.readLe (s0 + r * st0 + j) 1) else toSigned 32 (m.readLe (s0 + r * st0 + 4 * j) 4)
          (r, a, le 4 (ofSigned 32 i), 0)
        else
          let v := vecOut fd (if op = 0 then mapFn func (src r j) else zipFn func (src r j) (other r j))
          (r, a, v.1, b2n v.2)
    .ok (writeCells m cells) (fbits d 26 7 4) rows (satMarks rows cells)

/-! ### QUANT (R164) -/

/-- The divisor q of a dynamic scale (R164). -/
def dynQ (f : Elem) : F32 :=
  match f with
  | .int8 => natToF32 127
  | .int4 => natToF32 7
  | .e4m3 => natToF32 448
  | .e5m2 => natToF32 57344
  | _ => natToF32 65504

/-- Element codes packed into bytes (R33). -/
def packBits : List Nat → Bytes
  | [] => []
  | l@(_ :: _) => (chunks 8 l).map fun b => BitVec.ofNat 8 ((indexed b).foldl (fun s p => s + p.2 % 2 * 2 ^ p.1) 0)

def packRow (f : Elem) (codes : List Nat) : Bytes :=
  match f with
  | .int4 => (chunks 2 codes).map fun b => BitVec.ofNat 8 (b.getD 0 0 % 16 + 16 * (b.getD 1 0 % 16))
  | .bit => packBits codes
  | .b16 => codes.flatMap (le 2)
  | .fp32 => codes.flatMap (le 4)
  | _ => codes.flatMap (le 1)

/-- A QUANT descriptor (R164). A row without a finite element has no greatest magnitude: its dynamic scale is 1.0, as with a greatest
magnitude of zero (DESIGN CHOICE, log 103). -/
def runQuant (m : Memory) (d : Bytes) : TileRes :=
  let sF := (Elem.ofCode (fbits d 24 2 0)).getD .fp32
  let dF := (Elem.ofCode (fbits d 24 5 3)).getD .int8
  let sa := Td.a24 d 8
  let da := Td.a24 d 12
  let ca := Td.a24 d 16
  let cols := fld d 22 2
  let mode := fbits d 25 1 0
  let ss := Td.a24 d 32
  let ds := Td.a24 d 36
  match countOf m d (fld d 20 2) with
  | .error w => .fault 4 w m
  | .ok rows =>
    if !tileExtents d rows then .fault 2 0 m
    else
    let cells := (List.range rows).flatMap fun r =>
      let xs := (List.range cols).map fun j => sF.num (elemAt m sF (sa + r * ss) j)
      let fs := xs.map toF32
      let top := (fs.filter f32isFinite).foldl (fun a e => max a (e.toNat % 2 ^ 31)) 0
      let dyn := if top = 0 then f32one else f32div (BitVec.ofNat 32 top) (dynQ dF)
      let s : F32 := if mode = 0 then f32one else if mode = 1 then BitVec.ofNat 32 (fld d 28 4)
        else if mode = 2 then f32at m (ca + 4 * r) else f32div f32one dyn
      let qs := xs.map fun x => quantise dF (x.mul (f32num s))
      -- a sketch bit is the sign of the component alone (R40); NaN and zero keep the outcome of R38
      [((r, da + r * ds, packRow dF (qs.map (·.1)), (qs.filter (·.2)).length) : Cell4),
       (r, ca + 4 * r, if mode = 3 then le 4 dyn.toNat else [], 0)]
    .ok (writeCells m cells) (fbits d 25 7 4) rows (satMarks rows cells)

/-! ### SCREEN (R165, R166) -/

/-- A SCREEN descriptor (R58, R69, R74, R165, R166). A MERGE whose lists pass the limits of R58 is not started: its row writes
nothing (DESIGN CHOICE, log 103, which says too that a list record is otherwise taken as it stands). -/
def runScreen (m : Memory) (d : Bytes) (repro : Bool) : TileRes :=
  let op := Td.op d
  let ia := Td.a24 d 8
  let oa := Td.a24 d 12
  let su := Td.a24 d 16
  let cnt := fld d 24 4
  let k := if op = 0 then 1 else fld d 28 2
  let mx := fbits d 30 0 0 == 1
  let dense := fbits d 30 1 1 == 1
  let strict := fbits d 30 2 2 == 1
  let dep := if repro || fld d 31 1 == 0 then 64 else fld d 31 1
  let is := Td.a24 d 32
  let os := Td.a24 d 36
  let la := Td.a24 d 40
  let lc := fld d 44 2
  match countOf m d (fld d 20 2) with
  | .error w => .fault 4 w m
  | .ok rows =>
    let rec1 := fun (r j : Nat) => m.readN (la + 8 * lc * r + 8 * j) 8
    let listsIn := (List.range rows).all fun r => (List.range lc).all fun j =>
      inSram (fld (rec1 r j) 0 3) (16 * (fld (rec1 r j) 3 2 % 8192))
    if !(tileExtents d rows && (op != 2 || listsIn)) then .fault 2 0 m
    else
    let entries := fun (r : Nat) => (List.range cnt).map fun e =>
      if dense then (⟨e, 0, 0, f32at m (ia + r * is + 4 * e), 0⟩ : Entry) else Entry.ofBytes (m.readN (ia + r * is + 16 * e) 16)
    let outs := (List.range rows).map fun r =>
      let res := if op = 0 then argmaxOp mx (entries r)
        else if op = 1 then selectOp mx k dep (entries r)
        else mergeOp mx k ((List.range lc).map fun j =>
          let b := rec1 r j
          (⟨(List.range (fld b 3 2 % 8192)).map fun e => Entry.ofBytes (m.readN (fld b 0 3 + 16 * e) 16),
            decide (2 ^ 15 ≤ fld b 3 2)⟩ : MergeList))
      (r, res)
    let within := fun (r : Nat) => op != 2 ||
      let ls := (List.range lc).map fun j => fld (rec1 r j) 3 2 % 8192
      ls.all (fun l => decide (l ≤ 4096)) && decide (sumNat id ls ≤ 2 ^ 20)
    let outs := outs.filter fun o => within o.1
    let write := fun (mm : Memory) (o : Nat × List Entry × Summary) =>
      (mm.writeN (oa + o.1 * os) (o.2.1.flatMap Entry.bytes)).writeN (su + 40 * o.1) o.2.2.bytes
    match outs.find? fun o => strict && o.2.2.orderFault with
    | some o => .fault 5 0 ((outs.filter fun q => decide (q.1 ≤ o.1)).foldl write m)
    | none =>
    .ok (outs.foldl write m) 0 rows
      -- the request takes NAN_SEEN and INEXACT (R198)
      ((outs.map fun o => (⟨o.1, 0, o.2.2.flags &&& (flagINEXACT ||| flagNAN)⟩ : RowMark)).filter fun k => k.flags != 0)

end Sys2Proof.Machine
end

