-- ==== Sys2Proof/Machine/Experts.lean ====
section
/-! DEFINITION. Expert gating, capacity, dispatch and combination, and the running rows after an exit point, as the tile operations
that a package's program runs compute them (chapter 07: R194 to R197). -/

namespace Sys2Proof.Machine

open Sys2Proof

/-- The gate of one token: the selected experts in gate rank, with their weights, and whether a NaN was seen (R194). -/
structure Gate where
  experts : List Nat
  weights : List F32
  sum : F32
  leftOut : F32
  nan : Bool
  deriving DecidableEq, Repr

/-- The largest finite logit, formed by REDUCE MAX (R162, R194 step 1). -/
def gateTop (logits : List F32) : F32 := reduceRow 1 (logits.filter f32isFinite)

/-- The gate inputs p of a token: EXP of each logit less the largest finite one (R194 step 1). -/
def gateInputs (logits : List F32) : List F32 := logits.map fun x => mapFn 3 (zipFn 1 x (gateTop logits))

/-- A token's dense scores as the entries of a SELECT: each expert's handle is its number (R165, R194 step 2). -/
def denseEntries (l : List F32) : List Entry := (indexed l).map fun e => ⟨e.1, 0, 0, e.2, 0⟩

/-- The gate of a token over its logits with TOP_K `k` and GATE_NORM `all` (R194). -/
def gate (all : Bool) (k : Nat) (logits : List F32) : Gate :=
  let p := gateInputs logits
  let r := selectOp true k 64 (denseEntries p)
  let picked := (r.1.filter (·.valid)).map (·.handle)
  let under := if all then f32add r.2.selectedSum r.2.leftOutSum else r.2.selectedSum
  { experts := picked, weights := picked.map fun e => f32div (p.getD e f32zero) under, sum := r.2.selectedSum,
    leftOut := r.2.leftOutSum, nan := (p.any f32isNan) }

/-- The gate of a token under a package's TOP_K and GATE_NORM (R182, R194). -/
def Pkg.gate (g : Pkg) (logits : List F32) : Gate := Machine.gate g.gateAll g.topK logits

/-- Tokens that an expert accepts in a batch of `t` tokens; none when the capacity is unlimited (R195). -/
def Pkg.capLimit (g : Pkg) (t : Nat) : Option Nat :=
  if g.capacity = 0 then none else some (ceilDiv (g.capacity * t * g.topK) (16 * g.experts))

/-- Places claimed in the order of the batch's tokens: for each token, each of its experts with whether it accepted the token (R195). -/
def claimPlaces (limit : Nat) (choices : List (List Nat)) : List (List (Nat × Bool)) :=
  (choices.foldl (fun (acc : List (List (Nat × Bool)) × List (Nat × Nat)) tok =>
    let one := tok.foldl (fun (a : List (Nat × Bool) × List (Nat × Nat)) e =>
      let used := ((a.2.find? fun q => q.1 == e).map (·.2)).getD 0
      if used < limit then (a.1 ++ [(e, true)], (e, used + 1) :: a.2.filter fun q => q.1 != e) else (a.1 ++ [(e, false)], a.2)) ([], acc.2)
    (acc.1 ++ [one.1], one.2)) ([], [])).1

/-- Refusals of an expert layer in a batch (R195). -/
def Pkg.refused (g : Pkg) (choices : List (List Nat)) : Nat :=
  match g.capLimit choices.length with
  | none => 0
  | some n => sumNat (fun t => (t.filter fun e => !e.2).length) (claimPlaces n choices)

/-- The count word and the index array of an expert: the positions of the tokens that it accepted, ascending, padded to `n` entries
(R196). -/
def dispatchList (n expert : Nat) (places : List (List (Nat × Bool))) : Nat × List Nat :=
  let l := ((indexed places).filter fun t => t.2.contains (expert, true)).map (·.1)
  (l.length, l ++ List.replicate (n - l.length) 0xFFFFFFFF)

/-- A token's output: Σ w_e × y_e in order of gate rank, one rounding per operation (R196). An expert that refused the token
contributes nothing (R195). -/
def combine (dim : Nat) (terms : List (F32 × List F32)) : List F32 :=
  match terms.map fun t => (List.range dim).map fun i => f32mul t.1 (t.2.getD i f32zero) with
  | [] => List.replicate dim f32zero
  | a :: r => r.foldl (fun acc y => (acc.zip y).map fun q => f32add q.1 q.2) a

/-- The running rows after an exit point: the count word and the row numbers of those that stay, ascending (R197). `run` holds the
row numbers that run with their provisional scores. -/
def runningRows (k : Nat) (margin : F32) (run : List (Nat × F32)) : Nat × List Nat :=
  let l := if run.length ≤ k ∨ margin = f32inf then run.map (·.1)
    else
      let top := (selectOp true k 64 (denseEntries (run.map (·.2)))).1
      let c := ((top.filter (·.valid)).getLast?.map (·.score)).getD f32nan
      (run.filter fun r => !decide (orderKey r.2 < orderKey (f32sub c margin))).map (·.1)
  (l.length, sortBy id l)

end Sys2Proof.Machine
end

