-- ==== Sys2Proof/Machine/Recorder.lean ====
section
/-! DEFINITION. Writing event records: coalescing, freezing, holding, posting to the management function
(R468, R470 to R476). -/

namespace Sys2Proof.Machine

open Sys2Proof

def Clock.timeState (c : Clock) : Nat := if !c.everLocked then 0 else if c.timeLost then 2 else 1
def Clock.recTime (c : Clock) : Nat := if c.everLocked then c.time else 0
def Clock.opSeconds (c : Clock) : Nat := c.opTime / 1000000000

/-- Writes a record into a keeper's ring slot (R470, R472). -/
def Keeper.put (k : Keeper) (e : EvRec) : Keeper :=
  if k.present then { k with ring := e :: k.ring.filter fun x => x.seq % 4096 != e.seq % 4096 } else k

/-- The management event of a record (R468). -/
def Dev.postMgmt (d : Dev) (c : Clock) (e : EvRec) : Dev :=
  if d.mgmt.stage < 9 then d else
  let ev := d.mgmt.ev
  let pay := le 2 e.code ++ le 1 e.sev ++ le 1 e.kind ++ le 2 e.idx ++ le 2 e.gen ++ le 4 e.seq ++ le 1 (match e.part with
    | some p => p % 64 + 64
    | none => 0) ++ zeros 3 ++ le 8 e.d0
  let next := (ev.seq + 1) % 2 ^ 32
  if 64 ≤ ev.held.length then
    { d with mgmt := { d.mgmt with ev := { ev with seq := next, lost := min (ev.lost + 1) 0xFFFFFFFF } } }
  else
    ({ d with mgmt := { d.mgmt with ev := { ev with seq := next, held := ev.held ++ [eventBytes (0x80 + e.code / 256) ev.seq pay] } } } :
      Dev).flushMgmtEvents c 64

/-- Writes a numbered record to both rings and posts it where its code says so (R468, R470). -/
def Dev.putRecord (d : Dev) (c : Clock) (e : EvRec) : Dev :=
  let r := d.recorder
  let d : Dev := { d with recorder := { r with k0 := r.k0.put e, k1 := r.k1.put e } }
  if codePosted e.code then d.postMgmt c e else d

/-- Gives an event its RECORD_SEQ and writes it, or holds or skips it while the recorder is frozen (R475). -/
def Dev.assignRecord (d : Dev) (c : Clock) (e : EvRec) : Dev :=
  let r := d.recorder
  let e : EvRec := { e with seq := r.nextSeq, writer := r.active, single := !(r.k0.present && r.k1.present && d.power.keeperLinkOk) }
  let next := (r.nextSeq + 1) % 2 ^ 32
  if r.frozen.isSome then
    if r.held.length < 256 then { d with recorder := { r with nextSeq := next, held := r.held ++ [e] } }
    else
      let skip := fun (k : Keeper) => ({ k with skipped := min (k.skipped + 1) 0xFFFFFFFF } : Keeper)
      { d with recorder := { r with skippedNow := r.skippedNow + 1, k0 := skip r.k0, k1 := skip r.k1 } }
  else ({ d with recorder := { r with nextSeq := next } } : Dev).putRecord c e

/-- An event of the recorder (R473, R474): coalesced codes open or feed a window of 1 ms. -/
def Dev.record (d : Dev) (c : Clock) (code kind idx : Nat) (part : Option Nat) (d0 d1 d2 : Nat) : Dev :=
  let e : EvRec := { seq := 0, opTime := c.opSeconds, cycles := c.powerCycles, time := c.recTime, timeState := c.timeState,
                     writer := 0, single := false, sev := codeSev code, code := code, kind := kind, idx := idx,
                     gen := d.units.gen kind idx, part := part, d0 := d0, d1 := d1, d2 := d2 }
  if codeCoalesced code then
    let r := d.recorder
    let same := fun (w : CoWin) => w.first.code == code && w.first.kind == kind && w.first.idx == idx && w.first.part == part
    let n := max 1 d2
    if r.windows.any same then
      { d with recorder := { r with windows := modIf same (fun w => { w with count := w.count + n }) r.windows } }
    else { d with recorder := { r with windows := r.windows ++ [⟨e, n, c.time + 1000000⟩] } }
  else d.assignRecord c e

/-- The freeze ends: held records are written in order, then RECORDS_SKIPPED when any was skipped (R475). -/
def Dev.thaw (d : Dev) (c : Clock) : Dev :=
  let r := d.recorder
  if r.frozen.isNone then d else
  let d : Dev := { d with recorder := { r with frozen := none, held := [], skippedNow := 0 } }
  let d := r.held.foldl (fun d e => d.putRecord c e) d
  if r.skippedNow = 0 then d
  else d.record c 0x0801 0x0E r.active none r.skippedNow ((c.time - r.frozeAt) / 1000000) 0

def Dev.freeze (d : Dev) (c : Clock) : Dev :=
  let r := d.recorder
  { d with recorder := { r with frozen := some c.time, frozeAt := if r.frozen.isSome then r.frozeAt else c.time } }

/-- COALESCE_WINDOW_CLOSE: one record for the window, with its count (R474). -/
def execCoalesceWindowClose (i : Nat) (s : State) : Out :=
  match s.dev.recorder.windows[i]? with
  | none => s.onDev fun _ d => d
  | some w => s.atTime w.closes fun c d =>
      ({ d with recorder := { d.recorder with windows := d.recorder.windows.eraseIdx i } } : Dev).assignRecord c
        { w.first with d2 := w.count }

/-- RECORDER_FREEZE_TIMEOUT: 10 s after the last RECORDER_FREEZE (R475). -/
def execRecorderFreezeTimeout (s : State) : Out :=
  match s.dev.recorder.frozen with
  | none => s.onDev fun _ d => d
  | some t => s.atTime (t + 10000000000) fun c d => d.thaw c

/-- Bytes of one keeper's part of log 0x81: its header, then its slots in slot order (R476). -/
def Recorder.partAt (r : Recorder) (c : Clock) (k off n : Nat) : Bytes :=
  let kp := if k = 0 then r.k0 else r.k1
  let hdr := le 1 (k + 2 * b2n (r.active == k) + 4 * b2n r.frozen.isSome) ++ zeros 3 ++ le 4 r.nextSeq ++ le 4 kp.skipped ++
    le 4 r.held.length ++ le 5 c.opSeconds ++ le 3 c.powerCycles ++ le 8 c.recTime ++ zeros 32
  let lo := off / 64
  let cells := (List.range (ceilDiv (off % 64 + n) 64)).flatMap fun j =>
    if lo + j = 0 then hdr
    else match kp.ring.find? fun e => e.seq % 4096 == lo + j - 1 with
      | some e => e.bytes
      | none => zeros 64
  (cells.drop (off % 64)).take n

/-- The 4,096 slots of a snapshot. -/
def Snapshot.slots (b : Snapshot) : Bytes :=
  (List.range 4096).flatMap fun i => match b.ring.find? fun e => e.seq % 4096 == i with
    | some e => e.bytes
    | none => zeros 64

/-- One black-box slot (R479). -/
def Snapshot.bytes (b : Snapshot) : Bytes :=
  let body := b.slots
  le 4 b.seq ++ le 4 b.fatalSeq ++ le 5 b.opTime ++ le 3 b.cycles ++ le 8 b.time ++ le 1 (b.timeState + 4 * b.writer) ++ zeros 3 ++
  le 4 b.nextSeq ++ zeros 24 ++ le 4 (crc32c body) ++ zeros 3 ++ le 1 0xA5 ++ body

/-- Log 0x82: eight slots (R479). -/
def Recorder.boxLog (r : Recorder) : Bytes :=
  (List.range 8).flatMap fun i => match r.boxes[i]? with
    | some b => b.bytes
    | none => zeros 262208

/-- Log 0x81 from a byte on (R476): the keeper 0 part, then the keeper 1 part. -/
def Recorder.logAt (r : Recorder) (c : Clock) (off n : Nat) : Bytes :=
  let a := if off < 262208 then r.partAt c 0 off (min n (262208 - off)) else []
  let o := max off 262208 - 262208
  let b := if 262208 < off + n then r.partAt c 1 o (min (off + n - 262208 - o) (262208 - min o 262208)) else []
  fit n (a ++ b)

end Sys2Proof.Machine
end

