-- ==== Sys2Proof/Machine/Admit.lean ====
section
/-! DEFINITION. The opcodes, the admission checks and what joins commands together (chapter 12: R339 to R346). -/

namespace Sys2Proof.Machine

open Sys2Proof

/-- Who may issue an opcode (R339): on a partition ring set (0 no profile, 1 information, 2 maintenance, 3 never), on a
management ring set, and whether it starts a long operation. -/
structure OpInfo where
  part : Nat
  mgmt : Bool
  long : Bool
  deriving DecidableEq, Repr

/-- The table of R339. -/
def opInfo (op : Nat) : Option OpInfo :=
  if [0x10, 0x11, 0x20, 0x21, 0x22, 0x28, 0x30, 0x31, 0x32, 0x33, 0x34, 0x40, 0x41, 0x42, 0x43, 0x50, 0x51, 0x52].contains op
  then some ⟨0, false, false⟩
  else if [0x12, 0x29, 0x2A].contains op then some ⟨0, false, true⟩
  else if [0x60, 0x68, 0x69, 0x6A, 0x6B].contains op then some ⟨0, true, false⟩
  else if [0x80, 0x81, 0x82, 0x84].contains op then some ⟨1, true, false⟩
  else if op = 0x83 then some ⟨1, false, false⟩
  else if op = 0x85 then some ⟨3, true, false⟩
  else if op = 0x88 then some ⟨2, false, true⟩
  else if op = 0x89 then some ⟨2, true, true⟩
  else none

/-- Opcodes that end before their effects can be undone: past their point of no return once admitted (R339). -/
def ponrAtAdmission (op : Nat) : Bool :=
  [0x28, 0x50, 0x60, 0x68, 0x69, 0x6A, 0x6B, 0x83, 0x84, 0x85].contains op

/-- Step 1 of R341 (R340). -/
def Dev.opcodeCheck (d : Dev) (rs : RsId) (op : Nat) : Option Nat :=
  match opInfo op with
  | none => some statusBADOP
  | some i =>
    match rs with
    | .mgmt _ => if i.mgmt then none else some statusBADOP
    | .part p _ =>
      let x := (d.part p).cfg
      if i.part = 3 then some statusNOTPERM
      else if i.part = 1 ∧ !x.info then some statusBADOP
      else if i.part = 2 ∧ !x.maint then some statusBADOP
      else none

/-- The composition rule for an epoch carried by a request (R445). -/
def Comp.accepts (k : Comp) (now e : Nat) : Bool := e == k.epoch || (e == k.prev && decide (now < k.graceEnd))

/-- A FORMAT or SANITISE holds its partition exclusively (R378). -/
def Part.exclusive (x : Part) : Bool :=
  x.ops.any fun o => (o.opcode == 0x88 || o.opcode == 0x89) && (o.state == 1 || o.state == 2 || o.state == 4)

/-- The opcodes that an exclusive hold lets through (R378). -/
def pastExclusive (op : Nat) : Bool := [0x60, 0x68, 0x69, 0x6A, 0x6B, 0x80, 0x81, 0x82].contains op

/-- Zero bytes `[off, off + n)` of a descriptor. -/
def z (b : Bytes) (off n : Nat) : Bool := zeroAt b off n

/-- Reserved fields of the common header (R316, R7). -/
def headerOk (b : Bytes) : Bool := fbits b 1 7 2 == 0 && fbits b 2 7 2 == 0 && z b 3 1 && z b 12 4

/-- Reserved and unused fields of each body, and the field rules that need nothing but the descriptor
(R348 to R370). -/
def bodyOk (b : Bytes) : Bool :=
  match fld b 0 1 with
  | 0x10 => z b 38 2 && z b 40 24 && fld b 36 2 == 1
  | 0x11 => z b 38 2 && z b 48 16 && decide (1 ≤ fld b 36 2) && decide (fld b 36 2 ≤ 256)
  | 0x12 => z b 38 2 && z b 40 8 && z b 60 4 && fld b 36 2 == 1 && fld b 56 4 == 32 && fld b 32 4 == 128
  | 0x20 => updBody b
  | 0x22 => updBody b
  | 0x21 => fbits b 24 7 4 == 0 && z b 25 3 && z b 33 31 && fld b 28 5 != noHandle
  | 0x28 => fbits b 24 7 4 == 0 && z b 25 7 && fld b 40 4 == 64 && z b 44 20
  | 0x29 => fbits b 24 7 6 == 0 && z b 25 3 && z b 40 24 && (fbits b 24 4 4 == 1 || fld b 32 8 != 0)
  | 0x2A => fbits b 24 7 4 == 0 && z b 25 39
  | 0x30 => fbits b 28 7 2 == 0 && z b 29 3 && z b 44 8 && (if fbits b 28 0 0 == 1 then
        z b 24 4 && decide (1 ≤ fld b 52 4) && decide (fld b 52 4 ≤ 262080) else z b 52 4 && fbits b 28 1 1 == 0) &&
      fld b 32 8 % 16384 == 0 && fld b 40 4 % 16 == 0 && decide (16 ≤ fld b 40 4) && decide (fld b 40 4 ≤ 2 ^ 20)
  | 0x31 => fbits b 28 2 0 == 0 && fbits b 28 7 5 == 0 && fbits b 29 7 4 == 0 && z b 30 2 && z b 49 7 &&
      decide (fbits b 28 4 3 ≤ 2) && (if fbits b 28 4 3 == 0 then z b 44 5 && fbits b 29 3 0 == 0 else z b 24 4)
  | 0x32 => discBody b
  | 0x33 => discBody b
  | 0x34 => z b 24 4 && fbits b 28 4 0 == 0 && fbits b 28 7 6 == 0 && z b 29 35
  | 0x40 => fbits b 26 7 1 == 0 && z b 27 1 && z b 32 32 && (fbits b 26 0 0 == 0 || z b 28 4)
  | 0x41 => z b 26 2 && z b 44 12 && decide (1 ≤ fld b 28 4) && decide (fld b 28 4 ≤ 4096)
  | 0x42 => z b 26 1 && fbits b 27 7 4 == 0 && decide (1 ≤ fld b 28 2) && decide (fld b 28 2 ≤ 1024) &&
      decide (1 ≤ fld b 30 2) && decide (fld b 30 2 ≤ fld b 28 2) && decide (1 ≤ fld b 40 4) && decide (fld b 40 4 ≤ 512) &&
      marginOk (BitVec.ofNat 32 (fld b 44 4))
  | 0x43 => z b 26 2 && z b 48 16
  | 0x50 => fbits b 25 7 3 == 0 && z b 60 4
  | 0x51 => z b 36 4 && z b 48 16
  | 0x52 => z b 36 28
  | 0x60 => ctlBody b
  | 0x68 => ctlBody b
  | 0x69 => ctlBody b
  | 0x6A => ctlBody b
  | 0x6B => ctlBody b
  | 0x80 => admBody b && fbits b 25 7 6 == 0 && z b 32 8 && z b 56 8 && decide (fld b 24 1 ≤ 3) && fbits b 27 1 0 == 0 &&
      (fld b 24 1 == 2 || fbits b 26 3 0 == 0) && (fld b 24 1 == 3 || z b 28 2)
  | 0x81 => admBody b && fbits b 25 7 6 == 0 && z b 26 4 && z b 56 8
  | 0x82 => admBody b && fbits b 25 7 7 == 0 && z b 26 14 && z b 56 8 && (fbits b 25 6 6 == 0 || fld b 24 1 == 1)
  | 0x83 => admBody b && fbits b 25 7 6 == 0 && z b 26 14 && z b 56 8
  | 0x84 => admBody b && z b 24 1 && fbits b 25 7 6 == 0 && z b 26 4 && z b 56 8 && fld b 32 8 % 4096 == 0 &&
      fld b 40 4 % 4096 == 0 && decide (fld b 32 8 + fld b 40 4 ≤ 2 ^ 26)
  | 0x85 => admBody b && decide (fld b 24 1 ≤ 2) && fbits b 25 6 6 == 0 && z b 26 1 && z b 28 28 &&
      (fld b 24 1 == 2 || fbits b 27 1 0 == 0) && (fld b 24 1 != 0 || z b 56 8) && (fld b 24 1 != 2 || fbits b 25 7 7 == 0) &&
      decide (fbits b 27 1 0 ≤ 1)
  | 0x88 => admBody b && z b 24 1 && fbits b 25 7 6 == 0 && z b 26 2 && decide (fld b 28 2 ≤ 1000) && z b 32 32
  | 0x89 => admBody b && z b 24 1 && fbits b 25 7 6 == 0 && z b 26 38
  | _ => true
where
  /-- INSERT and UPSERT (R351). -/
  updBody (b : Bytes) : Bool :=
    fbits b 24 7 6 == 0 && z b 25 1 && z b 33 3 && z b 62 2 && fld b 28 5 != noHandle &&
    decide (fld b 56 4 ≤ 2 ^ 20) && decide (fld b 60 2 ≤ 8192) && decide (4 * fld b 60 2 ≤ fld b 56 4) &&
    (fld b 56 4 != 0 || z b 48 8) &&
    (if fbits b 24 4 4 == 1 then fbits b 24 5 5 == 0 && decide (1 ≤ fld b 36 4) else z b 26 2 && z b 36 4)
  /-- DISCARD and SECURE_DISCARD (R356, R357). -/
  discBody (b : Bytes) : Bool :=
    fbits b 28 1 0 == 0 && fbits b 28 7 3 == 0 && z b 29 3 && z b 44 20 && fld b 32 8 % 16384 == 0 && fld b 40 4 % 16384 == 0
  /-- ABORT and the OP_ commands (R363). -/
  ctlBody (b : Bytes) : Bool :=
    fbits b 1 0 0 == 0 && fbits b 24 7 6 == 0 && z b 25 3 && decide (fbits b 24 5 4 ≤ 2) && z b 32 32 &&
    (fbits b 24 5 4 == 0 || z b 28 4)
  /-- Reserved fields of the administrative body (R370). -/
  admBody (b : Bytes) : Bool := fbits b 26 7 4 == 0 && fbits b 27 7 2 == 0 && z b 30 2 && z b 44 4

/-- Step 5 of R341 for a deadline in fabric time. -/
def deadlinePassed (c : Clock) (q : Req) : Bool := q.deadline != 0 && decide (q.deadline ≤ c.time)

/-- Updates whose DEADLINE is a barrier epoch (R140). -/
def Dev.barrierOp (d : Dev) (r : ReqRef) (op : Nat) : Bool :=
  !r.rs.isMgmt && (d.part r.rs.partNo).cfg.repro && (op == 0x52 || op == 0x43)

/-- The admission checks of R341 in order, up to step 6. `perm`, `fields` and `handles` are the command's own conditions
at steps 3, 4 and 6. -/
def Dev.gate (d : Dev) (c : Clock) (r : ReqRef) (q : Req) (perm fields handles : Bool) : Option Ending :=
  let op := q.opcode
  match d.opcodeCheck r.rs op with
  | some s => some ⟨s, 0, 0, 0⟩
  | none =>
    if !d.comp.accepts c.time q.compEpoch then some ⟨statusREDIRECT, 0, d.comp.epoch, 0⟩
    else if !perm || (!r.rs.isMgmt && (d.part r.rs.partNo).exclusive && !pastExclusive op) then some ⟨statusNOTPERM, 0, 0, 0⟩
    else if !headerOk q.desc || !bodyOk q.desc || !fields then some ⟨statusBADFIELD, 0, 0, 0⟩
    else if (match opInfo op with
        | some i => i.long && q.deadline != 0
        | none => false) then some ⟨statusBADFIELD, 0, 0, 0⟩
    else if d.barrierOp r op then
      (if q.deadline = 0 then some ⟨statusBADFIELD, 0, 0, 0⟩
       else if q.deadline ≤ (d.part r.rs.partNo).vis.cur then some ⟨statusDEADLINE, 0, 0, 0⟩
       else if !handles then some ⟨statusBADHANDLE, 0, 0, 0⟩ else none)
    else if deadlinePassed c q then some ⟨statusDEADLINE, 0, 0, 0⟩
    else if !handles then some ⟨statusBADHANDLE, 0, 0, 0⟩
    else none

/-- Work of a ring set may run: its ring set carries requests, its partition is started or draining and is not held by a
fence or a reset, and an ORDERED command waits until every descriptor before it has ended (R344, R393, R400). -/
def Dev.canRun (d : Dev) (r : ReqRef) (q : Req) : Bool :=
  let ring := d.ring r.rs
  (ring.run.st == .running || ring.run.st == .stopping || ring.run.st == .faulting) &&
  (match r.rs with
    | .part p _ => let x := d.part p
                   (x.life.st == .started || x.life.st == .draining) && (q.admitted || !x.life.admitPaused)
    | .mgmt _ => true) &&
  !q.pendingReplay &&
  (q.admitted || !q.ordered || ring.alone q)

/-- Runs `f` on a request in flight that carries opcode `op` and may run. -/
def Dev.withReq (d : Dev) (r : ReqRef) (op : Nat) (f : Req → Dev) : Dev :=
  match d.req? r with
  | none => d
  | some q => if q.opcode == op && d.canRun r q then f q else d

/-- Marks a request as waiting in its partition's admission queue (R447). -/
def Dev.waitAdmission (d : Dev) (r : ReqRef) : Dev := d.modReq r fun q => { q with waiting := true }

/-! ### Host memory that a body names (R336) -/

/-- An update's source is tokens (R351). -/
def uTokens (q : Req) : Bool := fbits q.desc 24 4 4 == 1

/-- Bytes of the source buffer: the attribute word, then the vector or the tokens (R351). -/
def srcBytes (p : IndexParams) (q : Req) : Nat :=
  p.attrBytes + (if uTokens q then 4 * fld q.desc 36 4 else p.dim * (if fbits q.desc 24 5 5 = 1 then 2 else 4))

/-- The input buffers that a command's body names, as address and bytes (R348, R351, R352, R356, R358, R361, R370). -/
def Dev.inputs (d : Dev) (r : ReqRef) (q : Req) : List (Nat × Nat) :=
  let at_ := fun (o n : Nat) => (fld q.desc o 8, n)
  match q.opcode with
  | 0x10 => [at_ 24 (fld q.desc 32 4)]
  | 0x11 => [at_ 24 (fld q.desc 32 4)]
  | 0x12 => [at_ 24 (fld q.desc 32 4), at_ 48 (fld q.desc 56 4)]
  | 0x20 => update
  | 0x22 => update
  | 0x28 => [at_ 32 (fld q.desc 40 4)]
  | 0x30 => [at_ 56 (fld q.desc 40 4)]
  | 0x41 => [at_ 32 (fld q.desc 40 4)]
  | 0x42 => [at_ 32 (4 * fld q.desc 40 4), at_ 48 (8 * fld q.desc 28 2)]
  | 0x43 => [at_ 32 (fld q.desc 40 4)]
  | 0x50 => if fld q.desc 52 8 = 0 then [] else [at_ 52 40]
  | 0x51 => [at_ 24 (fld q.desc 32 4)]
  | 0x52 => [at_ 24 (fld q.desc 32 4)]
  | 0x83 => [at_ 48 (fld q.desc 40 4)]
  | 0x84 => [at_ 48 (fld q.desc 40 4)]
  | _ => []
where
  update : List (Nat × Nat) :=
    [(fld q.desc 40 8, (((d.part r.rs.partNo).index? (fbits q.desc 24 3 0)).map fun i => srcBytes i.params q).getD 0),
     (fld q.desc 48 8, fld q.desc 56 4)]

/-- A remote ring set reads a buffer of its host with an RDMA READ, in the service class of its command (R336, R448;
DESIGN CHOICE, log 130). -/
def Dev.askHost (d : Dev) (c : Clock) (r : ReqRef) (addr n : Nat) : Dev :=
  if (d.ring r.rs).regs.remote ∧ n ≠ 0 then d.readHost c r.rs (((d.req? r).map (·.service)).getD 0) addr n else d

def Dev.readInputs (d : Dev) (c : Clock) (r : ReqRef) : Dev :=
  (((d.req? r).map (d.inputs r)).getD []).foldl (fun (d : Dev) e => d.askHost c r e.1 e.2) d

/-- Admits a request: its input buffers are read, and it takes its epoch and its admission time (R24, R118, R336). -/
def Dev.enter (d : Dev) (c : Clock) (r : ReqRef) (f : Req → Req) : Dev :=
  let d := d.readInputs c r
  let p := r.rs.partNo
  let e := (d.part p).vis.cur
  let d := d.modPart p fun x => { x with vis := x.vis.take }
  d.modReq r fun q => f { q with admitted := true, waiting := false, epoch := e, admitTime := c.time,
                                 ponr := q.ponr || ponrAtAdmission q.opcode }

/-- Writes bytes that a command's body names to its host's memory (R320). -/
def Dev.hostOut (d : Dev) (c : Clock) (r : ReqRef) (addr : Nat) (b : Bytes) : Dev :=
  d.writeHost c r.rs (.result r.rs r.seq) (((d.req? r).map (·.service)).getD 0) addr b

/-- What a request holds of the context pool and of the traverse engines: the seats of its searches that have not ended, or the place
of an update (R24, R349, R386). -/
def Req.seats (q : Req) : List Seat :=
  (if q.place then [⟨0, 0, true, q.engine⟩] else []) ++ (match q.work with
    | .searches l => l.filterMap fun (s : SearchRun) => if s.status.isNone then s.seat else none
    | _ => [])

def Part.seats (x : Part) : List Seat := x.rings.flatMap fun r => r.inflight.flatMap Req.seats

/-- Traverse-engine places in use by a partition (R386). -/
def Part.placesUsed (x : Part) : Nat := (x.seats.filter (·.place)).length
def Part.placeFree (x : Part) : Bool := decide (x.placesUsed < 64 * x.cfg.places)

/-- Context-pool bytes in use by a partition (R85). -/
def Part.ctxUsed (x : Part) : Nat := sumNat (·.ctx) x.seats

/-- Every seat taken, of every partition. -/
def Dev.seats (d : Dev) : List Seat := d.parts.flatMap Part.seats

/-- The traverse engines in service: TE0 to TE263 but for retired ones and spares (R465). -/
def Dev.engines (d : Dev) : List Nat :=
  (List.range 264).filter fun e => !d.units.isRetired 2 e && !(d.units.spares 2).contains e

/-- The lowest-numbered traverse engine with a free slot of its 64 (R386; which engine is a DESIGN CHOICE, log 20). -/
def Dev.pickEngine (d : Dev) : Option Nat :=
  d.engines.find? fun e => decide ((d.seats.filter fun q => q.place && q.engine == e).length < 64)

/-- The lowest-numbered context-pool bank with `n` bytes free of its 3 MiB (R85, R457; which bank, log 20). -/
def Dev.pickBank (d : Dev) (n : Nat) : Option Nat :=
  (List.range 32).find? fun b => !d.units.isRetired 3 b &&
    decide (sumNat (·.ctx) (d.seats.filter fun q => q.bank == b) + n ≤ 3 * 2 ^ 20)

/-- The write of `n` bytes stays within the partition's quota and the module's unflushed limit (R292, R293). With the
limit at zero every write completes only when it is durable, so nothing waits. -/
def Dev.bufferRoom (d : Dev) (p n : Nat) : Bool :=
  decide (d.flash.unflushed (some p) + n ≤ (d.part p).cfg.wbMib * 2 ^ 20) &&
  (d.mgmt.unflushedLimit == 0 || decide (d.flash.unflushed none + n ≤ d.mgmt.unflushedLimit * 2 ^ 20))

/-- Pages that the groomer freed for a partition and side over the previous 1 ms, net of its relocations: R_g of R297. -/
def Flash.netFreed (f : Flash) (p side now : Nat) : Nat :=
  let l := f.freed.filter fun e => e.part == p && e.side == side && decide (now < e.time + 1000000)
  sumNat (·.freed) l - sumNat (·.written) l

/-- A write of a partition to a side is not held back: f is at or above LOW_WATER, or since the last write admitted so much time has passed
that the rate stays at R_w = R_g × f / LOW_WATER; with f at 0 it waits (R297; how a rate is held, log 124). -/
def Dev.paceOk (d : Dev) (p side now : Nat) : Bool :=
  let k := (d.part p).cfg
  let free := d.flash.freePerMille p side (if side = 0 then k.flash0 else k.flash1)
  let low := (d.part p).feat.lowWater
  let g := d.flash.netFreed p side now
  d.flash.lost side || (free != 0 && (decide (low ≤ free) || (g != 0 &&
    match d.flash.paced.find? fun e => e.part == p && e.side == side with
    | some e => decide (e.pages * low * 1000000 ≤ (now - e.time) * g * free)
    | none => true)))

/-- A write of `n` bytes to a side, or to both, need not wait (R292, R297). -/
def Dev.mayWrite (d : Dev) (p n now : Nat) (dual : Bool) (side : Nat) : Bool :=
  d.bufferRoom p n && (if dual then d.paceOk p 0 now && d.paceOk p 1 now else d.paceOk p side now)

/-- With an unflushed limit of zero, a write is durable before its command ends (R293). -/
def Dev.settleBuffer (d : Dev) (p : Nat) : Dev :=
  if d.mgmt.unflushedLimit = 0 then { d with flash := (d.flash.flushPart p).1 } else d

/-- DRAM open to partitions (R22): every channel that is neither a module channel nor a reserve channel. -/
def channelBytes : Nat := 4831838208   -- 4.5 GiB (R204)

end Sys2Proof.Machine
end

