-- ==== Sys2Proof/Machine/Records.lean ====
section
/-! DEFINITION. Runs appended to the record packs of a partition's journal: structure records of indexes, and of rows and master copies
where the tables are journaled (R247, R258, R277). -/

namespace Sys2Proof.Machine

open Sys2Proof

/-- Appends a run of record parts to the journal's record packs. -/
def Dev.packAppend (d : Dev) (c : Clock) (p : Nat) (run : Bytes) : Dev :=
  let x := d.part p
  let d : Dev := { d with flash := d.flash.acceptRecord c.time p x.keys.gen true 0 ownerJournal x.journal.pos run }
  d.modPart p fun y => { y with journal := { y.journal with pos := runAt y.journal.pos run.length + run.length } }

/-- A structure record of an index, or of the tables under tag 16, is appended; earlier pages become durable first where the write buffer
has no room for it (R258, R292). -/
def Dev.structRun (d : Dev) (c : Clock) (p tag : Nat) (body : Bytes) : Dev :=
  let run := recordRun 3 (d.part p).journal.next body
  let d : Dev := if d.bufferRoom p run.length then d else { d with flash := (d.flash.flushPart p).1 }
  let at_ := runAt (d.part p).journal.pos run.length
  let d := (d.packAppend c p run).modPart p fun y =>
    { y with journal := { y.journal with structs := y.journal.structs ++ [(tag, at_, run.length)] } }
  d.settleBuffer p

/-- Every write-back of a row, of a master copy or of an optimiser value goes to the journal: TABLE_JOURNAL is set, or the partition is
reproducible (R255, R258). -/
def Part.journaled (x : Part) : Bool := x.feat.place.tableJournal || x.cfg.repro

/-- The structure record of bytes that a write-back has left at a partition address: the address and the bytes (R258; log 74). -/
def Dev.backRecord (d : Dev) (c : Clock) (p : Nat) (e : Nat × Nat) : Dev :=
  if (d.part p).journaled then d.structRun c p 16 (le 8 e.1 ++ (d.part p).mem.dram.readN e.1 e.2) else d

end Sys2Proof.Machine
end

