-- ==== Sys2Proof/Machine/Channels.lean ====
section
/-! DEFINITION. Channels: where the bytes of a partition lie, modes, power tokens and command groups
(chapter 08: R204 to R222, with R231, R247 and R248). -/

namespace Sys2Proof.Machine

open Sys2Proof

/-! ### Places (R205, R227, R231, R248) -/

/-- Every package that a partition's models hold. -/
def Model.pkgs (k : Model) : List Pkg :=
  k.cur.toList ++ (k.next.map fun n => n.2.1).toList ++ (k.olds.filter fun (o : OldVer) => !o.freed).map fun (o : OldVer) => o.pkg

def Part.residents (x : Part) : List Resident := x.models.flatMap fun (k : Model) => k.pkgs.flatMap fun g => g.residents ++ g.residents2

/-- Engines of the channels that hold a resident tensor (R227). -/
def Resident.engines (t : Resident) : Nat := 8 * t.chans.length

/-- Lines of a resident tensor in each of its bank groups (R227). -/
def Resident.lines (t : Resident) : Nat := ceilDiv t.rows (max 1 t.engines) * (t.rowBytes / 64)

/-- Partition address of row `o` of a resident tensor: rows stand in order in its window (DESIGN CHOICE, log 12). -/
def Resident.rowAddr (t : Resident) (o : Nat) : Nat := t.window * windowBytes + o * t.rowBytes

/-- The channel of the partition's list that holds byte `a` of an object: engine-striped rows for a table or a resident tensor,
4 KiB granules for the others (R227, R231, R248). Answers a position of the list. -/
def Part.posOfByte (x : Part) (o : Obj) (a : Nat) : Nat :=
  let off := a - o.first * windowBytes
  if o.kind = .table then
    match x.tables.find? fun t => t.num == o.owner with
    | some t => t.channels.getD (off / max 1 t.rho % max 1 t.engines / 8) 0
    | none => 0
  else if o.kind = .resident then
    match x.residents.find? fun t => t.window == o.first with
    | some t => t.chans.getD (off / max 1 t.rowBytes % max 1 t.engines / 8) 0
    | none => 0
  else (off / 4096 + o.first) % max 1 x.life.chans.length

/-- The channels that an access to partition bytes `[a, a + n)` meets (R205, R212). -/
def Part.chansOf (x : Part) (a n : Nat) : List Nat :=
  dedupNat (((x.mapped a n).getD []).flatMap fun e => if e.1.kind = .stored then [] else
    (List.range (ceilDiv (e.2.1 % 64 + e.2.2) 64)).filterMap fun i => x.life.chans[x.posOfByte e.1 ((e.2.1 / 64 + i) * 64)]?)

/-- The lowest bank-group line from which `n` lines are free (DESIGN CHOICE, log 106). -/
def Part.freeLine (x : Part) (n : Nat) : Nat :=
  let ok := fun (l : Nat) => x.lines.all fun u => decide (u.first + u.count ≤ l) || decide (l + n ≤ u.first)
  (sortBy id ((0 :: x.lines.map fun u => u.first + u.count).filter ok)).headD 0

def Part.takeLines (x : Part) (kind id first n : Nat) : Part := { x with lines := ⟨kind, id, first, n⟩ :: x.lines }
def Part.dropLines (x : Part) (kind id : Nat) : Part := { x with lines := x.lines.filter fun u => !(u.kind == kind && u.id == id) }

/-- Lines of a table in each of its bank groups (R231). -/
def Table.lines (t : Table) : Nat := ceilDiv t.rows (max 1 t.engines) * (t.rho / 64)

/-- The engine at a position of the partition's list as an engine of the table, when its channel is one of the table's (R231). -/
def Table.enginePos (t : Table) (eng : Nat) : Option Nat := (posOf t.channels (eng / 8)).map fun i => 8 * i + eng % 8

/-- The engine at a position of the partition's list as an engine of a resident tensor (R227). -/
def Resident.enginePos (t : Resident) (eng : Nat) : Option Nat := (posOf t.chans (eng / 8)).map fun i => 8 * i + eng % 8

/-- The resident tensor with a line of an engine's bank group, and the line within the tensor's part (R227). -/
def Part.residentAt (x : Part) (eng line : Nat) : Option (Resident × Nat) :=
  (x.residents.find? fun t => (t.enginePos eng).isSome && decide (t.line ≤ line) && decide (line < t.line + t.lines)).map
    fun t => (t, line - t.line)

/-- The table with a line of an engine's bank group, and the line within the table's part (R231). -/
def Part.tableAt (x : Part) (eng line : Nat) : Option (Table × Nat) :=
  (x.lines.find? fun u => u.kind == 1 && decide (u.first ≤ line) && decide (line < u.first + u.count)).bind fun u =>
    (x.tables.find? fun t => t.num == u.id && (t.enginePos eng).isSome).map fun t => (t, line - u.first)

/-- The partition address of a line of an engine's bank group, when a resident tensor or a table lies there (R223, R227, R231). -/
def Part.lineAddr (x : Part) (eng line : Nat) : Option Nat :=
  match x.residentAt eng line with
  | some (t, l) =>
    let w := max 1 (t.rowBytes / 64)
    some (t.rowAddr (l / w * t.engines + (t.enginePos eng).getD 0) + l % w * 64)
  | none => (x.tableAt eng line).map fun q =>
    let w := max 1 (q.1.rho / 64)
    q.1.rowAddr (q.2 / w * q.1.engines + (q.1.enginePos eng).getD 0) + q.2 % w * 64

/-! ### Power tokens (R217 to R219) -/

/-- Channels of a stack that a partition owns. -/
def Dev.chansIn (d : Dev) (stack p : Nat) : Nat := ((d.part p).life.chans.filter fun c => c / 16 == stack).length

/-- The guarantee g_p (R219). -/
def Dev.guarantee (d : Dev) (stack p : Nat) : Nat := (d.arb stack).effective * d.chansIn stack p / 16

def Dev.share (d : Dev) (stack p : Nat) : TokShare :=
  ((d.arb stack).shares.find? fun s => s.part == p).getD ⟨p, d.guarantee stack p, 0, 0, false⟩

def Dev.setShare (d : Dev) (stack : Nat) (t : TokShare) : Dev :=
  d.modArb stack fun a => { a with shares := insertBy (·.part) t (a.shares.filter fun s => s.part != t.part) }

/-- Tokens of a stack that running groups hold. -/
def Dev.heldTokens (d : Dev) (stack : Nat) : Nat := sumNat (·.held) (d.arb stack).shares

/-- Takes a token, or notes that a group waited for one: its partition holds its grant, or groups of borrowers still hold what the budget
had left over (R217, R219). -/
def Dev.takeToken (d : Dev) (stack p : Nat) : Dev × Bool :=
  let t := d.share stack p
  if t.held < t.grant ∧ d.heldTokens stack < (d.arb stack).effective then (d.setShare stack { t with held := t.held + 1, maxHeld := max t.maxHeld (t.held + 1) }, true)
  else (d.setShare stack { t with waited := true }, false)

def Dev.dropToken (d : Dev) (stack p : Nat) : Dev :=
  let t := d.share stack p
  d.setShare stack { t with held := t.held - 1 }

/-- The channels of a stack. -/
def stackChans (stack : Nat) : List Nat := (List.range 16).map fun i => 16 * stack + i

/-- A group may start in a channel in processor mode: no access waits, or, at the end of a switch, its bound ends within
4 µs of the oldest access (R213). -/
def Channel.mayStart (x : Channel) (now bound : Nat) (afterSwitch : Bool) : Bool :=
  match x.oldest with
  | none => true
  | some t => afterSwitch && decide (now + bound ≤ t + 4000)

/-- A group that its channel would start now, were there a token: no access holds it back, its engine is free, and it is the first in
the queue for that engine (R211, R213, R221). -/
def Channel.couldStart (x : Channel) (now : Nat) (afterSwitch : Bool) (g : Group) : Bool :=
  x.mode == .processor && !x.lost && x.mayStart now g.bound afterSwitch && !(x.running.any fun r => r.eng == g.eng) &&
  !((x.queue.takeWhile fun q => q != g).any fun q => q.eng == g.eng)

/-- A group of the partition that could run but for its token waits in a channel of the stack. -/
def Dev.groupsWait (d : Dev) (now stack p : Nat) : Bool :=
  (stackChans stack).any fun ch => (d.chan ch).queue.any fun g => g.part == p && (d.chan ch).couldStart now false g

/-- The redistribution of R219 at one stack: the new budget is in force, lenders lend, borrowers share the pool. A group that
still waits has waited in the interval that begins. -/
def Dev.rebalance (now : Nat) (d : Dev) (stack : Nat) : Dev :=
  let d := d.modArb stack fun a => { a with effective := max 16 (min a.set a.cap) }
  let owners := (List.range 64).filter fun p => 0 < d.chansIn stack p
  let old := owners.map fun p => (d.share stack p, d.guarantee stack p)
  let lent := fun (x : TokShare × Nat) => if x.1.waited then 0 else x.2 - x.1.maxHeld
  let pool := (d.arb stack).effective - sumNat (·.2) old + sumNat lent old
  let borrowers := old.filter fun x => x.1.waited
  let total := sumNat (·.2) borrowers
  let part := fun (x : TokShare × Nat) => if total = 0 then 0 else pool * x.2 / total
  let left := pool - sumNat part borrowers
  let extra := fun (p : Nat) =>
    match posOf (borrowers.map fun x => x.1.part) p with
    | some i => left / borrowers.length + b2n (decide (i < left % borrowers.length))
    | none => 0
  let shares := old.map fun x =>
    let g := if x.1.waited then x.2 + part x + extra x.1.part else x.2 - lent x
    ({ x.1 with grant := g, maxHeld := x.1.held, waited := d.groupsWait now stack x.1.part } : TokShare)
  d.modArb stack fun a => { a with shares := shares }

/-! ### Modes and command groups (R211 to R217, R221) -/

/-- A channel in memory mode with a group queued and no access waiting begins to enter processor mode; one in processor
mode with an access waiting and no group running begins to leave it (R211). -/
def Channel.turn (x : Channel) : Channel :=
  if x.mode = .memory ∧ !x.queue.isEmpty ∧ x.oldest.isNone then { x with mode := .toProcessor, windowEnd := none }
  else if x.mode = .processor ∧ x.running.isEmpty ∧ x.oldest.isSome then { x with mode := .toMemory }
  else x

/-- Starts a queued group of a channel if the mode, the waiting accesses, its engine and the tokens let it (R211, R213, R217). -/
def Dev.startGroup (d : Dev) (now ch : Nat) (afterSwitch : Bool) (g : Group) : Dev :=
  let x := d.chan ch
  if x.couldStart now afterSwitch g then
    let r := d.takeToken (ch / 16) g.part
    if r.2 then r.1.modChan ch fun x => { x with queue := x.queue.erase g, running := x.running ++ [{ g with start := now }] }
    else r.1
  else d

/-- Starts queued groups of the stack of a channel in the order in which they were queued, while tokens last (R217, R219). With
`afterSwitch`, the channel itself has just entered processor mode (R213). -/
def Dev.startGroups (d : Dev) (now ch : Nat) (afterSwitch : Bool) : Dev :=
  let all := (stackChans (ch / 16)).flatMap fun k => (d.chan k).queue.map fun g => (k, g)
  (sortBy (fun e => e.2.ord) all).foldl (fun d e => d.startGroup now e.1 (afterSwitch && e.1 == ch) e.2) d

/-- The order number of the next group to be queued. -/
def Dev.nextOrd (d : Dev) : Nat :=
  d.channels.foldl (fun n x => (x.queue ++ x.running).foldl (fun n g => max n (g.ord + 1)) n) 1

/-- MEMORY_WINDOW of the owner of a channel (R216). -/
def Dev.windowOf (d : Dev) (ch : Nat) : Nat :=
  match d.chanOwner ch with
  | some (p, _) => (d.part p).feat.window
  | none => 2000

/-- A group is queued for its channel. In memory mode the admission of accesses then ends one memory window after the end of the
last switch (R214). -/
def Dev.queueGroup (d : Dev) (ch : Nat) (g : Group) : Dev :=
  let w := d.windowOf ch
  d.modChan ch fun y => ({ y with
    queue := y.queue ++ [g],
    windowEnd := if y.mode = .memory ∧ y.windowEnd.isNone then some (y.memSince + w) else y.windowEnd } : Channel).turn

/-- An ordinary access that arrived at `o` waits for memory mode (R211, R212). -/
def Channel.waits (x : Channel) (o : Option Nat) : Channel :=
  { x with oldest := match x.oldest, o with
      | some a, some b => some (min a b)
      | a, b => a.or b }

/-- An ordinary access waits from now on (R211, R212). -/
def Dev.accessWaits (d : Dev) (now ch : Nat) : Dev := d.modChan ch fun y => (y.waits (some now)).turn

/-- A switch of a channel ends: into processor mode, where groups may start; into memory mode, where the window opens and the
waiting accesses are served, and `oldest` is the arrival of the oldest that remains (R211, R213, R214). -/
def Dev.switchDone (d : Dev) (now ch : Nat) (oldest : Option Nat) : Dev :=
  let x := d.chan ch
  if x.mode = .toProcessor then
    let d := d.modChan ch fun y => ({ y with mode := .processor } : Channel).waits oldest
    (d.startGroups now ch true).modChan ch Channel.turn
  else if x.mode = .toMemory then
    let opens := if x.queue.isEmpty then none else some (now + d.windowOf ch)
    d.modChan ch fun y => { y with mode := .memory, oldest := oldest, closed := false, memSince := now, windowEnd := opens }
  else d

/-- The channels of a list that are not in memory mode: an ordinary access to one of them waits (R212). -/
def Dev.awayOf (d : Dev) (l : List Nat) : List Nat := l.filter fun ch => (d.chan ch).mode != .memory

end Sys2Proof.Machine
end

