-- ==== Sys2Proof/Machine/Tiles.lean ====
section
/-! DEFINITION. Descriptor programs on the tiles of a partition: dispatch, tokens, transfers, faults
(chapter 06: R146 to R180). -/

namespace Sys2Proof.Machine

open Sys2Proof

def classQueue : Nat → Nat
  | 0 => 0
  | 1 => 1
  | 2 => 1
  | 3 => 2
  | 4 => 3
  | _ => 4

/-- Held descriptors enter their queues in stream order until one finds its queue full (R147). -/
def Tile.refill (t : Tile) : Nat → Tile
  | 0 => t
  | n + 1 =>
    match t.held with
    | [] => t
    | x :: rest =>
      let q := classQueue (Td.cls x.d)
      if 32 ≤ (t.queues.getD q []).length then t
      else ({ t with held := rest, queues := modAt (· ++ [x]) q t.queues } : Tile).refill n

/-- The wait a descriptor still has: token and count (R148, R176). -/
def TDesc.wait (x : TDesc) : Option (Nat × Nat) :=
  if !x.waited then some (fbits x.d 2 5 0, fld x.d 3 1)
  else if !x.opWaited then some (fbits x.d 8 5 0, fld x.d 10 2)
  else none

/-- The token of a WAIT's own wait that stands behind its header wait. -/
def TDesc.laterWait (x : TDesc) : List Nat := if !x.waited && !x.opWaited then [fbits x.d 8 5 0] else []

/-- Satisfies waits in dispatch order: on each token only the oldest pending wait may be served (R175). -/
def Tile.serveWaits (t : Tile) : Tile :=
  let all := sortBy (·.idx) t.queues.flatten
  let r := all.foldl (fun (acc : List Nat × List Nat × List (Nat × Bool)) x =>
    match x.wait with
    | none => acc
    | some w =>
      if w.2 ≤ acc.1.getD w.1 0 ∧ !acc.2.1.contains w.1 then
        (modAt (· - w.2) w.1 acc.1, acc.2.1 ++ x.laterWait, acc.2.2 ++ [(x.idx, x.waited)])
      else (acc.1, acc.2.1 ++ [w.1] ++ x.laterWait, acc.2.2)) (t.tokens, [], [])
  { t with tokens := r.1, queues := t.queues.map fun q => q.map fun x =>
      match r.2.2.find? fun e => e.1 == x.idx with
      | some (_, true) => { x with opWaited := true }
      | some (_, false) => { x with waited := true }
      | none => x }

/-- The heads that can start: their waits are satisfied, and a FENCE or END is the oldest descriptor (R147, R176). -/
def Tile.ready (t : Tile) : List TDesc :=
  let all := t.queues.flatten
  let heads := t.queues.filterMap fun q => q.head?
  (sortBy (·.idx) (heads.filter fun x => x.waited && x.opWaited &&
    (!(Td.cls x.d == 5 && decide (2 ≤ Td.op x.d)) || all.all fun y => decide (x.idx ≤ y.idx))))

/-- Removes a descriptor that has completed. -/
def Tile.complete (t : Tile) (idx : Nat) : Tile :=
  ({ t with queues := t.queues.map fun q => q.filter fun x => x.idx != idx } : Tile).refill 1024

/-- The tile-fault event (R180). -/
def tileFaultBytes (c : Clock) (code cls op pos site idx detail : Nat) : Bytes :=
  le 1 code ++ le 1 (cls + 16 * op) ++ le 2 pos ++ le 2 site ++ zeros 2 ++ le 4 idx ++ le 8 c.time ++
  le 1 (b2n c.timeLost) ++ le 3 detail

/-- The status a fault gives the requests of its invocation (R179). -/
def faultStatus (code : Nat) : Nat := if code = 7 then statusPOISON else if code = 8 then statusMEDIA else statusBADFIELD

/-- How a request (or one search of a batch) ends when the invocation that serves it stops with a status, and whether a tile fault
stopped it (R103, R179). -/
abbrev Ends := Dev → ReqRef → Nat → Bool → Nat → Dev

/-- The running invocation of a partition: invocations run one at a time, oldest first (DESIGN CHOICE, log 105). -/
def Part.running (x : Part) : Option Inv := x.invs.find? (·.going)

/-- The requests, with the search of a batch, that an invocation still serves. -/
def Inv.serves (i : Inv) : List (ReqRef × Nat) :=
  (i.rows.filter (·.live)).foldl (fun (l : List (ReqRef × Nat)) w => if l.contains (w.req, w.sub) then l else l ++ [(w.req, w.sub)]) []

/-- The running invocation ends, and each request that it serves ends with `status` (R179, R209). -/
def Dev.failInv (d : Dev) (fin : Ends) (p : Nat) (tile : Bool) (status : Nat) : Dev :=
  match (d.part p).running with
  | none => d
  | some i =>
    let d := (d.stopInv p).modPart p fun y => { y with invs := y.invs.filter fun k => !k.going }
    i.serves.foldl (fun d r => fin d r.1 r.2 tile status) d

/-- A program fault ends the invocation on every tile of the group and each request it serves (R179, R180). -/
def Dev.tileFault (d : Dev) (c : Clock) (fin : Ends) (p pos site : Nat) (x : TDesc) (code detail : Nat) : Dev :=
  (d.postEvent c p 2 (tileFaultBytes c code (Td.cls x.d) (Td.op x.d) pos site x.idx detail)).failInv fin p true (faultStatus code)

/-- The batch row that holds token number `t` of the batch. -/
def tokenRow : List InvRow → Nat → Option InvRow
  | [], _ => none
  | w :: l, t => if t < w.tokens then some w else tokenRow l (t - w.tokens)

/-- The rows of a batch to which row `r` of a descriptor that runs `rows` rows belongs: the batch's own rows, its tokens, equal
parts for each row, or the whole batch (R50, R198; DESIGN CHOICE, log 107). -/
def Inv.owners (i : Inv) (rows r : Nat) : List InvRow :=
  let k := i.rows.length
  if rows = k then i.rows[r]?.toList
  else if rows = sumNat (·.tokens) i.rows then (tokenRow i.rows r).toList
  else if k ≠ 0 ∧ rows % k = 0 then i.rows[r / (rows / k)]?.toList
  else i.rows

/-- A row of a batch gives its request a result flag: a search takes SATURATED and NAN_SEEN alone, an update SATURATED alone
(R50, R102, R198). -/
def Dev.flagRow (d : Dev) (f : Nat) (w : InvRow) : Dev :=
  if !w.live then d else
  d.modReq w.req fun q => match q.work with
    | .searches l => { q with work := .searches (modAt (fun (k : SearchRun) =>
        { k with flags := k.flags ||| (f &&& (flagSAT ||| flagNAN)) }) w.sub l) }
    | .upd _ => { q with flags := q.flags ||| (f &&& flagSAT) }
    | _ => { q with flags := q.flags ||| f }

/-- What the rows of a descriptor leave for the requests of the running invocation (R50, R198). -/
def Dev.markRows (d : Dev) (p rows : Nat) (marks : List RowMark) : Dev :=
  match (d.part p).running with
  | none => d
  | some i => marks.foldl (fun d m => (i.owners rows m.row).foldl (fun d w => d.flagRow m.flags w) d) d

/-- Adds a signal to tokens of tiles; a counter that would pass 65,535 stops there and is a fault (R148, R177). -/
def Dev.signal (d : Dev) (sites : List Nat) (token n : Nat) : Dev × Bool :=
  sites.foldl (fun (acc : Dev × Bool) t =>
    let past := decide (65535 < (acc.1.tile t).tokens.getD token 0 + n)
    (acc.1.modTile t fun x => { x with tokens := modAt (fun v => min 65535 (v + n)) token x.tokens }, acc.2 || past)) (d, false)

/-! ### Transfers (R170 to R174) -/

/-- The capacity of a stored object in bytes (R357). -/
def Obj.capBytes (o : Obj) : Nat := if o.kind = .stored then o.capGib * 2 ^ 30 else o.size

/-- Whether a page-mapped unit can be read: one of the copies that R256 and R286 leave to it. -/
def Dev.unitReadable (d : Dev) (p : Nat) (o : Obj) (unit : Nat) : Bool :=
  d.flash.readable p o.first (unit - o.first * (2 ^ 36 / 16384)) (!o.single) (singleSide o.first p)

/-- The part of a range that lies in one object, read for a transfer, or the code of its fault (R171, R209, R249, R256). -/
def Dev.pieceRead (d : Dev) (p : Nat) (o : Obj) (a n : Nat) : Except Nat Bytes :=
  let x := d.part p
  if o.kind ≠ .stored then (if x.mem.poisoned a n then .error 7 else .ok (x.mem.dram.readN a n)) else
  let units := (List.range (ceilDiv (a % 16384 + n) 16384)).map fun i => a / 16384 + i
  if units.any x.mem.discarded.contains then .error 6
  else if !units.all (fun u => x.mem.staged.contains u || d.unitReadable p o u) then .error 8
  else .ok (x.mem.flash.readN a n)

/-- Bytes of partition memory for a transfer, or the code of its fault (R171, R209, R244, R249, R256). -/
def Dev.partRead (d : Dev) (p a n : Nat) : Except Nat Bytes :=
  match (d.part p).mapped a n with
  | none => .error 6
  | some l => l.foldl (fun (acc : Except Nat Bytes) e => match acc, d.pieceRead p e.1 e.2.1 e.2.2 with
      | .error k, _ => .error k
      | _, .error k => .error k
      | .ok b, .ok c => .ok (b ++ c)) (.ok [])

/-- Units read through read staging become the most recently used (R249, R255). -/
def Part.stage (x : Part) (a n : Nat) : Part :=
  let units := (List.range (ceilDiv (a % 16384 + n) 16384)).map fun i => a / 16384 + i
  let l := (x.mem.staged.filter fun u => !units.contains u) ++ units
  let room := x.feat.place.stagingMib * 64
  { x with mem := { x.mem with staged := l.drop (l.length - room) } }

/-- A read of a flash-homed window stages its units: every codeword of those not staged yet is transferred (R249, R269). -/
def Dev.stageRead (d : Dev) (now p a n : Nat) : Dev :=
  (((d.part p).mapped a n).getD []).foldl (fun (d : Dev) e =>
    let o := e.1
    if o.kind ≠ .stored then d else
    let x := d.part p
    let units := (List.range (ceilDiv (e.2.1 % 16384 + e.2.2) 16384)).map fun i => e.2.1 / 16384 + i
    let flash := (units.filter fun u => !x.mem.staged.contains u).foldl (fun (f : Flash) u =>
      f.readCodewords now p o.first (u - o.first * (windowBytes / 16384)) 0 pageBytes) d.flash
    { d.modPart p fun x => x.stage e.2.1 e.2.2 with flash := flash }) d

/-- Partial lines of a write that meet poison: the write reaches its request as a poisoned read (R208). -/
def PartMem.partialPoison (m : PartMem) (a n : Nat) : Bool :=
  m.poison.any fun l => decide (a / 64 ≤ l) && decide (l * 64 < a + n) && !(decide (a ≤ l * 64) && decide (l * 64 + 64 ≤ a + n))

/-- An endpoint of a transfer: none for partition memory, or a tile site. -/
def Dev.endpoint (d : Dev) (p site name : Nat) : Option Nat :=
  if name = 0xFFFE then none else if name = 0xFFFF then some site else some (d.siteAt p name)

/-- The destinations of an XFER: for a MULTICAST, DST_TILES tiles from the first position on, 0xFFFF being the tile's own
(R171, R174). -/
def Dev.xferDests (d : Dev) (p pos site : Nat) (b : Bytes) : List (Option Nat) :=
  if Td.op b = 3 then
    let first := if fld b 26 2 = 0xFFFF then pos else fld b 26 2
    (List.range (fld b 28 2)).map fun i => some (d.siteAt p (first + i))
  else [d.endpoint p site (fld b 26 2)]

/-- One destination row written; the code of its fault otherwise. -/
def Dev.xferPut (d : Dev) (p : Nat) (dst : Option Nat) (a : Nat) (b : Bytes) (add : Bool) : Except Nat Dev :=
  match dst with
  | some t =>
    if !inSram a b.length then .error 2
    else
      let old := (d.tile t).sram
      let new := if add then
          (chunks 4 b).zip (List.range (b.length / 4)) |>.flatMap fun q =>
            le 4 (f32add (f32at old (a + 4 * q.2)) (BitVec.ofNat 32 (leNat q.1))).toNat
        else b
      .ok (d.modTile t fun x => { x with sram := x.sram.writeN a new })
  | none =>
    let x := d.part p
    if !x.dramRange a b.length then .error 6
    else if x.mem.partialPoison a b.length then .error 7
    else .ok (d.modPart p fun y => { y with mem := y.mem.put a b })

/-- An XFER descriptor of a tile: the new device, or a fault code and detail (R171 to R174). -/
def Dev.runXfer (d : Dev) (now p pos site : Nat) (b : Bytes) : Except (Nat × Nat) Dev :=
  let op := Td.op b
  let sram := (d.tile site).sram
  match countOf sram b (fld b 36 2) with
  | .error w => .error (4, w)
  | .ok rows =>
    let n := fld b 32 4
    let idxA := Td.a24 b 48
    let limit := fld b 52 4
    let indexed_ := op == 1 || op == 2 || (op == 4 && idxA != 0)
    let index := fun (i : Nat) => if indexed_ then sram.readLe (idxA + 4 * i) 4 else i
    if !tileExtents b rows then .error (2, 0) else
    match (List.range rows).find? fun i => indexed_ && index i != 0xFFFFFFFF && decide (limit ≤ index i) with
    | some i => .error (3, i)
    | none =>
      let src := d.endpoint p site (fld b 24 2)
      let sAddr := fun (i : Nat) => fld b 8 8 + (if op = 1 then index i else i) * fld b 40 4
      let dAddr := fun (i : Nat) => fld b 16 8 + (if op = 1 then i else index i) * fld b 44 4
      let read := fun (i : Nat) =>
        if op = 1 ∧ index i = 0xFFFFFFFF then (.ok (zeros n) : Except Nat Bytes)
        else match src with
          | none => d.partRead p (sAddr i) n
          | some t => if inSram (sAddr i) n then .ok ((d.tile t).sram.readN (sAddr i) n) else .error 2
      let dsts := d.xferDests p pos site b
      let start := match src with
        | none => (List.range rows).foldl (fun (d : Dev) i => d.stageRead now p (sAddr i) n) d
        | some _ => d
      (List.range rows).foldl (fun (acc : Except (Nat × Nat) Dev) i =>
        match acc with
        | .error e => .error e
        | .ok d =>
          if (op = 2 ∨ (op = 4 ∧ idxA ≠ 0)) ∧ index i = 0xFFFFFFFF then .ok d
          else match read i with
            | .error e => .error (e, 0)
            | .ok row => dsts.foldl (fun (a2 : Except (Nat × Nat) Dev) t =>
                match a2 with
                | .error e => .error e
                | .ok d => match d.xferPut p t (dAddr i) row (op == 4) with
                  | .error e => .error (e, 0)
                  | .ok d => .ok d) (.ok d)) (.ok start)

/-! ### Running -/

/-- The package that serves a version of a model: the one in use or one that it replaced (R186). -/
def Part.pkgOf (x : Part) (m v : Nat) : Option Pkg :=
  (x.models.find? fun k => k.id == m).bind fun k =>
    if k.base ≤ v ∧ v ≤ k.version then k.cur
    else (k.olds.find? fun (o : OldVer) => decide (o.base ≤ v) && decide (v ≤ o.version)).map (·.pkg)

def Part.modRunning (x : Part) (f : Inv → Inv) : Part := { x with invs := modIf (·.going) f x.invs }

/-- Marks a plan entry done once its tile phase has ended on every position of the package (R191). -/
def Part.entryEnded (x : Part) (entry pos : Nat) : Part :=
  x.modRunning fun i =>
    let ended := (entry, pos) :: i.ended
    let tiles := ((x.pkgOf i.model i.version).map Pkg.tiles).getD 0
    let all := (List.range tiles).all fun q => ended.contains (entry, q)
    { i with ended := ended, done := if all ∧ !i.done.contains entry then entry :: i.done else i.done }

/-- A descriptor completes: it leaves its queue, and its signal goes out once every byte it writes is visible (R148). A signal
that would take a counter past its end is a fault (R177). -/
def Dev.descDone (d : Dev) (c : Clock) (fin : Ends) (p pos site : Nat) (x : TDesc) : Dev × Bool :=
  let d := d.modTile site fun y => y.complete x.idx
  if !Td.signalEn x.d then (d, true) else
  let name := fld x.d 6 2
  let dests := if name = 0xFFFF then [site]
    else if name = 0xFFFE then (d.xferDests p pos site x.d).filterMap id
    else [d.siteAt p name]
  let r := d.signal dests (fbits x.d 4 5 0) (fld x.d 5 1)
  if r.2 then (r.1.tileFault c fin p pos site x 1 0, false) else (r.1, true)

/-- Runs one descriptor that can start on tile `site` of partition `p` (R147, R148). -/
def Dev.runDesc (d : Dev) (c : Clock) (fin : Ends) (p pos site : Nat) (x : TDesc) : Dev :=
  let t := d.tile site
  let repro := (d.part p).cfg.repro
  match Td.cls x.d with
  | 4 =>
    (match d.runXfer c.time p pos site x.d with
    | .error e => d.tileFault c fin p pos site x e.1 e.2
    | .ok d => (d.descDone c fin p pos site x).1)
  | 5 =>
    let op := Td.op x.d
    if op = 1 then
      let dest := if fld x.d 12 2 = 0xFFFF then site else d.siteAt p (fld x.d 12 2)
      let r := d.signal [dest] (fbits x.d 8 5 0) (fld x.d 10 2)
      if r.2 then r.1.tileFault c fin p pos site x 1 0 else (r.1.descDone c fin p pos site x).1
    else if op = 3 then
      let r := d.descDone c fin p pos site x
      if !r.2 then r.1 else
      let d := r.1.modTile site fun y => { y with running := false, entry := none }
      (match t.entry with
      | some e => d.modPart p fun y => y.entryEnded e pos
      | none => d)
    else (d.descDone c fin p pos site x).1
  | k =>
    let res := if k = 0 then runMatrix t.sram x.d else if k = 1 then runVector t.sram x.d
      else if k = 2 then runQuant t.sram x.d else runScreen t.sram x.d repro
    match res with
    | .fault code detail sram => (d.modTile site fun y => { y with sram := sram }).tileFault c fin p pos site x code detail
    | .ok sram counter rows marks =>
      let d := d.modTile site fun y => { y with sram := sram }
      let d := d.saturate c p counter (sumNat (·.sat) marks) site
      ((d.markRows p rows marks).descDone c fin p pos site x).1

/-- The partition addresses at which the rows of a transfer of a tile begin: those it reads, and those it writes (R171 to R174). -/
def Dev.xferRows (d : Dev) (site : Nat) (b : Bytes) : List Nat × List Nat :=
  if Td.cls b ≠ 4 then ([], []) else
  let sram := (d.tile site).sram
  let op := Td.op b
  let idx := Td.a24 b 48
  let rows := match countOf sram b (fld b 36 2) with
    | .ok n => n
    | .error _ => 0
  let at_ := fun (name base stride : Nat) (indexed_ : Bool) => if fld b name 2 ≠ 0xFFFE then [] else
    (List.range rows).filterMap fun i =>
      let k := if indexed_ then sram.readLe (idx + 4 * i) 4 else i
      if k = 0xFFFFFFFF then none else some (fld b base 8 + k * fld b stride 4)
  (at_ 24 8 40 (op == 1), at_ 26 16 44 (op == 2 || (op == 4 && idx != 0)))

/-- The channels that a transfer meets at its partition side (R212). -/
def Dev.xferChans (d : Dev) (p site : Nat) (b : Bytes) : List Nat :=
  let r := d.xferRows site b
  dedupNat ((r.1 ++ r.2).flatMap fun a => (d.part p).chansOf a (fld b 32 4))

/-- A transfer reads a flash-homed window, and a map scan still rebuilds an entry that it needs (R249, R261). -/
def Dev.xferWaits (d : Dev) (p site : Nat) (b : Bytes) : Bool :=
  let x := d.part p
  !d.flash.entriesLost.isEmpty && (d.xferRows site b).1.any fun a =>
    ((x.mapped a (fld b 32 4)).getD []).any fun e => e.1.kind == .stored &&
      (List.range (ceilDiv (e.2.1 % 16384 + e.2.2) 16384)).any fun i =>
        let u := e.2.1 / 16384 + i
        !x.mem.staged.contains u && d.flash.waits p e.1.first (u - e.1.first * (windowBytes / 16384)) (!e.1.single) (singleSide e.1.first p)

/-- Runs descriptors of a partition's tiles until none can start. What stands behind an END in its stream and is queued still runs (DESIGN
CHOICE, log 103: R176 says what END waits for, not what becomes of later ones). A transfer whose channels are not all in memory mode waits in
its queue, and so does one that needs a map entry being rebuilt (R212, R261). -/
def Dev.runTiles (c : Clock) (fin : Ends) (p : Nat) : Nat → Dev → Dev
  | 0, d => d
  | n + 1, d =>
    let sites := indexed (d.part p).life.sites
    let d := sites.foldl (fun d s => d.modTile s.2 fun t => t.serveWaits.serveWaits) d
    let heads := sites.flatMap fun s => (d.tile s.2).ready.map fun x => (s.1, s.2, x)
    match heads.find? fun h => (d.awayOf (d.xferChans p h.2.1 h.2.2.d)).isEmpty && !d.xferWaits p h.2.1 h.2.2.d with
    | some (pos, site, x) => (d.runDesc c fin p pos site x).runTiles c fin p n
    | none => heads.foldl (fun d h => (d.awayOf (d.xferChans p h.2.1 h.2.2.d)).foldl (fun d ch => d.accessWaits c.time ch) d) d

/-- Descriptors waiting on a partition's tiles, with the waits they can still make: a bound of its run. -/
def Dev.tileFuel (d : Dev) (p : Nat) : Nat :=
  2 * sumNat (fun t => (d.tile t).held.length + sumNat List.length (d.tile t).queues) (d.part p).life.sites + 2

/-- The next descriptor of a tile's stream enters its queue (R147). -/
def Dev.dispatch (d : Dev) (t : Nat) : Dev :=
  let x := d.tile t
  match x.prog[x.next]? with
  | none => d
  | some b =>
    if !x.running then d else
    let isWait := Td.cls b == 5 && Td.op b == 0
    d.modTile t fun y =>
      ({ y with next := y.next + 1, held := y.held ++ [⟨y.next, b, !Td.waitEn b, !isWait⟩] } : Tile).refill 1024

end Sys2Proof.Machine
end

