-- ==== Sys2Proof/Machine/Banks.lean ====
section
/-! DEFINITION. Bank-engine commands, their bounds, and the groups that hold them
(chapter 08: R220 to R228, R236, R240 to R243). -/

namespace Sys2Proof.Machine

open Sys2Proof

/-! ### Command records (R223, R224) -/

namespace Bc
def op (c : Bytes) : Nat := fld c 0 1
def count (c : Bytes) : Nat := fld c 2 2
def loc (c : Bytes) : Nat := fld c 4 4
def addr (c : Bytes) : Nat := fld c 8 8
def sIn (c : Bytes) : Nat := fld c 16 2
def sOut (c : Bytes) : Nat := fld c 18 2
def p0 (c : Bytes) : Nat := fld c 20 4
def p1 (c : Bytes) : Nat := fld c 24 4
end Bc

/-- Lines of a bank group (R204, R223). -/
def bankLines : Nat := 9437184

/-- The fields of a command record that need nothing else (R223, R224, R225). -/
def bankCmdOk (c : Bytes) : Bool :=
  c.length == 32 && decide (1 ≤ Bc.op c) && decide (Bc.op c ≤ 7) && zeroAt c 1 1 && zeroAt c 28 4 &&
  Bc.sIn c % 64 == 0 && Bc.sOut c % 64 == 0 && decide (Bc.loc c < bankLines) && (decide (Bc.op c ≤ 2) || zeroAt c 8 8) &&
  (Bc.op c != 3 || Bc.count c == 1)

/-- What PARAM of a MATVEC says: elements, formats, scale groups, and the bytes of a weight row (R227). -/
structure MvShape where
  k : Nat
  act : Elem
  weight : Elem
  group : Nat
  rowScale : Bool
  deriving DecidableEq, Repr

def MvShape.groupSize (m : MvShape) : Nat := if m.group = 1 then 32 else if m.group = 2 then 64 else 128
def MvShape.codeBytes (m : MvShape) : Nat := ceilDiv (m.k * m.weight.bits) 8
/-- Bytes of a weight row with its scales, padded to lines (R225). -/
def MvShape.rowBytes (m : MvShape) : Nat :=
  roundUp (m.codeBytes + (if m.group = 0 then 0 else 2 * ceilDiv m.k m.groupSize)) 64
def MvShape.actBytes (m : MvShape) : Nat := ceilDiv (m.k * m.act.bits) 8

/-- A pair of formats that a MATRIX takes, and no reserved bit (R152, R227). -/
def MvShape.ofParam (prm : Nat) : Option MvShape :=
  match Elem.ofCode (prm / 2 ^ 16 % 8), Elem.ofCode (prm / 2 ^ 19 % 8) with
  | some aF, some wF =>
    if !(pairOk 0 wF aF) || wF == .bit || prm % 65536 == 0 || decide (2 ^ 25 ≤ prm) then none
    else some ⟨prm % 65536, aF, wF, prm / 2 ^ 22 % 4, bitAt prm 24⟩
  | _, _ => none

/-- One output of a MATVEC: the row's codes and scales with the activation, in the order of a MATRIX with M = 1 (R227, R228). -/
def MvShape.row (m : MvShape) (row vec : Bytes) : F32 :=
  let ws := (List.range m.k).map fun i => (i, elemCode m.weight row i)
  let scale := fun (i : Nat) =>
    if m.group = 0 then f32num f32one else f16num (BitVec.ofNat 16 (fld row (m.codeBytes + 2 * i) 2))
  let y := dotGroups m.weight m.act m.groupSize (scaleGroups 0 m.groupSize m.k ws) scale f32zero ws fun i => elemCode m.act vec i
  if m.rowScale then f32mul y (BitVec.ofNat 32 (fld vec m.actBytes 4)) else y

/-- Lines of a range of an index: its sketches, its attribute words and its node-state array (R226). -/
def IndexParams.rangeLines (i : IndexParams) : Nat := i.sketchBits + 8 * i.attrBytes + 2

/-- Lines that an index takes in each bank group of the partition, for the ranges of its capacity (R79, R226). -/
def IndexParams.lines (i : IndexParams) (engines : Nat) : Nat :=
  ceilDiv (ceilDiv i.capacity 512) (max 1 engines) * i.rangeLines

/-- The index and the range whose first line an engine has at a line (R79, R226). -/
def Part.rangeAt (x : Part) (eng line : Nat) : Option (Index × Nat) :=
  (x.lines.find? fun u => u.kind == 2 && decide (u.first ≤ line) && decide (line < u.first + u.count)).bind fun u =>
    (x.index? u.id).bind fun i =>
      let n := i.params.rangeLines
      if (line - u.first) % n = 0 then some (i, (line - u.first) / n * x.engineCount + eng) else none

/-- Bytes of one request of a ROW_READ: a row number and an FP32 weight (DESIGN CHOICE, log 108). -/
def rowReq : Nat := 8
/-- Bytes of one record of a ROW_UPDATE: a row number, four zero bytes and DIM FP32 values (DESIGN CHOICE, log 108). -/
def Table.updReq (t : Table) : Nat := 8 + 4 * t.dim

/-- The bound term of a command in units of 1/32 ns (R221, R224), for a table with records of `rho` bytes and a range of
`scan` bytes. -/
def bankTerm (c : Bytes) (rho scan : Nat) : Nat :=
  let n := Bc.count c
  640 + (match Bc.op c with
    | 1 => 128 * n
    | 2 => 128 * n
    | 3 => scan
    | 4 => n * ((MvShape.ofParam (Bc.p0 c)).map MvShape.rowBytes).getD 64
    | 5 => n * rho
    | 6 => 2 * n * rho
    | _ => 64 * n)

/-- Bytes that a SCAN of a range reads: sketches, attribute words, change-table entries and node states (R224). -/
def scanBytesOf (bits attr : Nat) : Nat := 512 * (bits / 8 + attr + 16) + 128

/-- The bound of a group in units of 1/32 ns (R221). -/
def groupTerms (terms : List Nat) : Nat := 3200 + sumNat id terms

/-- The scratch extents of a command (R220, R225); `dim` is the DIM of the table it names. -/
def scratchOk (c : Bytes) (dim : Nat) : Bool :=
  let n := Bc.count c
  let inN := match Bc.op c with
    | 2 => 64 * n
    | 3 => 256
    | 4 => ((MvShape.ofParam (Bc.p0 c)).map fun m => m.actBytes + 4).getD 65537
    | 5 => rowReq * n
    | 6 => (8 + 4 * dim) * n
    | _ => 0
  let outN := match Bc.op c with
    | 1 => 64 * n
    | 3 => 1040
    | 4 => 4 * n
    | 5 => 4 * dim * n
    | _ => 0
  decide (Bc.sIn c + inN ≤ 65536) && decide (Bc.sOut c + outN ≤ 65536)

/-- The bound of a group of an engine in the partition's memory, in units of 1/32 ns. -/
def Part.groupBound (x : Part) (eng : Nat) (cmds : List Bytes) : Nat :=
  groupTerms (cmds.map fun c => bankTerm c (((x.tableAt eng (Bc.loc c)).map fun t => t.1.rho).getD 64)
    (((x.rangeAt eng (Bc.loc c)).map fun i => scanBytesOf i.1.params.sketchBits i.1.params.attrBytes).getD (scanBytesOf 1024 16)))

/-- An address range of `n` bytes lies in the tile window, on a tile of the group (R244, R246). -/
def Part.inTileWindow (x : Part) (a n : Nat) : Bool :=
  decide (0xF000000000000000 ≤ a) && decide ((a - 0xF000000000000000) / 2 ^ 24 < x.life.sites.length) && inSram (a % 2 ^ 24) n

/-- `n` lines of an engine from a line on lie in one tensor or one table (R225). -/
def Part.linesOk (x : Part) (eng line n : Nat) : Bool :=
  match x.residentAt eng line with
  | some (t, l) => decide (l + n ≤ t.lines)
  | none => (x.tableAt eng line).any fun q => decide (q.2 + n ≤ q.1.lines)

/-- The LOCAL and PART_ADDR extents of a command of the device's own groups (R225). -/
def Part.cmdExtents (x : Part) (eng : Nat) (c : Bytes) : Bool :=
  let n := Bc.count c
  match Bc.op c with
  | 3 => (x.rangeAt eng (Bc.loc c)).isSome
  | 4 => (MvShape.ofParam (Bc.p0 c)).any fun m => x.linesOk eng (Bc.loc c) (n * m.rowBytes / 64)
  | 5 => (x.tableAt eng (Bc.loc c)).isSome
  | 6 => (x.tableAt eng (Bc.loc c)).isSome
  | 7 => x.linesOk eng (Bc.loc c) n
  | _ => x.dramRange (Bc.addr c) (64 * n) || x.inTileWindow (Bc.addr c) (64 * n)

/-- A group that the device builds itself meets the rules of R225 (R221). -/
def Part.groupOk (x : Part) (eng : Nat) (cmds : List Bytes) : Bool :=
  decide (1 ≤ cmds.length) && decide (cmds.length ≤ 64) && decide (x.groupBound eng cmds ≤ 128000) &&
  cmds.all fun c => bankCmdOk c && scratchOk c (((x.tableAt eng (Bc.loc c)).map fun t => t.1.dim).getD 1024) && x.cmdExtents eng c

/-! ### Scratch and lines of an engine -/

def scratchKey (eng byte : Nat) : Nat := eng * 65536 + byte

def Part.scratchRead (x : Part) (eng a n : Nat) : Bytes := x.scratch.readN (scratchKey eng a) n

/-- Whether some of `n` scratch bytes were computed from a poisoned line (R208). -/
def Part.scratchTainted (x : Part) (eng a n : Nat) : Bool :=
  x.scratchBad.any fun l => decide (scratchKey eng a / 64 ≤ l) && decide (l * 64 < scratchKey eng a + n)

/-- Writes scratch: its 64-byte lines are tainted, or those wholly written are clean (R208). -/
def Part.scratchWrite (x : Part) (eng a : Nat) (b : Bytes) (bad : Bool) : Part :=
  let k := scratchKey eng a
  let touched := (List.range (ceilDiv (k % 64 + b.length) 64)).map fun i => k / 64 + i
  let whole := fun (l : Nat) => decide (k ≤ l * 64) && decide (l * 64 + 64 ≤ k + b.length)
  { x with scratch := x.scratch.writeN k b,
           scratchBad := if bad then x.scratchBad ++ touched.filter fun l => !x.scratchBad.contains l
             else x.scratchBad.filter fun l => !(touched.contains l && whole l) }

/-- The bytes of `n` lines of an engine from a line on, and whether a line is poisoned; none where no tensor or table lies
(R208, R220). -/
def Part.linesRead (x : Part) (eng line n : Nat) : Option (Bytes × Bool) :=
  if bankLines < line + n then none else
  (List.range n).foldl (fun (acc : Option (Bytes × Bool)) i => match acc, x.lineAddr eng (line + i) with
    | some b, some a => some (b.1 ++ x.mem.dram.readN a 64, b.2 || x.mem.poisoned a 64)
    | _, _ => none) (some ([], false))

/-- The lines of `[a, a + n)` become poisoned (R208). -/
def PartMem.taint (m : PartMem) (a n : Nat) : PartMem :=
  let ls := (List.range (ceilDiv (a % 64 + n) 64)).map fun i => a / 64 + i
  { m with poison := m.poison ++ ls.filter fun l => !m.poison.contains l }

/-- The tile site and SRAM address of a tile-window address (R244, R246). -/
def Dev.tileWindow (d : Dev) (p a n : Nat) : Option (Nat × Nat) :=
  let base := 0xF000000000000000
  if a < base then none
  else
    let o := a - base
    let pos := o / 2 ^ 24
    if pos < (d.part p).life.sites.length && inSram (o % 2 ^ 24) n then some (d.siteAt p pos, o % 2 ^ 24) else none

/-- Nodes of a range of an index at an epoch (R93, R226). -/
def Index.scanNodes (i : Index) (range epoch : Nat) : List Node :=
  (i.graphAt epoch).nodes.filter fun n => n.slot / 512 == range && !n.freed

/-- What a SCAN with this parameter block leaves for a range: the count, whether more were eligible, and the best entries in order
(R95, R226). -/
def Index.scanBytes (i : Index) (range : Nat) (prm : Bytes) : Bytes :=
  let q := leNat ((prm.take (i.params.sketchBits / 8)))
  let cs := (List.range (fbits prm 192 3 0)).map fun j => Clause.ofBytes (prm.drop (128 + 8 * j))
  let db := fld prm 196 1
  let el := sortBy (fun (n : Node) => hamRank (ham i.params.sketchBits q n.sketch) n.handle n.slot)
    ((i.scanNodes range (fld prm 200 8)).filter fun n => n.eligible (fld prm 200 8) cs)
  let out := el.take db
  le 2 out.length ++ le 1 (b2n (decide (db < el.length))) ++ zeros 13 ++
    out.flatMap fun n => (hamEntry (ham i.params.sketchBits q n.sketch) n.handle 0).bytes

/-- A parameter block that fits its index (R226). -/
def scanParamsOk (i : Index) (prm : Bytes) : Bool :=
  decide (fbits prm 192 3 0 ≤ 8) && fbits prm 192 7 4 == 0 && fld prm 193 1 == i.params.attrBytes &&
  fld prm 194 2 == i.params.sketchBits && decide (1 ≤ fld prm 196 1) && decide (fld prm 196 1 ≤ 64) && zeroAt prm 197 3 &&
  zeroAt prm 208 48

/-! ### What a command does (R224) -/

/-- What a command leaves: the device, whether it met poison, the requests' result flags, and whether a poisoned row's update was
dropped. -/
structure BankOut where
  d : Dev
  poison : Bool := false
  sat : Bool := false
  dropped : Bool := false

/-- LOAD (R224, R246). -/
def Dev.bankLoad (d : Dev) (p eng : Nat) (c : Bytes) : BankOut :=
  let n := 64 * Bc.count c
  let a := Bc.addr c
  match d.tileWindow p a n with
  | some (t, o) => { d := d.modPart p fun x => x.scratchWrite eng (Bc.sOut c) ((d.tile t).sram.readN o n) false }
  | none =>
    let x := d.part p
    if !x.dramRange a n then { d := d }
    else { d := d.modPart p fun y => y.scratchWrite eng (Bc.sOut c) (x.mem.dram.readN a n) (x.mem.poisoned a n), poison := x.mem.poisoned a n }

/-- STORE (R208, R224, R246): lines computed from a poisoned line arrive poisoned. -/
def Dev.bankStore (d : Dev) (p eng : Nat) (c : Bytes) : BankOut :=
  let n := 64 * Bc.count c
  let a := Bc.addr c
  let x := d.part p
  let b := x.scratchRead eng (Bc.sIn c) n
  match d.tileWindow p a n with
  | some (t, o) => { d := d.modTile t fun y => { y with sram := y.sram.writeN o b } }
  | none =>
    if !x.dramRange a n then { d := d }
    else if x.mem.partialPoison a n then { d := d, poison := true }
    else { d := d.modPart p fun y => { y with mem := (List.range (Bc.count c)).foldl (fun m i =>
        if x.scratchTainted eng (Bc.sIn c + 64 * i) 64 then m.taint (a + 64 * i) 64 else m) (y.mem.put a b) } }

/-- SCAN of the range whose first line is at LOCAL (R95, R226). Where no index range begins there, or its parameter block does
not fit the index, it leaves nothing (DESIGN CHOICE, log 108). -/
def Dev.bankScan (d : Dev) (p eng : Nat) (c : Bytes) : BankOut :=
  let x := d.part p
  let prm := x.scratchRead eng (Bc.sIn c) 256
  match x.rangeAt eng (Bc.loc c) with
  | none => { d := d }
  | some (i, range) =>
    if !scanParamsOk i prm then { d := d } else
    let bad := (i.scanNodes range (fld prm 200 8)).any (·.sketchPoison)
    { d := d.modPart p fun y => y.scratchWrite eng (Bc.sOut c) (i.scanBytes range prm) (bad || x.scratchTainted eng (Bc.sIn c) 256),
      poison := bad }

/-- MATVEC over the rows at LOCAL (R227, R228). -/
def Dev.bankMatvec (d : Dev) (p eng : Nat) (c : Bytes) : BankOut :=
  let x := d.part p
  match MvShape.ofParam (Bc.p0 c) with
  | none => { d := d }
  | some m =>
    match x.linesRead eng (Bc.loc c) (Bc.count c * m.rowBytes / 64) with
    | none => { d := d }
    | some (b, bad) =>
      let vec := x.scratchRead eng (Bc.sIn c) (m.actBytes + 4)
      { d := d.modPart p fun y => y.scratchWrite eng (Bc.sOut c)
          ((List.range (Bc.count c)).flatMap fun j => le 4 (m.row ((b.drop (j * m.rowBytes)).take m.rowBytes) vec).toNat)
          (bad || x.scratchTainted eng (Bc.sIn c) (m.actBytes + 4)),
        poison := bad }

/-- Adds to the statistics of a table (R243). -/
def Part.modTable (x : Part) (t : Nat) (f : Table → Table) : Part := { x with tables := modIf (fun y => y.num == t) f x.tables }

/-- ROW_READ of the table at LOCAL: for each request the rounded products of its weight with its row, of rows that the engine
holds (R236, R243). -/
def Dev.bankRowRead (d : Dev) (p eng : Nat) (c : Bytes) : BankOut :=
  let x := d.part p
  match x.tableAt eng (Bc.loc c) with
  | none => { d := d }
  | some (t, _) =>
    let n := Bc.count c
    let b := x.scratchRead eng (Bc.sIn c) (rowReq * n)
    let reqs := (List.range n).map fun i => (fld b (8 * i) 4, fld b (8 * i + 4) 4)
    if reqs.any (fun r => decide (t.rows ≤ r.1) || some (r.1 % t.engines) != t.enginePos eng) then { d := d } else
    let bad := reqs.any fun r => t.rowPoisoned x.mem.poison r.1
    let d := d.modPart p fun y => y.modTable t.num fun k => { k with stats := { k.stats with
      lookups := satCap 64 (k.stats.lookups + n), rowsRead := satCap 64 (k.stats.rowsRead + (dedupNat (reqs.map (·.1))).length) } }
    { d := d.modPart p fun y => y.scratchWrite eng (Bc.sOut c) (reqs.flatMap fun r =>
        (t.part x.mem.dram r.1 0).flatMap fun v => le 4 (f32mul (BitVec.ofNat 32 r.2) v).toNat)
        (bad || x.scratchTainted eng (Bc.sIn c) (rowReq * n)),
      poison := bad }

/-- What row read-modify-writes of a table leave: its rows, with a structure record of each row written where tables are journaled, its
statistics and counter 15 (R240 to R243, R258). -/
def Dev.rowsBack (d : Dev) (c : Clock) (p : Nat) (t : Table) (mem : Memory) (poison written : List Nat) (sat : Nat)
    (stats : TabStats → TabStats) : Dev :=
  let d := d.modPart p fun y => ({ y with mem := { y.mem with dram := mem, poison := poison } } : Part).modTable t.num fun q =>
    { q with stats := stats q.stats }
  (written.foldl (fun d r => d.backRecord c p (t.rowAddr r, t.rho)) d).saturate c p 15 sat 0xFFFF

/-- Applies the row updates of one engine one by one (R240 to R243); `bad` names the rows computed from a poisoned line (R208). -/
def Dev.applyRows (d : Dev) (c : Clock) (p : Nat) (t : Table) (mode : Nat) (eta : F32) (bad : List Nat) (rows : List (Nat × List F32)) :
    BankOut :=
  let x := d.part p
  let o := rows.foldl (t.applyRow mode eta bad) ⟨x.mem.dram, x.mem.poison, 0, 0, 0, []⟩
  { d := d.rowsBack c p t o.mem o.poison o.written o.sat fun s =>
      { s with updatePositions := satCap 64 (s.updatePositions + rows.length), rowsUpdated := satCap 64 (s.rowsUpdated + o.updated),
               droppedPoison := satCap 64 (s.droppedPoison + o.dropped) },
    sat := decide (0 < o.sat), dropped := decide (0 < o.dropped) }

/-- Applies updates that are folded first, each row once (R200, R239 to R243). -/
def Dev.foldRows (d : Dev) (c : Clock) (p : Nat) (t : Table) (mode : Nat) (eta : F32) (bad : List Nat) (pos : List (Nat × List F32)) :
    Dev × ScatterOut :=
  let x := d.part p
  let o := scatterAll t x.mem.dram x.mem.poison mode eta bad pos
  (d.rowsBack c p t o.mem o.poison o.written o.sat fun _ => o.stats, o)

/-- Source identity of a bank engine at a position of its partition's list, and of a tile at a position of its group (R139). -/
def engineIdentity (eng : Nat) : Nat := 0x20000 + eng
def tileIdentity (pos : Nat) : Nat := 0x10000 + pos

/-- ROW_UPDATE of the table at LOCAL with the mode of PARAM0 and the rate of PARAM1 (R240 to R242). The updates of a training step wait
for its end, which sums what names one row (R200); in a reproducible partition every other one waits for the tick of the epoch
after its command, since it names no barrier of its own (R140, R242; DESIGN CHOICE, log 125). A row whose record was computed from a
poisoned line is written poisoned (R208). -/
def Dev.bankRowUpdate (d : Dev) (c : Clock) (p eng : Nat) (phase : Bool) (serves : List ReqRef) (b : Bytes) : BankOut :=
  let x := d.part p
  match x.tableAt eng (Bc.loc b) with
  | none => { d := d }
  | some (t, _) =>
    let n := Bc.count b
    let mode := Bc.p0 b
    let eta : F32 := BitVec.ofNat 32 (Bc.p1 b)
    let at_ := fun (i : Nat) => Bc.sIn b + t.updReq * i
    let rows := (List.range n).map fun i =>
      let r := x.scratchRead eng (at_ i) t.updReq
      (fld r 0 4, (u32s r 8 t.dim).map (BitVec.ofNat 32))
    if 2 < mode ∨ (mode = 2 ∧ t.opt = 0) ∨ rows.any (fun r => decide (t.rows ≤ r.1) || some (r.1 % t.engines) != t.enginePos eng)
    then { d := d } else
    let bad := ((indexed rows).filter fun r => x.scratchTainted eng (at_ r.1) t.updReq).map (·.2.1)
    let u : RowUpd := ⟨engineIdentity eng, t.num, mode, eta, rows, bad⟩
    if phase && x.running.any (·.kind == 2) then { d := d.modPart p fun y => y.modRunning fun k => { k with upds := k.upds ++ [u] } }
    else if x.cfg.repro then { d := d.modPart p fun y => { y with rowsHeld := y.rowsHeld ++ [⟨x.vis.cur + 1, u, serves⟩] } }
    else d.applyRows c p t mode eta bad rows

/-- FILL: lines set to the repeated 64-bit pattern; whole lines clear their poison (R208, R224). -/
def Dev.bankFill (d : Dev) (p eng : Nat) (c : Bytes) : BankOut :=
  let line := (List.replicate 8 (le 4 (Bc.p0 c) ++ le 4 (Bc.p1 c))).flatten
  { d := d.modPart p fun x => (List.range (Bc.count c)).foldl (fun (y : Part) i =>
      match y.lineAddr eng (Bc.loc c + i) with
      | some a => { y with mem := y.mem.put a line }
      | none => y) x }

def Dev.bankDo (d : Dev) (c : Clock) (p eng : Nat) (phase : Bool) (serves : List ReqRef) (b : Bytes) : BankOut :=
  match Bc.op b with
  | 1 => d.bankLoad p eng b
  | 2 => d.bankStore p eng b
  | 3 => d.bankScan p eng b
  | 4 => d.bankMatvec p eng b
  | 5 => d.bankRowRead p eng b
  | 6 => d.bankRowUpdate c p eng phase serves b
  | _ => d.bankFill p eng b

/-! ### Running groups -/

/-- A bank phase completes when its last command group has completed (R191). -/
def Dev.phaseDone (d : Dev) (p entry : Nat) : Dev :=
  let left := (d.part p).life.chans.any fun ch =>
    ((d.chan ch).queue ++ (d.chan ch).running).any fun g => g.part == p && g.entry == some entry
  if left then d else d.modPart p fun x => x.modRunning fun i =>
    { i with done := if i.done.contains entry then i.done else entry :: i.done }

def Dev.groupOn (d : Dev) (ch eng : Nat) : Option Group := (d.chan ch).running.find? fun g => g.eng == eng

/-- The running group of an engine ends: its token is free (R217). -/
def Dev.endGroup (d : Dev) (ch eng : Nat) : Dev :=
  match d.groupOn ch eng with
  | none => d
  | some g =>
    let d := (d.modChan ch fun x => { x with running := x.running.erase g }).dropToken (ch / 16) g.part
    match g.entry with
    | some e => d.phaseDone g.part e
    | none => d

/-- The requests that a group serves: those of the invocation whose bank phase it belongs to, or its own. -/
def Dev.groupServes (d : Dev) (g : Group) : List (ReqRef × Nat) :=
  if g.entry.isSome then (((d.part g.part).running).map Inv.serves).getD [] else g.serves.map fun r => (r, 0)

/-- A bank command met poison: its group stops after it, and the requests that it serves end with DATA_POISONED (R209). -/
def Dev.bankPoison (d : Dev) (fin : Ends) (ch : Nat) (g : Group) : Dev :=
  let serves := d.groupServes g
  let d := d.endGroup ch g.eng
  if g.entry.isSome then d.failInv fin g.part false statusPOISON
  else serves.foldl (fun d r => fin d r.1 r.2 false statusPOISON) d

/-- The channels at which a LOAD or STORE of an engine of channel `own` must wait: those of its extent, but its own, that are not in
memory mode, until the access has waited its 5 µs (R212, R213, R215; log 108). -/
def Dev.bankAway (d : Dev) (now p own : Nat) (b : Bytes) : List Nat :=
  if Bc.op b = 1 ∨ Bc.op b = 2 then
    (d.awayOf ((d.part p).chansOf (Bc.addr b) (64 * Bc.count b))).filter fun k =>
      k != own && !((d.chan k).oldest.any fun t => decide (t + 5000 ≤ now))
  else []

/-- A request whose group has dropped the update of a poisoned row ends with DATA_POISONED: a search or an update at once, another one
when its work ends (R241). -/
def Dev.markDropped (d : Dev) (fin : Ends) (r : ReqRef × Nat) : Dev :=
  match (d.req? r.1).map Req.work with
  | some (.searches _) => fin d r.1 r.2 false statusPOISON
  | some (.upd _) => fin d r.1 r.2 false statusPOISON
  | _ => d.modReq r.1 fun q => { q with poison := true }

/-- Runs the next command of the running group of an engine of a channel (R221, R224). A LOAD or STORE that must wait at another channel
does not run yet (R212). -/
def Dev.bankStep (d : Dev) (c : Clock) (fin : Ends) (ch eng : Nat) : Dev :=
  match d.groupOn ch eng, d.chanOwner ch with
  | some g, some (p, pos) =>
    (match g.cmds[g.next]? with
    | none => d
    | some b =>
      let away := d.bankAway c.time p ch b
      if !away.isEmpty then away.foldl (fun d k => d.accessWaits c.time k) d else
      let d := d.modChan ch fun x => { x with running := modIf (fun k => k.eng == eng) (fun k => { k with next := k.next + 1 }) x.running }
      let serves := d.groupServes g
      let o := d.bankDo c p (8 * pos + eng) g.entry.isSome (serves.map (·.1)) b
      let mark := fun (d : Dev) (r : ReqRef × Nat) =>
        let d := if o.sat then d.flagRow flagSAT ⟨r.1, r.2, 0, [], 0, 0, true⟩ else d
        if o.dropped then d.markDropped fin r else d
      let d := serves.foldl mark o.d
      if o.poison then ((d.bankPoison fin ch { g with next := g.next + 1 }).startGroups c.time ch false) else d)
  | _, _ => d

/-- Runs `n` further commands of a running group. -/
def Dev.bankSteps (d : Dev) (c : Clock) (fin : Ends) (ch eng : Nat) : Nat → Dev
  | 0 => d
  | n + 1 => (d.bankStep c fin ch eng).bankSteps c fin ch eng n

/-- A running group runs to its end (R213, R215, R217): its commands, then its writes are visible, its token returns, and groups
that waited may start. A group whose LOAD or STORE waits at another channel goes on running. -/
def Dev.finishGroup (d : Dev) (c : Clock) (fin : Ends) (ch eng : Nat) : Dev :=
  match d.groupOn ch eng with
  | none => d
  | some g =>
    let d := d.bankSteps c fin ch eng (g.cmds.length - g.next)
    if (d.groupOn ch eng).any fun k => decide (k.next < k.cmds.length) then d else
    ((d.endGroup ch eng).startGroups c.time ch false).modChan ch Channel.turn

/-- The command groups that have begun on the channels of a table run to their end: what a gather or an update of the table reads and
writes lies wholly before or wholly after each of them (R215, R242). -/
def Dev.settleTable (d : Dev) (c : Clock) (fin : Ends) (p : Nat) (t : Table) : Dev :=
  (t.channels.filterMap fun i => (d.part p).life.chans[i]?).foldl (fun (d : Dev) ch =>
    ((d.chan ch).running.filter fun g => decide (0 < g.next)).foldl (fun d g => d.finishGroup c fin ch g.eng) d) d

end Sys2Proof.Machine
end

