-- ==== Sys2Proof/Machine/Commands.lean ====
section
/-! DEFINITION. The shape shared by the commands a ring set carries: admission checks, quota, admission, run, end
(R341, R342), and the DRAM that commands commit (R22). -/

namespace Sys2Proof.Machine

open Sys2Proof

/-- Admitted commands between which a run may stop pass their deadline here when nothing has ended them before (R342). -/
def expired (c : Clock) (q : Req) (barrier : Bool) : Bool := !q.ponr && !barrier && deadlinePassed c q

/-- What admission of a command answers: an end at once, a wait in the admission queue (with what was read of the command
kept for it), or admission with the change it makes to the request (R341, R447). -/
inductive Grant where
  | refuse (status : Nat)
  | wait (f : Req → Req)
  | go (f : Req → Req)

/-- The run of a command from where it stands: the checks of R341, quota and space, admission, and then its own work,
which answers the device and the ending (or none while it goes on). -/
def Dev.command (d : Dev) (c : Clock) (r : ReqRef) (op : Nat) (upto : Upto) (perm fields handles : Req → Bool)
    (quota : Dev → Req → Grant) (work : Dev → Req → Dev × Option Ending) : Dev :=
  d.withReq r op fun q =>
    let run := fun (d : Dev) =>
      match d.req? r with
      | none => d
      | some q =>
        let w := work d q
        match w.2 with
        | some e => w.1.finish c r e
        | none => w.1
    if q.admitted then
      (if expired c q (d.barrierOp r op) then
        d.finish c r ⟨if 0 < q.replays then statusEXHAUSTED else statusDEADLINE, 0, 0, 0⟩
       else run d)
    else if q.waiting then d
    else
      match d.gate c r q (perm q) (fields q) (handles q) with
      | some e => d.finish c r e
      | none =>
        match quota d q with
        | .refuse st => d.finish c r ⟨st, 0, 0, 0⟩
        | .wait f => (d.modReq r f).waitAdmission r
        | .go f =>
          let d := d.enter c r f
          if upto = .admitted then d else run d

/-- A command that nothing but admission precedes. -/
def Dev.simple (d : Dev) (c : Clock) (r : ReqRef) (op : Nat) (upto : Upto) (perm fields handles : Req → Bool)
    (work : Dev → Req → Dev × Ending) : Dev :=
  d.command c r op upto perm fields handles (fun _ _ => .go id) fun d q => ((work d q).1, some (work d q).2)

def always (_ : Req) : Bool := true

/-- Host memory that a command's body names, read number `i` of the run (R317). -/
def ioRead (reads : List HostRead) (i : Nat) : Option Bytes := (reads[i]?).getD none

/-! ### DRAM commitments (R22) -/

/-- DRAM of a partition's quota that commands may commit: less the staging region and the change tables (R383). -/
def Part.dramRoom (x : Part) : Nat := x.cfg.dramQuota - x.cfg.stagingGib * 2 ^ 30 - 16 * x.cfg.changeQuota

/-- DRAM open to partitions (R22). -/
def Dev.openDram (d : Dev) : Nat :=
  (((List.range 320).filter fun ch => !d.modChans.contains ch && !d.reserve.contains ch).length) * channelBytes

/-- The status that refuses a commitment of `n` bytes: quota, then module space with 180 GiB left open (R22, R341). -/
def Dev.dramRefusal (d : Dev) (p n : Nat) : Option Nat :=
  let x := d.part p
  if x.dramRoom < x.committed + n then some statusQUOTA
  else if d.openDram < sumNat Part.committed d.parts + n + 180 * 2 ^ 30 then some statusNOSPACE
  else none

/-- The status that refuses a commitment of `mib` MiB (R22). -/
def Dev.mibRefusal (d : Dev) (p mib : Nat) : Option Nat := d.dramRefusal p (mib * 2 ^ 20)

/-! ### Requests in flight of a partition -/

/-- Every admitted request of a partition with its ring set. -/
def Part.admittedReqs (x : Part) (p : Nat) : List (ReqRef × Req) :=
  (indexed x.rings).flatMap fun r => (r.2.inflight.filter (·.admitted)).map fun q => (⟨.part p r.1, q.seq⟩, q)

/-- The object that starts at a window (R245). -/
def Part.objAtWindow (x : Part) (w : Nat) : Option Obj := x.objs.find? fun o => o.first == w

/-- A stored object that a command may name (R181, R357). -/
def Part.storedAt (x : Part) (w : Nat) : Option Obj := x.objs.find? fun o => o.first == w && o.kind == .stored

end Sys2Proof.Machine
end

