-- ==== Sys2Proof/Machine/HotCache.lean ====
section
/-! DEFINITION. The hot-vector cache of a partition (R254, R255). -/

namespace Sys2Proof.Machine

open Sys2Proof

/-- Bytes of an entry: the full-vector record of R78, padded to a multiple of 64. -/
def IndexParams.hotBytes (p : IndexParams) : Nat :=
  roundUp (ceilDiv (p.dim * (vecElem p.fmt).bits) 8 + 4 + (if p.fmt ≤ 1 then 2 else 0)) 64

def HotCache.used (h : HotCache) : Nat := sumNat (·.size) h.ents

/-- Bytes the cache may use: its budget, within the quota's DRAM that nothing has committed. -/
def Part.hotRoom (x : Part) : Nat := min (x.feat.place.hotMib * 2 ^ 20) (x.dramRoom - x.committed)

/-- The clock sweep: an entry met with its reference bit set has it cleared and is passed; the next without goes. -/
def HotCache.sweep (room : Nat) : Nat → HotCache → HotCache
  | 0, h => h
  | n + 1, h =>
    if h.used ≤ room then h else
    match h.ents with
    | [] => h
    | e :: rest => HotCache.sweep room n { h with ents := if e.ref then rest ++ [{ e with ref := false }] else rest }

/-- Evicts until what is held fits in a number of bytes. -/
def HotCache.fit (h : HotCache) (room : Nat) : HotCache := HotCache.sweep room (2 * h.ents.length) h

/-- Evicts what a commitment or a smaller budget leaves no room for (R254, R255). -/
def Part.trimHot (x : Part) : Part := { x with hot := x.hot.fit x.hotRoom }

/-- Drops the least recently used staged units that STAGING_MIB leaves no room for (R255). -/
def Part.trimStaged (x : Part) : Part :=
  { x with mem := { x.mem with staged := x.mem.staged.drop (x.mem.staged.length - 64 * x.feat.place.stagingMib) } }

def HotCache.ent? (h : HotCache) (index slot : Nat) : Option HotEnt := h.ents.find? fun e => e.index == index && e.slot == slot

/-- Removes the entries that a test selects (R254). -/
def Part.dropHot (x : Part) (gone : HotEnt → Bool) : Part := { x with hot := { x.hot with ents := x.hot.ents.filter fun e => !gone e } }

/-- Admits the vector of a slot, behind the hand (R254). -/
def Part.admitHot (x : Part) (i : Index) (slot : Nat) : Part :=
  let size := i.params.hotBytes
  if (x.hot.ent? i.num slot).isSome ∨ x.hotRoom < size then x else
  let h := x.hot.fit (x.hotRoom - size)
  { x with hot := { h with ents := h.ents ++ [⟨i.num, slot, size, false, false⟩] } }

/-- A candidate is scored from the cache: an exact read that marks its entry (R99, R254). -/
def Part.hotRead (x : Part) (i : Index) (slot : Nat) : Part :=
  let mark := modIf (fun (e : HotEnt) => e.index == i.num && e.slot == slot) (fun e => { e with ref := true }) x.hot.ents
  { x with hot := { x.hot with count := x.hot.count + 1, ents := mark } }

/-- An exact read from flash: it admits the vector as ADMIT_MODE says (R255). -/
def Part.flashExact (x : Part) (i : Index) (slot : Nat) : Part :=
  let h := x.hot
  let n := h.count + 1
  let live := h.recent.filter fun e => decide (n < e.2.2 + 2 ^ 20)
  let again := live.any fun e => e.1 == i.num && e.2.1 == slot
  let x : Part := { x with hot := { h with count := n, recent := (i.num, slot, n) :: live.filter fun e => !(e.1 == i.num && e.2.1 == slot) } }
  let mode := x.feat.place.admitMode
  if mode = 1 ∨ (mode = 0 ∧ again) then x.admitHot i slot else x

/-- Whether a candidate's vector would be scored from the cache: an entry without poison (R99). -/
def Part.hotHolds (x : Part) (index slot : Nat) : Bool := (x.hot.ent? index slot).any fun e => !e.bad

end Sys2Proof.Machine
end

