-- ==== Sys2Proof/Machine/Models.lean ====
section
/-! DEFINITION. Models: loading, unloading, EMBED, RERANK, TRAIN_STEP and the entries of a plan
(chapter 07: R181 to R203, R358 to R360). -/

namespace Sys2Proof.Machine

open Sys2Proof

def Part.model? (x : Part) (m : Nat) : Option Model := x.models.find? fun k => k.id == m
def Part.modModel (x : Part) (m : Nat) (f : Model → Model) : Part := { x with models := modIf (fun k => k.id == m) f x.models }

/-- A model that requests may name now: it has a version in use (R181, R186). -/
def Part.modelLive (x : Part) (m : Nat) : Option (Model × Pkg) :=
  match x.model? m with
  | some k => k.cur.map fun g => (k, g)
  | none => none

/-- The model and version that a request uses from its admission on (R186): an EMBED, a RERANK or a TRAIN_STEP, and an insert
whose encoder has not yet run. -/
def Req.usesModel (q : Req) : Option (Nat × Nat) :=
  match q.work with
  | .model i v _ => some (i, v)
  | .train i v _ => some (i, v)
  | .upd u => if fbits q.desc 24 4 4 == 1 && u.opcode != 0x21 && !u.haveVec then some (fld q.desc 26 2, u.version) else none
  | _ => none

/-- Whether a row of an invocation of the model serves the request: a search's rerank uses a version from its start (R186). -/
def Part.rowsUse (x : Part) (r : ReqRef) (m : Nat) (v : Option Nat) : Bool :=
  x.invs.any fun i => i.model == m && (v.isNone || v == some i.version) && i.rows.any fun w => w.live && w.req == r

/-- Requests that use a version of a model, other than `r` (R186, R201). -/
def Part.modelUsers (x : Part) (p m : Nat) (r : ReqRef) (v : Option Nat) : List (ReqRef × Req) :=
  (x.admittedReqs p).filter fun e => e.1 != r && ((match e.2.usesModel with
    | some (i, w) => i == m && (v.isNone || v == some w)
    | none => false) || x.rowsUse e.1 m v)

/-! ### Packages (R182 to R184, R150, R225) -/

/-- Strictly rising exit layers below LAYERS; unused entries are zero (R182). -/
def exitsOk (h : Bytes) (n layers : Nat) : Bool :=
  let e := fun (i : Nat) => fld h (12 + 2 * i) 2
  (List.range 8).all fun i =>
    if i < n then decide (e i < layers) && (i == 0 || decide (e (i - 1) < e i)) else e i == 0

/-- The header of R182 for a group of `group` tiles. An output dimension of 1 is accepted for a model that is neither an
encoder nor a cross-encoder (DESIGN CHOICE, log 14). -/
def hdrOk (h : Bytes) (group : Nat) : Bool :=
  let kind := fbits h 4 1 0
  let exits := fld h 10 1
  let dim := fld h 32 2
  let ex := fld h 36 2
  let topK := fld h 38 1
  let cap := fld h 40 2
  h.length == 64 && fld h 0 4 == 1 && decide (kind ≤ 2) && fld h 4 2 / 4 == 0 && decide (1 ≤ fld h 6 2) &&
  decide (fld h 6 2 ≤ min 144 group) && decide (1 ≤ fld h 8 2) && decide (fld h 8 2 ≤ 1024) && decide (exits ≤ 8) &&
  (kind == 1 || exits == 0) && zeroAt h 11 1 && exitsOk h exits (fld h 8 2) && decide (1 ≤ fld h 28 2) &&
  decide (fld h 28 2 ≤ 8192) && decide (1 ≤ fld h 30 2) && decide (fld h 30 2 ≤ 4096) &&
  (if kind = 1 then dim == 1 else (decide (64 ≤ dim) && decide (dim ≤ 4096)) || (kind == 2 && dim == 1)) &&
  fbits h 34 7 1 == 0 && zeroAt h 35 1 && decide (ex ≤ 256) &&
  (if ex = 0 then topK == 0 else decide (1 ≤ topK) && decide (topK ≤ 8)) && fbits h 39 7 1 == 0 &&
  (cap == 0 || decide (16 ≤ cap)) && decide (fld h 42 2 < 2 ^ 14) && decide (1 ≤ fld h 44 4) &&
  decide (fld h 44 4 ≤ 65536) && decide (1 ≤ fld h 56 4) && decide (fld h 56 4 ≤ 65536) && fbits h 60 7 2 == 0 &&
  zeroAt h 61 3

/-! Fields of a tensor record (R183). -/
namespace Tz
def off (t : Bytes) : Nat := fld t 0 8
def size (t : Bytes) : Nat := fld t 8 8
def placement (t : Bytes) : Nat := fbits t 16 1 0
def trainable (t : Bytes) : Bool := fbits t 16 2 2 == 1
def format (t : Bytes) : Nat := fbits t 17 2 0
def group (t : Bytes) : Nat := fbits t 17 4 3
def counter (t : Bytes) : Nat := fbits t 18 3 0
def rows (t : Bytes) : Nat := fld t 20 4
def cols (t : Bytes) : Nat := fld t 24 4
end Tz

def tensorOk (t : Bytes) (pkg : Nat) : Bool :=
  decide (Tz.placement t ≤ 2) && fbits t 16 7 3 == 0 && decide (Tz.format t ≤ 6) && fbits t 17 7 5 == 0 &&
  decide (Tz.counter t ≤ 13) && fbits t 18 7 4 == 0 && zeroAt t 19 1 && zeroAt t 28 4 &&
  decide (Tz.off t + Tz.size t ≤ pkg) &&
  (Tz.placement t != 2 || (decide (1 ≤ Tz.rows t) && decide (Tz.rows t ≤ 0xFFFFFFFE) && decide (8 ≤ Tz.cols t) && decide (Tz.cols t ≤ 1024) && Tz.cols t % 8 == 0))

/-- Groups of a bank phase after its header, or none when the layout breaks (R222). -/
def bankGroups : Nat → Bytes → Option (List PhaseGroup)
  | 0, _ => some []
  | n + 1, b =>
    let m := fld b 2 1
    if b.length < 8 + 32 * m ∨ m = 0 ∨ 64 < m ∨ !zeroAt b 3 5 then none
    else (bankGroups n (b.drop (8 + 32 * m))).map fun l =>
      ⟨fld b 0 2, (List.range m).map fun i => (b.drop (8 + 32 * i)).take 32⟩ :: l

/-- The channel positions and the groups of a bank phase; none when a reserved field is not zero or the layout breaks (R222). -/
def bankPhase (b : Bytes) : Option Phase :=
  let n := fld b 4 2
  let o := 16 + roundUp (2 * n) 8
  if b.length < o ∨ !zeroAt b 6 10 ∨ !zeroAt b (16 + 2 * n) (o - 16 - 2 * n) ∨ fld b 0 4 = 0 ∨ 2 ^ 24 < fld b 0 4 ∨ n = 0 ∨ 320 < n then none
  else (bankGroups (fld b 0 4) (b.drop o)).map fun g => ⟨(List.range n).map fun i => fld b (16 + 2 * i) 2, g⟩

/-! ### Bank-group lines of a package (R225, R227, R231) -/

/-- FP32 values kept of each element: the value itself and the optimiser's values (R199). -/
def Pkg.slots (g : Pkg) : Nat := if g.optimiser = 3 then 3 else if g.optimiser = 2 then 2 else 1

/-- An embedding table made for a tensor with PLACEMENT 2 (R229); a frozen tensor keeps no optimiser. -/
def Pkg.mkTable (g : Pkg) (model num first : Nat) (chans : List Nat) (t : Bytes) : Table :=
  let opt := if Tz.trainable t then g.optimiser else 0
  let y : Table := { num := num, rows := Tz.rows t, dim := Tz.cols t, opt := opt, beta1 := Config.hyper g.hdr 0,
                     beta2 := Config.hyper g.hdr 1, eps := Config.hyper g.hdr 2, lambda := Config.hyper g.hdr 3,
                     defaultMode := 0, defaultRow := 0, channels := chans, first := first, mib := 0, model := some model,
                     stats := TabStats.reset }
  { y with mib := ceilDiv y.bytes (2 ^ 20) }

/-- Where a bank-resident tensor or a table of a package stands: its record, its first line counted from the package's own, its
lines in each bank group, its channels, the bytes of one row, and its DIM when it is a table. -/
structure BankPlace where
  tensor : Bytes
  line : Nat
  lines : Nat
  chans : List Nat
  row : Nat
  dim : Option Nat
  deriving DecidableEq, Repr

/-- Bytes w of a stored row of a resident tensor (R227). -/
def resRow (t : Bytes) : Nat := 64 * max 1 (ceilDiv (Tz.size t) (64 * max 1 (Tz.rows t)))

/-- Lines of a resident tensor over `n` channels (R227). -/
def resLines (t : Bytes) (n : Nat) : Nat := ceilDiv (Tz.rows t) (max 1 (8 * n)) * (resRow t / 64)

/-- The channels that the bank phases of a package name for the resident tensor that starts at `line`: those of the first phase
with a MATVEC in it; every channel of the partition when none has (R185, R227; log 106). -/
def Pkg.resChans (g : Pkg) (all : Nat) (t : Bytes) (line : Nat) : List Nat :=
  match g.phases.find? fun f => f.groups.any fun k => k.cmds.any fun c => Bc.op c == 4 && decide (line ≤ Bc.loc c) &&
      decide (Bc.loc c < line + resLines t f.chans.length) with
  | some f => f.chans
  | none => List.range all

/-- The package's bank-group lines: resident tensors and tables follow one another in the order of the tensor table (R225;
DESIGN CHOICE, log 106). `all` is the partition's channel count. -/
def Pkg.bankPlaces (g : Pkg) (all : Nat) : List BankPlace :=
  (g.tensors.foldl (fun (acc : List BankPlace × Nat) t =>
    if Tz.placement t = 1 then
      let cs := g.resChans all t acc.2
      let n := resLines t cs.length
      (acc.1 ++ [⟨t, acc.2, n, cs, resRow t, none⟩], acc.2 + n)
    else if Tz.placement t = 2 then
      let y := g.mkTable 0 0 0 (List.range all) t
      (acc.1 ++ [⟨t, acc.2, y.lines, y.channels, y.rho, some y.dim⟩], acc.2 + y.lines)
    else acc) ([], 0)).1

/-- The place in which `n` lines from `line` lie, for an engine of a channel (R225). -/
def placeOf (l : List BankPlace) (chan line n : Nat) : Option BankPlace :=
  l.find? fun k => k.chans.contains chan && decide (k.line ≤ line) && decide (line + n ≤ k.line + k.lines)

/-- A command of a bank phase (R225, R250): its fields, its scratch extents, its LOCAL extent in a tensor or table of the package,
its PART_ADDR extent in a DRAM-homed window or the tile window. The extent of a SCAN is taken as its first line, since its
parameter block is not in the package (DESIGN CHOICE, log 106). -/
def phaseCmdOk (x : Part) (tiles : Nat) (places : List BankPlace) (chan : Nat) (c : Bytes) : Bool :=
  let n := Bc.count c
  let a := Bc.addr c
  let at_ := fun (k : Nat) => placeOf places chan (Bc.loc c) k
  let dim := ((at_ 1).bind (·.dim)).getD 0
  bankCmdOk c && scratchOk c dim && (match Bc.op c with
    | 3 => (at_ 1).isSome
    | 4 => (match MvShape.ofParam (Bc.p0 c) with
      | some m => (at_ (n * m.rowBytes / 64)).isSome
      | none => false)
    | 5 => dim != 0
    | 6 => dim != 0
    | 7 => (at_ n).isSome
    | _ => x.dramRange a (64 * n) || (decide (0xF000000000000000 ≤ a) && decide ((a - 0xF000000000000000) / 2 ^ 24 < tiles) &&
        inSram (a % 2 ^ 24) (64 * n)))

/-- The checks of R221, R222, R225 and R250 on a bank phase. -/
def bankPhaseOk (x : Part) (tiles chans : Nat) (places : List BankPlace) (f : Phase) : Bool :=
  f.chans.all (fun i => decide (i < chans)) && rising f.chans && f.groups.all fun g =>
    match f.chans[g.eng / 8]? with
    | none => false
    | some ch => g.cmds.all (phaseCmdOk x tiles places ch) &&
        decide (groupTerms (g.cmds.map fun c =>
          bankTerm c (((placeOf places ch (Bc.loc c) 1).map (·.row)).getD 64) (scanBytesOf 1024 16)) ≤ 128000)

/-- Bytes of a package's stored object (R181). -/
def Part.pkgBytes (x : Part) (o : Obj) (off n : Nat) : Bytes := x.mem.flash.readN (o.first * windowBytes + off) n

/-- Descriptors of a tile phase: the streams of its body (R184). -/
def Part.phaseStreams (x : Part) (o : Obj) (tiles : Nat) (e : Bytes) : List (Nat × Nat) :=
  (List.range tiles).map fun i => let b := x.pkgBytes o (fld e 16 8 + 16 * i) 16
                                  (fld b 0 8, fld b 8 8)

def Part.streamDescs (x : Part) (o : Obj) (s : Nat × Nat) : List Bytes :=
  (List.range (s.2 / 64)).map fun i => x.pkgBytes o (s.1 + 64 * i) 64

/-- The plan entry's own fields: predecessors are earlier entries, the body lies in the package (R184). -/
def planEntryOk (e : Bytes) (i layers pkg : Nat) : Bool :=
  fbits e 0 7 1 == 0 && zeroAt e 1 1 && zeroAt e 12 4 && decide (fld e 10 2 < layers) &&
  ((List.range 4).all fun j => let q := fld e (2 + 2 * j) 2
                               q == 0xFFFF || decide (q < i)) &&
  decide (fld e 16 8 + fld e 24 8 ≤ pkg)

/-- What MODEL_LOAD reads of a package; it is held from then on (DESIGN CHOICE, log 109). -/
def Part.readPkg (x : Part) (o : Obj) : Pkg :=
  let h := x.pkgBytes o 0 64
  let plan := (List.range (min 65536 (fld h 44 4))).map fun i => x.pkgBytes o (fld h 48 8 + 32 * i) 32
  { object := o.first, hdr := h, tensors := (List.range (min 65536 (fld h 56 4))).map fun i => x.pkgBytes o (64 + 32 * i) 32,
    plan := plan,
    streams := plan.map fun e => if fbits e 0 0 0 = 0 then (x.phaseStreams o (fld h 6 2) e).map (x.streamDescs o) else [],
    phases := plan.map fun e => if fbits e 0 0 0 = 1 then (bankPhase (x.pkgBytes o (fld e 16 8) (fld e 24 8))).getD ⟨[], []⟩ else ⟨[], []⟩,
    window := none, stateWindow := none, bankLine := 0, tensorBytes := 0, tables := [], residents := [], residents2 := [] }

/-- Uses ADD_FP32, or has an expert capacity: what a reproducible partition refuses (R150, R203). -/
def Pkg.reproRefused (g : Pkg) : Bool :=
  g.capacity != 0 || g.streams.any fun e => e.any fun s => s.any fun b => Td.cls b == 4 && Td.op b == 4

/-- The package's checks: layout, descriptors, bank phases (R150, R182 to R185, R225). -/
def Part.pkgOk (x : Part) (o : Obj) (g : Pkg) : Bool :=
  let group := x.life.sites.length
  let chans := x.life.chans.length
  let places := g.bankPlaces chans
  hdrOk g.hdr group && g.tensors.all (fun t => tensorOk t o.capBytes) &&
  (indexed g.plan).all fun e => planEntryOk e.2 e.1 g.layers o.capBytes &&
    (if fbits e.2 0 0 0 = 0 then
      fld e.2 24 8 == 16 * g.tiles && (x.phaseStreams o g.tiles e.2).all (fun s =>
        s.2 % 64 == 0 && decide (s.1 + s.2 ≤ o.capBytes)) &&
      (indexed (g.streams.getD e.1 [])).all fun s => s.2.all fun b => tileDescOk b s.1 group false
     else (bankPhase (x.pkgBytes o (fld e.2 16 8) (fld e.2 24 8))).isSome &&
      bankPhaseOk x group chans places (g.phases.getD e.1 ⟨[], []⟩))

/-! ### Placement (R185, R199, R227) -/

/-- Tensors that lie in the model's tensor object, with their offsets: in table order, each on a line (DESIGN CHOICE,
log 15). -/
def Pkg.layout (g : Pkg) : List (Bytes × Nat) :=
  ((g.tensors.filter fun t => Tz.placement t == 0).foldl (fun (acc : List (Bytes × Nat) × Nat) t =>
    (acc.1 ++ [(t, acc.2)], acc.2 + roundUp (Tz.size t) 64)) ([], 0)).1

def Pkg.oneCopy (g : Pkg) : Nat :=
  sumNat (fun t => roundUp (Tz.size t) 64) (g.tensors.filter fun t => Tz.placement t == 0)

/-- Trainable tensors with master copies (R199): every trainable tensor but the embedding tables. -/
def Pkg.masters (g : Pkg) : List Bytes := g.tensors.filter fun t => Tz.trainable t && Tz.placement t != 2

/-- The length of a weight pass of a format paired with itself, or 0 for a format that no array takes (R41, R157). -/
def selfKb (f : Elem) : Nat := (pairKb f f).getD 0

/-- Where the element at (r, c) of a tensor of `k` rows stands among its codes: in weight blocks of Kb × 128, or in row order for
a format that no array takes (R157, R183; DESIGN CHOICE, log 110). -/
def blockIndex (f : Elem) (k cols r c : Nat) : Nat :=
  let kb := selfKb f
  if kb = 0 then r * cols + c
  else (c / 128 * ceilDiv k kb + r / kb) * (kb * 128) + r % kb * 128 + c % 128

/-- Bytes of a streamed tensor's codes; its group scales follow (R157; log 110). -/
def blockBytes (f : Elem) (k cols : Nat) : Nat :=
  let kb := selfKb f
  if kb = 0 then ceilDiv (k * cols * f.bits) 8 else ceilDiv cols 128 * ceilDiv k kb * (kb * 128 * f.bits / 8)

def Tz.elem (t : Bytes) : Elem := (Elem.ofCode (Tz.format t)).getD .fp32
def Tz.groupSize (t : Bytes) : Nat := if Tz.group t = 1 then 32 else if Tz.group t = 2 then 64 else 128

/-- Byte offset of the element at (r, c) within the tensor's data, as a number of codes, and of its binary16 group scale: in the
blocks of R157 for a streamed tensor, in the row records of R227 for a resident one (log 110). -/
def Tz.codeAt (t : Bytes) (r c : Nat) : Nat × Nat :=
  let f := Tz.elem t
  if Tz.placement t = 1 then
    (r * resRow t * 8 / f.bits + c, r * resRow t + ceilDiv (Tz.cols t * f.bits) 8 + 2 * (c / Tz.groupSize t))
  else
    (blockIndex f (Tz.rows t) (Tz.cols t) r c, blockBytes f (Tz.rows t) (Tz.cols t) +
      256 * (r / Tz.groupSize t * ceilDiv (Tz.cols t) 128 + c / 128) + 2 * (c % 128))

/-- The group scale of an element in a tensor's data (R157, R160). -/
def Tz.scale (t : Bytes) (m : Memory) (base r c : Nat) : F32 :=
  if Tz.group t = 0 then f32one else f16toF32 (BitVec.ofNat 16 (m.readLe (base + (Tz.codeAt t r c).2) 2))

/-- The value of an element of a tensor: its code times its group scale (R37, R160). -/
def Tz.value (t : Bytes) (m : Memory) (base r c : Nat) : F32 :=
  let f := Tz.elem t
  let v := toF32 (f.num (elemAt m f base (Tz.codeAt t r c).1))
  if Tz.group t = 0 then v else f32mul v (Tz.scale t m base r c)

/-- Group scales of a tensor: one for each column and group of rows of a streamed one, and for each row and group of columns of a resident
one (R157, R227). -/
def Tz.scales (t : Bytes) : Nat :=
  if Tz.group t = 0 then 0
  else if Tz.placement t = 1 then Tz.rows t * ceilDiv (Tz.cols t) (Tz.groupSize t) else ceilDiv (Tz.rows t) (Tz.groupSize t) * Tz.cols t

/-- An element whose group has scale number `i`, as row and column. -/
def Tz.scaleOf (t : Bytes) (i : Nat) : Nat × Nat :=
  if Tz.placement t = 1 then
    let n := max 1 (ceilDiv (Tz.cols t) (Tz.groupSize t))
    (i / n, i % n * Tz.groupSize t)
  else (i / max 1 (Tz.cols t) * Tz.groupSize t, i % max 1 (Tz.cols t))

/-- Values of a trainable tensor that a training step updates: its elements in row order, then its group scales (R199; log 110). -/
def Tz.elems (t : Bytes) : Nat := Tz.rows t * Tz.cols t + Tz.scales t

/-- Bytes of the master copies and optimiser values, which begin STATE_BASE (R199; log 110). -/
def Pkg.masterBytes (g : Pkg) : Nat := sumNat (fun t => roundUp (4 * g.slots * Tz.elems t) 64) g.masters

/-- Bytes of the gradients that one tile position leaves (R188; log 110). -/
def Pkg.gradBytes (g : Pkg) : Nat := sumNat (fun t => roundUp (4 * Tz.elems t) 64) g.masters

/-- The object at STATE_BASE: master copies and optimiser values, then one gradient area for each tile position (R188, R199). -/
def Pkg.stateBytes (g : Pkg) : Nat := g.masterBytes + g.tiles * g.gradBytes

/-- Master tensors with their offsets in an area that gives each of their values `n` FP32 words. -/
def Pkg.areas (g : Pkg) (n : Nat) : List (Bytes × Nat) :=
  (g.masters.foldl (fun (acc : List (Bytes × Nat) × Nat) t =>
    (acc.1 ++ [(t, acc.2)], acc.2 + roundUp (4 * n * Tz.elems t) 64)) ([], 0)).1

/-- Creates one DRAM object and answers its first window (R245). -/
def Part.newObj (x : Part) (kind : ObjKind) (size owner : Nat) : Option (Part × Nat) :=
  let n := ceilDiv size windowBytes
  (x.freeWindows (max 1 n)).map fun w =>
    ({ x with objs := x.objs ++ [⟨w, max 1 n, kind, size, 0, false, owner⟩],
              mem := { x.mem with dram := x.mem.dram.zero (w * windowBytes) size, ckpt := x.mem.ckpt.zero (w * windowBytes) size } }, w)

/-- Frees objects by their first windows: their bytes and poison go (R245). -/
def Part.freeObjs (x : Part) (ws : List Nat) : Part :=
  let gone := x.objs.filter fun o => ws.contains o.first
  let inside := fun (a : Nat) => gone.any fun o =>
    decide (o.first * windowBytes ≤ a) && decide (a < (o.first + o.count) * windowBytes)
  { x with objs := x.objs.filter fun o => !ws.contains o.first,
           mem := { x.mem with dram := x.mem.dram.filter fun e => !inside e.1,
                               poison := x.mem.poison.filter fun l => !inside (l * 64) } }

/-- Writes the same bytes to the memory and to its checkpoint. -/
def PartMem.both (m : PartMem) (f : Memory → Memory) : PartMem :=
  let dram := f m.dram
  let ckpt := f m.ckpt
  { m with dram := dram, ckpt := ckpt }

/-- Places one table and its rows at a bank-group line (R185, R229). -/
def Part.placeTable (x : Part) (o : Obj) (g : Pkg) (model line : Nat) (t : Bytes) : Option (Part × Nat) :=
  match (List.range 256).find? fun i => !(x.tables.any fun y => y.num == i) with
  | none => none
  | some n =>
    let y := g.mkTable model n 0 (List.range x.life.chans.length) t
    (x.newObj .table y.bytes n).map fun r =>
      let y := { y with first := r.2 }
      let data := x.pkgBytes o (Tz.off t) (Tz.size t)
      ((({ r.1 with tables := insertBy (·.num) y r.1.tables,
                    mem := r.1.mem.both fun m => m.writeN (y.first * windowBytes) data } : Part).takeLines 1 n line y.lines), n)

/-- Places one resident tensor: its stored rows, in order, in a window of its own (R185, R227, R247). -/
def Part.placeResident (x : Part) (o : Obj) (model line : Nat) (k : BankPlace) : Option (Part × Resident) :=
  let e := 8 * k.chans.length
  (x.newObj .resident (ceilDiv (Tz.rows k.tensor) (max 1 e) * e * k.row) model).map fun r =>
    let t : Resident := ⟨r.2, Tz.rows k.tensor, k.row, k.chans, line⟩
    let data := x.pkgBytes o (Tz.off k.tensor) (Tz.size k.tensor)
    ((({ r.1 with mem := r.1.mem.both fun m => m.writeN (t.rowAddr 0) data } : Part).takeLines 0 r.2 line k.lines), t)

/-- Lines of a package in each bank group: of its places, and of the second copies of its trainable resident tensors, which stand behind
them (R201, R225; log 106). -/
def Pkg.bankLines (g : Pkg) (all : Nat) : Nat :=
  sumNat (fun (k : BankPlace) => if k.dim.isNone && Tz.trainable k.tensor then 2 * k.lines else k.lines) (g.bankPlaces all)

/-- Places the bank-resident tensors and the tables of a package from a bank-group line on, and the second working copies of its trainable
resident tensors behind them (R185, R201, R225). Answers the tables, the residents and their second copies. -/
def Part.placeBanks (x : Part) (o : Obj) (g : Pkg) (model base : Nat) : Option (Part × List Nat × List Resident × List Resident) :=
  let places := g.bankPlaces x.life.chans.length
  let first := places.foldl (fun (acc : Option (Part × List Nat × List Resident)) k =>
    match acc with
    | none => none
    | some (y, ts, rs) =>
      if k.dim.isSome then (y.placeTable o g model (base + k.line) k.tensor).map fun q => (q.1, ts ++ [q.2], rs)
      else (y.placeResident o model (base + k.line) k).map fun q => (q.1, ts, rs ++ [q.2])) (some (x, [], []))
  first.bind fun a =>
    (((places.filter fun k => k.dim.isNone).zip a.2.2).foldl (fun (acc : Option (Part × List Resident × Nat)) k =>
      acc.bind fun q =>
        if Tz.trainable k.1.tensor then
          (q.1.placeResident o model q.2.2 k.1).map fun w => (w.1, q.2.1 ++ [w.2], q.2.2 + k.1.lines)
        else some (q.1, q.2.1 ++ [k.2], q.2.2)) (some (a.1, [], base + sumNat (·.lines) places))).map fun q => (q.1, a.2.1, a.2.2, q.2.1)

/-- DRAM a package commits (R185): its tensors, both working copies of trainable ones, its master copies, optimiser state and
gradients, its resident tensors and its tables (R199, R201). -/
def Part.pkgCommit (x : Part) (g : Pkg) : Nat :=
  g.oneCopy * (if g.masters.isEmpty then 1 else 2) + g.stateBytes +
  sumNat (fun (k : BankPlace) => k.lines * 64 * 8 * k.chans.length * (if k.dim.isNone && Tz.trainable k.tensor then 2 else 1))
    (g.bankPlaces x.life.chans.length)

/-- Copies the streamed tensors of a package to their places from `base` on (R185). -/
def Part.placeLayout (x : Part) (o : Obj) (g : Pkg) (base : Nat) (m : Memory) : Memory :=
  g.layout.foldl (fun m t => m.writeN (base + t.2) (x.pkgBytes o (Tz.off t.1) (Tz.size t.1))) m

/-- Copies the streamed tensors of a package, into both working copies of a trainable model (R185, R201). -/
def Part.placeStreams (x : Part) (o : Obj) (g : Pkg) (base : Nat) (m : Memory) : Memory :=
  let m := x.placeLayout o g base m
  if g.masters.isEmpty then m else x.placeLayout o g (base + g.oneCopy) m

/-- The FP32 master copies start as the values of their tensors and of their group scales, which the stored object gives (R199; DEDUCED, log 30); optimiser
values start at zero. -/
def Part.placeMasters (x : Part) (o : Obj) (g : Pkg) (base : Nat) (m : Memory) : Memory :=
  (g.areas g.slots).foldl (fun m e =>
    let t := e.1
    let at_ := o.first * windowBytes + Tz.off t
    m.writeN (base + e.2) (((List.range (Tz.rows t)).flatMap fun r => (List.range (Tz.cols t)).flatMap fun c =>
      le 4 (Tz.value t x.mem.flash at_ r c).toNat) ++ (List.range (Tz.scales t)).flatMap fun i =>
      le 4 (Tz.scale t x.mem.flash at_ (Tz.scaleOf t i).1 (Tz.scaleOf t i).2).toNat)) m

/-- One optional DRAM object. -/
def Part.newObj? (x : Part) (kind : ObjKind) (size owner : Nat) : Option (Part × Option Nat) :=
  if size = 0 then some (x, none) else (x.newObj kind size owner).map fun r => (r.1, some r.2)

/-- Places the tensors of a checked package (R185 steps 1 and 3); none when its windows or table numbers run out. -/
def Part.placePkg (x : Part) (o : Obj) (g : Pkg) (model : Nat) : Option (Part × Pkg) :=
  let line := x.freeLine (g.bankLines x.life.chans.length)
  (x.newObj? .tensor (g.oneCopy * (if g.masters.isEmpty then 1 else 2)) model).bind fun q1 =>
  (q1.1.newObj? .state g.stateBytes model).bind fun q2 =>
  (q2.1.placeBanks o g model line).map fun q =>
    let mem := q.1.mem.both fun m =>
      x.placeMasters o g ((q2.2.getD 0) * windowBytes) (x.placeStreams o g ((q1.2.getD 0) * windowBytes) m)
    ({ q.1 with mem := mem },
     { g with window := q1.2, stateWindow := q2.2, bankLine := line, tensorBytes := g.oneCopy, tables := q.2.1, residents := q.2.2.1, residents2 := q.2.2.2 })

/-- Releases what a package holds (R186). -/
def Part.freePkg (x : Part) (g : Pkg) : Part :=
  let tabs := x.tables.filter fun t => g.tables.contains t.num
  let ws := (g.residents ++ g.residents2).map (·.window)
  let x := x.freeObjs (g.window.toList ++ g.stateWindow.toList ++ tabs.map (·.first) ++ ws)
  { x with tables := x.tables.filter fun t => !g.tables.contains t.num,
           lines := x.lines.filter fun u => !((u.kind == 0 && ws.contains u.id) || (u.kind == 1 && g.tables.contains u.id)) }

/-- A request has no row of the model left to be served: some have been, and none waits or runs. -/
def Part.rowsServed (x : Part) (m : Nat) (r : ReqRef) : Bool := x.outs.any (fun o => o.req == r) && !x.rowsUse r m none

/-- Replaced versions release their DRAM when their last invocation has ended, and go when no request names them any more (R186). -/
def Part.releaseOlds (x : Part) (p : Nat) : Part :=
  let none_ : ReqRef := ⟨.part p 16, 0⟩
  x.models.foldl (fun (x : Part) (k : Model) => k.olds.foldl (fun (x : Part) (o : OldVer) =>
    let users := (List.range (o.version + 1 - o.base)).flatMap fun i => x.modelUsers p k.id none_ (some (o.base + i))
    if !(users.all fun e => x.rowsServed k.id e.1) then x else
    let x := if o.freed then x else x.freePkg o.pkg
    let rest := fun (l : List OldVer) => if users.isEmpty then l.filter fun q => q.version != o.version
      else modIf (fun q => q.version == o.version) (fun (q : OldVer) => { q with freed := true }) l
    x.modModel k.id fun m => { m with olds := rest m.olds }) x) x

/-- Replacements whose switch epoch has come take the identifier (R186). -/
def Part.switchModels (x : Part) (p : Nat) : Part :=
  let due := fun (k : Model) => k.next.any fun n => decide (n.2.2 ≤ x.vis.cur)
  let kept := x.mem.ckptCopies.filter fun e => !(x.models.any fun k => k.id == e.1 && due k)
  let x : Part := { x with mem := { x.mem with ckptCopies := kept }, models := x.models.map fun (k : Model) =>
    match k.next with
    | some (v, g, s) =>
      if s ≤ x.vis.cur then
        { k with version := v, base := v, cur := some g, next := none, loading := false, copy := false,
                 olds := match k.cur with
                   | some old => ⟨k.version, k.base, k.copy, old, false⟩ :: k.olds
                   | none => k.olds }
      else k
    | none => k }
  x.releaseOlds p

def Part.highest (x : Part) (m : Nat) : Nat := ((x.versions.find? fun v => v.1 == m).map (·.2)).getD 0
def Part.setHighest (x : Part) (m v : Nat) : Part := { x with versions := (m, v) :: x.versions.filter fun e => e.1 != m }

/-! ### MODEL_LOAD and unloading (R185, R186, R358) -/

def mdl (q : Req) : Nat := fld q.desc 24 2

/-- A model identifier in the loading state, or being unloaded (R186, R341 step 3). -/
def Part.modelBusy (x : Part) (m : Nat) : Bool :=
  (match x.model? m with
  | some k => k.loading || k.unloading
  | none => false) ||
  x.rings.any fun g => g.inflight.any fun q => q.admitted && q.opcode == 0x40 && mdl q == m

/-- Admitted loads of identifiers that the partition does not hold yet (R181). -/
def Part.newLoads (x : Part) : Nat :=
  sumNat (fun (g : RingSet) => (g.inflight.filter fun q => q.admitted && q.opcode == 0x40 && fbits q.desc 26 0 0 == 0 &&
    (x.model? (mdl q)).isNone).length) x.rings

/-- An object behind a lost storage die, or with a page that no copy can give (R100, R256). -/
def Dev.objReadable (d : Dev) (p : Nat) (o : Obj) (a n : Nat) : Bool :=
  ((List.range (ceilDiv (a % 16384 + n) 16384)).all fun i => d.unitReadable p o ((o.first * windowBytes + a) / 16384 + i))

/-- A read of an object waits until a map scan has rebuilt the entries that it needs (R261). -/
def Dev.objWaits (d : Dev) (p : Nat) (o : Obj) (a n : Nat) : Bool :=
  (List.range (ceilDiv (a % 16384 + n) 16384)).any fun i => d.flash.waits p o.first (a / 16384 + i) (!o.single) (singleSide o.first p)

/-- Bytes of a stored object are read: the codewords that hold them are transferred (R269). -/
def Dev.readObj (d : Dev) (now p : Nat) (o : Obj) (a n : Nat) : Dev := { d with flash := d.flash.readRun now p o.first a n }

/-- An accepted MODEL_LOAD: the identifier is in the loading state, and the hot-vector cache gives way to what it commits (R186, R254). -/
def Part.markLoading (x : Part) (m : Nat) : Part :=
  if (x.model? m).isSome then (x.modModel m fun k => { k with loading := true }).trimHot
  else ({ x with models := insertBy (·.id) ⟨m, 0, 0, none, none, true, false, false, [], 0, 0, 0⟩ x.models } : Part).trimHot

/-- A model identifier is freed with every version it holds (R186). -/
def Part.unloadModel (x : Part) (m : Nat) : Part :=
  let gs := match x.model? m with
    | some k => k.cur.toList ++ (k.olds.filter fun (o : OldVer) => !o.freed).map (fun (o : OldVer) => o.pkg)
    | none => []
  let x := gs.foldl Part.freePkg x
  { x with models := x.models.filter fun k => k.id != m }

/-- MODEL_LOAD (R181 to R186): the package is read from its stored object, checked and placed, and its switch epoch is
assigned once every TRAIN_STEP on the old version has completed. -/
def execModelLoad (r : ReqRef) (io : Io) (s : State) : Out :=
  s.onDev fun c d =>
    let p := r.rs.partNo
    match d.req? r with
    | none => d
    | some q0 =>
      if fbits q0.desc 26 0 0 = 1 then d else
      let m := mdl q0
      let x := d.part p
      d.command c r 0x40 io.upto (fun q => q.admitted || !x.modelBusy m) always
        (fun q => (x.storedAt (fld q.desc 28 4)).isSome)
        (fun d q =>
          let x := d.part p
          match x.storedAt (fld q.desc 28 4) with
          | none => .refuse statusBADHANDLE
          | some o =>
            let g := x.readPkg o
            if d.objWaits p o 0 o.size then .wait id
            else if !d.objReadable p o 0 o.size then .refuse statusMEDIA
            else if hdrOk g.hdr x.life.sites.length && x.cfg.repro && g.reproRefused then .refuse statusNOTPERM
            else if !x.pkgOk o g then .refuse statusBADFIELD
            else if (x.model? m).isNone ∧ 64 ≤ x.models.length + x.newLoads then .refuse statusQUOTA
            else match d.dramRefusal p (x.pkgCommit g) with
              | some st => .refuse st
              | none => if (x.placePkg o g m).isNone then .refuse statusQUOTA
                else .go fun q => { q with work := .load (x.pkgCommit g) })
        fun d q =>
          -- accepted: the identifier is in the loading state
          let d := d.modPart p fun x => x.markLoading m
          let x := d.part p
          let training := (x.modelUsers p m r none).any fun e => e.2.opcode == 0x43
          if io.upto = .admitted ∨ io.upto = .halfway ∨ training then (d, none)
          else match x.storedAt (fld q.desc 28 4) with
            | none => (d, some ⟨statusBADHANDLE, 0, 0, 0⟩)
            | some o =>
              match x.placePkg o (x.readPkg o) m with
              | none => (d, some ⟨statusQUOTA, 0, 0, 0⟩)
              | some (y, g) =>
                let v := x.highest m + 1
                let a := y.vis.assign
                let y := ({ y with vis := a.1 }.setHighest m v).modModel m fun k => { k with next := some (v, g, a.2) }
                -- what the load committed now stands in its objects (R22)
                ((((d.readObj c.time p o 0 o.size).modPart p fun _ => y).modReq r fun q => { q with work := .none }).modPart p Part.trimHot, some ⟨statusSUCCESS, 0, v, a.2⟩)

/-- MODEL_LOAD with its unload option: the identifier is freed once every invocation using it has ended (R186). -/
def execModelUnload (r : ReqRef) (io : Io) (s : State) : Out :=
  s.onDev fun c d =>
    let p := r.rs.partNo
    match d.req? r with
    | none => d
    | some q0 =>
      if fbits q0.desc 26 0 0 = 0 then d else
      let m := mdl q0
      let x := d.part p
      d.command c r 0x40 io.upto (fun q => q.admitted || !x.modelBusy m) always
        (fun _ => (x.modelLive m).isSome) (fun _ _ => .go id)
        fun d _ =>
          let d := d.modPart p fun x => x.modModel m fun k => { k with unloading := true }
          let x := d.part p
          if io.upto = .halfway ∨ !(x.modelUsers p m r none).isEmpty then (d, none)
          else
            (d.modPart p fun x => x.unloadModel m, some ⟨statusSUCCESS, 0, 0, 0⟩)

end Sys2Proof.Machine
end

