-- ==== Sys2Proof/Machine/Invs.lean ====
section
/-! DEFINITION. Invocations: the rows they serve, what a program sees when it starts, the entries of its plan, and what it leaves
(chapter 07: R187 to R192, R195, R198, R201, R202). -/

namespace Sys2Proof.Machine

open Sys2Proof

/-! ### Rows (R187, R190) -/

/-- Some row of a request (of one search of a batch) waits for its invocation or runs. -/
def Part.rowsOpen (x : Part) (r : ReqRef) (sub : Nat) : Bool :=
  x.invs.any fun i => i.rows.any fun w => w.live && w.req == r && w.sub == sub

/-- What invocations have left for a request (for one search of a batch), in item order. -/
def Part.outsOf (x : Part) (r : ReqRef) (sub : Nat) : List RowOut :=
  sortBy (·.item) (x.outs.filter fun o => o.req == r && o.sub == sub)

def Part.dropOuts (x : Part) (r : ReqRef) (sub : Nat) : Part :=
  { x with outs := x.outs.filter fun o => !(o.req == r && o.sub == sub) }

/-- A request (one search of a batch) takes its rows out of invocations that have not started, and no longer waits for a running
one (R132). -/
def Dev.dropRows (d : Dev) (r : ReqRef) (sub : Nat) : Dev :=
  let mine := fun (w : InvRow) => w.req == r && w.sub == sub
  let was := (d.part r.rs.partNo).invs.any (·.going)
  let one := fun (i : Inv) =>
    if i.going then { i with rows := modIf mine (fun w => { w with live := false }) i.rows }
    else { i with rows := i.rows.filter fun w => !mine w }
  let d := d.modPart r.rs.partNo fun x =>
    ({ x with invs := (x.invs.map one).filter fun i => i.rows.any (·.live) } : Part).dropOuts r sub
  if was && !((d.part r.rs.partNo).invs.any (·.going)) then d.stopInv r.rs.partNo else d

/-- An invocation that waits takes further encoder rows of the same package while its batch has room (R187). -/
def Inv.joins (i : Inv) (x : Part) (m v : Nat) : Bool :=
  !i.going && i.kind == 0 && i.model == m && x.pkgOf m i.version == x.pkgOf m v

/-- One row more: in the newest waiting invocation that may take it, else in a new one (R187; which rows share a batch is a DESIGN
CHOICE, log 105). -/
def Part.addRow (x : Part) (proto : Inv) (fresh : Bool) (w : InvRow) : Part :=
  let max_ := ((x.pkgOf proto.model proto.version).map Pkg.maxRows).getD 1
  match x.invs.reverse with
  | i :: rest =>
    if i.rows.length < max_ ∧ (if proto.kind = 0 then i.joins x proto.model proto.version = true else fresh = false)
    then { x with invs := (({ i with rows := i.rows ++ [w] } : Inv) :: rest).reverse }
    else { x with invs := x.invs ++ [{ proto with rows := [w] }] }
  | [] => { x with invs := [{ proto with rows := [w] }] }

/-- The rows of a request: encoder rows may share a batch with other requests'; a rerank and a training step have invocations of
their own (R187, R190). -/
def Part.addRows (x : Part) (proto : Inv) (rows : List InvRow) : Part :=
  (indexed rows).foldl (fun x w => x.addRow proto (w.1 == 0) w.2) x

/-- An invocation without rows: kind, model, version. -/
def Inv.new (kind m v : Nat) : Inv := ⟨kind, m, v, [], 0, f32zero, f32zero, 0, 0, false, false, [], [], [], []⟩

/-- Tokens as staged: int32 values, cut at MAX_TOKENS (R188). -/
def InvRow.ofTokens (r : ReqRef) (sub item query maxTokens : Nat) (tokens : Bytes) : InvRow :=
  let n := min maxTokens (tokens.length / 4)
  ⟨r, sub, item, tokens.take (4 * n), n, query, true⟩

/-! ### What an invocation sees (R188; the places in the staging region are a DESIGN CHOICE, log 105) -/

/-- Partition address of the row table, of the rows' tokens, of the outputs and of the expert choices, in window 0. -/
def Inv.inputBase (i : Inv) : Nat := roundUp (8 * i.rows.length) 64
def Inv.outputBase (i : Inv) (g : Pkg) : Nat :=
  i.inputBase + roundUp (max (4 * g.maxTokens * i.rows.length) (sumNat (fun w => w.data.length) i.rows)) 64

/-- Bytes of one output row: an encoder's vector in OUTPUT_FORMAT, a cross-encoder's score at each exit point and at the last layer,
or the loss (R182, R197, R199; log 105). -/
def Inv.rowBytes (i : Inv) (g : Pkg) : Nat :=
  if i.kind = 0 then g.outDim * (if g.outHalf then 2 else 4) else if i.kind = 1 then 4 * (g.exits + 1) else 4

/-- Address of the expert choices that a program with a capacity leaves: the number of expert layers, then for each layer and each
token of the batch TOP_K expert numbers of 16 bits (R195; log 105). Behind the number of layers stands the number of tokens of a
training step's batch, which no row gives (R188). -/
def Inv.choiceBase (i : Inv) (g : Pkg) : Nat := i.outputBase g + roundUp (i.rowBytes g * i.rows.length) 64

/-- The index of a row's request in its batch (R188). -/
def Inv.reqIndex (i : Inv) (w : InvRow) : Nat :=
  let l := i.rows.foldl (fun (l : List (ReqRef × Nat)) w => if l.contains (w.req, w.sub) then l else l ++ [(w.req, w.sub)]) []
  l.idxOf (w.req, w.sub)

/-- The row table (R188). -/
def Inv.rowTable (i : Inv) : Bytes :=
  i.rows.flatMap fun w => le 2 w.tokens ++ le 2 (i.reqIndex w) ++ le 2 w.item ++ le 2 w.query

/-- The staged tokens: each row's, padded with zeros to MAX_TOKENS; the batch of a training step as it came (R188). -/
def Inv.input (i : Inv) (g : Pkg) : Bytes :=
  if i.kind = 2 then i.rows.flatMap (·.data) else i.rows.flatMap fun w => fit (4 * g.maxTokens) w.data

/-- WEIGHT_BASE: the working copy that the invocation uses (R188, R201). -/
def Inv.weightBase (i : Inv) (g : Pkg) : Nat :=
  match g.window with
  | some w => w * windowBytes + (if i.copy then g.tensorBytes else 0)
  | none => 0

/-- STATE_BASE (R188). -/
def Inv.stateBase (i : Inv) (g : Pkg) : Nat := if i.kind = 2 then (g.stateWindow.getD 0) * windowBytes else 0

/-- The argument page of the tile at a position (R146, R188). -/
def Inv.argPage (i : Inv) (g : Pkg) (pos : Nat) : Bytes :=
  fit 4096 (le 1 i.kind ++ zeros 1 ++ le 2 pos ++ le 2 g.tiles ++ le 2 i.rows.length ++ le 4 i.version ++
    le 4 (if i.kind = 2 then i.step else 0) ++ le 8 i.time ++ le 8 (i.weightBase g) ++ le 8 i.inputBase ++
    le 8 (i.outputBase g) ++ le 8 (i.stateBase g) ++ le 8 0 ++ le 4 (if i.kind = 2 then i.rate.toNat else 0) ++
    le 4 (if i.kind = 1 then i.margin.toNat else 0) ++ le 2 (if i.kind = 1 then i.exitK else 0))

/-! ### Starting (R146, R187, R191, R192, R201) -/

/-- The package that an invocation runs. -/
def Part.invPkg (x : Part) (i : Inv) : Option Pkg := x.pkgOf i.model i.version

/-- The version and the working copy that an invocation uses from its start: those current, or the last of a replaced package
(R186, R201). -/
def Part.currentOf (x : Part) (i : Inv) : Nat × Bool :=
  match x.model? i.model with
  | none => (i.version, false)
  | some k =>
    if k.base ≤ i.version ∧ i.version ≤ k.version then (k.version, k.copy)
    else match k.olds.find? fun (o : OldVer) => decide (o.base ≤ i.version) && decide (i.version ≤ o.version) with
      | some o => (o.version, o.copy)
      | none => (i.version, false)

/-- The oldest waiting invocation starts when none runs: its rows are staged, and a training step's gradients begin at zero
(R187, R188). -/
def Part.beginInv (x : Part) (c : Clock) : Part :=
  if x.invs.any (·.going) then x else
  match x.invs with
  | [] => x
  | i :: rest =>
    let v := x.currentOf i
    let i : Inv := { i with going := true, time := c.time, version := v.1, copy := v.2 }
    match x.invPkg i with
    | none => { x with invs := i :: rest }
    | some g =>
      let mem := (x.mem.put 0 i.rowTable).put i.inputBase (i.input g)
      let mem := if i.kind = 2 then
          mem.clear (i.stateBase g + g.masterBytes) (g.tiles * g.gradBytes) else mem
      { x with invs := i :: rest, mem := mem }

/-- A command of a bank phase as it is queued: its LOCAL counts from the package's first line, and in an invocation that uses the second
working copy a line of a resident tensor is the same line of that copy (R201, R222, R225). -/
def Pkg.relocate (g : Pkg) (copy : Bool) (c : Bytes) : Bytes :=
  let l := Bc.loc c + g.bankLine
  let l := match (g.residents.zip g.residents2).find? fun q => decide (q.1.line ≤ l) && decide (l < q.1.line + q.1.lines) with
    | some q => if copy then l - q.1.line + q.2.line else l
    | none => l
  patch c 4 (le 4 l)

/-- An entry of the plan of the running invocation starts once its predecessors have completed (R191). A bank phase queues its
command groups in list order (R192, R222); a tile phase waits for its tiles' streams. -/
def Dev.startEntry (d : Dev) (p entry : Nat) : Dev :=
  let x := d.part p
  match x.running.bind fun i => (x.invPkg i).bind fun g => g.plan[entry]?.map fun e => (i, g, e) with
  | none => d
  | some (i, g, e) =>
    let ready := (List.range 4).all fun j => let q := fld e (2 + 2 * j) 2
                                             q == 0xFFFF || i.done.contains q
    if !ready ∨ i.started.contains entry then d else
    let d := d.modPart p fun y => y.modRunning fun k => { k with started := k.started ++ [entry] }
    if fbits e 0 0 0 = 0 then d else
    let f := g.phases.getD entry ⟨[], []⟩
    let ord := d.nextOrd
    (indexed f.groups).foldl (fun d k =>
      match f.chans[k.2.eng / 8]? with
      | none => d
      | some pos =>
        match x.life.chans[pos]? with
        | none => d
        | some ch =>
          let cmds := k.2.cmds.map (g.relocate i.copy)
          d.queueGroup ch ⟨k.2.eng % 8, p, ceilDiv (x.groupBound (8 * pos + k.2.eng % 8) cmds) 32, 0, ord + k.1, some entry, cmds, 0, []⟩) d

/-- The started tile phase that a position has not ended (R146, R191). -/
def Inv.tileEntry (i : Inv) (g : Pkg) (pos : Nat) : Option Nat :=
  i.started.find? fun e => (match g.plan[e]? with
    | some b => fbits b 0 0 0 == 0
    | none => false) && !i.ended.contains (e, pos)

/-- The plan entry that a position of the running invocation runs next. -/
def Part.nextEntry (x : Part) (pos : Nat) : Option Nat := x.running.bind fun i => (x.invPkg i).bind fun g => i.tileEntry g pos

/-- A tile of the running invocation starts its stream: the argument page is written, the counters are zero (R146). -/
def Dev.startTile (d : Dev) (p pos : Nat) : Dev :=
  let x := d.part p
  let t := d.siteAt p pos
  match x.running.bind fun i => (x.invPkg i).bind fun g => (i.tileEntry g pos).map fun e => (i, g, e) with
  | none => d
  | some (i, g, e) =>
    if (d.tile t).running ∨ g.tiles ≤ pos then d else
    d.modTile t fun y =>
      { y with sram := y.sram.writeN 0 (i.argPage g pos), tokens := List.replicate 64 0, running := true,
               prog := (g.streams.getD e []).getD pos [], next := 0, entry := some e, queues := List.replicate 5 [], held := [] }

/-! ### The end of an invocation (R191, R195, R198, R202) -/

/-- FP32 contributions added in ascending order of source identity (R139, R202). -/
def foldSources (l : List (Nat × F32)) : F32 :=
  match (sortBy (·.1) l).map (·.2) with
  | [] => f32zero
  | a :: r => r.foldl f32add a

/-- FP32 contributions of several units: in the order of source identity in a reproducible partition (R202), in an order of arrival
that nothing fixes in a standard one (R43; free value, log 8). -/
def foldUnits (repro : Bool) (free : Nat) (l : List (Nat × F32)) : F32 :=
  if repro then foldSources l else foldSources (l.map fun e => (Config.freeNat free e.1, e.2))

/-- The gradients of a training step: for each element of each tensor, the sum over the tiles' contributions (R200, R202). A tile
position's identity orders its contribution (R139). -/
def Part.gradients (x : Part) (i : Inv) (g : Pkg) (free : Nat) : List (List F32) :=
  (g.areas 1).map fun e => (List.range (Tz.elems e.1)).map fun n =>
    foldUnits x.cfg.repro free ((List.range g.tiles).map fun q =>
      (tileIdentity q, f32at x.mem.dram (i.stateBase g + g.masterBytes + q * g.gradBytes + e.2 + 4 * n)))

/-- Tokens that experts refused in an invocation, over the choices of its expert layers (R195). -/
def Part.refusals (x : Part) (i : Inv) (g : Pkg) : Nat :=
  if g.capacity = 0 then 0 else
  let a := i.choiceBase g
  let t := if i.kind = 2 then x.mem.dram.readLe (a + 4) 4 else sumNat (·.tokens) i.rows
  sumNat (fun l => g.refused ((List.range t).map fun n => (List.range g.topK).map fun k =>
    x.mem.dram.readLe (a + 8 + 2 * ((l * t + n) * g.topK + k)) 2)) (List.range (x.mem.dram.readLe a 4))

/-- What an invocation leaves for its rows that are waited for. -/
def Part.rowOuts (x : Part) (i : Inv) (g : Pkg) (free : Nat) : List RowOut :=
  (indexed i.rows).filterMap fun w =>
    if !w.2.live then none else
    some ⟨w.2.req, w.2.sub, w.2.item, i.version, x.mem.dram.readN (i.outputBase g + w.1 * i.rowBytes g) (i.rowBytes g),
      if i.kind = 2 then x.gradients i g free else [], if i.kind = 2 then i.upds else []⟩

/-- A row whose output lies on a poisoned line; of a training step its gradients as well (R209). -/
def Part.rowPoisoned (x : Part) (i : Inv) (g : Pkg) (n : Nat) : Bool :=
  x.mem.poisoned (i.outputBase g + n * i.rowBytes g) (i.rowBytes g) ||
  (i.kind == 2 && 0 < g.gradBytes && x.mem.poisoned (i.stateBase g + g.masterBytes) (g.tiles * g.gradBytes))

/-- The running invocation ends once every entry of its plan has completed: its rows' outputs go to their requests, and the model's
statistics count it, and a replaced version that nothing runs on releases its DRAM (R186, R191, R195, R375). A request whose output is poisoned ends with DATA_POISONED (R209). -/
def Dev.invDone (d : Dev) (fin : Ends) (p : Nat) : Dev :=
  let x := d.part p
  match x.running.bind fun i => (x.invPkg i).map fun g => (i, g) with
  | none => d.modPart p fun y => y.releaseOlds p
  | some (i, g) =>
    if !((List.range g.plan.length).all i.done.contains) then d else
    let bad := (indexed i.rows).filter fun w => w.2.live && x.rowPoisoned i g w.1
    let outs := x.rowOuts i g d.free
    let refused := x.refusals i g
    let d := (d.modPart p fun y => ({ y with invs := y.invs.filter (fun k => !k.going), outs := y.outs ++ outs } : Part).modModel i.model fun k =>
      { k with invocations := satCap 64 (k.invocations + 1), rows := satCap 64 (k.rows + i.rows.length),
               refusals := satCap 64 (k.refusals + refused) }).fresh
    (bad.foldl (fun d w => fin d w.2.req w.2.sub false statusPOISON) d).modPart p fun y => y.releaseOlds p

/-! ### Running by itself -/

/-- Every descriptor of a running tile is dispatched as its queues let it (R147). -/
def Dev.dispatchAll (d : Dev) (t : Nat) : Nat → Dev
  | 0 => d
  | n + 1 => (d.dispatch t).dispatchAll t n

/-- The running invocation's part on one channel: a switch ends, queued groups start, running ones run to their end. -/
def Dev.driveChan (d : Dev) (c : Clock) (fin : Ends) (p ch : Nat) : Dev :=
  let d := d.switchDone c.time ch none
  let d := (d.startGroups c.time ch false).modChan ch Channel.turn
  ((d.chan ch).running.filter fun g => g.part == p && g.entry.isSome).foldl (fun d g => d.finishGroup c fin ch g.eng) d

/-- One round of a partition's invocations: the oldest starts, ready entries start, tiles and channels run. -/
def Dev.driveOnce (d : Dev) (c : Clock) (fin : Ends) (p : Nat) : Dev :=
  let d := d.modPart p fun x => x.beginInv c
  let x := d.part p
  match x.running.bind fun i => (x.invPkg i).map fun g => (i, g) with
  | none => d
  | some (_, g) =>
    let d := (List.range g.plan.length).foldl (fun d e => d.startEntry p e) d
    let d := (List.range g.tiles).foldl (fun d q => d.startTile p q) d
    let d := (indexed x.life.sites).foldl (fun d s => d.dispatchAll s.2 ((d.tile s.2).prog.length - (d.tile s.2).next)) d
    let d := Dev.runTiles c fin p (d.tileFuel p) d
    let d := x.life.chans.foldl (fun d ch => d.driveChan c fin p ch) d
    (Dev.runTiles c fin p (d.tileFuel p) d).invDone fin p

/-- Rounds that the waiting invocations can need: every round that does something completes a descriptor, a group or an entry. -/
def Part.rounds (x : Part) : Nat :=
  sumNat (fun i => ((x.invPkg i).map fun g => 4 + g.plan.length + sumNat (fun e => sumNat List.length e) g.streams +
    sumNat (fun f => f.groups.length) g.phases).getD 1) x.invs + 1

/-- Runs a partition's invocations in their order until the rows of a request (of one search of a batch) have been served, or
nothing more can run. -/
def Dev.serveRows (c : Clock) (fin : Ends) (r : ReqRef) (sub : Nat) : Nat → Dev → Dev
  | 0, d => d
  | n + 1, d =>
    if (d.part r.rs.partNo).rowsOpen r sub then (d.driveOnce c fin r.rs.partNo).serveRows c fin r sub n else d

/-- Runs what a request's rows wait for; in a draining partition too, since they are in flight (R333). -/
def Dev.runRows (d : Dev) (c : Clock) (fin : Ends) (r : ReqRef) (sub : Nat) : Dev :=
  d.serveRows c fin r sub (d.part r.rs.partNo).rounds

end Sys2Proof.Machine
end

