-- ==== Sys2Proof/Machine/Journal.lean ====
section
/-! DEFINITION. The journal of a partition, the flash pages of an index, and how a request ends when what serves it stops
(R27, R120, R126, R136, R179, R258, R275 to R277, R349). -/

namespace Sys2Proof.Machine

open Sys2Proof

/-! ### Keys of the media (R288) -/

/-- The key that a page is stored under: the module key for a module page, else the media key of its partition, while it is held (R288,
R402). -/
def Dev.pageKey (d : Dev) (p : FPage) : Option Bytes :=
  if p.isModule then some Config.moduleKey else (d.part p.part).keys.media

/-- A page and a stripe's parity page as they stand on the media. -/
def Dev.mediaPage (d : Dev) (p : FPage) : Option Bytes := (d.pageKey p).map (d.flash.physical p)
def Dev.mediaParity (d : Dev) (s : Stripe) (plane : Nat) : Bytes := d.flash.parity s plane fun p => (d.pageKey p).getD []

/-! ### What an update names (R351) -/

def uIndex (q : Req) : Nat := fbits q.desc 24 3 0
def uHandle (q : Req) : Nat := fld q.desc 28 5
def uModel (q : Req) : Nat := fld q.desc 26 2
def uRecLen (q : Req) : Nat := fld q.desc 56 4

/-- Bytes of a journal record in its record packs: 48 of its own, its source and its document (R277; the record's own layout is a
DESIGN CHOICE, log 13). -/
def journalBytes (src doc : Nat) : Nat := runLen (48 + src + doc)

/-- The bytes of a journal record whose source takes `src` bytes (R27, R120; DESIGN CHOICE, log 13). -/
def JRec.bytes (j : JRec) (p : IndexParams) (src : Nat) : Bytes :=
  let u := j.upd
  let vec := if u.source.isEmpty && p.attrBytes + 2 * p.dim == src then (narrow16 u.vec).1 else u.vec.flatMap fun v => le 4 v.toNat
  let source := if j.kind = 4 then u.vec.flatMap fun v => le 4 v.toNat
    else le p.attrBytes u.attrs ++ (if u.source.isEmpty then vec else u.source)
  le 8 j.seq ++ le 1 j.kind ++ le 1 j.index ++ le 6 j.handle ++ le 8 j.target ++ le 8 j.epoch ++ le 8 j.rs.num ++ le 8 j.cmdSeq ++
  fit src source ++ (if j.kind = 1 ∨ j.kind = 2 then u.record else [])

/-- Bytes of a structure record of an update that rewrites `lists` neighbour lists: sketch and attribute word, the lists at 2 × DEGREE
bytes, a change-table entry, a directory entry, and the summaries of its range and block (R258; their layout is a DESIGN CHOICE, log 74). -/
def IndexParams.summBytes (p : IndexParams) : Nat := 2 * p.attrBytes + 4
def IndexParams.structBody (p : IndexParams) (lists : Nat) : Nat :=
  p.sketchBits / 8 + p.attrBytes + 2 * p.degree * lists + 24 + 2 * p.summBytes
def IndexParams.structBytes (p : IndexParams) (lists : Nat) : Nat := runLen (p.structBody lists)

/-- A neighbour list as an image segment or a structure record holds it: 2 bytes a neighbour (DESIGN CHOICE, log 74). -/
def Node.listBytes (n : Node) (p : IndexParams) : Bytes := fit (2 * p.degree) (n.list.flatMap (le 2))

/-- A handle's directory entry (R251). -/
def Directory.entryBytes (slot quotient : Nat) : Bytes := le 5 slot ++ le 3 quotient

/-- The summaries of a range and of its block, at an epoch (R80). -/
def Index.summImage (i : Index) (r cur : Nat) : Bytes :=
  let one := fun (s : Summ) => le i.params.attrBytes s.or ++ le i.params.attrBytes s.and ++ le 4 s.live
  one (i.graph.rangeSumm i.params.attrBytes cur r) ++ one (i.graph.blockSumm i.params.attrBytes cur (r / 4096))

/-- The bytes of the structure record of a node and of `lists` lists, its own first (R258; log 74). -/
def Index.structRecord (i : Index) (handle lists cur : Nat) : Bytes :=
  let g := i.graph
  let p := i.params
  let body := match g.byHandle handle with
    | none => []
    | some n =>
      le (p.sketchBits / 8) n.sketch ++ le p.attrBytes n.attrs ++
      ((if lists = 0 then [] else n :: n.list.filterMap g.node?).take lists).flatMap (·.listBytes p) ++
      (le 5 n.slot ++ le 5 (n.commit.getD 0) ++ le 5 (n.tomb.getD 0) ++ le 1 (b2n n.marked + 2 * b2n n.withdrawn)) ++
      Directory.entryBytes n.slot (handle / max 1 g.dir.m) ++ i.summImage (n.slot / 512) cur
  fit (p.structBody lists) body

/-! ### Appending (R27, R120, R126, R136, R258, R277) -/

/-- Appends one journal record whose source takes `src` bytes; the write buffer accepts it. -/
def Dev.journalAppend (d : Dev) (c : Clock) (p : Nat) (j : JRec) (src : Nat) : Dev :=
  let x := d.part p
  let j : JRec := { j with seq := x.journal.next }
  let run := match x.index? j.index with
    | some i => recordRun 2 j.seq (j.bytes i.params src)
    | none => recordRun 2 j.seq (le 8 j.seq)
  let j : JRec := { j with pos := runAt x.journal.pos run.length }
  let d := (d.packAppend c p run).modPart p fun y =>
    { y with journal := { y.journal with next := y.journal.next + 1, recs := y.journal.recs ++ [{ j with len := run.length }] } }
  d.settleBuffer p

/-- Structure records of the nodes whose state has changed since their last one (R127, R258). -/
def Dev.stateRecords (d : Dev) (c : Clock) (p : Nat) : Dev :=
  let x := d.part p
  if x.journal.dirty.isEmpty || x.life.st == .fenced || x.life.st == .closed then d else
  let state := fun (i : Index) (s : Nat) => le 5 s ++ le 1 (((i.graph.node? s).map Node.state).getD 0)
  let one := fun (d : Dev) (i : Index) =>
    let mine := x.journal.dirty.filter fun e => e.1 == i.num
    if mine.isEmpty then d else d.structRun c p i.num (mine.flatMap fun e => state i e.2)
  x.idx.foldl one (d.modPart p fun y => { y with journal := { y.journal with dirty := [] } })

/-- The structure record of `lists` rewritten neighbour lists and their node is appended, after those of nodes that have changed their
state (R258). -/
def Dev.structAppend (d : Dev) (c : Clock) (p index handle lists : Nat) : Dev :=
  let d := d.stateRecords c p
  let x := d.part p
  match x.index? index with
  | none => d
  | some i => d.structRun c p index (i.structRecord handle lists (x.vis.cur + 1))

/-! ### Vector packs and document records (R275 to R278, R285) -/

def IndexParams.bodyLen (p : IndexParams) : Nat := ceilDiv (p.dim * (vecElem p.fmt).bits) 8

/-- The locator of a node's document: the logical page of its first part and the part's number there (R276). -/
def Flash.docLocator (f : Flash) (p : Nat) (i : Index) (n : Node) : Nat × Nat :=
  let page := n.docAt / pageBytes
  match (if n.doc.isEmpty then none else f.lpn? p (ownerDocs i.num) page) with
  | none => (0xFFFFFFFFFF, 0)
  | some l =>
    let b := f.bodyOf p (ownerDocs i.num) page
    (l + (if i.params.single then singleSide i.num p * sideBit else 0), b.recordNo (n.docAt % pageBytes) 1024 b.first 0)

/-- Writes the entries of some nodes into the vector pack they lie in: one new version of the page (R275, R281). -/
def Flash.acceptVectors (f : Flash) (c : Clock) (p gen : Nat) (i : Index) (nodes : List Node) : Flash :=
  match nodes with
  | [] => f
  | n :: _ =>
    let g := packGeom i.params.bodyLen
    let page := i.graph.vecBase + n.slot / g.1
    let old : PageBody := match f.bodyOf p (ownerVector i.num) page with
      | ⟨[], [], _, _⟩ => .none
      | b => b
    let body := nodes.foldl (fun (b : PageBody) (k : Node) =>
      let doc := f.docLocator p i k
      b.withEntry (k.slot % g.1) k.rn.toNat (if i.params.fmt ≤ 1 then k.scale.toNat else 0) doc.1 doc.2 (fit i.params.bodyLen k.body)) old
    f.acceptPages c.time p gen .vector (!i.params.single) (singleSide i.num p) (ownerVector i.num) [(page, nodes.length * g.2, body)]

/-- The vector of one slot is accepted. -/
def Dev.acceptVector (d : Dev) (c : Clock) (p : Nat) (i : Index) (n : Node) : Dev :=
  { d with flash := d.flash.acceptVectors c p (d.part p).keys.gen i [n] }

/-- The node that an update will place (R119). -/
def UpdRun.node (u : UpdRun) (p : IndexParams) (slot jseq : Nat) : Node :=
  { (mkNode p slot u.handle u.attrs u.vec u.record u.recordTokens jseq).1 with docAt := u.docAt }

/-- The document record of a slot is accepted (R277). -/
def Dev.acceptDoc (d : Dev) (c : Clock) (p : Nat) (i : Index) (slot : Nat) (doc : Bytes) : Dev :=
  if doc.isEmpty then d else
  let run := recordRun 1 (slot + 2 ^ 36 * i.num) doc
  let d : Dev := { d with flash := d.flash.acceptRecord c.time p (d.part p).keys.gen (!i.params.single) (singleSide i.num p) (ownerDocs i.num) i.docPos run }
  d.modIndex p i.num fun y => { y with docPos := runAt y.docPos run.length + run.length }

/-- A structure of an index changed: its image lags from now on (R258). -/
def Index.touch (i : Index) (now : Nat) : Index := if i.lag = 0 then { i with lag := max 1 now } else i

def Part.applied (x : Part) (jseq : Nat) : Part :=
  { x with journal := { x.journal with recs := modIf (fun j => j.seq == jseq) (fun j => { j with applied := true }) x.journal.recs } }

/-- Keeps the journal's copy of an update beside the request's. -/
def Part.syncUpd (x : Part) (u : UpdRun) : Part :=
  let recs := modIf (fun (j : JRec) => some j.seq == u.journal && j.kind != 4 && j.kind != 5) (fun j => { j with upd := u }) x.journal.recs
  { x with journal := { x.journal with recs := recs } }

/-- A journaled update ends with no effect: a cancel record follows, and a placed node is withdrawn (R117, R136, R254, R258). -/
def Dev.cancelUpd (d : Dev) (c : Clock) (p : Nat) (r : ReqRef) (u : UpdRun) : Dev :=
  match u.journal with
  | none => d
  | some j =>
    let d := d.journalAppend c p ⟨0, 5, u.index, u.handle, j, r.rs, r.seq, 0, u, true, 0, 0⟩ 0
    let d := d.modPart p fun x => match u.slot with
      | some s => ((x.applied j).modIndex u.index fun i =>
          (i.modGraph fun g => g.modNode s fun n => { n with withdrawn := true }).touch c.time).dropHot fun e => e.index == u.index && e.slot == s
      | none => x.applied j
    if u.placed then d.structAppend c p u.index u.handle 0 else d

/-! ### Ends of requests that something serves (R12, R103, R179, R209, R349) -/

/-- What a search leaves for the completion of its request. -/
def SearchRun.ending (s : SearchRun) (epoch : Nat) : Ending := ⟨s.status.getD 0, s.flags, s.valid, epoch⟩

/-- Status and flags of a batch (R349). -/
def batchEnding (l : List SearchRun) (epoch : Nat) : Ending :=
  let st := fun (s : SearchRun) => s.status.getD 0
  let good := l.filter fun s => okStatus (st s)
  let r0 := good.length + 2 ^ 16 * (l.length - good.length)
  match l.find? fun s => !okStatus (st s) with
  | some s => ⟨st s, 0, 0, 0⟩
  | none => ⟨if l.any (fun s => st s == statusPARTIAL) then statusPARTIAL
      else if l.any (fun s => st s == statusREPLAYED) then statusREPLAYED else statusSUCCESS,
      l.foldl (fun f s => f ||| s.flags) 0, r0, epoch⟩

/-- A SEARCH ends with its search, a SEARCH_BATCH once each of its searches has ended, after their status bytes (R12, R349); a
status array that cannot be written ends it with INVALID_FIELD (R317). -/
def Dev.endSearches (d : Dev) (c : Clock) (r : ReqRef) (writesOk : Bool) : Dev :=
  match d.req? r with
  | none => d
  | some q => match q.work with
    | .searches l =>
      if l.isEmpty || l.any (fun s => s.status.isNone) then d
      else if q.opcode = 0x11 then
        (if writesOk then (d.hostOut c r (fld q.desc 40 8) (l.flatMap fun s => le 1 (s.status.getD 0))).finish c r (batchEnding l q.epoch)
         else d.finish c r ⟨statusBADFIELD, 0, 0, 0⟩)
      else d.finish c r ((l.head?.map fun s => s.ending q.epoch).getD ⟨statusBADFIELD, 0, 0, 0⟩)
    | _ => d

/-- Changes search `i` of a request. -/
def Dev.setSearch (d : Dev) (r : ReqRef) (i : Nat) (f : SearchRun → SearchRun) : Dev :=
  d.modReq r fun q => match q.work with
    | .searches l => { q with work := .searches (modAt (fun (s : SearchRun) => if s.status.isSome then s else f s) i l) }
    | _ => q

/-- What serves a request stops. A tile fault during a rerank makes the search a replay, and its rows leave
every invocation (R103); else the request ends with the status,
a journaled update with a cancel record (R117, R136, R179, R209). -/
def Dev.endServed (c : Clock) : Ends := fun d r sub tile status =>
  match d.req? r with
  | none => d
  | some q => match q.work with
    | .searches _ =>
      if tile then (d.dropRows r sub).setSearch r sub fun s => { s with lost := true, ceWait := false }
      else ((d.dropRows r sub).setSearch r sub fun s => { s with status := some status, flags := 0, valid := 0 }).endSearches c r true
    | .upd u => (if u.journal.isSome then d.cancelUpd c r.rs.partNo r u else d).finish c r ⟨status, 0, 0, 0⟩
    | _ => d.finish c r ⟨status, 0, 0, 0⟩

end Sys2Proof.Machine
end

