-- ==== Sys2Proof/Machine/Images.lean ====
section
/-! DEFINITION. The index image on flash, and which records of the record packs are live (R128, R247, R258, R279). -/

namespace Sys2Proof.Machine

open Sys2Proof

/-! ### Index image segments (R128, R247, R258; their layout is a DESIGN CHOICE, log 74) -/

/-- Bytes of a node slot in an image segment: sketch, attribute word, neighbour list, its state and marks, and its change-table entry. -/
def IndexParams.imageSlot (p : IndexParams) : Nat := p.sketchBits / 8 + p.attrBytes + 2 * p.degree + 17

/-- Object pages of the image segment of one range of 512 slots, with its summary and its block's. -/
def IndexParams.imagePages (p : IndexParams) : Nat := ceilDiv (512 * p.imageSlot + 2 * p.summBytes) pageBytes

/-- A node as its image segment holds it. -/
def Node.image (n : Node) (p : IndexParams) : Bytes :=
  le (p.sketchBits / 8) n.sketch ++ le p.attrBytes n.attrs ++ n.listBytes p ++
  le 1 (b2n n.marked + 2 * b2n n.withdrawn + 4 * b2n n.settled + 8 * b2n n.freed + 16 * n.state) ++
  (if n.state = 2 then le 8 (n.commit.getD (2 ^ 64 - 1)) ++ le 8 (n.tomb.getD (2 ^ 64 - 1)) else zeros 16)

/-- The bytes of the image segment of range `r`, its summaries as of an epoch. -/
def Index.rangeImage (i : Index) (cur r : Nat) : Bytes :=
  let nodes := i.graph.nodes.foldl (fun (b : Bytes) n =>
    if n.slot / 512 = r then patchGrow b (n.slot % 512 * i.params.imageSlot) (n.image i.params) else b) []
  patchGrow nodes (512 * i.params.imageSlot) (i.summImage r cur)

/-- The pages of the image segment of range `r`. -/
def Index.rangePages (i : Index) (cur r : Nat) : List (Nat × Nat × PageBody) :=
  let n := i.params.imagePages
  let b := i.rangeImage cur r
  (List.range n).map fun k => (n * r + k, pageBytes, (⟨(b.drop (pageBytes * k)).take pageBytes, [], 0, 0⟩ : PageBody))

/-- The bytes of a page of the handle directory: 256 buckets of 64 bytes, their empty entries all ones (R251). -/
def Directory.page (t : Directory) (k : Nat) : Bytes :=
  (List.range 256).flatMap fun j =>
    match t.buckets.find? fun b => b.num == 256 * k + j with
    | none => List.replicate 64 0xFF#8
    | some b => ((b.ents.take 8).flatMap fun e => Directory.entryBytes e.1 e.2) ++
        List.replicate (8 * (8 - b.ents.length) - (if b.link.isSome then 8 else 0)) 0xFF#8 ++
        (match b.link with
          | some v => Directory.entryBytes v 0xFFFFFF
          | none => [])

/-- Every page of an index's image: segments of its ranges in use, and pages of the directory that hold a bucket. -/
def Index.imageOf (i : Index) (cur : Nat) : List (Nat × Nat × PageBody) × List (Nat × Nat × PageBody) :=
  let one := fun (b : Bytes) => (⟨b, [], 0, 0⟩ : PageBody)
  ((List.range i.graph.rangeCount).flatMap (i.rangePages cur),
   (dedupNat (i.graph.dir.buckets.map fun b => b.num / 256)).map fun k => (k, pageBytes, one (i.graph.dir.page k)))

/-- The image segment of a range has a copy that can be read, or was never written. -/
def Flash.imageReadable (f : Flash) (p : Nat) (i : Index) (r : Nat) : Bool :=
  (List.range i.params.imagePages).all fun k =>
    f.readable p (ownerImage i.num) (i.params.imagePages * r + k) (!i.params.single) (singleSide i.num p)

/-- Ranges at lost positions whose image segment can no longer be read: searches and updates that need them end (R256). -/
def Part.loseRanges (x : Part) (f : Flash) (p : Nat) (lost : List Nat) : Part :=
  let n := max 1 (8 * x.life.chans.length)
  let one := fun (i : Index) =>
    let rs := (List.range i.graph.rangeCount).filter fun r => lost.contains (r % n / 8) && !i.lostRanges.contains r && !f.imageReadable p i r
    ({ i with lostRanges := i.lostRanges ++ rs } : Index)
  { x with idx := x.idx.map one }

/-- Pages of an index's image are accepted, in its durability class. -/
def Dev.acceptImage (d : Dev) (c : Clock) (p : Nat) (i : Index) (owner : Nat) (l : List (Nat × Nat × PageBody)) : Dev :=
  { d with flash := d.flash.acceptPages c.time p (d.part p).keys.gen .object (!i.params.single) (singleSide i.num p) owner l }

/-- The image segment of one range is rewritten (R129 step 5). -/
def Dev.rewriteRange (d : Dev) (c : Clock) (p idx r : Nat) : Dev :=
  match (d.part p).index? idx with
  | none => d
  | some i => (d.acceptImage c p i (ownerImage idx) (i.rangePages (d.part p).vis.cur r)).settleBuffer p

/-- The image of an index is brought current: its segments are rewritten, and the journal no longer needs the records that they now
reflect (R128, R258). -/
def Dev.rewriteImage (d : Dev) (c : Clock) (p idx : Nat) : Dev :=
  let x := d.part p
  match x.index? idx with
  | none => d
  | some i =>
    let m := i.imageOf x.vis.cur
    let d := (d.acceptImage c p i (ownerImage idx) m.1).acceptImage c p i (ownerDir idx) m.2
    (d.modPart p fun x =>
      let recs := x.journal.recs.filter fun j => !(j.applied && j.index == idx)
      let structs := x.journal.structs.filter fun t => t.1 != idx
      let dirty := x.journal.dirty.filter fun t => t.1 != idx
      ({ x with journal := { x.journal with recs := recs, structs := structs, dirty := dirty } } : Part).modIndex idx fun i => { i with lag := 0 }).settleBuffer p

/-! ### Live records (R277, R279) -/

/-- Bytes that a run of `len` bytes at `pos` has in a page of its record packs. -/
def runIn (page pos len : Nat) : Nat := min (pos + len) ((page + 1) * pageBytes) - max pos (page * pageBytes)

/-- Live bytes of a page of the journal's record packs. -/
def Journal.liveIn (j : Journal) (page : Nat) : Nat :=
  sumNat (fun (r : JRec) => runIn page r.pos r.len) j.recs + sumNat (fun (t : Nat × Nat × Nat) => runIn page t.2.1 t.2.2) j.structs

/-- Documents of an index that are live: those of its slots in use, in every graph it holds. -/
def Index.docs (i : Index) : List Node :=
  let nodes := i.graphs.flatMap fun g => g.nodes.filter fun n => !n.freed && !n.withdrawn && !n.doc.isEmpty
  nodes.foldl (fun (l : List Node) n => if l.any fun k => k.docAt == n.docAt then l else l ++ [n]) []

def Index.liveIn (i : Index) (page : Nat) : Nat := sumNat (fun (n : Node) => runIn page n.docAt (runLen n.doc.length)) i.docs

/-- Documents of updates that are journaled and not placed yet: they stay where they are until their node is. -/
def Part.docsPending (x : Part) (idx page : Nat) : Bool :=
  x.journal.recs.any fun j => !j.applied && !j.upd.placed && j.index == idx && (j.kind == 1 || j.kind == 2) &&
    decide (0 < runIn page j.upd.docAt (runLen j.upd.record.length))

/-- The owner of a page of a partition, with its number there. -/
def Flash.ownerOf (f : Flash) (g : FPage) : Option (Nat × Nat) :=
  (f.extents.find? fun e => e.part == g.part && e.num == g.lpn % sideBit / 65536).map fun e => (e.owner, e.index * 65536 + g.lpn % 65536)

/-- Which record pack a page of a partition is: the journal's, or the documents' of an index, with its page number. -/
def Flash.recordPack (f : Flash) (g : FPage) : Option (Nat × Nat) :=
  if g.pack ≠ .record then none else f.ownerOf g

/-- Live bytes of a record pack. -/
def Part.packLive (x : Part) (owner page : Nat) : Nat :=
  if owner = ownerJournal then x.journal.liveIn page
  else sumNat (fun (i : Index) => if ownerDocs i.num = owner then i.liveIn page + b2n (x.docsPending i.num page) * pageBytes else 0) x.idx

/-- Both copies of a page of an owner are unmapped: the pack is stale. -/
def Flash.unmapPage (f : Flash) (p owner n : Nat) : Flash := match f.lpn? p owner n with
  | some l => { f with map := mapDel (mapDel f.map l) (l + sideBit) }
  | none => f

/-- The keys of an open partition are held: its packs may be repacked (R279, R289). -/
def Part.isOpen (x : Part) : Bool := x.life.st == .started || x.life.st == .opened

/-- Vector packs set aside for one graph of an index (R275). -/
def IndexParams.vecPacks (p : IndexParams) : Nat := ceilDiv p.capacity (packGeom p.bodyLen).1

/-- The first vector pack of a new graph: the lowest that no graph still held uses (R275; DESIGN CHOICE, log 121). -/
def Index.freeVecBase (i : Index) : Nat :=
  (((List.range (i.graphs.length + 1)).map (· * i.params.vecPacks)).find? fun b => !(i.graphs.any fun g => g.vecBase == b)).getD 0

/-- A vector pack belongs to a graph that its index still holds. -/
def Part.vecLive (x : Part) (owner page : Nat) : Bool :=
  x.idx.any fun i => ownerVector i.num == owner &&
    i.graphs.any fun g => decide (g.vecBase ≤ page) && decide (page < g.vecBase + i.params.vecPacks)

/-- A record pack that holds no live record is stale (R279), and a vector pack of a graph that is gone. -/
def Dev.dropStale (d : Dev) (p : Nat) : Dev :=
  let x := d.part p
  if !x.isOpen then d else
  let mine := d.flash.pages.filter fun g => g.part == p && !g.isModule && (g.pack == .record || g.pack == .vector) && d.flash.named g
  mine.foldl (fun (d : Dev) g => match d.flash.ownerOf g with
    | some (o, n) =>
      let live := if g.pack = .record then x.packLive o n != 0 else x.vecLive o n
      if live then d else { d with flash := d.flash.unmapPage p o n }
    | none => d) d

/-- Room for `n` new pages of a partition, packs that are stale not counted (R279, R287). -/
def Dev.fits (d : Dev) (p n : Nat) (dual : Bool) (side : Nat) : Bool :=
  let k := (d.part p).cfg
  (d.dropStale p).flash.fits p k.flash0 k.flash1 n dual side

/-- A document record moves to the end of its index's record packs, and the vector packs that point to it are rewritten (R279). -/
def Dev.moveDoc (d : Dev) (c : Clock) (p idx : Nat) (n : Node) : Dev :=
  match (d.part p).index? idx with
  | none => d
  | some i =>
    let d := (d.readDocs c.time i p [n]).acceptDoc c p i n.slot n.doc
    let at_ := runAt i.docPos (runLen n.doc.length)
    let to_ := fun (k : Node) => if k.docAt = n.docAt && !k.doc.isEmpty then { k with docAt := at_ } else k
    let d := d.modIndex p idx fun y => { y with graphs := y.graphs.map fun g => { g with nodes := g.nodes.map to_ } }
    match (d.part p).index? idx with
    | some k => k.graphs.foldl (fun (d : Dev) (g : Graph) =>
        ((g.nodes.filter fun m => m.docAt == at_ && !m.doc.isEmpty).take 1).foldl (fun (d : Dev) m => d.acceptVector c p { k with graphs := [g] } m) d) d
    | none => d

/-- A record of the journal moves to its end. -/
def Dev.moveRun (d : Dev) (c : Clock) (p pos len : Nat) : Dev :=
  let x := d.part p
  let at_ := runAt x.journal.pos len
  let d : Dev := { d with flash := d.flash.readRun c.time p ownerJournal pos len }
  let run := (List.range (ceilDiv (pos % pageBytes + len) pageBytes)).flatMap fun i =>
    let page := pos / pageBytes + i
    let from_ := max pos (page * pageBytes)
    fit (runIn page pos len) ((d.flash.bodyOf p ownerJournal page).data.drop (from_ - page * pageBytes))
  (d.packAppend c p run).modPart p fun y => { y with journal := { y.journal with
    recs := y.journal.recs.map fun j => if j.pos = pos then { j with pos := at_ } else j,
    structs := y.journal.structs.map fun t => if t.2.1 = pos then (t.1, at_, t.2.2) else t } }

/-- Repacks a record pack whose live bytes are less than half its bytes: each live record moves, and the pack is stale (R279). -/
def Dev.repack (d : Dev) (c : Clock) (p owner page : Nat) : Dev :=
  let x := d.part p
  if !x.isOpen ∨ pageBytes / 2 ≤ x.packLive owner page then d else
  let d :=
    if owner = ownerJournal then
      let runs := (x.journal.recs.map fun j => (j.pos, j.len)) ++ x.journal.structs.map (·.2)
      (runs.filter fun r => decide (0 < runIn page r.1 r.2)).foldl (fun (d : Dev) r => d.moveRun c p r.1 r.2) d
    else match x.idx.find? fun i => ownerDocs i.num == owner with
      | some i => (i.docs.filter fun n => decide (0 < runIn page n.docAt (runLen n.doc.length))).foldl (fun (d : Dev) n => d.moveDoc c p i.num n) d
      | none => d
  (({ d with flash := d.flash.unmapPage p owner page } : Dev).dropStale p).settleBuffer p

end Sys2Proof.Machine
end

