-- ==== Sys2Proof/Machine/Updates.lean ====
section
/-! DEFINITION. INSERT, UPSERT and DELETE, epoch ticks, the batches of a reproducible partition and what is left of aborted
updates (chapter 05; R27, R351, R352). -/

namespace Sys2Proof.Machine

open Sys2Proof

/-! ### The table of R117 -/

/-- The columns of the table of R117. -/
inductive HState where
  | absent | pending | eligible | dead
  deriving DecidableEq, Repr

/-- An insert or upsert of the handle is journaled and has no commit epoch. -/
def Part.isPending (x : Part) (index h : Nat) : Bool :=
  x.journal.recs.any fun j => !j.applied && (j.kind == 1 || j.kind == 2) && j.index == index && j.handle == h

def Part.handleState (x : Part) (index h : Nat) : HState :=
  if x.isPending index h then .pending
  else match x.index? index with
    | none => .absent
    | some i => match i.graph.byHandle h with
      | none => .absent
      | some n => if n.dead then .dead else if n.commit.isNone then .pending else .eligible

/-- What the updates before it in its batch leave of a handle (R117, R138): a node placed earlier in the batch is pending. -/
def Part.batchState (x : Part) (index h : Nat) : HState :=
  match x.index? index with
  | none => .absent
  | some i => match i.graph.byHandle h with
    | none => .absent
    | some n => if n.dead then .dead else if n.commit.isNone then .pending else .eligible

/-- The status the table of R117 gives an update that it refuses. -/
def HState.refuses (h : HState) (op : Nat) : Option Nat :=
  match h with
  | .absent => if op = 0x21 then some statusBADHANDLE else none
  | .dead => if op = 0x21 then some statusBADHANDLE else none
  | .pending => if op = 0x20 then some statusBADFIELD else none
  | .eligible => if op = 0x20 then some statusBADFIELD else none

/-! ### Admission (R118, R122, R127, R137, R287, R352) -/

/-- Next slot after the highest in use or reserved, by an update in flight or by one journaled that is still to be applied (R79, R352). -/
def Part.nextSlot (x : Part) (index : Nat) : Nat :=
  let g := match x.index? index with
    | some i => i.graph
    | none => Graph.empty
  let m := x.rings.foldl (fun m r => r.inflight.foldl (fun m q => match q.work with
    | .upd u => if u.index = index then max m ((u.slot.map (· + 1)).getD 0) else m
    | _ => m) m) g.nextSlot
  x.journal.recs.foldl (fun m j => if j.applied ∨ 2 < j.kind ∨ j.index ≠ index then m else max m ((j.upd.slot.map (· + 1)).getD 0)) m

/-- Change-table entries that admitted updates will still take (R127). -/
def Part.changeReserved (x : Part) : Nat :=
  sumNat (fun r => (r.inflight.filter fun q => q.admitted && (match q.work with
    | .upd u => !u.placed
    | _ => false)).length) x.rings

/-- Staging bytes that a request in flight has reserved for list versions: none once its links are written (R137). -/
def Req.versionRes (q : Req) : Nat := match q.work with
  | .upd u => if u.linked then 0 else q.stagingRes
  | _ => q.stagingRes

/-- A journal record's request is no longer in flight. -/
def Part.requestGone (x : Part) (j : JRec) : Bool :=
  !((x.rings[j.rs.num]?).any fun g => g.inflight.any fun q => q.seq == j.cmdSeq && q.journaled)

/-- What journaled updates whose request has gone still have reserved, until their batch writes the versions (R137). -/
def Part.goneRes (x : Part) : Nat :=
  sumNat (fun (j : JRec) => if j.applied || decide (2 < j.kind) || j.upd.linked || !x.requestGone j then 0 else j.upd.room) x.journal.recs

/-- Staging bytes of list versions not yet released, and of those reserved (R137; 2 × DEGREE bytes a list, log 16). -/
def Part.versionBytes (x : Part) : Nat :=
  sumNat (fun i => 2 * i.params.degree * sumNat (fun g => sumNat (fun n => n.versions.length - 1) g.nodes) i.graphs) x.idx +
  sumNat (fun r => sumNat Req.versionRes r.inflight) x.rings + x.goneRes

/-- Staging bytes of a search between its stages: its FP32 query, and the local lists of its bench scan (R23, R84, R95). -/
def Part.searchStaging (x : Part) (s : SearchRun) : Nat :=
  let b := s.block
  if s.status.isSome then 0
  else (if fld b 8 2 = 0 then 0 else 4 * fld b 14 2) +
    (if s.path = 0 then 0 else 16 * min 64 (if fld b 8 2 = 0 then fld b 6 2 else fld b 8 2) * x.engineCount)

/-- Staging bytes in use by list versions, by searches and by invocations' rows (R21, R23, R137, R188; log 105). -/
def Part.stagingUsed (x : Part) : Nat :=
  x.versionBytes +
  sumNat (fun r => sumNat (fun (q : Req) => match q.work with
    | .searches l => if q.admitted then sumNat x.searchStaging l else 0
    | _ => 0) r.inflight) x.rings +
  sumNat (fun (i : Inv) => if !i.going then 0 else match x.invPkg i with
    | some g => i.choiceBase g
    | none => 0) x.invs

/-- Staging room left for list versions (R137). -/
def Part.stagingFree (x : Part) : Nat := x.cfg.stagingGib * 2 ^ 30 - x.stagingUsed

/-- The insert policy that an update admitted now takes: in a reproducible partition that of its batch (R121, R122). -/
def Part.insertPolicy (x : Part) : InsertPolicy := if x.cfg.repro then x.feat.insertBatch else x.feat.insert

/-- Model version that encodes tokens (R118, R186, R362). -/
def Part.modelVersion (x : Part) (m : Nat) : Nat := ((x.model? m).map (·.version)).getD 0

/-- The update that a descriptor and the bytes read for it describe. -/
def mkUpd (p : IndexParams) (q : Req) (src doc : Bytes) : UpdRun :=
  { opcode := q.opcode, index := uIndex q, handle := uHandle q, slot := none,
    attrs := fld src 0 p.attrBytes,
    vec := if uTokens q then [] else queryElems (fbits q.desc 24 5 5 == 1) p.dim (src.drop p.attrBytes),
    haveVec := !uTokens q, record := doc, recordTokens := fld q.desc 60 2,
    source := if uTokens q then src.drop p.attrBytes else [], model := if uTokens q then uModel q else 0 }

/-- Journal bytes of an insert: its record, and the structure records it will make at most, at its sketch, its links and its commit
(R258). -/
def IndexParams.insertBytes (p : IndexParams) (src doc : Nat) : Nat :=
  journalBytes src doc + 2 * p.structBytes 0 + p.structBytes (p.degree + 1)

/-- All the bytes an insert writes: journal and structure records, its document record and its vector's record (R275, R277, R292). -/
def IndexParams.insertWrites (p : IndexParams) (src doc : Nat) : Nat :=
  p.insertBytes src doc + (if doc = 0 then 0 else runLen doc) + (packGeom p.bodyLen).2

/-- Room for what an insert or upsert writes: vector pack, document, journal record and structure records (R285, R287). -/
def Dev.updFits (d : Dev) (p : Nat) (i : Index) (slot src doc : Nat) : Bool :=
  let x := d.part p
  let dual := !i.params.single
  let side := singleSide i.num p
  let v := (packGeom i.params.bodyLen).1
  let vecNew := d.flash.unmapped p (ownerVector i.num) (i.graph.vecBase + slot / v) 1 i.params.single side
  let docNew := newPages i.docPos (runLen doc)
  let jNew := newPages x.journal.pos (i.params.insertBytes src doc)
  d.fits p (vecNew + (if doc = 0 then 0 else docNew) + (if dual then jNew else 0)) dual side && d.fits p jNew true 0

/-- A node that an update names, tombstones or takes lies in a range whose image segment is lost (R256). -/
def Part.updLost (x : Part) (u : UpdRun) : Bool :=
  (x.index? u.index).any fun i => u.slot.any i.lostSlot ||
    (u.opcode != 0x20 && i.graph.nodes.any fun n => n.handle == u.handle && !n.dead && !n.freed && i.lostSlot n.slot)

/-- Steps 7 of R341, R286, R292 and R256 for an INSERT or UPSERT; its policy is the one in force when it is admitted (R121). -/
def Dev.insertGrant (d : Dev) (p : Nat) (u : UpdRun) (src now : Nat) : Grant :=
  let x := d.part p
  match x.index? u.index with
  | none => .refuse statusBADHANDLE
  | some i =>
    let slot := x.nextSlot u.index
    let versions := if x.cfg.repro then i.params.degree * (2 * i.params.degree) else 0
    if x.cfg.changeQuota ≤ x.changing + x.changeReserved then .refuse statusQUOTA
    else if x.cfg.repro && decide (x.stagingFree < versions) then .refuse statusQUOTA
    else if i.params.capacity ≤ slot then .refuse statusNOSPACE
    else if !d.updFits p i slot src u.record.length then .refuse statusNOSPACE
    else if i.dirPoisoned u.handle then .refuse statusPOISON
    else if (i.params.single && d.flash.lost (singleSide i.num p)) || x.updLost { u with slot := some slot } then .refuse statusMEDIA
    else if !d.mayWrite p (i.params.insertWrites src u.record.length) now true 0 || !x.placeFree then
      .wait fun q => { q with work := .upd u }
    else match d.pickEngine with
      | none => .wait fun q => { q with work := .upd u }
      | some e => .go fun q =>
          { q with work := .upd { u with slot := some slot, policy := x.insertPolicy, version := x.modelVersion u.model },
                   stagingRes := versions, place := true, engine := e }

/-- The grant of a DELETE. -/
def Dev.deleteGrant (d : Dev) (p : Nat) (u : UpdRun) (now : Nat) : Grant :=
  let x := d.part p
  let n := journalBytes 0 0 + ((x.index? u.index).map fun i => i.params.structBytes 0).getD 0
  if x.cfg.changeQuota ≤ x.changing + x.changeReserved then .refuse statusQUOTA
  else if !d.fits p (newPages x.journal.pos n) true 0 then .refuse statusNOSPACE
  else if ((x.index? u.index).any fun i => i.dirPoisoned u.handle) then .refuse statusPOISON
  else if x.updLost u then .refuse statusMEDIA
  else if !d.mayWrite p n now true 0 then .wait fun q => { q with work := .upd u }
  else .go fun q => { q with work := .upd u }

/-! ### The steps of an update (R27, R119 to R126) -/

def Dev.setUpd (d : Dev) (r : ReqRef) (u : UpdRun) : Dev := d.modReq r fun q => { q with work := .upd u }

def orderKeyOf (r : ReqRef) (q : Req) : Nat × Nat × Nat := (q.admitTime, r.rs.num, r.seq)

/-- The journal record of an update is accepted: its point of no return (R27, R125, R339). -/
def Dev.acceptUpd (d : Dev) (c : Clock) (r : ReqRef) (q : Req) (u : UpdRun) : Dev × UpdRun :=
  let p := r.rs.partNo
  let x := d.part p
  match x.index? u.index with
  | none => (d, u)
  | some i =>
    let jseq := x.journal.next
    let u : UpdRun := { u with journal := some jseq, docAt := runAt i.docPos (runLen u.record.length) }
    let u : UpdRun := { u with order := orderKeyOf r q, room := q.stagingRes }
    let kind := if u.opcode = 0x20 then 1 else if u.opcode = 0x22 then 2 else 3
    let d := d.journalAppend c p ⟨0, kind, u.index, u.handle, 0, r.rs, r.seq, q.epoch, u, false, 0, 0⟩ (if u.opcode = 0x21 then 0 else srcBytes i.params q)
    let d := match u.slot with
      | some s =>
        let d := d.acceptDoc c p i s u.record
        if u.haveVec then d.acceptVector c p i (u.node i.params s jseq) else d
      | none => d
    let d := d.modReq r fun y => { y with ponr := true, journaled := true, work := .upd u }
    (d.settleBuffer p, u)

/-- The encoder's output goes into a vector record before the sketch is formed (R120). -/
def Dev.vectorRecord (d : Dev) (c : Clock) (r : ReqRef) (epoch : Nat) (u : UpdRun) (v : List F32) (version : Nat) : Dev × UpdRun :=
  let p := r.rs.partNo
  let u : UpdRun := { u with vec := v, haveVec := true, version := version }
  let d := d.journalAppend c p ⟨0, 4, u.index, u.handle, u.journal.getD 0, r.rs, r.seq, epoch, u, true, 0, 0⟩ (4 * v.length)
  let d := d.modPart p fun x => x.syncUpd u
  let d := match (d.part p).index? u.index, u.slot with
    | some i, some s => d.acceptVector c p i (u.node i.params s (u.journal.getD 0))
    | _, _ => d
  (d.setUpd r u, u)

/-- The encoder's row of an update is queued, unless it waits, runs or is done already (R118, R120). -/
def Part.queueEncoder (x : Part) (r : ReqRef) (u : UpdRun) : Part :=
  if x.rowsOpen r 0 || !(x.outsOf r 0).isEmpty then x else
  match x.pkgOf u.model u.version with
  | none => x
  | some g => x.addRows (Inv.new 0 u.model u.version) [InvRow.ofTokens r 0 0 0 g.maxTokens u.source]

/-- The FP32 values of an encoder's output row (R182). -/
def Part.encoded (x : Part) (m : Nat) (o : RowOut) : List F32 :=
  match x.pkgOf m o.version with
  | some g => queryElems g.outHalf g.outDim o.bytes
  | none => []

/-- The encoder's output, once its row has been served, goes into a vector record. -/
def Dev.takeEncoded (d : Dev) (c : Clock) (r : ReqRef) (epoch : Nat) (u : UpdRun) : Dev × UpdRun :=
  let x := d.part r.rs.partNo
  match x.outsOf r 0 with
  | o :: _ => (d.modPart r.rs.partNo fun y => y.dropOuts r 0).vectorRecord c r epoch u (x.encoded u.model o) o.version
  | [] => (d, u)

/-- An update whose source is tokens has its encoder run (R120). -/
def Dev.encodeUpd (d : Dev) (c : Clock) (r : ReqRef) (epoch : Nat) (u : UpdRun) (run : Bool) : Dev × UpdRun :=
  if u.haveVec then (d, u) else
  let d := d.modPart r.rs.partNo fun x => x.queueEncoder r u
  (if run then d.runRows c (Dev.endServed c) r 0 else d).takeEncoded c r epoch u

/-- The tile whose site a drift event of sketching or training names: position 0 of the group (DESIGN CHOICE, log 107). -/
def Dev.tileSource (d : Dev) (p : Nat) : Nat := (d.part p).life.sites.headD 0xFFFF

/-- Writes the node of an update into its slot, sketch first (R26, R27 step 2); a replay writes the sketch of a slot already taken
again (R134). Answers the saturated elements (R119). -/
def Part.placeUpd (x : Part) (now : Nat) (u : UpdRun) (jseq : Nat) : Part × Nat :=
  match x.index? u.index, u.slot with
  | some i, some s =>
    let x := x.modIndex u.index fun i =>
      ((i.modGraph (placeNode x.cfg.repro x.vis.cur (u.node i.params s jseq))).fitDir).touch now
    (x.admitHot i s, (mkNode i.params s u.handle u.attrs u.vec u.record u.recordTokens jseq).2)
  | _, _ => (x, 0)

/-- Places the node of an update, with its structure record, and counts what saturated (R49, R119, R258). -/
def Dev.placeUpd (d : Dev) (c : Clock) (r : ReqRef) (u : UpdRun) : Dev × UpdRun :=
  let p := r.rs.partNo
  let y := (d.part p).placeUpd c.time u (u.journal.getD 0)
  let u : UpdRun := { u with placed := true }
  let d := (d.modPart p fun _ => y.1.syncUpd u).structAppend c p u.index u.handle 0
  let d := d.saturate c p 14 y.2 (d.tileSource p)
  let d := d.modReq r fun q => { q with work := .upd u, flags := q.flags ||| (if 0 < y.2 then flagSAT else 0) }
  (d, u)

/-- The neighbour search of a placed node needs a range whose image segment is lost (R256). -/
def Part.linkLost (x : Part) (u : UpdRun) (adm : Nat) : Bool :=
  match x.index? u.index, u.slot with
  | some i, some s => !i.lostRanges.isEmpty &&
      (i.graph.node? s).any fun n => (linkWalk i.params u.policy i.lostRanges adm n i.graph).unreachable
  | _, _ => false

/-- An update can no longer be applied: a range that it needs is lost (R256). -/
def Part.cannotApply (x : Part) (u : UpdRun) (adm : Nat) : Bool := x.updLost u || x.linkLost u adm

/-- Writes the links of a placed node (R121 to R124). -/
def Part.linkUpd (x : Part) (u : UpdRun) (adm : Nat) : Part :=
  match u.slot with
  | none => x
  | some s => x.modIndex u.index fun i => i.modGraph (linkNode i.params u.policy x.cfg.repro x.vis.cur adm s)

/-- Neighbour lists that the links of an update rewrote. -/
def Part.linksOf (x : Part) (u : UpdRun) : Nat :=
  match x.index? u.index, u.slot with
  | some i, some s => ((i.graph.node? s).map fun n => n.list.length + 1).getD 0
  | _, _ => 0

/-- Nodes that an UPSERT replaces. -/
def Graph.replaced (g : Graph) (u : UpdRun) (s : Nat) : List Nat :=
  if u.opcode = 0x22 then (g.nodes.filter fun n => n.handle == u.handle && n.slot != s && !n.freed && !n.dead).map (·.slot) else []

/-- A structure record of the state of some nodes is still to be appended (R258). -/
def Part.stale (x : Part) (index : Nat) (slots : List Nat) : Part :=
  { x with journal := { x.journal with dirty := x.journal.dirty ++ slots.map fun s => (index, s) } }

/-- Gives a placed node its commit epoch; the node an UPSERT replaces takes it as its tombstone epoch (R116, R117). -/
def Part.commitUpd (x : Part) (u : UpdRun) (e : Nat) (order : Nat × Nat × Nat) : Part :=
  match u.slot with
  | none => x
  | some s =>
    let old := ((x.index? u.index).map fun i => i.graph.replaced u s).getD []
    (x.stale u.index old).modIndex u.index fun i =>
      let i := i.modGraph fun g =>
        (old.foldl (fun g t => g.modNode t fun n => n.bury (some e)) g).modNode s fun n => { n with commit := some e }
      if i.building then { i with recorded := i.recorded ++ [⟨false, order, u.handle, s, e⟩] } else i

/-- Marks the node of a DELETE, unless it is tombstoned already, and gives it its tombstone epoch (R115, R117, R126). -/
def Part.deleteUpd (x : Part) (now : Nat) (u : UpdRun) (e : Nat) (order : Nat × Nat × Nat) : Part :=
  x.modIndex u.index fun i =>
    match (i.graph.byHandle u.handle).filter fun n => !n.dead with
    | none => i
    | some n =>
      let i := (i.modGraph fun g => g.modNode n.slot fun n => n.bury (some e)).touch now
      if i.building then { i with recorded := i.recorded ++ [⟨true, order, u.handle, 0, e⟩] } else i

/-! ### The commands -/

/-- A replayed update past its journal record that passes its deadline ends with REPLAY_EXHAUSTED and a cancel record (R135, R136). -/
def Dev.lateUpd (d : Dev) (c : Clock) (r : ReqRef) : Option Dev :=
  match d.req? r with
  | none => none
  | some q => match q.work with
    | .upd u => if q.journaled && decide (0 < q.replays) && deadlinePassed c q
        then some ((d.cancelUpd c r.rs.partNo r u).finish c r ⟨statusEXHAUSTED, 0, 0, 0⟩) else none
    | _ => none

/-- A placed update is linked and committed, with structure records of both, and ends (R27 steps 3 to 5, R258). -/
def Dev.commitInsert (d : Dev) (c : Clock) (r : ReqRef) (q : Req) (u : UpdRun) : Dev × Option Ending :=
  let p := r.rs.partNo
  if (d.part p).cannotApply u q.epoch then (d.cancelUpd c p r u, some ⟨statusMEDIA, 0, 0, 0⟩) else
  let x := (d.part p).linkUpd u q.epoch
  let d := (d.modPart p fun _ => x).structAppend c p u.index u.handle (x.linksOf u)
  let x := d.part p
  let a := x.vis.assign
  let x := (({ x with vis := a.1 } : Part).commitUpd u a.2 (orderKeyOf r q)).applied (u.journal.getD 0)
  let d := (d.modPart p fun _ => x).structAppend c p u.index u.handle 0
  let fl := ((d.req? r).map (·.flags)).getD 0
  (d, some ⟨withReplays statusSUCCESS q.replays, fl, a.2, u.version⟩)

/-- The work of an admitted INSERT or UPSERT (R27). In a reproducible partition its batch applies it (R138). -/
def Dev.runInsert (d : Dev) (c : Clock) (r : ReqRef) (io : Io) (q : Req) : Dev × Option Ending :=
  let p := r.rs.partNo
  match q.work with
  | .upd u =>
    let repro := (d.part p).cfg.repro
    let st := (d.part p).handleState u.index u.handle
    -- what stands in the index when the journal record would be accepted (R117)
    if u.journal.isNone && !repro && (st.refuses u.opcode).isSome then (d, some ⟨statusBADFIELD, 0, 0, 0⟩)
    else if u.journal.isNone && !repro && st == .pending then (d.setUpd r { u with held := true }, none)
    else
      let a := if u.journal.isNone then d.acceptUpd c r q { u with held := false } else (d, u)
      let b := a.1.encodeUpd c r q.epoch a.2 (decide (io.upto = .done))
      if repro || !b.2.haveVec then (b.1, none)
      else
        let w := if b.2.placed then b else b.1.placeUpd c r b.2
        if io.upto ≠ .done then (w.1, none) else w.1.commitInsert c r q w.2
  | _ => (d, none)

/-- Fields of an INSERT or UPSERT that need the index, the model and the reads (R118, R317). -/
def Dev.insertFields (d : Dev) (r : ReqRef) (io : Io) (q : Req) : Bool :=
  let x := d.part r.rs.partNo
  let model := !uTokens q || (match x.modelLive (uModel q) with
    | some k => k.2.kind == 0 && decide (fld q.desc 36 4 ≤ k.2.maxTokens) && (match x.index? (uIndex q) with
        | some i => k.2.outDim == i.params.dim
        | none => true)
    | none => true)
  let src := match x.index? (uIndex q) with
    | some i => (match ioRead io.reads 0 with
        | some b => b.length == srcBytes i.params q
        | none => false)
    | none => (ioRead io.reads 0).isSome
  let doc := uRecLen q == 0 || (match ioRead io.reads 1 with
    | some b => b.length == uRecLen q
    | none => false)
  let table := x.cfg.repro || ((x.handleState (uIndex q) (uHandle q)).refuses q.opcode).isNone
  model && src && doc && table

/-- An INSERT or UPSERT from where it stands. -/
def Dev.insertCmd (d : Dev) (c : Clock) (r : ReqRef) (io : Io) (op : Nat) : Dev :=
  let p := r.rs.partNo
  let x := d.part p
  match d.lateUpd c r with
  | some e => e
  | none =>
  d.command c r op io.upto (fun q => !uTokens q || !((x.model? (uModel q)).any (·.unloading))) (d.insertFields r io)
    (fun q => (x.index? (uIndex q)).isSome && (!uTokens q || (x.modelLive (uModel q)).isSome))
    (fun d q => match x.index? (uIndex q) with
      | none => .refuse statusBADHANDLE
      | some i => d.insertGrant p (mkUpd i.params q ((ioRead io.reads 0).getD [])
          (if uRecLen q = 0 then [] else (ioRead io.reads 1).getD [])) (srcBytes i.params q) c.time)
    fun d q => d.runInsert c r io q

/-- INSERT (R27, R117 to R125). -/
def execInsert (r : ReqRef) (io : Io) (s : State) : Out := s.onDev fun c d => d.insertCmd c r io 0x20

/-- UPSERT (R116, R117). -/
def execUpsert (r : ReqRef) (io : Io) (s : State) : Out := s.onDev fun c d => d.insertCmd c r io 0x22

/-- What a DELETE does in its own step: it is held behind a pending node, its tombstone is journaled, and its node marked unless another
has marked it first, or the node's range has been lost (R117, R126, R256). -/
def Dev.runDelete (d : Dev) (c : Clock) (r : ReqRef) (io : Io) (q : Req) (u : UpdRun) : Dev × Option Ending :=
  let p := r.rs.partNo
  let st := (d.part p).handleState u.index u.handle
  if (d.part p).cfg.repro then (if u.journal.isNone then ((d.acceptUpd c r q u).1, none) else (d, none))
  else if u.journal.isNone && (st.refuses 0x21).isSome then (d, some ⟨statusBADHANDLE, 0, 0, 0⟩)
  else if (d.part p).updLost u then (d.cancelUpd c p r u, some ⟨statusMEDIA, 0, 0, 0⟩)
  else if st == .pending then (if u.journal.isNone then d.setUpd r { u with held := true } else d, none)
  else
    let a := if u.journal.isNone then d.acceptUpd c r q { u with held := false } else (d, u)
    if io.upto = .halfway then (a.1, none)
    else if (st.refuses 0x21).isSome then (a.1.cancelUpd c p r a.2, some ⟨statusBADHANDLE, 0, 0, 0⟩)
    else
      let x := a.1.part p
      let e := x.vis.assign
      let x := (({ x with vis := e.1 } : Part).deleteUpd c.time u e.2 (orderKeyOf r q)).applied (a.2.journal.getD 0)
      ((a.1.modPart p fun _ => x).structAppend c p u.index u.handle 0, some ⟨withReplays statusSUCCESS q.replays, 0, e.2, 0⟩)

/-- DELETE (R115, R117, R126). -/
def execDelete (r : ReqRef) (io : Io) (s : State) : Out :=
  s.onDev fun c d =>
    let p := r.rs.partNo
    let x := d.part p
    match d.lateUpd c r with
    | some e => e
    | none =>
    d.command c r 0x21 io.upto always always
      (fun q => (x.index? (uIndex q)).isSome &&
        (x.cfg.repro || ((x.handleState (uIndex q) (uHandle q)).refuses 0x21).isNone))
      (fun d q => d.deleteGrant p { opcode := 0x21, index := uIndex q, handle := uHandle q, slot := none, attrs := 0, vec := [],
                                    haveVec := true, record := [], recordTokens := 0 } c.time)
      fun d q => match q.work with
        | .upd u => d.runDelete c r io q u
        | _ => (d, none)

/-! ### Journaled updates whose request has gone (R128, R138, R397, R400) -/

/-- A journal record still carried by a request in flight. -/
def Part.carried (x : Part) (p : Nat) (j : JRec) : Bool :=
  (x.admittedReqs p).any fun e => e.1 == ⟨j.rs, j.cmdSeq⟩ && e.2.journaled

/-- The encoder runs again for a journaled update that has no vector record, and its output is recorded (R120). With its model no
longer loaded, or when the run leaves no row, the output is open: free values (log 8). -/
def Dev.encodeGone (d : Dev) (c : Clock) (j : JRec) : Dev × UpdRun :=
  let r : ReqRef := ⟨j.rs, j.cmdSeq⟩
  let w := d.encodeUpd c r j.epoch j.upd true
  if w.2.haveVec then w else
  let d := w.1.dropRows r 0
  let dim := (((d.part r.rs.partNo).index? j.index).map fun i => i.params.dim).getD 0
  let v := (List.range dim).map fun i => BitVec.ofNat 32 (Config.freeNat d.free i)
  let z := d.vectorRecord c r j.epoch w.2 v w.2.version
  (z.1.fresh, z.2)

/-- One journaled update of a standard partition is applied internally: placed, linked and given its epoch (R128). -/
def Dev.applyOne (d : Dev) (c : Clock) (p : Nat) (j : JRec) : Dev :=
  let assign := fun (d : Dev) => (d.modPart p fun x => { x with vis := x.vis.assign.1 }, (d.part p).vis.assign.2)
  let order := j.upd.order
  if (d.part p).updLost j.upd then d.cancelUpd c p ⟨j.rs, j.cmdSeq⟩ j.upd
  else if j.kind = 3 then
    let a := assign d
    (a.1.modPart p fun x => (x.deleteUpd c.time j.upd a.2 order).applied j.seq).structAppend c p j.index j.handle 0
  else
    let w := d.encodeGone c j
    let w := if w.2.placed then w else w.1.placeUpd c ⟨j.rs, j.cmdSeq⟩ w.2
    if (w.1.part p).linkLost w.2 j.epoch then w.1.cancelUpd c p ⟨j.rs, j.cmdSeq⟩ w.2 else
    let d := w.1.modPart p fun x => x.linkUpd w.2 j.epoch
    let a := assign (d.structAppend c p j.index j.handle ((d.part p).linksOf w.2))
    (a.1.modPart p fun x => (x.commitUpd w.2 a.2 order).applied j.seq).structAppend c p j.index j.handle 0

/-! ### Epoch ticks (R111 to R113) -/

/-- An epoch begins. -/
def Part.beginEpoch (x : Part) (p : Nat) : Part :=
  let v := { x.vis with cur := x.vis.cur + 1, highest := max x.vis.highest (x.vis.cur + 1) }
  let x := { x with vis := v, feat := { x.feat with insertBatch := x.feat.insert } }
  ((x.settle).dropGraphs).switchModels p

/-- The next tick of a partition: the next multiple of its tick length, or a tick already passed (R111, R113). -/
def Vis.tickDue (v : Vis) (now : Nat) : Nat := if v.nextTick ≤ now then v.nextTick else (now / v.tick + 1) * v.tick

/-- Index images that would lag their structure records by more than 10 s before the next tick are rewritten (R258). -/
def Dev.rewriteLagging (d : Dev) (c : Clock) (p : Nat) : Dev :=
  let x := d.part p
  let late := fun (i : Index) => i.lag != 0 && decide (i.lag + 10000000000 ≤ c.time + x.vis.tick)
  if x.life.st == .fenced then d else (x.idx.filter late).foldl (fun (d : Dev) i => (d.rewriteImage c p i.num).dropStale p) d

/-- An epoch of a partition begins, with the structure records of the nodes that settle (R111, R127, R258). -/
def Dev.beginEpoch (d : Dev) (c : Clock) (p : Nat) : Dev :=
  ((d.modPart p fun x => x.beginEpoch p).stateRecords c p).rewriteLagging c p

/-- EPOCH_TICK: the epoch advances unless fabric time still lies behind the stored epoch (R111 to R113). -/
def execEpochTick (p : Nat) (s : State) : Out :=
  let x := s.dev.part p
  if x.life.st = .closed then s.onDev fun _ d => d
  else s.atTime (x.vis.tickDue s.clock.time) fun c d =>
    if (d.part p).vis.nextTick ≤ c.time then d.beginEpoch c p else d

/-! ### Batches of a reproducible partition (R138 to R140) -/

/-- Journaled updates that have not been applied. -/
def Part.unapplied (x : Part) : List JRec := x.journal.recs.filter fun j => !j.applied && decide (j.kind ≤ 3)

/-- Admission epochs of the updates that wait for their batch. -/
def Part.batchEpochs (x : Part) (p : Nat) : List Nat :=
  x.unapplied.map (·.epoch) ++
  ((x.admittedReqs p).filter fun e => match e.2.work with
    | .upd u => u.journal.isNone
    | _ => false).map (·.2.epoch)

/-- One update of a batch at its turn: refused under R117, or placed and linked (R138). -/
def Dev.batchOne (d : Dev) (c : Clock) (p : Nat) (j : JRec) : Dev :=
  let x := d.part p
  let u := j.upd
  let r : ReqRef := ⟨j.rs, j.cmdSeq⟩
  if u.linked then d else
  match (x.batchState u.index u.handle).refuses u.opcode with
  | some st => (d.cancelUpd c p r { u with slot := none }).finish c r ⟨st, 0, 0, 0⟩
  | none =>
    if x.updLost u then (d.cancelUpd c p r u).finish c r ⟨statusMEDIA, 0, 0, 0⟩
    else if j.kind = 3 then
      let mark := fun (g : Graph) => match (g.byHandle u.handle).filter fun n => !n.dead with
        | some n => g.modNode n.slot fun n => n.bury none
        | none => g
      (d.modPart p fun x => (x.modIndex u.index fun i => (i.modGraph mark).touch c.time).syncUpd { u with linked := true }).structAppend c p u.index u.handle 0
    else
      let w := if u.placed then (d, u) else d.placeUpd c r u
      if (w.1.part p).linkLost w.2 j.epoch then (w.1.cancelUpd c p r w.2).finish c r ⟨statusMEDIA, 0, 0, 0⟩ else
      let u : UpdRun := { w.2 with linked := true }
      let old := (((w.1.part p).index? u.index).map fun i => i.graph.replaced u (u.slot.getD 0)).getD []
      let mark := fun (g : Graph) => old.foldl (fun g t => g.modNode t fun n => n.bury none) g
      let d := ((w.1.setUpd r u).modReq r fun q => { q with place := false }).modPart p fun x =>
        ((((x.linkUpd u j.epoch).stale u.index old).modIndex u.index fun i => i.modGraph mark)).syncUpd u
      d.structAppend c p u.index u.handle ((d.part p).linksOf u)

/-- Runs the updates of batch `e` in order of source identity, then journal sequence; stops at one that still waits for its
journal record or its vector record (R138, R139). The encoder of one whose request has gone runs here (R120). -/
def Dev.batchRun (d : Dev) (c : Clock) (p e : Nat) : Dev × Bool :=
  (List.range 16).foldl (fun (acc : Dev × Bool) n =>
    if !acc.2 then acc else
    let mine := (acc.1.part p).unapplied.filter fun j => j.epoch == e && j.rs.num == n
    let acc := mine.foldl (fun (a : Dev × Bool) j =>
      if !a.2 then a
      else if (a.1.req? ⟨j.rs, j.cmdSeq⟩).any (·.pendingReplay) then (a.1, false)
      else if j.kind ≠ 3 ∧ !j.upd.haveVec then
        (if (a.1.part p).carried p j then (a.1, false)
         else let w := a.1.encodeGone c j
              (w.1.batchOne c p { j with upd := w.2 }, true))
      else (a.1.batchOne c p j, true)) acc
    let waits := ((acc.1.part p).admittedReqs p).any fun q => q.1.rs.num == n && q.2.epoch == e && (match q.2.work with
      | .upd u => u.journal.isNone || q.2.pendingReplay
      | _ => false)
    (acc.1, acc.2 && !waits)) (d, true)

/-- Every update of the batch receives the same epoch, with a structure record of it, and ends (R138, R258). -/
def Dev.batchCommit (d : Dev) (c : Clock) (p e : Nat) : Dev :=
  let x := d.part p
  let a := x.vis.assign
  let d := d.modPart p fun x => { x with vis := a.1 }
  let keyOf := fun (j : JRec) => j.rs.num * 2 ^ 64 + j.seq
  (sortBy keyOf (x.unapplied.filter fun j => j.epoch == e)).foldl (fun d j =>
    let r : ReqRef := ⟨j.rs, j.cmdSeq⟩
    let q := d.req? r
    let u := j.upd
    let order := u.order
    let mark := fun (g : Graph) => { g with nodes := g.nodes.map fun n =>
      if n.handle == u.handle && n.marked && n.tomb.isNone && some n.slot != u.slot then { n with tomb := some a.2 } else n }
    let d := d.modPart p fun x =>
      let x := x.modIndex u.index fun i => i.modGraph mark
      let x := if j.kind = 3 then x.modIndex u.index fun i =>
          if i.building then { i with recorded := i.recorded ++ [⟨true, order, u.handle, 0, a.2⟩] } else i
        else x.commitUpd { u with opcode := 0x20 } a.2 order
      x.applied j.seq
    let d := d.structAppend c p u.index u.handle 0
    d.finish c r ⟨withReplays statusSUCCESS ((q.map (·.replays)).getD 0), (q.map (·.flags)).getD 0, a.2, u.version⟩) d

/-- The oldest batch not yet complete, once its epoch has ended or the partition is recovered (R128, R138). -/
def Dev.batchApply (d : Dev) (c : Clock) (p : Nat) : Dev :=
  let x := d.part p
  match sortBy id (x.batchEpochs p) with
  | [] => d
  | e :: _ =>
    if x.vis.cur ≤ e then d else
    let w := d.batchRun c p e
    if w.2 then w.1.batchCommit c p e else w.1

/-- REPRODUCIBLE_BATCH_APPLY (R138). -/
def execReproducibleBatchApply (p : Nat) (s : State) : Out :=
  s.onDev fun c d =>
    let x := d.part p
    if !x.cfg.repro ∨ x.life.st = .closed then d else d.batchApply c p

/-- Updates aborted after their journal records were accepted are applied in journal order; in a reproducible partition their batches
apply them (R128, R138, R393, R397, R400). -/
def Dev.applyAborted (d : Dev) (c : Clock) (p : Nat) : Dev :=
  let x := d.part p
  if x.cfg.repro then d else
  (x.unapplied.filter fun j => !x.carried p j).foldl (fun d j => d.applyOne c p j) d

/-- Every journaled update that has not been applied is applied before a reopened partition accepts its first search: in journal order,
or in a reproducible partition batch by batch (R128, R138). -/
def Dev.recoverJournal (d : Dev) (c : Clock) (p : Nat) : Dev :=
  let x := d.part p
  if x.cfg.repro then (dedupNat (x.unapplied.map (·.epoch))).foldl (fun d _ => d.batchApply c p) d
  else x.unapplied.foldl (fun d j => d.applyOne c p j) d

end Sys2Proof.Machine
end

