-- ==== Sys2Proof/Machine/Search.lean ====
section
/-! DEFINITION. SEARCH, SEARCH_BATCH, their phases, admission from the queue and replay (chapters 04 and 05:
R23 to R25, R83 to R107, R132 to R136, R348, R349, R447). -/

namespace Sys2Proof.Machine

open Sys2Proof

/-! ### Blocks (R82, R83, R348) -/

/-- Splits the bytes read into `n` blocks of the length each gives itself; none when they do not add up. -/
def splitBlocks : Nat → Bytes → Option (List Bytes)
  | 0, b => if b.isEmpty then some [] else none
  | n + 1, b =>
    let len := (SBlock.ofBytes b).len
    if b.length < 128 ∨ b.length < len then none
    else (splitBlocks n (b.drop len)).map fun l => b.take len :: l

/-- Field checks of one block against the partition (R83, R189). -/
def Part.blockOk (x : Part) (b : Bytes) (probe : Bool) : Bool :=
  let s := SBlock.ofBytes b
  s.rangeOk b probe &&
  (match x.index? s.index with
    | some i => s.indexOk b i.params
    | none => true) &&
  (probe || !s.ce || (match x.modelLive s.ceModel with
    | some k => k.2.kind == 1 && decide (s.qTokens ≤ k.2.maxTokens)
    | none => true))

def Part.blockNames (x : Part) (b : Bytes) (probe : Bool) : Bool :=
  let s := SBlock.ofBytes b
  (x.index? s.index).isSome && (probe || !s.ce || (x.modelLive s.ceModel).isSome)

/-- Context-pool bytes of a block (R85). -/
def Part.blockCtx (x : Part) (b : Bytes) : Nat :=
  let s := SBlock.ofBytes b
  match x.index? s.index with
  | some i => s.footprint i.params.sketchBits
  | none => 0

/-- The status of a block that is refused before its search starts (R83, R85). -/
def Part.blockStatus (x : Part) (b : Bytes) : Option Nat :=
  if !x.blockOk b false then some statusBADFIELD
  else if !x.blockNames b false then some statusBADHANDLE
  else if x.cfg.contextQuota < x.blockCtx b then some statusQUOTA
  else none

/-- The path a block takes now (R93). -/
def Part.blockPath (x : Part) (b : Bytes) (epoch : Nat) : Nat :=
  let s := SBlock.ofBytes b
  match x.index? s.index with
  | some i => choosePath s (s.clauses b) x.feat.search i.params (i.graphAt epoch) epoch
  | none => 1

/-- A search at its admission: its epoch and its path (R24, R93). -/
def Part.startSearch (x : Part) (timeLost : Bool) (b : Bytes) : SearchRun :=
  { block := b, epoch := x.vis.cur, timeLost := timeLost, path := x.blockPath b x.vis.cur, sketch := 0, flags := 0,
    status := x.blockStatus b }

/-! ### Context entries and places (R24, R85, R349, R386) -/

/-- A context-pool entry of `need` bytes, with a traverse-engine place for a path that walks, where the partition and the module have
room (R85, R386). -/
def Dev.seat? (d : Dev) (p need : Nat) (walks : Bool) : Option Seat :=
  let x := d.part p
  if x.cfg.contextQuota < x.ctxUsed + need then none
  else if walks && !x.placeFree then none
  else match d.pickBank need with
    | none => none
    | some bank =>
      if walks then d.pickEngine.map fun e => ⟨need, bank, true, e⟩ else some ⟨need, bank, false, 0⟩

/-- Search `i` of an admitted request. -/
def Dev.search? (d : Dev) (r : ReqRef) (i : Nat) : Option SearchRun :=
  (d.req? r).bind fun q => match q.work with
    | .searches l => if q.admitted then l[i]? else none
    | _ => none

/-- A search of a batch, or one that is replayed, takes its context entry and its place once there is room (R133, R349). -/
def Dev.seatSearch (d : Dev) (r : ReqRef) (i : Nat) : Dev :=
  match d.search? r i with
  | none => d
  | some s =>
    if s.status.isSome || s.lost || s.seat.isSome then d else
    match d.seat? r.rs.partNo ((d.part r.rs.partNo).blockCtx s.block) (pathWalks s.path && s.walk.isNone) with
    | some t => d.setSearch r i fun k => { k with seat := some t }
    | none => d

/-- Search `i` when it may run: not ended, not lost, and seated. -/
def Dev.running? (d : Dev) (r : ReqRef) (i : Nat) : Option SearchRun :=
  (d.search? r i).filter fun s => s.status.isNone && !s.lost && s.seat.isSome

/-! ### Phases (R84 to R101) -/

/-- The query sketch (R84); answers the saturated elements. -/
def Part.sketchRun (x : Part) (s : SearchRun) : SearchRun × Nat :=
  let b := SBlock.ofBytes s.block
  match x.index? b.index with
  | none => (s, 0)
  | some i =>
    let k := sketchOf i.params (queryElems b.qf16 b.dim (s.block.drop 128))
    ({ s with sketch := k.1, sketched := true, flags := s.flags ||| (if 0 < k.2 then flagSAT else 0) }, k.2)

/-- The walk of a search (R86, R89, R256); its place is free when it ends (R386). -/
def Part.walkRun (x : Part) (s : SearchRun) : SearchRun :=
  let b := SBlock.ofBytes s.block
  if s.status.isSome || !pathWalks s.path || s.walk.isSome then s else
  match x.index? b.index with
  | none => s
  | some i =>
    let c : WalkCtx := ⟨i.params.sketchBits, b.pool, s.sketch, x.cfg.repro, s.epoch, b.clauses s.block, none, i.lostRanges⟩
    let w := walk c (i.graphAt s.epoch) b.hopBound b.seeds
    { s with walk := some w, seat := s.seat.map fun t => { t with place := false },
             status := if w.poisoned then some statusPOISON else if w.unreachable then some statusMEDIA else none }

/-- The bench scan of a search (R95, R96, R256). -/
def Part.benchRun (x : Part) (s : SearchRun) : SearchRun :=
  let b := SBlock.ofBytes s.block
  if s.status.isSome || !pathBenches s.path || s.bench.isSome then s else
  match x.index? b.index with
  | none => s
  | some i =>
    let w := benchScan i.params (i.graphAt s.epoch) s.sketch s.epoch b.c x.engineCount (b.clauses s.block) x.cfg.repro i.lostRanges
    { s with bench := some w, status := if w.poisoned then some statusPOISON else if w.unreachable then some statusMEDIA else none }

/-- Candidate selection (R97). -/
def Part.candsRun (x : Part) (s : SearchRun) : SearchRun :=
  let b := SBlock.ofBytes s.block
  if s.status.isSome || s.cands.isSome then s else
  match x.index? b.index with
  | none => s
  | some i =>
    let g := i.graphAt s.epoch
    let viaB := fun (h : Nat) => match s.bench with
      | some w => w.lists.any fun l => l.1.any fun e => e.2.1 == h
      | none => false
    let viaW := fun (h : Nat) => match s.walk with
      | some w => w.elig.any fun e => e.2.1 == h
      | none => false
    let res : List Entry × List Summary :=
      match s.bench, s.walk with
      | none, some w =>
        let r := selectOp false b.c (b.depthUsed x.cfg.repro) (w.elig.map fun e => hamEntry e.1 e.2.1 0)
        (r.1.filter (·.valid), [r.2])
      | some w, wk => benchMerge w wk b.c
      | none, none => ([], [])
    let fl := res.2.foldl (fun f q => f ||| (q.flags &&& (flagINEXACT + flagNAN + flagDUP))) s.flags
    -- without an exact pass this selection makes the final list (R75)
    let tie := if b.d = 0 then ((res.2.getLast?).map (·.flags &&& flagTIE)).getD 0 else 0
    let slotOf := fun (h : Nat) => ((g.nodes.find? fun n => n.handle == h && n.eligible s.epoch []).map (·.slot)).getD 0
    let hamOf := fun (e : Entry) => match Fmt.f32.decode e.score.toNat with
      | .fin _ m x => if 0 ≤ x then m * 2 ^ x.toNat else m / 2 ^ (-x).toNat
      | _ => 0
    let cands := res.1.map fun e =>
      ({ slot := slotOf e.handle, handle := e.handle, ham := hamOf e, viaWalk := viaW e.handle, viaBench := viaB e.handle } : Cand)
    { s with cands := some cands, flags := fl ||| tie, dups := s.dups + sumNat (·.duplicates) res.2 }

/-- The vector pack of a slot of the graph in use. -/
def Index.vecPage (i : Index) (slot : Nat) : Nat := i.graph.vecBase + slot / (packGeom i.params.bodyLen).1

/-- An index as a read epoch sees it: with the graph that the epoch uses (R131). -/
def Index.seen (i : Index) (r : Nat) : Index := { i with graphs := [i.graphAt r] }

/-- Whether the copy of a vector on a side can be read (R25, R100, R270, R275, R286, R291). -/
def Dev.vecReadable (d : Dev) (i : Index) (p : Nat) (n : Node) (side : Nat) : Bool :=
  (!i.params.single || side == singleSide i.num p) &&
  (d.flash.buffered p (ownerVector i.num) (i.vecPage n.slot) side ||
    (!d.flash.lost side && d.flash.sound p (ownerVector i.num) (i.vecPage n.slot) side))

/-- The map entry of the copy of a vector on a side is lost and being rebuilt: the read takes the other copy, or waits for the scan
where there is none (R261). -/
def Dev.vecWaits (d : Dev) (i : Index) (p : Nat) (slot side : Nat) : Bool :=
  d.flash.entryLost p (ownerVector i.num) (i.vecPage slot) side

/-- The exact score of a candidate (R98). -/
def nodeScore (i : Index) (b : SBlock) (block : Bytes) (n : Node) : F32 :=
  let q := queryElems b.qf16 b.dim (block.drop 128)
  exactScore b.metric (vecValues i.params n.body n.scale) q n.rn (recipNorm q)

/-- The flash channel group from which the copy of a page on a side is read: none while it stands in the write buffer (R25, R291). -/
def Flash.copyGroup (f : Flash) (part owner n side : Nat) : Option Nat :=
  (f.lpn? part owner n).bind fun l => (f.pageAt (l + side * sideBit)).bind fun g =>
    if g.buffered then none else some (f.groupOf side g.super)

/-- The group that the read of a slot's vector on a side goes to. -/
def Dev.readGroup (d : Dev) (i : Index) (p slot side : Nat) : Option Nat := d.flash.copyGroup p (ownerVector i.num) (i.vecPage slot) side

/-- Reads that stand in the queue of a channel group of a storage die: candidates of every search that reads full vectors, not yet scored
(R25, R97). -/
def Dev.queued (d : Dev) (side : Nat) (group : Option Nat) : Nat :=
  if group.isNone then 0 else
  sumNat (fun (x : Nat × Part) => sumNat (fun (g : RingSet) => sumNat (fun (q : Req) => match q.work with
    | .searches l => sumNat (fun (s : SearchRun) => match s.status, s.cands, x.2.index? (fbits s.block 0 3 0) with
        | none, some cs, some i =>
          let i := i.seen s.epoch
          (if (SBlock.ofBytes s.block).d = 0 then [] else cs.filter fun k => k.side == side && k.score.isNone && !k.lost && d.readGroup i x.1 k.slot side == group).length
        | _, _, _ => 0) l
    | _ => 0) g.inflight) x.2.rings) (indexed d.parts)

/-- The storage die that a flash read of a vector goes to: its index's side, the survivor, the one with the shorter queue for the
target channel group, or with equal queues the one of the handle's parity; while a map scan runs, the one whose map entry survives (R25,
R261, R285, R286). `more` are reads of the same search. -/
def Dev.candSide (d : Dev) (i : Index) (p : Nat) (slot h : Nat) (more : List (Nat × Option Nat)) : Nat :=
  if i.params.single then singleSide i.num p
  else if d.flash.lost 0 then 1 else if d.flash.lost 1 then 0
  else if d.vecWaits i p slot 0 != d.vecWaits i p slot 1 then b2n (d.vecWaits i p slot 0)
  else
    let len := fun (sd : Nat) => let g := d.readGroup i p slot sd
                                 d.queued sd g + (more.filter fun e => e.1 == sd && g.isSome && e.2 == g).length
    if len 0 < len 1 then 0 else if len 1 < len 0 then 1 else h % 2

/-- The candidates' reads are issued, in rank order: each to the hot-vector cache where that holds its vector, else to a storage die
(R25, R99). -/
def Dev.issueReads (d : Dev) (p : Nat) (s : SearchRun) : SearchRun :=
  match s.cands, (d.part p).index? (fbits s.block 0 3 0) with
  | some cs, some i =>
    let i := i.seen s.epoch
    let out := cs.foldl (fun (acc : List Cand × List (Nat × Option Nat)) k =>
      let side := if (d.part p).hotHolds i.num k.slot then 2 else d.candSide i p k.slot k.handle acc.2
      (acc.1 ++ [{ k with side := side }], acc.2 ++ [(side, d.readGroup i p k.slot side)])) ([], [])
    { s with cands := some out.1 }
  | _, _ => s

/-- The selection of candidates, and the issue of their reads (R97). -/
def Dev.candsRun (d : Dev) (p : Nat) (s : SearchRun) : SearchRun :=
  if s.status.isSome || s.cands.isSome then s else d.issueReads p ((d.part p).candsRun s)

/-- A read of a candidate's vector from flash returns: its score, the other copy, or neither (R25, R99, R100). -/
def Cand.read (k : Cand) (single : Bool) (ok : Bool) (score : F32) : Cand :=
  if k.score.isSome || k.lost then k
  else if ok then { k with score := some score }
  else if single || decide (1 ≤ k.tries) then { k with lost := true }
  else { k with side := 1 - k.side, tries := k.tries + 1 }

/-- The codewords that the read of a slot's vector transfers: none while the page stands in the write buffer (R269, R275, R291). -/
def Dev.readVector (d : Dev) (now : Nat) (i : Index) (p slot side : Nat) : Dev :=
  if (d.readGroup i p slot side).isNone then d else
  { d with flash := (d.flash.transfer (vectorCodewords i.params.bodyLen (slot % (packGeom i.params.bodyLen).1))).touch p side now }

/-- One flash read of a candidate; one that succeeds is an exact read that the cache may admit (R254, R255). One whose map entry a scan
still rebuilds waits (R261). -/
def Dev.flashRead (d : Dev) (now : Nat) (p : Nat) (i : Index) (n : Node) (k : Cand) (ok : Bool) (score : F32) : Dev × Cand :=
  let good := ok && d.vecReadable i p n k.side
  let e := k.read i.params.single good score
  if k.score.isSome || k.lost then (d, e) else
  if d.vecWaits i p n.slot k.side then (d, k) else
  let d := d.readVector now i p n.slot k.side
  (if good then d.modPart p fun x => x.flashExact i n.slot else d, e)

/-- A candidate is scored: from the cache while that still holds its vector without poison, else from flash, with one reissue to the
other copy (R25, R98 to R100). -/
def Dev.scoreCand (d : Dev) (now : Nat) (p : Nat) (i : Index) (g : Graph) (b : SBlock) (block : Bytes) (k : Cand) : Dev × Cand :=
  if k.score.isSome || k.lost then (d, k) else
  match g.node? k.slot with
  | none => (d, { k with lost := true })
  | some n =>
    let sc := nodeScore i b block n
    if k.side = 2 ∧ (d.part p).hotHolds i.num n.slot then (d.modPart p fun x => x.hotRead i n.slot, { k with score := some sc })
    else
      let k := if k.side = 2 then { k with side := d.candSide i p k.slot k.handle [] } else k
      let w := d.flashRead now p i n k true sc
      w.1.flashRead now p i n w.2 true sc

/-- A candidate's read still waits for a map scan (R261). -/
def SearchRun.unread (s : SearchRun) : Bool :=
  (SBlock.ofBytes s.block).d != 0 && (s.cands.getD []).any fun k => k.score.isNone && !k.lost

/-- Scores what is left of the candidates (R98 to R100). -/
def Dev.scoreRun (d : Dev) (now p : Nat) (s : SearchRun) : Dev × SearchRun :=
  let b := SBlock.ofBytes s.block
  if s.status.isSome || b.d = 0 then (d, s) else
  match (d.part p).index? b.index, s.cands with
  | some i, some cs =>
    let i := i.seen s.epoch
    let w := cs.foldl (fun (acc : Dev × List Cand) k =>
      let o := acc.1.scoreCand now p i (i.graphAt s.epoch) b s.block k
      (o.1, acc.2 ++ [o.2])) (d, [])
    (w.1, { s with cands := some w.2, status := if !b.skipUnreachable && w.2.any (·.lost) then some statusMEDIA else none })
  | _, _ => (d, s)

/-! ### The end of a search (R101 to R107) -/

/-- The exact pass's list, ready for the rerank or the record: the MERGE of R101. -/
def SearchRun.exact (s : SearchRun) : List Entry × Summary :=
  let b := SBlock.ofBytes s.block
  exactMerge (b.metric != 1) (if b.ce then b.ceDepth else b.k) ((s.cands.getD []).filter fun k => k.score.isSome)

/-- The nodes of the items that a rerank takes, in their order. -/
def SearchRun.items (s : SearchRun) (g : Graph) : List Node :=
  (s.exact.1.filter (·.valid)).filterMap fun e => ((s.cands.getD []).find? fun k => k.handle == e.handle).bind fun k => g.node? k.slot

/-- Whether the rerank falls back (R103). A model that is being unloaded, or is gone, when the rerank would start falls back as one that is
being replaced does (DESIGN CHOICE, log 126). -/
def Dev.rerankFalls (d : Dev) (p : Nat) (b : SBlock) (late deadline : Bool) (nodes : List Node) (i : Index) : Bool :=
  let x := d.part p
  (match x.model? b.ceModel with
    | some k => k.loading || k.unloading || k.cur.isNone
    | none => true) ||
  (late && deadline && !x.cfg.repro) || nodes.any fun n => d.docPoisoned i p n || !d.docReadable i p n

/-- The rows of a rerank: the query tokens, then the tokens of each item's document record, cut at MAX_TOKENS (R102, R189). -/
def rerankRows (r : ReqRef) (sub qTokens maxTokens : Nat) (query : Bytes) (docs : List (Bytes × Nat)) : List InvRow :=
  (indexed docs).map fun e => InvRow.ofTokens r sub e.1 (min qTokens maxTokens) maxTokens (query ++ e.2.1.take (4 * e.2.2))

/-- A search's items enter an invocation of the cross-encoder (R102, R189). -/
def Part.queueRerank (x : Part) (r : ReqRef) (sub : Nat) (b : SBlock) (block : Bytes) (nodes : List Node) : Part :=
  let v := x.modelVersion b.ceModel
  match x.pkgOf b.ceModel v with
  | none => x
  | some g =>
    let query := (block.drop (128 + b.dim * (if b.qf16 then 2 else 4))).take (4 * b.qTokens)
    x.addRows { Inv.new 1 b.ceModel v with margin := b.margin, exitK := b.k }
      (rerankRows r sub b.qTokens g.maxTokens query (nodes.map fun n => (n.doc, n.docTokens)))

/-- The provisional and last-layer scores that a row of a cross-encoder leaves (R102, R197). -/
def rowScores (o : RowOut) : List F32 := (List.range (o.bytes.length / 4)).map fun i => BitVec.ofNat 32 (fld o.bytes (4 * i) 4)

/-- What the rows of a rerank came to: by item, the scores; the exit points; the version that ran. -/
structure Rerank where
  scores : List (List F32)
  exits : Nat
  version : Nat
  deriving Repr

/-- A finished rerank of a search. -/
def Part.rerankOf (x : Part) (r : ReqRef) (sub model : Nat) : Rerank :=
  let l := x.outsOf r sub
  let v := ((l.getLast?).map (·.version)).getD (x.modelVersion model)
  ⟨l.map rowScores, ((x.pkgOf model v).map Pkg.exits).getD 0, v⟩

/-- The final list of a search with its result flags: slots, flags, duplicates, items that exited (R97, R101 to R103). -/
structure Final where
  slots : List Slot
  flags : Nat
  dups : Nat := 0
  exited : Nat := 0
  deriving Repr

/-- A result slot of a handle (R107). -/
def SearchRun.slot (s : SearchRun) (h : Nat) (re ex : Bool) (sc pre : F32) : Slot :=
  let k := (s.cands.getD []).find? fun k => k.handle == h
  { handle := h, reranked := re, exited := ex, viaWalk := (k.map (·.viaWalk)).getD false, viaBench := (k.map (·.viaBench)).getD false,
    ham := (k.map (·.ham)).getD 0xFFFF, score := sc, pre := pre }

/-- The final list of a search: of its candidates, of its exact pass, of its rerank, or of the fallback (R75, R97, R101 to R103). -/
def SearchRun.final (s : SearchRun) (fall : Bool) (rr : Option Rerank) : Final :=
  let b := SBlock.ofBytes s.block
  if b.d = 0 then ⟨((s.cands.getD []).take b.k).map fun k => s.slot k.handle false false (natToF32 k.ham) (natToF32 k.ham), s.flags, 0, 0⟩
  else
    let m := s.exact
    let es := m.1.filter (·.valid)
    let fl := s.flags ||| (m.2.flags &&& (flagINEXACT + flagNAN + flagDUP))
    let plain := (es.map fun e => s.slot e.handle false false e.score e.score).take b.k
    match rr with
    | some o =>
      let items := (indexed es).map fun e => ({ pos := e.1, handle := e.2.handle, scores := o.scores.getD e.1 [] } : CeItem)
      let w := ceRank b.k o.exits b.margin items
      let pre := fun (h : Nat) => ((es.find? fun e => e.handle == h).map (·.score)).getD f32nan
      ⟨(w.items.take b.k).map fun it => s.slot it.handle true (decide (it.stop < o.exits)) it.score (pre it.handle),
        fl ||| (if w.tie then flagTIE else 0) ||| (if w.nan then flagNAN else 0), m.2.duplicates, w.exited⟩
    | none =>
      if !fall then ⟨plain, fl ||| (m.2.flags &&& flagTIE), m.2.duplicates, 0⟩
      else
        let tie := if b.k = b.ceDepth then m.2.flags &&& flagTIE else match es[b.k - 1]?, es[b.k]? with
          | some a, some e => if sameKey a e then flagTIE else 0
          | _, _ => 0
        ⟨plain, fl ||| flagFALLBACK ||| tie, m.2.duplicates, 0⟩

/-- The result record of a search (R106, R107). -/
def SearchRun.record (s : SearchRun) (repro reranked : Bool) (f : Final) : Bytes :=
  let b := SBlock.ofBytes s.block
  let cs := s.cands.getD []
  let scored := cs.filter fun k => k.score.isSome
  let hdr : RecHdr :=
    { valid := f.slots.length, flags := f.flags, k := b.k, path := s.path, metric := if b.d = 0 then 3 else b.metric,
      timeLost := s.timeLost, rerank := reranked,
      walkEnd := match s.walk with
        | some w => if w.converged then 0 else 1
        | none => 2,
      dUsed := b.depthUsed repro, epoch := s.epoch, exact := if b.d = 0 then 0 else scored.length,
      cacheHits := if b.d = 0 then 0 else (scored.filter fun k => k.side == 2).length,
      hops := (s.walk.map (·.hops)).getD 0, visited := (s.walk.map (·.visited)).getD 0,
      scanned := (s.bench.map (·.scanned)).getD 0, skipped := (s.bench.map (·.skipped)).getD 0,
      dups := s.dups + f.dups, unreachable := (cs.filter (·.lost)).length, exitedCount := f.exited }
  hdr.bytes ++ slotsBytes b.k f.slots

/-- The search ends: with its status, or with its final list and its record (R10, R11, R106). -/
def SearchRun.done (s : SearchRun) (f : Final) : SearchRun :=
  let b := SBlock.ofBytes s.block
  { s with status := some (if f.slots.length < b.k then statusPARTIAL else if s.replayed then statusREPLAYED else statusSUCCESS),
           flags := f.flags, valid := f.slots.length }

/-- Search `i` ends with its record written to its host (R23, R106); a write that fails ends it with INVALID_FIELD (R317). -/
def Dev.closeSearch (d : Dev) (c : Clock) (r : ReqRef) (i : Nat) (s : SearchRun) (fall : Bool) (rr : Option Rerank) (writesOk : Bool) : Dev :=
  let p := r.rs.partNo
  let f := s.final fall rr
  let e := if writesOk then s.done f else { s with status := some statusBADFIELD, flags := 0, valid := 0 }
  let d := if writesOk then d.hostOut c r (SBlock.ofBytes s.block).resAddr (s.record (d.part p).cfg.repro rr.isSome f) else d
  (d.modPart p fun x => x.dropOuts r i).setSearch r i fun _ => e

/-- The rerank of a search whose exact pass is done, or its end without one: its items go into an invocation, which runs when `run`
says so, and the search ends once every row of it has been served (R102, R103). -/
def Dev.rerank (d : Dev) (c : Clock) (r : ReqRef) (i : Nat) (io : Io) (deadline : Bool) (s : SearchRun) : Dev :=
  let p := r.rs.partNo
  let b := SBlock.ofBytes s.block
  match (d.part p).index? b.index with
  | none => d.setSearch r i fun k => { k with status := some statusBADHANDLE }
  | some ix =>
    if b.d = 0 || !b.ce then d.closeSearch c r i s false none io.writesOk
    else
      let nodes := s.items (ix.graphAt s.epoch)
      if !s.ceWait && nodes.any (fun n => d.docWaits ix p n) then d
      else if !s.ceWait && d.rerankFalls p b io.late deadline nodes ix then d.closeSearch c r i s true none io.writesOk
      else
        let d := if s.ceWait then d else
          ((d.readDocs c.time ix p nodes).modPart p fun x => x.queueRerank r i b s.block nodes).setSearch r i fun k => { k with ceWait := true }
        let d := d.runRows c (Dev.endServed c) r i
        match d.running? r i with
        | none => d
        | some s =>
          if (d.part p).rowsOpen r i || !s.ceWait then d
          else d.closeSearch c r i s false (some ((d.part p).rerankOf r i b.ceModel)) io.writesOk

/-- The sketch of search `i`, once (R84). -/
def Dev.sketchSearch (d : Dev) (c : Clock) (r : ReqRef) (i : Nat) : Dev :=
  let p := r.rs.partNo
  let d := d.seatSearch r i
  match d.running? r i with
  | none => d
  | some s =>
    if s.sketched then d else
    let o := (d.part p).sketchRun s
    (d.setSearch r i fun _ => o.1).saturate c p 14 o.2 (d.tileSource p)

/-- Every phase of search `i` from where it stands, and its end (R84 to R107). -/
def Dev.runSearch (d : Dev) (c : Clock) (r : ReqRef) (io : Io) (deadline : Bool) (i : Nat) : Dev :=
  let p := r.rs.partNo
  let d := d.sketchSearch c r i
  match d.running? r i with
  | none => d
  | some s =>
    let x := d.part p
    let w := d.scoreRun c.time p (d.candsRun p (x.benchRun (x.walkRun s)))
    let d := w.1.setSearch r i fun _ => w.2
    if w.2.status.isSome || w.2.unread then d else d.rerank c r i io deadline w.2

/-- Every search of a request runs, in order (R348, R349). -/
def Dev.runSearches (d : Dev) (c : Clock) (r : ReqRef) (io : Io) (halfway : Bool) : Dev :=
  match d.req? r with
  | none => d
  | some q => match q.work with
    | .searches l =>
      let d := (List.range l.length).foldl (fun d i => if halfway then d.sketchSearch c r i else d.runSearch c r io (q.deadline != 0) i) d
      d.endSearches c r io.writesOk
    | _ => d

/-! ### Admission (R24, R85, R341, R386) -/

/-- The grant of a search or of a batch: a batch enters once its first search that runs has its context entry and its place; its others
take theirs as room frees (R24, R349; log 19). -/
def Dev.searchGrant (d : Dev) (c : Clock) (p : Nat) (blocks : List Bytes) (batch : Bool) : Grant :=
  let x := d.part p
  let runs := blocks.map (x.startSearch c.timeLost)
  let keep := fun (q : Req) => { q with work := .searches runs }
  if !batch && blocks.any (fun b => x.blockStatus b == some statusQUOTA) then .refuse statusQUOTA
  else match (indexed runs).find? fun e => e.2.status.isNone with
    | none => .go keep
    | some (i, s) => match d.seat? p (x.blockCtx s.block) (pathWalks s.path) with
      | none => .wait keep
      | some t => .go fun q => { q with work := .searches (modAt (fun (k : SearchRun) => { k with seat := some t }) i runs) }

/-- The blocks of a SEARCH or SEARCH_BATCH as read (R348). -/
def readBlocks (io : Io) (q : Req) : Option (List Bytes) :=
  (ioRead io.reads 0).bind fun b => if b.length = fld q.desc 32 4 then splitBlocks (fld q.desc 36 2) b else none

/-- SEARCH (R23 to R25, R82 to R107). -/
def execSearch (r : ReqRef) (io : Io) (s : State) : Out :=
  s.onDev fun c d =>
    let p := r.rs.partNo
    let x := d.part p
    d.command c r 0x10 io.upto always
      (fun q => (match readBlocks io q with
        | some l => l.all fun b => x.blockOk b false
        | none => false))
      (fun q => ((readBlocks io q).getD []).all fun b => x.blockNames b false)
      (fun d q => d.searchGrant c p ((readBlocks io q).getD []) false)
      fun d _ => (d.runSearches c r io (decide (io.upto = .halfway)), none)

/-- SEARCH_BATCH (R349). -/
def execSearchBatch (r : ReqRef) (io : Io) (s : State) : Out :=
  s.onDev fun c d =>
    let p := r.rs.partNo
    d.command c r 0x11 io.upto always (fun q => (readBlocks io q).isSome) always
      (fun d q => d.searchGrant c p ((readBlocks io q).getD []) true)
      fun d _ => (d.runSearches c r io (decide (io.upto = .halfway)), none)

/-! ### Phases as events (R86, R96, R99) -/

/-- A phase of search `i` of a request that may run ends; a search that it ends leaves its request (R12). -/
def Dev.phase (d : Dev) (c : Clock) (r : ReqRef) (i : Nat) (f : Dev → SearchRun → Dev × SearchRun) : Dev :=
  match d.req? r with
  | none => d
  | some q =>
    if !q.admitted || !d.canRun r q then d else
    let d := d.sketchSearch c r i
    match d.running? r i with
    | none => d
    | some s =>
      let w := f d s
      (w.1.setSearch r i fun _ => w.2).endSearches c r true

/-- WALK_COMPLETE: the walk of search `i` ends on convergence or at the hop bound (R86), and its place is free. -/
def execWalkComplete (r : ReqRef) (i : Nat) (s : State) : Out :=
  s.onDev fun c d => d.phase c r i fun d x => (d, (d.part r.rs.partNo).walkRun x)

/-- BENCH_SCAN_COMPLETE: every engine has returned its list, and the lists are merged (R95, R96). -/
def execBenchScanComplete (r : ReqRef) (i : Nat) (s : State) : Out :=
  s.onDev fun c d =>
    let p := r.rs.partNo
    d.phase c r i fun d x =>
      let y := (d.part p).benchRun x
      (d, if pathWalks y.path && y.walk.isNone then y else d.candsRun p y)

/-- One candidate, when a read of a handle returns: its score, its reissue, or its loss (R25, R99, R100). A candidate that the cache scores
too stands in both lists (R99, R101), but in a reproducible partition only in the cache's, for its flags go by no residency (R105; log
125). -/
def Dev.candReturn (d : Dev) (now p : Nat) (ix : Index) (b : SBlock) (y : SearchRun) (handle : Nat) (ok : Bool) (k : Cand) : Dev × Cand :=
  if k.handle != handle || k.lost then (d, k) else
  match (ix.graphAt y.epoch).node? k.slot with
  | none => (d, { k with lost := true })
  | some n =>
    let sc := nodeScore ix b y.block n
    if k.side = 2 ∧ (d.part p).hotHolds ix.num n.slot then
      let die := d.candSide ix p k.slot k.handle []
      (d, { k with score := some sc, also := if ok && !(d.part p).cfg.repro && d.vecReadable ix p n die then some die else none })
    else
      let k := if k.side = 2 then { k with side := d.candSide ix p k.slot k.handle [] } else k
      d.flashRead now p ix n k ok sc

/-- The read of a handle returns to a search; a lost candidate ends it, unless it skips unreachable ones (R99, R100). -/
def Dev.readReturn (d : Dev) (now p handle : Nat) (ok : Bool) (y : SearchRun) : Dev × SearchRun :=
  let b := SBlock.ofBytes y.block
  match (d.part p).index? b.index, y.cands with
  | some ix, some cs =>
    let ix := ix.seen y.epoch
    let w := cs.foldl (fun (acc : Dev × List Cand) (k : Cand) =>
      let o := acc.1.candReturn now p ix b y handle ok k
      (o.1, acc.2 ++ [o.2])) (d, [])
    let lost := !b.skipUnreachable && w.2.any (·.lost)
    (w.1, { y with cands := some w.2, status := if lost then some statusMEDIA else y.status })
  | _, _ => (d, y)

/-- FLASH_READ_COMPLETE: a candidate's exact score arrives, or its read failed and goes once to the other copy (R25, R99, R100). -/
def execFlashReadComplete (r : ReqRef) (i handle : Nat) (ok : Bool) (s : State) : Out :=
  s.onDev fun c d => d.phase c r i fun d y => d.readReturn c.time r.rs.partNo handle ok y

/-! ### The admission queue (R447) -/

/-- Order of waiting descriptors: poll time, ring set, SEQUENCE. -/
def waitKey (n : Nat) (q : Req) : Nat := (q.found * 16 + n) * 2 ^ 32 + q.seq

/-- Whether a waiting command that writes flash may write now: a PUT its bytes on its side or both, a FLUSH the next page of its checkpoint
(R292, R297). -/
def Dev.writeOk (d : Dev) (p now : Nat) (q : Req) : Bool :=
  match q.opcode with
  | 0x30 => match (d.part p).storedAt (fld q.desc 24 4) with
    | some o => d.mayWrite p (fld q.desc 40 4) now (!o.single) (singleSide o.first p)
    | none => d.mayWrite p (fld q.desc 40 4) now true 0
  | 0x34 => fbits q.desc 28 5 5 == 0 || d.mayWrite p pageBytes now true 0
  | _ => true

/-- What a waiting request needs is granted now or not (R85, R292, R386). -/
def Dev.regrant (d : Dev) (c : Clock) (p : Nat) (q : Req) : Grant :=
  match q.work with
  | .searches l => d.searchGrant c p (l.map (·.block)) (q.opcode == 0x11)
  | .upd u =>
    if u.opcode = 0x21 then d.deleteGrant p u c.time
    else match (d.part p).index? u.index with
      | some i => d.insertGrant p u (srcBytes i.params q) c.time
      | none => .refuse statusBADHANDLE
  | _ => if d.writeOk p c.time q then .go id else .wait id

/-- Steps 1 and 2 of R341, which need nothing but the descriptor (R340, R445). -/
def Dev.staticEnd (d : Dev) (c : Clock) (r : ReqRef) (q : Req) : Option Ending :=
  match d.opcodeCheck r.rs q.opcode with
  | some s => some ⟨s, 0, 0, 0⟩
  | none => if d.comp.accepts c.time q.compEpoch then none else some ⟨statusREDIRECT, 0, d.comp.epoch, 0⟩

/-- The ring sets of a partition, or of the management function under number 64. -/
def Dev.ringIds (d : Dev) (p : Nat) : List RsId :=
  if p < 64 then (List.range 16).map fun n => .part p n else (List.range d.mgmt.rings.length).map fun n => .mgmt n

/-- An ordered descriptor that has become the oldest of its ring set and that its own fields refuse (R341, R344). -/
def Dev.orderedEnd (d : Dev) (c : Clock) (p : Nat) : Option (ReqRef × Ending) :=
  (d.ringIds p).findSome? fun rs => match (d.ring rs).inflight with
    | q :: _ => if q.ordered && !q.admitted && (d.ring rs).alone q then (d.staticEnd c ⟨rs, q.seq⟩ q).map fun e => (⟨rs, q.seq⟩, e) else none
    | [] => none

/-- ADMISSION: room that has freed goes to the oldest waiting descriptor of the query, ingest and admin classes, and to a
replication descriptor only when no other waits (R447). -/
def execAdmission (p : Nat) (s : State) : Out :=
  s.onDev fun c d =>
    match d.orderedEnd c p with
    | some (r, e) => d.finish c r e
    | none =>
    let x := d.part p
    let all := (indexed x.rings).flatMap fun r => (r.2.inflight.filter (·.waiting)).map fun q => (r.1, q)
    let others := all.filter fun e => e.2.service != 2
    match sortBy (fun (e : Nat × Req) => waitKey e.1 e.2) (if others.isEmpty then all else others) with
    | [] => d
    | e :: _ =>
      let r : ReqRef := ⟨.part p e.1, e.2.seq⟩
      if (x.life.st ≠ .started ∧ x.life.st ≠ .draining) ∨ x.life.admitPaused then d
      else if x.exclusive && !pastExclusive e.2.opcode then d.finish c r ⟨statusNOTPERM, 0, 0, 0⟩
      else if deadlinePassed c e.2 && !d.barrierOp r e.2.opcode then d.finish c r ⟨statusDEADLINE, 0, 0, 0⟩
      else match d.regrant c p e.2 with
        | .refuse st => d.finish c r ⟨st, 0, 0, 0⟩
        | .wait _ => d
        | .go f => d.enter c r f

/-! ### Replay (R132 to R136) -/

/-- A failure loses the state of searches of a request that a test selects: each waits for its replay, out of its context entry and of
the invocations that rerank for it (R132, R349). -/
def Dev.loseSearches (d : Dev) (r : ReqRef) (f : SearchRun → Bool) : Dev :=
  match d.req? r with
  | none => d
  | some q => match q.work with
    | .searches l => (indexed l).foldl (fun d e =>
        if e.2.status.isSome || !f e.2 then d
        else (d.dropRows r e.1).setSearch r e.1 fun s => { s with lost := true, seat := none, ceWait := false }) d
    | _ => d

/-- A failure loses the state of a request: it waits for its replay (R132, R257, R458). -/
def Dev.loseState (d : Dev) (r : ReqRef) : Dev :=
  match d.req? r with
  | none => d
  | some q => match q.work with
    | .searches _ => d.loseSearches r fun _ => true
    | _ => (d.dropRows r 0).modReq r fun q => { q with pendingReplay := true }

/-- The unit whose failure a replay's record names: the last one that was retired, a channel's engines apart (R473; DESIGN CHOICE when
more than one has failed, log 116). -/
def Dev.lastFailed (d : Dev) : Nat × Nat := (d.units.retired.find? fun e => e.1 != 7).getD (0, 0)

/-- The phases of a search are run again from its block, with its read epoch (R133); a block that no longer passes its checks ends it. -/
def SearchRun.again (s : SearchRun) (block : Bytes) (path : Nat) (bad : Option Nat) : SearchRun :=
  { s with block := block, path := path, sketch := 0, sketched := false, flags := 0, walk := none, bench := none, cands := none, dups := 0, replayed := true,
           replays := s.replays + 1, seat := none, lost := false, ceWait := false, status := bad }

/-- Ends every search of a request that has not ended. -/
def Dev.endAll (d : Dev) (r : ReqRef) (n status : Nat) : Dev :=
  (List.range n).foldl (fun d i => d.setSearch r i fun s => { s with status := some status, flags := 0, valid := 0 }) d

/-- The descriptor and the buffers it names are read again (R133, R134, R318). -/
def Dev.readAgain (d : Dev) (c : Clock) (r : ReqRef) : Dev :=
  let g := d.ring r.rs
  (d.readHost c r.rs 3 (g.regs.sqBase + 64 * (r.seq % g.sqSize)) 64).readInputs c r

/-- Each search whose state was lost is run again from its block, read again, or ends at its third replay (R132, R133, R135, R349). The path
is chosen again when the block has changed. A read that fails, or brings no block of its request, ends the request (R317). -/
def Dev.replaySearches (d : Dev) (c : Clock) (r : ReqRef) (io : Io) (q : Req) (l : List SearchRun) : Dev :=
  let p := r.rs.partNo
  let detail := r.rs.num * 2 ^ 32 + r.seq
  if l.all fun s => s.status.isSome || !s.lost then d
  else if deadlinePassed c q && decide (0 < q.replays) then
    (d.record c 0x0302 d.lastFailed.1 d.lastFailed.2 (some p) detail 0 0).finish c r ⟨statusEXHAUSTED, 0, 0, 0⟩
  else
    match ioRead io.reads 0, (ioRead io.reads 1).bind fun b => splitBlocks l.length b with
    | some desc, some blocks =>
    let d := (d.readAgain c r).modReq r fun y => { y with desc := desc, replays := y.replays + 1 }
    ((indexed l).foldl (fun (d : Dev) e =>
      if e.2.status.isSome || !e.2.lost then d
      else if 2 ≤ e.2.replays then
        (d.record c 0x0302 d.lastFailed.1 d.lastFailed.2 (some p) detail 0 0).setSearch r e.1 fun s => { s with status := some statusEXHAUSTED, flags := 0, valid := 0 }
      else
        let b := blocks.getD e.1 e.2.block
        (d.record c 0x0301 d.lastFailed.1 d.lastFailed.2 (some p) detail 0 0).setSearch r e.1 fun s =>
          s.again b (if b = s.block then s.path else (d.part p).blockPath b s.epoch) ((d.part p).blockStatus b)) d).endSearches c r true
    | _, _ => d.finish c r ⟨statusBADFIELD, 0, 0, 0⟩

/-- An update whose state was lost runs again: from its descriptor and its source, read again, before its journal record is accepted,
and from that record after (R134). A read that fails, or brings another length than the descriptor gives, ends it (R118, R317). -/
def Dev.againUpd (d : Dev) (c : Clock) (r : ReqRef) (io : Io) (q : Req) (u : UpdRun) : Dev :=
  let up := fun (y : Req) => { y with pendingReplay := false, replays := y.replays + 1 }
  if u.journal.isSome then
    let v : UpdRun := { u with placed := u.linked }
    (d.modReq r fun y => { up y with work := .upd v }).modPart r.rs.partNo fun x => x.syncUpd v
  else
    let d := d.readAgain c r
    match ioRead io.reads 0, (d.part r.rs.partNo).index? u.index with
    | some desc, some i =>
      let q' : Req := { q with desc := if fld desc 0 1 = q.opcode ∧ fbits desc 24 3 0 = u.index then desc else q.desc }
      if q.opcode = 0x21 then d.modReq r fun y => { up y with desc := q'.desc, work := .upd { u with handle := uHandle q' } }
      else
        let src := (ioRead io.reads 1).filter fun b => b.length == srcBytes i.params q'
        let doc := if uRecLen q' = 0 then some [] else (ioRead io.reads 2).filter fun b => b.length == uRecLen q'
        (match src, doc with
        | some src, some doc =>
          let v : UpdRun := { mkUpd i.params q' src doc with slot := u.slot, policy := u.policy, version := u.version }
          d.modReq r fun y => { up y with desc := q'.desc, work := .upd v }
        | _, _ => d.finish c r ⟨statusBADFIELD, 0, 0, 0⟩)
    | none, _ => d.finish c r ⟨statusBADFIELD, 0, 0, 0⟩
    | _, none => d.finish c r ⟨statusBADHANDLE, 0, 0, 0⟩

/-- REQUEST_REPLAY: the third replay ends a request; otherwise a search starts again from its descriptor and block, read again, an
update from its descriptor or its journal record, and another request from its descriptor (R132 to R136, R257). `io` holds what is
read again: the descriptor, then the blocks, or the source and the document. -/
def execRequestReplay (r : ReqRef) (io : Io) (s : State) : Out :=
  s.onDev fun c d =>
    match d.req? r with
    | none => d
    | some q =>
      match q.work with
      | .searches l => d.replaySearches c r io q l
      | w =>
        if !q.pendingReplay then d else
        let p := r.rs.partNo
        let late := deadlinePassed c q && decide (0 < q.replays) && !d.barrierOp r q.opcode
        let detail := r.rs.num * 2 ^ 32 + r.seq
        if 2 ≤ q.replays ∨ late then
          let d := match w with
            | .upd u => if q.journaled then d.cancelUpd c p r u else d
            | _ => d
          (d.record c 0x0302 d.lastFailed.1 d.lastFailed.2 (some p) detail 0 0).finish c r ⟨statusEXHAUSTED, 0, 0, 0⟩
        else
          let d := d.record c 0x0301 d.lastFailed.1 d.lastFailed.2 (some p) detail 0 0
          match w with
          | .upd u => d.againUpd c r io q u
          | .held b => d.modReq r fun y => { y with pendingReplay := false, replays := y.replays + 1, work := .held ((ioRead io.reads 1).getD b) }
          | .train m v _ => d.modReq r fun y => { y with pendingReplay := false, replays := y.replays + 1, work := .model m v [] }
          | _ => d.modReq r fun y => { y with pendingReplay := false, replays := y.replays + 1 }

end Sys2Proof.Machine
end

