-- ==== Sys2Proof/Machine/Tables.lean ====
section
/-! DEFINITION. TABLE_CREATE, GATHER and SCATTER_UPDATE (R229 to R243, R361). -/

namespace Sys2Proof.Machine

open Sys2Proof

def Part.table? (x : Part) (t : Nat) : Option Table := x.tables.find? fun y => y.num == t

/-- The table a TABLE_CREATE describes, over the channels it names. -/
def mkTable (b : Bytes) (chans : List Nat) : Table :=
  { num := fld b 24 1, rows := fld b 28 4, dim := fld b 26 2, opt := fbits b 25 1 0, beta1 := BitVec.ofNat 32 (fld b 36 4),
    beta2 := BitVec.ofNat 32 (fld b 40 4), eps := BitVec.ofNat 32 (fld b 44 4), lambda := BitVec.ofNat 32 (fld b 48 4),
    defaultMode := fbits b 25 2 2, defaultRow := fld b 32 4, channels := chans, first := 0, mib := 0, model := none,
    stats := TabStats.reset }

/-- The fields of R229 and R361 that need no host memory. -/
def tableFields (b : Bytes) : Bool :=
  let opt := fbits b 25 1 0
  fbits b 25 7 3 == 0 && decide (8 ≤ fld b 26 2) && decide (fld b 26 2 ≤ 1024) && fld b 26 2 % 8 == 0 &&
  decide (1 ≤ fld b 28 4) && decide (fld b 28 4 ≤ 0xFFFFFFFE) &&
  (if fbits b 25 2 2 = 1 then decide (fld b 32 4 < fld b 28 4) else fld b 32 4 == 0) &&
  (decide (2 ≤ opt) || z b 36 4) && (opt == 3 || z b 40 12)

/-- The channel positions a TABLE_CREATE names: none when its bitmap breaks R361. -/
def Part.tableChannels (x : Part) (io : Io) (q : Req) : Option (List Nat) :=
  let n := x.life.chans.length
  if fld q.desc 52 8 = 0 then some (List.range n)
  else match ioRead io.reads 0 with
    | none => none
    | some m =>
      let v := fld m 0 40
      if m.length = 40 ∧ v ≠ 0 ∧ v < 2 ^ n then some ((List.range n).filter (bitAt v)) else none

/-- The table that a TABLE_CREATE asks for, with the MiB of DRAM it commits (R231, R362). -/
def Part.tableAsked (x : Part) (io : Io) (q : Req) : Table :=
  let t := mkTable q.desc ((x.tableChannels io q).getD [])
  { t with mib := ceilDiv t.bytes (2 ^ 20) }

/-- TABLE_CREATE (R229, R231, R361): a zeroed table in new windows. -/
def execTableCreate (r : ReqRef) (io : Io) (s : State) : Out :=
  s.onDev fun c d =>
    let p := r.rs.partNo
    let x := d.part p
    d.command c r 0x50 .done always
      (fun q => tableFields q.desc && (x.tableChannels io q).isSome && (x.table? (fld q.desc 24 1)).isNone)
      always
      (fun d q =>
        let t := x.tableAsked io q
        match d.dramRefusal p t.bytes with
        | some st => .refuse st
        | none => if ((d.part p).newObj .table t.bytes t.num).isNone then .refuse statusQUOTA else .go id)
      fun d q =>
        let t := x.tableAsked io q
        match (d.part p).newObj .table t.bytes t.num with
        | none => (d, some ⟨statusQUOTA, 0, 0, 0⟩)
        | some (y, w) =>
          (d.modPart p fun _ =>
            (({ y with tables := insertBy (·.num) { t with first := w } y.tables } : Part).takeLines 1 t.num (y.freeLine t.lines) t.lines).trimHot,
           some ⟨statusSUCCESS, 0, w, t.mib⟩)

/-- The batch a GATHER or SCATTER_UPDATE names, read whole (R361). -/
def batchOf (io : Io) (q : Req) : Option Bytes :=
  (ioRead io.reads 0).bind fun b => if b.length = fld q.desc 32 4 then some b else none

/-- GATHER (R233 to R237): the command groups that have begun on its table's channels end first (R215, R242). -/
def execGather (r : ReqRef) (io : Io) (s : State) : Out :=
  s.onDev fun c d =>
    let p := r.rs.partNo
    d.command c r 0x51 io.upto always
      (fun q => match batchOf io q with
        | some b => (GBatch.ofBytes b).ok b
        | none => false)
      (fun q => ((d.part p).table? (GBatch.ofBytes ((batchOf io q).getD [])).table).isSome)
      (fun _ _ => .go id)
      fun d q =>
        if io.upto = .halfway then (d, none) else
        let x := d.part p
        let g := GBatch.ofBytes ((batchOf io q).getD [])
        match x.table? g.table with
        | none => (d, some ⟨statusBADHANDLE, 0, 0, 0⟩)
        | some t0 =>
          let d := d.settleTable c (Dev.endServed c) p t0
          let x := d.part p
          let t := (x.table? g.table).getD t0
          let o := gatherAll t x.mem.dram x.mem.poison g
          let d := d.modPart p fun y => { y with tables := modIf (fun q => q.num == t.num) (fun q => { q with stats := o.stats }) y.tables }
          if o.poisoned then (d, some ⟨statusPOISON, 0, 0, 0⟩)
          else
            let d := d.hostOut c r (fld q.desc 40 8) (o.out.flatMap fun v => v.flatMap fun e => le 4 e.toNat)
            (d, some (if io.writesOk then ⟨statusSUCCESS, 0, g.bags, o.rowsRead⟩ else ⟨statusBADFIELD, 0, 0, 0⟩))

/-- The rules of R238 that need the table. -/
def Table.takes (t : Table) (b : Bytes) : Bool :=
  let u := UBatch.ofBytes b
  b.length == u.len t.dim && !(u.mode == 2 && t.opt == 0)

/-- Applies a checked batch to its table (R239 to R243): rows updated and positions dropped. The command groups that have begun on the
table's channels end first (R215, R242). -/
def Dev.applyBatch (d : Dev) (c : Clock) (p : Nat) (b : Bytes) : Dev × Ending :=
  let u := UBatch.ofBytes b
  match (d.part p).table? u.table with
  | none => (d, ⟨statusBADHANDLE, 0, 0, 0⟩)
  | some t0 =>
    let d := d.settleTable c (Dev.endServed c) p t0
    let x := d.part p
    let t := (x.table? u.table).getD t0
    let pos := (indexed u.indices).map fun e => (e.2, UBatch.value b u t.dim e.1)
    let rows := foldUpdates u.mode t.rows (pos.filter fun e => e.1 != padIndex)
    if 65536 < rows.length ∧ x.stagingFree < 4 * t.dim * rows.length then (d, ⟨statusQUOTA, 0, 0, 0⟩)
    else
      let w := d.foldRows c p t u.mode u.rate [] pos
      let o := w.2
      (w.1, ⟨if o.anyPoison then statusPOISON else statusSUCCESS, if 0 < o.sat then flagSAT else 0, o.updated, o.dropped⟩)

/-- SCATTER_UPDATE (R238 to R242): applied at once in a standard partition, held for its barrier epoch in a reproducible one
(R140). -/
def execScatterUpdate (r : ReqRef) (io : Io) (s : State) : Out :=
  s.onDev fun c d =>
    let p := r.rs.partNo
    let x := d.part p
    d.command c r 0x52 io.upto always
      (fun q => match batchOf io q with
        | some b => (UBatch.ofBytes b).ok b && (match x.table? (UBatch.ofBytes b).table with
            | some t => t.takes b
            | none => true)
        | none => false)
      (fun q => (x.table? (UBatch.ofBytes ((batchOf io q).getD [])).table).isSome)
      (fun _ q => .go fun y => { y with work := .held ((batchOf io q).getD []) })
      fun d q =>
        if io.upto = .halfway || x.cfg.repro then (d, none)
        else match q.work with
          | .held b =>
            let w := d.applyBatch c p b
            (w.1, some w.2)
          | _ => (d, none)

end Sys2Proof.Machine
end

