-- ==== Sys2Proof/Machine/Store.lean ====
section
/-! DEFINITION. Stored objects: PUT, GET, DISCARD, SECURE_DISCARD, FLUSH, and checkpoints
(R244 to R249, R286, R300 to R302, R346, R347, R356, R357). -/

namespace Sys2Proof.Machine

open Sys2Proof

def oWin (q : Req) : Nat := fld q.desc 24 4
def oOff (q : Req) : Nat := fld q.desc 32 8
def oLen (q : Req) : Nat := fld q.desc 40 4
def oCreate (q : Req) : Bool := fbits q.desc 28 0 0 == 1
def oKind (q : Req) : Nat := fbits q.desc 28 4 3

/-- The object is the package of a loaded model, or a running INDEX_BUILD reads it (R357). -/
def Part.objectBusy (x : Part) (w : Nat) : Bool :=
  x.models.any (fun (k : Model) => (k.cur.toList ++ (k.next.map fun n => n.2.1).toList ++ (k.olds.filter fun (o : OldVer) => !o.freed).map fun (o : OldVer) => o.pkg).any
    fun (g : Pkg) => g.object == w) ||
  x.ops.any fun o => (o.state == 1 || o.state == 2 || o.state == 4) && (match o.work with
    | .build _ _ obj items _ => obj == w && items != 0
    | _ => false)

/-- Drops the staged units of an object (R249). -/
def PartMem.unstage (m : PartMem) (o : Obj) : PartMem :=
  let lo := o.first * windowBytes / 16384
  let hi := (o.first + o.count) * windowBytes / 16384
  { m with staged := m.staged.filter fun u => decide (u < lo) || decide (hi ≤ u) }

/-- Writes whole logical pages of a stored object (R347). -/
def PartMem.writePages (m : PartMem) (base : Nat) (b : Bytes) : PartMem :=
  let n := ceilDiv b.length 16384
  let unit := base / 16384
  let mine := fun (u : Nat) => decide (unit ≤ u) && decide (u < unit + n)
  { m with flash := (m.flash.zero base (n * 16384)).writeN base b, discarded := m.discarded.filter fun u => !mine u }

/-- PUT (R245, R286, R287, R292, R347, R357). -/
def execPut (r : ReqRef) (io : Io) (s : State) : Out :=
  s.onDev fun c d =>
    let p := r.rs.partNo
    let x := d.part p
    let cap := fun (q : Req) => if oCreate q then some (fld q.desc 52 4 * 2 ^ 30) else (x.storedAt (oWin q)).map (·.capBytes)
    d.command c r 0x30 io.upto
      (fun q => q.admitted || oCreate q || !x.objectBusy (oWin q))
      (fun q => (match ioRead io.reads 0 with
          | some b => b.length == oLen q
          | none => false) && (match cap q with
          | some n => decide (oOff q + oLen q ≤ n)
          | none => true))
      (fun q => oCreate q || (x.storedAt (oWin q)).isSome)
      (fun d q =>
        let x := d.part p
        let n := ceilDiv (oLen q) 16384
        let target : Option (Nat × Bool) := if oCreate q then (x.freeWindows (ceilDiv (fld q.desc 52 4) 64)).map fun w => (w, fbits q.desc 28 1 1 == 1)
          else (x.storedAt (oWin q)).map fun o => (o.first, o.single)
        match target with
        | none => .refuse statusQUOTA
        | some (w, single) =>
          let side := singleSide w p
          let room := d.fits p (d.flash.unmapped p w (oOff q / 16384) n single side) (!single) side
          if !room then .refuse statusNOSPACE
          else if single && d.flash.lost side then .refuse statusMEDIA
          else if !d.mayWrite p (oLen q) c.time (!single) side then .wait id
          else .go id)
      fun d q =>
        if io.upto = .halfway then (d, none) else
        let x := d.part p
        let made : Option (Part × Obj) :=
          if oCreate q then
            (x.freeWindows (ceilDiv (fld q.desc 52 4) 64)).map fun w =>
              let o : Obj := ⟨w, ceilDiv (fld q.desc 52 4) 64, .stored, 0, fld q.desc 52 4, fbits q.desc 28 1 1 == 1, 0⟩
              ({ x with objs := x.objs ++ [o] }, o)
          else (x.storedAt (oWin q)).map fun o => (x, o)
        match made, ioRead io.reads 0 with
        | some (y, o), some b =>
          let size := max o.size (oOff q + oLen q)
          let n := ceilDiv (oLen q) 16384
          let y : Part := { y with objs := modIf (fun (k : Obj) => k.first == o.first) (fun k => { k with size := size }) y.objs,
                                   mem := (y.mem.writePages (o.first * windowBytes + oOff q) b).unstage o }
          let pages := (List.range n).map fun i =>
            (min 16384 (oLen q - 16384 * i), y.mem.flash.pageData (o.first * windowBytes + oOff q + 16384 * i) 16384)
          let d : Dev := { d.modPart p fun _ => y with
            flash := d.flash.acceptGroup c.time p x.keys.gen (!o.single) (singleSide o.first p) o.first (oOff q / 16384) pages }
          (d.settleBuffer p, some ⟨statusSUCCESS, 0, o.first, size⟩)
        | none, _ => (d, some ⟨statusQUOTA, 0, 0, 0⟩)
        | _, none => (d, some ⟨statusBADFIELD, 0, 0, 0⟩)

/-- The vector record that GET kind 2 returns (R276, R357). -/
def vectorBytes (n : Node) : Bytes :=
  let b := n.body ++ le 4 n.rn.toNat ++ le 2 n.scale.toNat
  fit (roundUp b.length 8) b

/-- The item GET kinds 1 and 2 return: the newest journaled version, unless it carries a tombstone mark, with its commit epoch (R357).
An item that is journaled and not yet placed is formed from its journal record. -/
def Part.item (x : Part) (index h : Nat) : Option (Node × Nat × Bool) :=
  match x.index? index with
  | none => none
  | some i =>
    match (x.journal.recs.filter fun j => !j.applied && (j.kind == 1 || j.kind == 2) && j.index == index && j.handle == h).getLast? with
    | some j =>
      (match j.upd.slot.bind i.graph.node? with
      | some n => if n.dead then none else some (n, 0, true)
      | none => some (j.upd.node i.params (j.upd.slot.getD 0) j.seq,
                   0, j.upd.haveVec))
    | none =>
      match i.graph.byHandle h with
      | none => none
      | some n => if n.dead then none else some (n, n.commit.getD 0, true)

/-- The flash read of an item: its document record, or its vector record (R269). -/
def Dev.readItem (d : Dev) (now : Nat) (i : Index) (p : Nat) (n : Node) (doc : Bool) : Dev :=
  if doc then d.readDocs now i p [n] else d.readVector now i p n.slot (b2n !(d.vecReadable i p n 0))

/-- GET (R256, R261, R357). -/
def execGet (r : ReqRef) (io : Io) (s : State) : Out :=
  s.onDev fun c d =>
    let p := r.rs.partNo
    let x := d.part p
    let idx := fun (q : Req) => fbits q.desc 29 3 0
    let handle := fun (q : Req) => fld q.desc 44 5
    d.command c r 0x31 io.upto always
      (fun q => oKind q != 0 || (match x.storedAt (oWin q) with
        | some o => decide (oOff q + oLen q ≤ o.capBytes)
        | none => true))
      (fun q => if oKind q = 0 then (x.storedAt (oWin q)).isSome else (x.item (idx q) (handle q)).isSome)
      (fun _ _ => .go id)
      fun d q =>
        if io.upto = .halfway then (d, none) else
        let x := d.part p
        let out := fun (d : Dev) (b : Bytes) (r0 r1 : Nat) =>
          (d.hostOut c r (fld q.desc 56 8) b, some (if io.writesOk then (⟨statusSUCCESS, 0, r0, r1⟩ : Ending) else ⟨statusBADFIELD, 0, 0, 0⟩))
        if oKind q = 0 then
          match x.storedAt (oWin q) with
          | none => (d, some ⟨statusBADHANDLE, 0, 0, 0⟩)
          | some o =>
            if d.objWaits p o (oOff q) (oLen q) then (d, none)
            else if !d.objReadable p o (oOff q) (oLen q) then (d, some ⟨statusMEDIA, 0, 0, 0⟩)
            else out (d.readObj c.time p o (oOff q) (oLen q)) (x.mem.flash.readN (o.first * windowBytes + oOff q) (oLen q)) (oLen q) 0
        else
          match x.item (idx q) (handle q), x.index? (idx q) with
          | some (n, e, known), some i =>
            let bad := if oKind q = 1 then !d.docReadable i p n
              else !(d.vecReadable i p n 0 || d.vecReadable i p n 1)
            let waits := if oKind q = 1 then d.docWaits i p n
              else d.flash.waits p (ownerVector i.num) (i.vecPage n.slot) (!i.params.single) (singleSide i.num p)
            if (oKind q = 2 ∧ !known) ∨ waits then (d, none)
            else if i.dirPoisoned (handle q) || (oKind q == 1 && d.docPoisoned i p n) then (d, some ⟨statusPOISON, 0, 0, 0⟩)
            else if bad then (d, some ⟨statusMEDIA, 0, 0, 0⟩)
            else
              let b := if oKind q = 1 then n.doc else vectorBytes n
              out (d.readItem c.time i p n (oKind q == 1)) ((b.drop (oOff q)).take (oLen q)) b.length e
          | _, _ => (d, some ⟨statusBADHANDLE, 0, 0, 0⟩)

/-- Unmaps a range of an object and, with FREE, the whole of it and its windows (R245, R300, R357). -/
def Dev.discard (d : Dev) (c : Clock) (p : Nat) (o : Obj) (off len : Nat) (free : Bool) : Dev :=
  let x := d.part p
  let first := if free then 0 else off / 16384
  let n := if free then o.size / 16384 + 1 else len / 16384
  let base := o.first * windowBytes + first * 16384
  let unit := base / 16384
  let units := (List.range n).map fun i => unit + i
  let t := d.flash.trim c.time p x.keys.gen o.first first n
  let mem : PartMem := ({ x.mem with flash := x.mem.flash.zero base (n * 16384),
                                     discarded := if free then x.mem.discarded.filter fun u => !(decide (unit ≤ u) && decide (u < unit + o.capBytes / 16384))
                                       else x.mem.discarded ++ units.filter fun u => !x.mem.discarded.contains u } : PartMem).unstage o
  let objs := if free then x.objs.filter fun k => k.first != o.first else x.objs
  ({ d.modPart p fun y => { y with mem := mem, objs := objs } with flash := t.1 } : Dev).settleBuffer p

/-- Erases every superblock that holds or held a version of some pages of a partition, and drops their old versions from the write buffer
(R302). A version accepted since is live, and moves. -/
def Flash.eraseOld (f : Flash) (now p : Nat) (lpns : List Nat) : Flash :=
  f.purge now (f.supersTesting lpns) fun g => g.part == p && !g.isModule && g.pack != .trim && lpns.contains (g.lpn % sideBit) && !f.named g

/-- DISCARD and SECURE_DISCARD (R300, R302, R343, R345, R357): the range is unmapped once, at the first run of the command; what is accepted
after that stands. -/
def Dev.discardCmd (d : Dev) (c : Clock) (r : ReqRef) (io : Io) (op : Nat) (secure : Bool) : Dev :=
  let p := r.rs.partNo
  let x := d.part p
  d.command c r op io.upto (fun q => q.admitted || !x.objectBusy (oWin q))
    (fun q => match x.storedAt (oWin q) with
      | some o => decide (oOff q + oLen q ≤ o.capBytes)
      | none => true)
    (fun q => q.ponr || (x.storedAt (oWin q)).isSome) (fun _ _ => .go id)
    fun d q =>
      match (d.part p).storedAt (oWin q) with
      | none => (d, some ⟨if q.ponr then statusSUCCESS else statusBADHANDLE, 0, if q.ponr then oLen q / 16384 else 0, 0⟩)
      | some o =>
        let lpns := (List.range (oLen q / 16384)).filterMap fun i => d.flash.lpn? p o.first (oOff q / 16384 + i)
        let free := fbits q.desc 28 2 2 == 1
        let d := if q.ponr then d else (d.discard c p o (oOff q) (oLen q) false).modReq r fun y => { y with ponr := true }
        if io.upto = .halfway then (d, none) else
        let d : Dev := if secure then { d with flash := d.flash.eraseOld c.time p lpns } else d
        let d := if free then d.discard c p o 0 0 true else d
        (d, some ⟨statusSUCCESS, 0, oLen q / 16384, 0⟩)

/-- DISCARD (R300). -/
def execDiscard (r : ReqRef) (io : Io) (s : State) : Out := s.onDev fun c d => d.discardCmd c r io 0x32 false

/-- SECURE_DISCARD (R302). -/
def execSecureDiscard (r : ReqRef) (io : Io) (s : State) : Out := s.onDev fun c d => d.discardCmd c r io 0x33 true

/-! ### Checkpoints and FLUSH (R255, R260, R346) -/

/-- Objects that checkpoints cover (R247). -/
def ckptKind (k : ObjKind) : Bool := k == .table || k == .state || k == .tensor || k == .resident

/-- A checkpoint page is accepted; earlier ones become durable first where the write buffer has no room for it (R292). -/
def Dev.checkpointPage (d : Dev) (c : Clock) (p : Nat) (o : Obj) (i : Nat) : Dev :=
  let x := d.part p
  let d : Dev := if d.bufferRoom p 16384 then d else { d with flash := (d.flash.flushPart p).1 }
  { d with flash := d.flash.acceptPages c.time p x.keys.gen .object true 0 o.first [(i, min 16384 (o.size - 16384 * i),
      (⟨x.mem.dram.pageData (o.first * windowBytes + 16384 * i) 16384, [], 0, 0⟩ : PageBody))] }

/-- Logical pages of a checkpoint that no map entry names yet (R287). -/
def Dev.checkpointNew (d : Dev) (p : Nat) : Nat :=
  sumNat (fun (o : Obj) => d.flash.unmapped p o.first 0 (ceilDiv o.size 16384) false 0)
    ((d.part p).objs.filter fun o => o.kind == .table || o.kind == .state)

/-- Writes a checkpoint of every embedding table and trainable tensor of a partition (R255, R346). -/
def Dev.checkpoint (d : Dev) (c : Clock) (p : Nat) : Dev :=
  let x := d.part p
  let objs := x.objs.filter fun o => o.kind == .table || o.kind == .state
  let inside := fun (a : Nat) => x.objs.any fun o => ckptKind o.kind && decide (o.first * windowBytes ≤ a) &&
    decide (a < o.first * windowBytes + o.size)
  let d := objs.foldl (fun (d : Dev) (o : Obj) => (List.range (ceilDiv o.size 16384)).foldl (fun (d : Dev) i => d.checkpointPage c p o i) d) d
  d.modPart p fun y => { y with mem := { y.mem with ckpt := y.mem.dram.filter fun e => inside e.1, ckptTime := c.time, ckptFrom := c.time, ckptLost := c.timeLost,
                                                    ckptCopies := y.models.map fun k => (k.id, k.copy) },
                                journal := { y.journal with structs := y.journal.structs.filter fun t => t.1 != 16 } }

/-- What a FLUSH sets going, and what goes on when it is aborted: its checkpoint, and the close of every open stripe (R346). -/
def Dev.flushStart (d : Dev) (c : Clock) (p : Nat) (q : Req) : Dev :=
  let d := if fbits q.desc 28 5 5 = 1 then d.checkpoint c p else d
  { d with flash := ((d.flash.stripes.filter fun k => k.part == p && k.isOpen).map (·.id)).foldl Flash.closeStripe d.flash }

/-- FLUSH (R287, R292, R346). -/
def execFlush (r : ReqRef) (io : Io) (s : State) : Out :=
  s.onDev fun c d =>
    let p := r.rs.partNo
    d.command c r 0x34 io.upto always always always
      (fun d q =>
        if fbits q.desc 28 5 5 = 0 then .go id
        else if !d.fits p (d.checkpointNew p) true 0 then .refuse statusNOSPACE
        else if !d.mayWrite p 16384 c.time true 0 then .wait id
        else .go id)
      fun d q =>
        if io.upto = .halfway then (d.flushStart c p q, none) else
        let d := if fbits q.desc 28 5 5 = 1 then d.checkpoint c p else d
        let f := d.flash.flushPart p
        ({ d with flash := f.1 }, some ⟨statusSUCCESS, 0, f.2, 0⟩)

/-- CHECKPOINT_TIMER: every CHECKPOINT_S seconds (R255); never while the interval is 0 or the partition is not open. -/
def execCheckpointTimer (p : Nat) (s : State) : Out :=
  let x := s.dev.part p
  let n := x.feat.place.checkpointS
  if n = 0 ∨ !(x.life.st == .started || x.life.st == .opened) then s.onDev fun _ d => d
  else s.atTime (x.mem.ckptFrom + n * 1000000000) fun c d => d.checkpoint c p

end Sys2Proof.Machine
end

