-- ==== Sys2Proof/Machine/LongCore.lean ====
section
/-! DEFINITION. Long operations: their names, carriers, progress, suspension and cancellation, and what a command that ends
early leaves behind (R363 to R369). -/

namespace Sys2Proof.Machine

open Sys2Proof

/-- Running, suspended or cancelling (R368). -/
def LongOp.active (o : LongOp) : Bool := o.state == 1 || o.state == 2 || o.state == 4

/-- RESULT0 of R368. -/
def LongOp.word0 (o : LongOp) : Nat :=
  o.state + 2 ^ 8 * o.opcode + 2 ^ 16 * (if o.state = 3 then o.endStatus else 0) + 2 ^ 24 * b2n (o.cancellable && o.state != 3)

/-- RESULT1 of R368. -/
def LongOp.word1 (o : LongOp) : Nat := o.total % 2 ^ 32 + 2 ^ 32 * (o.done % 2 ^ 32)

def opRemat : Nat := 0xFF

/-- A FORMAT or SANITISE. -/
def LongOp.isFormat (o : LongOp) : Bool := o.opcode == 0x88 || o.opcode == 0x89

/-- The operation under a name: an active one, or the newest that has ended (R366, R368). -/
def Part.op? (x : Part) (rs : RsId) (seq : Nat) : Option LongOp :=
  let mine := x.ops.filter fun o => o.rs == rs && o.seq == seq && o.opcode != opRemat
  match mine.find? (·.active) with
  | some o => some o
  | none => mine.getLast?

def sameOp (a b : LongOp) : Bool := a.rs == b.rs && a.seq == b.seq && a.opcode == b.opcode && b.active

/-- Changes an active operation. -/
def Part.modOp (x : Part) (o : LongOp) (f : LongOp → LongOp) : Part := { x with ops := modIf (sameOp o) f x.ops }

/-- An operation ends: it joins the 16 that ended most recently (R368). -/
def Part.endOp (x : Part) (now : Nat) (o : LongOp) (status : Nat) : Part :=
  let e : LongOp := { o with state := 3, endStatus := status, cancellable := false, ended := now, carrier := none }
  let rest := x.ops.filter fun k => !(sameOp o k)
  let done := rest.filter (fun k => !k.active) ++ [e]
  { x with ops := rest.filter (·.active) ++ done.drop (done.length - 16),
           lastFormat := if e.isFormat then some e else x.lastFormat }

/-- The partition and the operation that a ring set's SEQUENCE names. -/
def Dev.opOf (d : Dev) (rs : RsId) (seq : Nat) : Option (Nat × LongOp) :=
  match rs with
  | .part p _ => ((d.part p).op? rs seq).map fun o => (p, o)
  | .mgmt _ => (List.range 64).findSome? fun p => ((d.part p).op? rs seq).map fun o => (p, o)

/-- The operation a carrier works for. -/
def Dev.carried (d : Dev) (q : Req) : Option (Nat × LongOp) :=
  match q.work with
  | .carrier rs seq => (d.opOf rs seq).bind fun e => if e.2.active then some e else none
  | _ => none

/-- An operation ends with its carrier's completion, if it has one (R366); a probe's read epoch is then no longer in use (R127). -/
def Dev.opEnd (d : Dev) (c : Clock) (p : Nat) (o : LongOp) (e : Ending) : Dev :=
  let d := match o.carrier with
    | some r => d.finish c r e
    | none => d
  d.modPart p fun x =>
    let y := x.endOp c.time o e.status
    if x.horizon < y.horizon then y.passHorizon else y

/-- What an operation leaves when it is cancelled: a build's graph and DRAM go (R131), a probe's read epoch is released
(R378). -/
def Part.dropWork (x : Part) (o : LongOp) : Part :=
  match o.work with
  | .build i _ _ _ _ => x.modIndex i fun i => { i with building := false, recorded := [], buildMib := 0 }
  | _ => x

/-- Operations that a test selects are gone with what they had begun: nothing reports them (R369, R400). -/
def Part.forgetOps (x : Part) (f : LongOp → Bool) : Part :=
  let gone := x.ops.filter f
  gone.foldl Part.dropWork { x with ops := x.ops.filter fun o => !f o }

/-- A FORMAT or SANITISE past its point of no return: it outlasts a disable, a release and a loss of power (R369, R379). -/
def LongOp.outlasts (o : LongOp) : Bool := o.active && o.isFormat && !o.cancellable

/-- Cancels an operation that has not passed its point of no return (R366, R367). -/
def Dev.opCancel (d : Dev) (c : Clock) (p : Nat) (o : LongOp) : Dev :=
  (d.opEnd c p o ⟨statusABORTED, 0, 0, 0⟩).modPart p fun x => x.dropWork o

/-- Suspends a running operation: its carrier completes with its progress (R366). -/
def Dev.opSuspend (d : Dev) (c : Clock) (p : Nat) (o : LongOp) : Dev :=
  let s : LongOp := { o with state := 2, carrier := none }
  let d := match o.carrier with
    | some r => d.finish c r ⟨statusSUSPENDED, 0, s.word0, s.word1⟩
    | none => d
  d.modPart p fun x => x.modOp o fun _ => s

/-- Cancels every active operation of a partition that a test selects and that may still be cancelled (R369, R378). -/
def Dev.cancelOps (d : Dev) (c : Clock) (p : Nat) (f : LongOp → Bool) : Dev :=
  ((d.part p).ops.filter fun o => o.active && o.cancellable && f o).foldl (fun d o => d.opCancel c p o) d

/-- Updates a device's copy of an operation. -/
def Dev.setOp (d : Dev) (p : Nat) (o : LongOp) (f : LongOp → LongOp) : Dev := d.modPart p fun x => x.modOp o f

/-! ### Commands that end before their point of no return -/

/-- A command ends early with an entry; what it had changed goes with it (R178, R186, R339, R364). What a FLUSH has set going goes on
(R346). -/
def Dev.cutShort (d : Dev) (c : Clock) (r : ReqRef) (status : Nat) : Dev :=
  (match d.req? r with
  | some q => if q.opcode = 0x34 && q.admitted then d.flushStart c r.rs.partNo q else d
  | none => d).finish c r ⟨status, 0, 0, 0⟩

/-- A command ends early without an entry; an admitted journaled update stays in the journal (R333, R400). -/
def Dev.cutSilent (d : Dev) (r : ReqRef) : Dev := d.silence r

/-- The deadline of a command that may still end of it: before its point of no return, or of a journaled update that has been replayed.
A barrier update's deadline is an epoch, which BARRIER_EPOCH_APPLY serves (R135, R140, R341). -/
def Dev.deadlineOf (d : Dev) (r : ReqRef) (q : Req) : Option Nat :=
  if q.deadline = 0 ∨ (q.ponr ∧ !(q.journaled && decide (0 < q.replays))) ∨ d.barrierOp r q.opcode then none else some q.deadline

/-- A command ends of its deadline (R341, R342); a journaled update that has been replayed with a cancel record (R135, R136). -/
def Dev.expire (d : Dev) (c : Clock) (r : ReqRef) : Dev :=
  match d.lateUpd c r with
  | some e => e
  | none => d.cutShort c r (if 0 < ((d.req? r).map (·.replays)).getD 0 then statusEXHAUSTED else statusDEADLINE)

/-- DEADLINE_EXPIRY (R341, R342). -/
def execDeadlineExpiry (r : ReqRef) (s : State) : Out :=
  match (s.dev.req? r).bind fun q => s.dev.deadlineOf r q with
  | none => s.onDev fun _ d => d
  | some t => s.atTime t fun c d => d.expire c r

end Sys2Proof.Machine
end

