-- ==== Sys2Proof/Machine/IndexOps.lean ====
section
/-! DEFINITION. INDEX_CREATE, and the units of RECALL_PROBE, INDEX_BUILD and INDEX_COMPACT
(R78, R108 to R110, R129 to R131, R350, R352 to R355). -/

namespace Sys2Proof.Machine

open Sys2Proof

/-! ### INDEX_CREATE (R78, R352, R353) -/

/-- The parameters a block gives, with its projection. -/
def mkParams (b proj : Bytes) : IndexParams :=
  let bits := 128 * fbits b 3 3 0
  { dim := fld b 0 2, fmt := fbits b 2 2 0, sketchBits := bits, degree := if fld b 4 1 = 0 then 32 else fld b 4 1,
    attrBytes := fld b 5 1, single := fbits b 6 0 0 == 1, projGiven := fbits b 6 1 1 == 1, seed := fld b 8 8,
    proj := (List.range (fld b 0 2 * bits)).map fun i => BitVec.ofNat 16 (fld proj (2 * i) 2), capacity := fld b 24 8 }

/-- The ranges of R78 and the reserved fields of R352. -/
def paramsOk (b : Bytes) : Bool :=
  b.length == 64 && decide (64 ≤ fld b 0 2) && decide (fld b 0 2 ≤ 4096) && fld b 0 2 % 8 == 0 &&
  decide (fbits b 2 2 0 ≤ 4) && fbits b 2 7 3 == 0 && decide (1 ≤ fbits b 3 3 0) && decide (fbits b 3 3 0 ≤ 8) &&
  fbits b 3 7 4 == 0 && fld b 4 1 % 8 == 0 && decide (fld b 4 1 ≤ 64) &&
  (fld b 5 1 == 0 || fld b 5 1 == 4 || fld b 5 1 == 8 || fld b 5 1 == 16) && fbits b 6 7 2 == 0 && zeroAt b 7 1 &&
  decide (1 ≤ fld b 24 8) && decide (fld b 24 8 ≤ 16000000000) && zeroAt b 32 32

/-- Bytes per node slot (R352). -/
def IndexParams.perSlot (p : IndexParams) : Nat := p.sketchBits / 8 + p.attrBytes + 2 * p.degree + 10

/-- MiB that a number of slots commits (R352). -/
def IndexParams.slotsMib (p : IndexParams) (n : Nat) : Nat := ceilDiv (n * p.perSlot) (2 ^ 20)

/-- INDEX_CREATE (R78, R352). -/
def execIndexCreate (r : ReqRef) (io : Io) (s : State) : Out :=
  s.onDev fun c d =>
    let p := r.rs.partNo
    let x := d.part p
    let blk := (ioRead io.reads 0).getD []
    let prm := mkParams blk ((ioRead io.reads 1).getD [])
    let given := fbits blk 6 1 1 == 1
    d.command c r 0x28 .done always
      (fun q => (ioRead io.reads 0).isSome && paramsOk blk && (x.index? (uIndex q)).isNone &&
        (!given || (match ioRead io.reads 1 with
          | some b => b.length == 2 * prm.dim * prm.sketchBits
          | none => false)))
      always
      (fun d _ => match d.mibRefusal p (prm.slotsMib prm.capacity) with
        | some st => .refuse st
        | none => .go id)
      fun d q =>
        let mib := prm.slotsMib prm.capacity
        let prm := if prm.projGiven then prm else { prm with proj := [] }
        let i : Index := { num := uIndex q, params := prm, graphs := [Graph.empty], reserved := 0, mib := mib }
        let n := prm.lines x.engineCount
        ((if given then d.askHost c r (fld blk 16 8) (2 * prm.dim * prm.sketchBits) else d).modPart p fun y => (({ y with idx := insertBy (·.num) i y.idx } : Part).takeLines 2 i.num (y.freeLine n) n).trimHot,
         some ⟨statusSUCCESS, 0, mib, 0⟩)

/-! ### RECALL_PROBE (R108 to R110, R350) -/

/-- Fields of the probe block (R350). -/
def probeOk (b : Bytes) : Bool :=
  b.length == 32 && decide (1 ≤ fld b 0 2) && decide (fld b 0 2 ≤ 1024) && fbits b 2 7 5 == 0 && decide (fbits b 2 4 0 ≤ 16) &&
  zeroAt b 3 5 && decide (32 + 16 * fld b 0 2 ≤ fld b 24 4) && zeroAt b 28 4

/-- The parameter block as the probe's searches carry it: CE and QUERY_TOKENS cleared (R108, R348). -/
def probeBlock (b : Bytes) : Bytes :=
  let c := fld b 1 1
  patch (patch (b.take 128) 1 (le 1 (setBits c 5 5 0))) 24 (zeros 2)

/-- A handle in the sample (R108 step 2). -/
def inSample (shift h : Nat) : Bool := h * 0x2F6BD41A93C50E77 % 2 ^ 64 / 2 ^ (64 - shift) == 0

/-- The exact top-`k` of any number of entries, with the flags of its operations (R58, R75): one SELECT with d = 64 over each 2²⁰ of them in
turn, each result merged into the one before (DESIGN CHOICE, log 113). -/
def selectMany (maxMode : Bool) (k : Nat) (l : List Entry) : List Entry × Nat :=
  let one := fun (b : List Entry) => (selectOp maxMode k 64 b, decide (k < b.length))
  match (chunks (2 ^ 20) l).map one with
  | [] => ([], 0)
  | w :: rest =>
    let r := rest.foldl (fun (acc : List Entry × Nat × Bool) (s : (List Entry × Summary) × Bool) =>
      let m := mergeOp maxMode k [⟨acc.1.filter (·.valid), acc.2.2⟩, ⟨s.1.1.filter (·.valid), s.2⟩]
      (m.1, acc.2.1 ||| s.1.2.flags ||| m.2.flags, true)) (w.1.1, w.1.2.flags, w.2)
    (r.1, r.2.1)

/-- The exact selection of the sample: its top-g and the flags of its SELECTs, and how many nodes were scored (R75, R108 step 3; a sample
of more than 2²⁰ nodes is divided as `selectMany` says, DESIGN CHOICE, log 113). -/
def Dev.sampleTop (d : Dev) (p : Nat) (i : Index) (block : Bytes) (shift epoch : Nat) : List Nat × Nat × Nat :=
  let b := SBlock.ofBytes block
  let cs := b.clauses block
  let can := fun (n : Node) => d.vecReadable (i.seen epoch) p n 0 || d.vecReadable (i.seen epoch) p n 1
  let nodes := (i.graphAt epoch).nodes.filter fun n => n.eligible epoch cs && inSample shift n.handle && can n
  let w := selectMany (b.metric != 1) (ceilDiv b.k (2 ^ shift)) (nodes.map fun n => ⟨n.handle, 0, 0, nodeScore i b block n, 0⟩)
  ((w.1.filter (·.valid)).map (·.handle), w.2 &&& (flagINEXACT + flagNAN + flagDUP), nodes.length)

/-- The context-pool entry and place that a probe's query needs (R85). AUTO goes by the search policy in force when the query runs
(R108; DESIGN CHOICE, log 113). -/
def Dev.probeSeat (d : Dev) (p : Nat) (i : Index) (block : Bytes) (epoch : Nat) : Option Seat :=
  let x := d.part p
  let b := SBlock.ofBytes block
  d.seat? p (x.blockCtx block) (pathWalks (choosePath b (b.clauses block) x.feat.search i.params (i.graphAt epoch) epoch))

/-- The search of a probe's query (R108 step 1): as it ends, the handles of its results, and the elements its sketch saturated. -/
def Dev.probeSearch (d : Dev) (c : Clock) (p : Nat) (i : Index) (block : Bytes) (epoch : Nat) : Dev × SearchRun × List Nat × Nat :=
  let x := d.part p
  let b := SBlock.ofBytes block
  let k := x.sketchRun { block := block, epoch := epoch, timeLost := c.timeLost, sketch := 0, flags := 0,
                         path := choosePath b (b.clauses block) x.feat.search i.params (i.graphAt epoch) epoch }
  let w := d.scoreRun c.time p (d.candsRun p (x.benchRun (x.walkRun k.1)))
  if w.2.status.isSome then (w.1, w.2, [], k.2)
  else
    let f := w.2.final false none
    (w.1, w.2.done f, f.slots.map (·.handle), k.2)

/-- What a query of a probe comes to: its record, its hits and G, and the flags that it adds to the probe's (R75, R109). -/
structure ProbeOut where
  record : Bytes
  hits : Nat
  g : Nat
  flags : Nat
  sat : Nat
  deriving Repr

/-- One query of a probe (R108). The flags of every operation made for it count for the probe, those of a query whose own search ends in an
error too; its record has none then (R14, R75, R109). A query whose MODE is AUTO takes the search policy in force when the query runs (DESIGN CHOICE, log
113). -/
def Dev.probeQuery (d : Dev) (c : Clock) (p : Nat) (i : Index) (block : Bytes) (shift epoch n : Nat) : Dev × ProbeOut :=
  let w := d.probeSearch c p i block epoch
  let s := w.2.1
  let top := d.sampleTop p i block shift epoch
  let hits := (top.1.filter w.2.2.1.contains).length
  (w.1, ⟨le 4 n ++ le 2 top.1.length ++ le 2 hits ++ le 2 (if okStatus (s.status.getD 0) then s.flags else 0) ++ le 1 (s.status.getD 0) ++ zeros 1 ++ le 4 top.2.2,
         hits, top.1.length, s.flags ||| top.2.1, w.2.2.2⟩)

/-- The header of a probe report (R109). -/
def probeHeader (done totalG totalHits shift epoch : Nat) : Bytes :=
  le 4 done ++ le 4 totalG ++ le 4 totalHits ++ le 1 shift ++ zeros 3 ++ le 8 epoch ++ zeros 8

/-- One unit of a RECALL_PROBE: the next query, its record, and the header again (R109). It waits for a context entry and a place as a
search does (R85), and while a map scan runs (R261). The completion carries the flags of its queries and of the selections over its samples; TIE_AT_K among them is
that of its queries' final lists, for the probe has none of its own (R75; DESIGN CHOICE, log 113). -/
def Dev.probeUnit (d : Dev) (c : Clock) (p : Nat) (o : LongOp) (query : Option Bytes) (writesOk : Bool) : Dev :=
  match o.work, o.carrier with
  | .probe idx block prb epoch tg th fl, some r =>
    match (d.part p).index? idx, query with
    | some i, some qb =>
      let b := SBlock.ofBytes block
      if qb.length ≠ b.dim * (if b.qf16 then 2 else 4) then d.opEnd c p o ⟨statusBADFIELD, 0, 0, 0⟩
      else if !d.flash.entriesLost.isEmpty || (d.probeSeat p i (probeBlock block ++ qb) epoch).isNone then d
      else
        let shift := fbits prb 2 4 0
        let d := d.askHost c r (fld prb 8 8 + o.done * qb.length) qb.length
        let w := d.probeQuery c p i (probeBlock block ++ qb) shift epoch o.done
        let addr := fld prb 16 8
        let tg := tg + w.2.g
        let th := th + w.2.hits
        let fl := fl ||| w.2.flags
        let o' : LongOp := { o with done := o.done + 1, work := .probe idx block prb epoch tg th fl }
        let d := (w.1.hostOut c r (addr + 32 + 16 * o.done) w.2.record).hostOut c r addr (probeHeader (o.done + 1) tg th shift epoch)
        let d := (d.setOp p o fun _ => o').saturate c p 14 w.2.sat (d.tileSource p)
        if !writesOk then d.opEnd c p o' ⟨statusBADFIELD, 0, 0, 0⟩
        else if o'.total ≤ o'.done then d.opEnd c p o' ⟨statusSUCCESS, fl, th + 2 ^ 32 * tg, epoch⟩
        else d
    | _, _ => d.opEnd c p o ⟨statusBADFIELD, 0, 0, 0⟩
  | _, _ => d

/-! ### INDEX_BUILD (R131, R354, R355) -/

/-- An item of a build. -/
structure Item where
  handle : Nat
  attrs : Nat
  vec : List F32
  doc : Bytes
  tokens : Nat
  deriving DecidableEq, Repr

/-- The item records from a byte of the object on, or none when one breaks R355 or passes the object's bytes. -/
def parseItems (x : Part) (o : Obj) (p : IndexParams) (half : Bool) : Nat → Nat → Option (List Item)
  | 0, _ => some []
  | n + 1, a =>
    let h := x.pkgBytes o a 16
    let v := p.dim * (if half then 2 else 4)
    let rec_ := fld h 8 4
    let len := roundUp (16 + p.attrBytes + v + rec_) 16
    if fld h 0 5 = noHandle ∨ !zeroAt h 5 1 ∨ !zeroAt h 12 4 ∨ 2 ^ 20 < rec_ ∨ 8192 < fld h 6 2 ∨ rec_ < 4 * fld h 6 2 ∨ o.size < a + len then none
    else
      let b := x.pkgBytes o (a + 16) (p.attrBytes + v + rec_)
      (parseItems x o p half n (a + len)).map fun l =>
        ⟨fld h 0 5, fld b 0 p.attrBytes, queryElems half p.dim ((b.drop p.attrBytes).take v), b.drop (p.attrBytes + v), fld h 6 2⟩ :: l

/-- The items kept: a repeated handle's later item replaces the earlier one (R354). -/
def keepItems : List Item → List Item
  | [] => []
  | i :: l => if l.any fun k => k.handle == i.handle then keepItems l else i :: keepItems l

/-- Nodes live in the graph (R131, R354). -/
def Graph.live (g : Graph) : List Node := g.nodes.filter fun n => n.commit.isSome && !n.dead && !n.freed

/-- A free neighbour list of the built graph: distinct other slots below `n`, at most `deg` (log 23). -/
def freeLinks (ctr deg n slot : Nat) : List Nat :=
  (dedupNat ((Config.buildLinks ctr slot).filter fun s => decide (s < n) && s != slot)).take deg

/-- Entry points of the built graph: every node, or 64 of a free choice (R527; log 23). -/
def freeEps (ctr n : Nat) : List Nat :=
  if n ≤ 64 then List.range n
  else (dedupNat ((Config.buildEps ctr).filter (fun s => decide (s < n)) ++ List.range n)).take 64

/-- The nodes of a build in slot order: the kept items, then the old live nodes no item replaces (R79, R354; log 23). Their lists are
written before the switch epoch `s`, so a walk at that epoch reads them (R89, R137). -/
def buildNodes (p : IndexParams) (items : List Item) (old : List Node) (s ctr : Nat) : List Node × Nat :=
  let kept := old.filter fun n => !(items.any fun i => i.handle == n.handle)
  let n := items.length + kept.length
  let fresh := (indexed items).map fun e => mkNode p e.1 e.2.handle e.2.attrs e.2.vec e.2.doc e.2.tokens 0
  let all := fresh.map (·.1) ++ (indexed kept).map fun e => { e.2 with slot := items.length + e.1, exclRange := false, exclBlock := false, sketchPoison := false, listPoison := false }
  (all.map fun m => { m with commit := some s, settled := true, versions := [(s - 1, freeLinks ctr p.degree n m.slot)] },
   sumNat (·.2) fresh)

/-- A recorded update applied to the new graph (R131), in an epoch before the switch epoch `s`. It is linked with the insert policy and
the admission epoch in force at the switch (DESIGN CHOICE, log 23). -/
def applyRecorded (p : IndexParams) (pol : InsertPolicy) (repro : Bool) (old : Graph) (s adm : Nat) (g : Graph) (u : BuildUpdate) : Graph :=
  let bury := fun (g : Graph) => { g with nodes := g.nodes.map fun n =>
    if n.handle == u.handle && !n.dead && !n.freed then n.bury (some u.epoch) else n }
  if u.delete then bury g
  else match old.node? u.slot with
    | none => g
    | some n =>
      let m : Node := { n with slot := g.nextSlot, commit := some (max s u.epoch), versions := [], settled := false, marked := false, tomb := none }
      linkNode p pol repro (s - 1) adm m.slot (placeNode repro (s - 1) m (bury g))

/-- Updates of an index that are admitted and not complete. -/
def Part.updatesOn (x : Part) (p idx : Nat) : Bool :=
  (x.admittedReqs p).any fun e => match e.2.work with
    | .upd u => u.index == idx
    | _ => false

/-- Where the documents of a build's items stand in the record packs (R277). -/
def docStarts (pos : Nat) : List Item → List Nat
  | [] => []
  | e :: es =>
    let n := if e.doc.isEmpty then 0 else runLen e.doc.length
    runAt pos n :: docStarts (runAt pos n + n) es

/-- Journaled updates of an index whose request has gone and that are still to be applied: the build records them too (R131). -/
def Part.unappliedOn (x : Part) (idx : Nat) : Bool := x.unapplied.any fun j => j.index == idx

/-- Structure records of the new graph's ranges (R258). -/
def Dev.graphRecords (d : Dev) (c : Clock) (p idx : Nat) : Dev :=
  match (d.part p).index? idx with
  | none => d
  | some i => (List.range i.graph.rangeCount).foldl (fun (d : Dev) r => d.structRun c p idx (i.rangeImage ((d.part p).vis.cur + 1) r)) d

/-- The whole build once every unit is done: the new graph with every recorded update applied, and its switch (R131). It waits
while an update of the index that it has to record is unfinished, and in a reproducible partition for staging room (R137). Its vector
packs are its own, so that the old graph's stay (R275). -/
def Dev.buildSwitch (d : Dev) (c : Clock) (p : Nat) (o : LongOp) (idx : Nat) (items : List Item) (live : List Nat) : Dev :=
  let x := d.part p
  match x.index? idx with
  | none => d
  | some i =>
    if x.updatesOn p idx || x.unappliedOn idx then d else
    let a := x.vis.assign
    let old := i.graph
    let w := buildNodes i.params items (old.nodes.filter fun n => live.contains n.slot) a.2 d.free
    let starts := docStarts i.docPos items
    let nodes := w.1.map fun (n : Node) => if n.slot < items.length then { n with docAt := starts.getD n.slot 0 } else n
    let g0 : Graph := { vecBase := i.freeVecBase, since := a.2, nodes := nodes, eps := freeEps d.free w.1.length, nextSlot := w.1.length,
                        dir := Directory.ofList (Directory.sizeFor w.1.length) (nodes.map fun n => (n.handle, n.slot)) }
    let ups := sortBy (fun (u : BuildUpdate) => (u.order.1 * 32 + u.order.2.1) * 2 ^ 32 + u.order.2.2) i.recorded
    let g := ups.foldl (applyRecorded i.params x.feat.insert x.cfg.repro old a.2 x.vis.cur) g0
    let room := 2 * i.params.degree * sumNat (fun n => n.versions.length - 1) g.nodes
    if x.cfg.repro && decide (x.stagingFree < room) then d else
    let i' : Index := ({ i with graphs := g :: i.graphs, building := false, recorded := [], buildMib := 0, lostRanges := [], dirBad := [] } : Index).fitDir
    let d := d.dropStale p
    let d := (d.modPart p fun y => ({ y with vis := a.1 } : Part).dropHot fun e => e.index == idx).modIndex p idx fun _ => i'.touch c.time
    let d := (indexed items).foldl (fun (d : Dev) e => match (d.part p).index? idx with
      | some k => d.acceptDoc c p k e.1 e.2.doc
      | none => d) d
    let v := (packGeom i.params.bodyLen).1
    let flash := (List.range (ceilDiv g.nextSlot v)).foldl (fun (f : Flash) k =>
      f.acceptVectors c p x.keys.gen i' (g.nodes.filter fun n => n.slot / v == k)) d.flash
    let d := ({ d with flash := flash } : Dev).graphRecords c p idx
    ((d.settleBuffer p).saturate c p 14 w.2 (d.tileSource p)).fresh.opEnd c p o ⟨statusSUCCESS, 0, a.2, g.nodes.length⟩

/-- Flash pages a build writes: vector packs, documents, and the structure records of its ranges (R258, R275, R277, R287). -/
def Dev.buildFits (d : Dev) (p : Nat) (i : Index) (items : List Item) (slots : Nat) : Bool :=
  let x := d.part p
  let side := singleSide i.num p
  let v := (packGeom i.params.bodyLen).1
  let dual := !i.params.single
  let recs := newPages x.journal.pos (ceilDiv slots 512 * runLen (512 * i.params.imageSlot + 2 * i.params.summBytes))
  let n := d.flash.unmapped p (ownerVector i.num) i.freeVecBase (ceilDiv slots v) i.params.single side +
    newPages i.docPos (sumNat (fun e => if e.doc.isEmpty then 0 else runLen e.doc.length) items)
  d.fits p (n + if dual then recs else 0) dual side && d.fits p recs true 0

/-- `units` units of an INDEX_BUILD: 4,096 items or rebuilt nodes each (R367). -/
def Dev.buildUnits (d : Dev) (c : Clock) (p : Nat) (o : LongOp) (units : Nat) : Dev :=
  match o.work with
  | .build idx fmt object n live =>
    match (d.part p).index? idx, (d.part p).storedAt object with
    | some i, obj =>
      let x := d.part p
      let done := min o.total (o.done + units)
      let o' : LongOp := { o with done := done }
      let d := d.setOp p o fun _ => o'
      let fail := fun (st : Nat) => (d.opEnd c p o' ⟨st, 0, 0, 0⟩).modPart p fun y => y.dropWork o'
      let parsed : Option (List Item) := match obj with
        | some b => parseItems x b i.params (fmt == 1) (min n (4096 * done)) 0
        | none => if n = 0 then some [] else none
      let readable := match obj with
        | some b => n == 0 || d.objReadable p b 0 b.size
        | none => true
      if obj.any fun b => n != 0 && d.objWaits p b 0 b.size then d.setOp p o' fun _ => o
      else if !readable then fail statusMEDIA
      else match parsed with
        | none => fail statusBADFIELD
        | some items =>
          let kept := keepItems items
          let old := i.graph.nodes.filter fun m => live.contains m.slot
          let add := (i.recorded.filter fun u => !u.delete).length
          let size := kept.length + (old.filter fun m => !(kept.any fun k => k.handle == m.handle)).length + add
          if i.params.capacity < size || !d.buildFits p i kept size then fail statusNOSPACE
          else if done < o.total then d
          else (match obj with
            | some b => d.readObj c.time p b 0 b.size
            | none => d).buildSwitch c p o' idx kept live
    | none, _ => d.opEnd c p o ⟨statusBADHANDLE, 0, 0, 0⟩
  | _ => d

/-! ### INDEX_COMPACT (R129, R130) -/

/-- The targets of a compaction (R129). -/
def Graph.targets (g : Graph) (h0 : Nat) : List Nat :=
  (g.nodes.filter fun n => !n.freed && (n.state == 3 || (match n.tomb with
    | some t => decide (t ≤ h0)
    | none => false))).map (·.slot)

/-- A target's linkable neighbours (R121, R129). -/
def Graph.bridge (g : Graph) (targets : List Nat) (self adm t : Nat) : List Nat :=
  match g.node? t with
  | none => []
  | some n => n.list.filter fun s => !targets.contains s && (match g.node? s with
      | some m => m.linkable self adm
      | none => false)

/-- Step 2 of R129 on one node. -/
def compactNode (p : IndexParams) (slack : Nat) (repro : Bool) (epoch : Nat) (targets : List Nat) (g : Graph) (y : Nat) : Graph :=
  match g.node? y with
  | none => g
  | some n =>
    let hit := n.list.filter targets.contains
    if n.freed || n.dead || n.listPoison || targets.contains y || hit.isEmpty then g
    else
      let cands := dedupNat (n.list.filter (fun s => !targets.contains s) ++ hit.flatMap (g.bridge targets y epoch))
      g.modNode y fun m => m.setList repro epoch (prune p.sketchBits g (rankSlots p.sketchBits g n.sketch cands) p.degree slack)

/-- Step 3 of R129: a targeted entry point gives way to its nearest linkable neighbour; with none, it is left out (log 24). -/
def replaceEps (p : IndexParams) (repro : Bool) (epoch : Nat) (targets : List Nat) (lo hi : Nat) (g : Graph) : Graph :=
  g.setEps repro epoch (dedupNat (g.eps.flatMap fun e =>
      if targets.contains e && decide (lo ≤ e) && decide (e < hi) then
        match g.node? e with
        | some n => ((rankSlots p.sketchBits g n.sketch (g.bridge targets e epoch e)).head?.map (·.2)).toList
        | none => []
      else [e]))

/-- One range of a compaction (R129 steps 1 to 5). -/
def compactRange (p : IndexParams) (slack : Nat) (repro : Bool) (epoch : Nat) (targets : List Nat) (k : Nat) (g : Graph) : Graph :=
  let lo := 512 * k
  let hi := lo + 512
  let g := ((g.nodes.filter fun n => decide (lo ≤ n.slot) && decide (n.slot < hi)).map (·.slot)).foldl (compactNode p slack repro epoch targets) g
  let g := replaceEps p repro epoch targets lo hi g
  { g with nodes := g.nodes.map fun n =>
      if targets.contains n.slot then
        { n with exclRange := n.exclRange || decide (n.slot / 512 = k), exclBlock := n.exclBlock || decide (n.slot / 2097152 = k / 4096) }
      else n }

/-- The bytes of the structure record of a compacted range: the lists it rewrote, and the range's summaries (R129, R258; log 74). -/
def Index.compactRecord (i : Index) (changed : List Node) (r cur : Nat) : Bytes :=
  (changed.flatMap fun n => le 5 n.slot ++ n.listBytes i.params) ++ i.summImage r cur

/-- One unit of an INDEX_COMPACT: the next range, whose image segment is rewritten when it changes, and after the last the targets' slots are
freed (R129, R258, R367). A node is linkable as of the partition's current epoch, since a compaction has no admission epoch, and PRUNE_SLACK
is that of the insert policy in force when the unit runs, in a reproducible partition too (DESIGN CHOICE, log 24). In a reproducible
partition it waits for staging room (R137). -/
def Dev.compactUnit (d : Dev) (c : Clock) (p : Nat) (o : LongOp) : Dev :=
  match o.work with
  | .compact idx targets =>
    match (d.part p).index? idx with
    | none => d.opEnd c p o ⟨statusBADHANDLE, 0, 0, 0⟩
    | some i =>
      let x := d.part p
      let last := fun (d : Dev) (o : LongOp) =>
        ((((d.modIndex p idx fun i => ((i.modGraph fun g => g.free targets).fitDir).touch c.time).modPart p fun y =>
          (y.dropHot fun e => e.index == idx && targets.contains e.slot).stale idx targets).stateRecords c p).dropStale p).opEnd c p o ⟨statusSUCCESS, 0, targets.length, o.total⟩
      if o.total ≤ o.done then last d o
      else
        let g := compactRange i.params x.feat.insert.slack x.cfg.repro x.vis.cur targets o.done i.graph
        let grown := sumNat (fun n => n.versions.length - 1) g.nodes - sumNat (fun n => n.versions.length - 1) i.graph.nodes
        if x.cfg.repro && decide (x.stagingFree < 2 * i.params.degree * grown) then d
        else
          let o' : LongOp := { o with done := o.done + 1 }
          let old := i.graph
          let changed := g.nodes.filter fun n => (old.node? n.slot).any fun m => m.versions != n.versions
          let hit := !changed.isEmpty || g.eps != old.eps || g.nodes.any fun n => n.slot / 512 == o.done && targets.contains n.slot
          let d := (d.modIndex p idx fun i => (i.modGraph fun _ => g).touch c.time).setOp p o fun _ => o'
          let d := if hit then
              (d.structRun c p idx (({ i with graphs := [g] } : Index).compactRecord changed o.done x.vis.cur)).rewriteRange c p idx o.done
            else d
          if o'.total ≤ o'.done then last d o' else d
  | _ => d

end Sys2Proof.Machine
end

