-- ==== Sys2Proof/Machine/LongOps.lean ====
section
/-! DEFINITION. The long operations as commands, FORMAT and SANITISE, ABORT and the OP_ commands
(R108, R110, R129 to R131, R350, R354, R363 to R369, R378 to R381). -/

namespace Sys2Proof.Machine

open Sys2Proof

/-! ### Keys of a partition (R290, R402 to R405) -/

/-- The 128 bytes of a wrapped-key record: all zeros while there is none (R403). What the key wrap gives is open (log 10). -/
def Part.wrapBytes (x : Part) : Bytes := match x.keys.record with
  | none => zeros 128
  | some r => fit 128 (le 1 r.gen ++ le 1 r.alg ++ zeros 2 ++ le 4 r.count ++ le 8 r.created ++
      (if r.alg = 0 then zeros 72 else fit 72 (Config.crypto 2 (r.owner ++ r.media))))

/-- The content of metadata page 0 of a partition after its head: the mark of its SEQUENCE count, its epochs, the loaded models with their
stored objects, and the progress records of FORMAT and SANITISE (R111, R112, R187, R274, R379, R433; their layout is a DESIGN CHOICE, log
121). -/
def Part.metaBytes (x : Part) (mark : Nat) : Bytes :=
  let model := fun (k : Model) => le 2 k.id ++ le 2 0 ++ le 4 k.version ++ le 4 ((k.cur.map (·.object)).getD 0) ++ le 4 k.base
  let op := fun (o : LongOp) => le 1 o.opcode ++ le 1 o.state ++ le 1 (b2n o.cancellable) ++ zeros 5 ++ le 4 o.done ++ le 4 o.total ++
    le 8 o.rs.num ++ le 8 o.seq
  let models := x.models.filter (·.cur.isSome)
  let ops := x.ops.filter fun o => o.active && o.isFormat
  let times := le 8 mark ++ le 8 x.vis.origin ++ le 8 x.vis.base ++ le 8 x.vis.highest ++ le 4 x.vis.tick
  le 2 models.length ++ le 2 ops.length ++ zeros 8 ++ times ++ models.flatMap model ++ ops.flatMap op

/-- Writes versions of a partition's metadata pages as one atomic group, durable at once (R274, R379, R403, R404). -/
def Dev.writeMeta (d : Dev) (c : Clock) (p : Nat) : Dev :=
  let x := d.part p
  let f := (d.flash.allot p ownerMeta 0).1
  let head := x.wrapBytes ++ le 4 p
  let lists := (List.range (f.metaPages p)).map fun k => head ++ f.extentList p (1000 * k)
  { d with flash := ((f.acceptMeta c.time p 0 ((head ++ x.metaBytes (d.transport p).mark) :: lists)).flushPart moduleOwner).1 }

/-- Writes a wrapped-key record (R403, R404). -/
def Dev.writeRecord (d : Dev) (c : Clock) (p gen alg count : Nat) (owner media : Bytes) : Dev :=
  let d := d.modPart p fun x => { x with keys := { x.keys with gen := gen, record := some ⟨gen, alg, count, c.time, owner, media⟩ } }
  ({ d with flash := d.flash.rekey p gen } : Dev).writeMeta c p

/-- A new media key from the keeper's generator, wrapped under the owner key held (R404, R405). -/
def Dev.newMediaKey (d : Dev) (c : Clock) (p gen : Nat) : Dev :=
  let k := Config.drbg d.free
  let owner := ((d.part p).keys.owner).getD []
  let d := (d.fresh).writeRecord c p gen 1 0 owner k
  d.modPart p fun x => { x with keys := { x.keys with media := some k } }

/-! ### FORMAT and SANITISE (R378 to R381) -/

/-- Step 2 of R380: everything the partition holds goes, and an invocation that runs for it stops. The staging region's bytes stay. -/
def Dev.clearPart (d : Dev) (p : Nat) : Dev :=
  let d := d.stopInv p
  let inStaging := fun (a : Nat) => decide (a < windowBytes)
  let d := d.modPart p fun y =>
    { y with idx := [], tables := [], models := [], invs := [], outs := [], lines := [], hot := ⟨[], 0, []⟩,
             objs := y.objs.filter fun o => o.kind == .staging,
             journal := ⟨y.journal.next, 0, [], [], []⟩,
             mem := { y.mem with dram := y.mem.dram.filter (fun e => inStaging e.1), flash := [],
                                 poison := y.mem.poison.filter (fun l => inStaging (64 * l)), staged := [], discarded := [],
                                 ckpt := [], ckptCopies := [] } }
  let f := d.flash
  let mine := fun (e : Nat × Nat) => f.pages.any fun g => g.part == p && !g.isModule && g.lpn == e.1 && g.seq == e.2
  { d with flash := { f with map := f.map.filter fun e => !mine e,
                             extents := f.extents.filter fun e => e.part != p || e.owner == ownerMeta } }

/-- Step 3 of R380: the tick, the origin and the base of R111. Epoch base is current already before the origin tick (DESIGN CHOICE,
log 114). -/
def Vis.reform (v : Vis) (tick now : Nat) : Vis :=
  let base := v.highest + 1
  ⟨tick, (now / tick + 1) * tick, base, base, v.highest⟩

/-- Other work that a FORMAT or SANITISE waits for: every other command of the partition in flight, and a re-materialisation (R378). -/
def Dev.formatWaits (d : Dev) (p : Nat) (o : LongOp) : Bool :=
  let x := d.part p
  ((x.admittedReqs p).any fun e => some e.1 != o.carrier) ||
  x.ops.any fun k => k.opcode == opRemat && k.active

/-- A FORMAT or SANITISE passes its point of no return: its progress stands in the metadata pages that its key record is written with
(R379). -/
def Dev.passPonr (d : Dev) (p : Nat) (o o' : LongOp) : Dev :=
  (match o.carrier with
  | some r => d.modReq r fun q => { q with ponr := true }
  | none => d).setOp p o fun _ => o'

/-- One step of R380. -/
def Dev.formatUnit (d : Dev) (c : Clock) (p : Nat) (o : LongOp) : Dev :=
  match o.work with
  | .format tick =>
    if o.done = 0 then
      if d.formatWaits p o then d else
      ((d.passPonr p o { o with done := 1, cancellable := false }).newMediaKey c p (((d.part p).keys.gen + 1) % 256))
    else if o.done = 1 then ((d.clearPart p).setOp p o fun k => { k with done := 2 }).writeMeta c p
    else
      let o' : LongOp := { o with done := 3 }
      let d := ((d.modPart p fun x => { x with vis := x.vis.reform tick c.time }).setOp p o fun _ => o').writeMeta c p
      let x := d.part p
      d.opEnd c p o' ⟨statusSUCCESS, 0, x.keys.gen, x.vis.origin⟩
  | _ => d

/-- Superblocks that hold or held a page of the partition (R302, R381 step 2). -/
def Flash.supersOf (f : Flash) (p : Nat) : List Nat :=
  (f.supers.filter fun s => s.part == p && (!s.filter.isEmpty || f.pages.any fun g => g.super == s.id)).map (·.id)

/-- One unit of a SANITISE: the key, then one superblock, then what is left (R381). -/
def Dev.sanitiseUnit (d : Dev) (c : Clock) (p : Nat) (o : LongOp) : Dev :=
  match o.work with
  | .sanitise erased byMgmt =>
    let finish := fun (d : Dev) (o : LongOp) (n : Nat) =>
      let d := (d.clearPart p).modPart p fun x =>
        { x with mem := { x.mem with dram := [], poison := [] }, fwBuf := [], vis := x.vis.reform x.vis.tick c.time, scratch := [], scratchBad := [] }
      let d := { d with flash := d.flash.purge c.time (d.flash.supersOf p) fun g => g.part == p && !g.isModule }
      ((d.setOp p o fun _ => o).writeMeta c p).opEnd c p o ⟨statusSUCCESS, 0, n, (d.part p).keys.gen⟩
    if o.cancellable then
      if d.formatWaits p o then d else
      let gen := ((d.part p).keys.gen + 1) % 256
      let o' : LongOp := { o with cancellable := false, total := (d.flash.supersOf p).length }
      let d := d.passPonr p o o'
      let d := if byMgmt then
          (d.writeRecord c p gen 0 0 [] []).modPart p fun x =>
            { x with keys := { x.keys with media := none }, life := { x.life with keyAtFence := false } }
        else d.newMediaKey c p gen
      if o'.total = 0 then finish d o' 0 else d
    else
      match (d.flash.supersOf p).head? with
      | none => finish d o erased
      | some id =>
        let d := { d with flash := d.flash.purge c.time [id] fun g => g.part == p && !g.isModule }
        let o' : LongOp := { o with done := o.done + 1, total := max o.total (o.done + 1), work := .sanitise (erased + 1) byMgmt }
        let d := (d.setOp p o fun _ => o').writeMeta c p
        if (d.flash.supersOf p).isEmpty then finish d o' (erased + 1) else d
  | _ => d

/-! ### Units of any operation (R366, R367) -/

/-- The active operation under a name. -/
def Dev.active? (d : Dev) (p : Nat) (o : LongOp) : Option LongOp := (d.part p).ops.find? (sameOp o)

/-- One unit of an operation that runs; `n` counts the units of this run. -/
def Dev.opUnit (d : Dev) (c : Clock) (p : Nat) (o : LongOp) (query : Option Bytes) (writesOk : Bool) : Dev :=
  match o.work with
  | .probe _ _ _ _ _ _ _ => d.probeUnit c p o query writesOk
  | .build _ _ _ _ _ => d
  | .compact _ _ => d.compactUnit c p o
  | .format _ => d.formatUnit c p o
  | .sanitise _ _ => d.sanitiseUnit c p o
  | .remat _ _ _ _ => d

/-- A run of `io.units` units of an operation; a probe's queries stand in `io.reads` from `base` on. A build whose units are
all done, and a compaction without a range, may end in a run of no unit. -/
def Dev.opRun (d : Dev) (c : Clock) (p : Nat) (o : LongOp) (io : Io) (base : Nat) : Dev :=
  match o.work with
  | .build _ _ _ _ _ => (match d.active? p o with
      | some k => if k.state = 1 then d.buildUnits c p k io.units else d
      | none => d)
  | _ =>
    (List.range io.units).foldl (fun d n => match d.active? p o with
      | some k => if k.state = 1 then d.opUnit c p k (ioRead io.reads (base + n)) io.writesOk else d
      | none => d) d

/-! ### Starting one (R365) -/

/-- Operations a partition holds of its own commands (R365). -/
def Part.ownOps (x : Part) : Nat := (x.ops.filter fun o => o.active && o.opcode != opRemat && !o.rs.isMgmt).length

/-- A new operation of command `r`. -/
def newOp (c : Clock) (r : ReqRef) (op total : Nat) (w : OpWork) : LongOp :=
  ⟨r.rs, r.seq, op, 1, 0, true, 0, total, some r, c.time, 0, false, w⟩

/-- The operation that a started command begins, or what is there already. -/
def Dev.beginOp (d : Dev) (r : ReqRef) (p : Nat) (mk : Dev → Req → LongOp) (before : Dev → Dev) : Dev :=
  match d.req? r with
  | none => d
  | some q =>
    if !q.admitted || q.work != .carrier r.rs r.seq || (d.carried q).isSome then d
    else
      let d := before d
      d.modPart p fun x => { x with ops := x.ops ++ [mk d q] }

/-- A command that starts a long operation: checked, admitted, then its units (R341, R365, R366). -/
def Dev.longCommand (d : Dev) (c : Clock) (r : ReqRef) (io : Io) (op p : Nat) (base : Nat) (perm fields handles : Req → Bool)
    (space : Dev → Req → Option Nat) (mk : Dev → Req → LongOp) (before : Dev → Dev) : Dev :=
  let first := match d.req? r with
    | some q => !q.admitted
    | none => false
  let d := d.command c r op io.upto (fun q => q.admitted || perm q) fields handles
    (fun d q =>
      if !r.rs.isMgmt && decide (8 ≤ (d.part p).ownOps) then .refuse statusQUOTA
      else match space d q with
        | some st => .refuse st
        | none => .go fun y => { y with work := .carrier r.rs r.seq })
    (fun d _ =>
      let d := d.beginOp r p mk before
      match (d.req? r).bind d.carried with
      | some (_, o) => (d.opRun c p o io (if first then base else 0), none)
      | none => (d, none))
  d.beginOp r p mk before

/-- A build or compaction of the index that is running or suspended (R365). -/
def Part.indexOp (x : Part) (idx : Nat) : Bool :=
  x.ops.any fun o => o.active && (match o.work with
    | .build i _ _ _ _ => i == idx
    | .compact i _ => i == idx
    | _ => false)

/-- A probe of the index that is running or suspended (R110). -/
def Part.probeOn (x : Part) (idx : Nat) : Bool :=
  x.ops.any fun o => o.active && (match o.work with
    | .probe i _ _ _ _ _ _ => i == idx
    | _ => false)

/-- RECALL_PROBE (R108 to R110, R350). -/
def execRecallProbe (r : ReqRef) (io : Io) (s : State) : Out :=
  s.onDev fun c d =>
    let p := r.rs.partNo
    let x := d.part p
    let blk := (ioRead io.reads 0).getD []
    let prb := (ioRead io.reads 1).getD []
    d.longCommand c r io 0x12 p 2 always
      (fun _ => (ioRead io.reads 0).isSome && (ioRead io.reads 1).isSome && x.blockOk blk true && probeOk prb)
      (fun _ => x.blockNames blk true) (fun _ _ => if x.cfg.contextQuota < x.blockCtx (probeBlock blk) then some statusQUOTA else none)
      (fun _ q => newOp c r 0x12 (fld prb 0 2) (.probe (SBlock.ofBytes (probeBlock blk)).index (probeBlock blk) prb q.epoch 0 0 0)) id

/-- INDEX_BUILD (R131, R354). -/
def execIndexBuild (r : ReqRef) (io : Io) (s : State) : Out :=
  s.onDev fun c d =>
    let p := r.rs.partNo
    let x := d.part p
    let idx := match d.req? r with
      | some q => uIndex q
      | none => 16
    let rebuild := fun (q : Req) => fbits q.desc 24 4 4 == 1
    let items := fun (q : Req) => fld q.desc 32 8
    let live := fun (d : Dev) (q : Req) => match (d.part p).index? idx with
      | some i => if rebuild q then i.graph.live.map (·.slot) else []
      | none => []
    let total := fun (d : Dev) (q : Req) => ceilDiv (items q + (live d q).length) 4096
    let mib := fun (d : Dev) (q : Req) => match (d.part p).index? idx with
      | some i => i.params.slotsMib (items q + i.graph.live.length)
      | none => 0
    let q0 := (d.req? r).getD { seq := 0, desc := [] }
    d.longCommand c r io 0x29 p 0 (fun _ => !x.indexOp idx && !x.probeOn idx) always
      (fun q => q.admitted || ((x.index? idx).isSome && (items q == 0 || (x.storedAt (fld q.desc 28 4)).isSome)))
      (fun d q => d.mibRefusal p (mib d q))
      (fun d q => newOp c r 0x29 (total d q) (.build idx (fbits q.desc 24 5 5) (fld q.desc 28 4) (items q) (live d q)))
      (fun d => (d.modIndex p idx fun i => { i with building := true, recorded := [], buildMib := mib d q0 }).modPart p Part.trimHot)

/-- INDEX_COMPACT (R129, R130). -/
def execIndexCompact (r : ReqRef) (io : Io) (s : State) : Out :=
  s.onDev fun c d =>
    let p := r.rs.partNo
    let x := d.part p
    let idx := match d.req? r with
      | some q => uIndex q
      | none => 16
    d.longCommand c r io 0x2A p 0 (fun _ => !x.indexOp idx) always (fun _ => (x.index? idx).isSome) (fun _ _ => none)
      (fun d _ => match (d.part p).index? idx with
        | some i => newOp c r 0x2A i.graph.rangeCount (.compact idx (i.graph.targets (d.part p).horizon))
        | none => newOp c r 0x2A 0 (.compact idx [])) id

/-- Probes, builds and compactions end when a FORMAT or SANITISE is admitted (R378). -/
def Dev.cancelIndexOps (d : Dev) (c : Clock) (p : Nat) : Dev :=
  d.cancelOps c p fun o => o.opcode == 0x12 || o.opcode == 0x29 || o.opcode == 0x2A

/-- FORMAT (R380). -/
def execFormat (r : ReqRef) (io : Io) (s : State) : Out :=
  s.onDev fun c d =>
    let p := r.rs.partNo
    let tick := fun (q : Req) => (if fld q.desc 28 2 = 0 then 10 else fld q.desc 28 2) * 10000
    d.longCommand c r io 0x88 p 0 always always always (fun _ _ => none)
      (fun _ q => newOp c r 0x88 3 (.format (tick q))) (fun d => d.cancelIndexOps c p)

/-- SANITISE (R381), of the issuing partition, or of a partition that the management function names. -/
def execSanitise (r : ReqRef) (io : Io) (s : State) : Out :=
  s.onDev fun c d =>
    let p := if r.rs.isMgmt then (match d.req? r with
        | some q => fbits q.desc 25 5 0
        | none => 0) else r.rs.partNo
    let x := d.part p
    d.longCommand c r io 0x89 p 0
      (fun _ => !r.rs.isMgmt || ((x.life.st == .closed || x.life.st == .fenced) && !x.exclusive))
      always always (fun _ _ => none)
      (fun d _ => newOp c r 0x89 (d.flash.supersOf p).length (.sanitise 0 r.rs.isMgmt)) (fun d => d.cancelIndexOps c p)

/-! ### Control commands (R363 to R368) -/

/-- The operation that a control command names (R363). -/
def Dev.ctlTarget (d : Dev) (r : ReqRef) (q : Req) : Option (Nat × LongOp) :=
  let n := fbits q.desc 24 3 0
  let t := fbits q.desc 24 5 4
  match r.rs with
  | .mgmt _ => if t = 0 then d.opOf (.mgmt n) (fld q.desc 28 4) else none
  | .part p _ =>
    let pick := fun (f : LongOp → Bool) =>
      let l := (d.part p).ops.filter f
      (match l.find? (fun (o : LongOp) => o.active) with
      | some o => some o
      | none => l.getLast?).map fun o => (p, o)
    if t = 0 then d.opOf (.part p n) (fld q.desc 28 4)
    else if t = 1 then pick fun o => o.opcode == opRemat
    else pick fun o => o.isFormat

/-- What a control command reports of an operation after it acted (R368). -/
def Dev.report (d : Dev) (p : Nat) (o : LongOp) (status : Nat) : Ending :=
  let o := match d.active? p o with
    | some k => k
    | none => (((d.part p).ops.filter fun (k : LongOp) => k.rs == o.rs && k.seq == o.seq && k.opcode == o.opcode).getLast?).getD o
  ⟨status, 0, o.word0, o.word1⟩

def noOp : Ending := ⟨statusSUCCESS, 0, 0, 0⟩

/-- An ended operation that passed its point of no return: a build that has switched, a FORMAT or SANITISE that installed or destroyed
its key, a re-materialisation (R131, R366, R367). -/
def LongOp.passed (o : LongOp) : Bool := ((o.opcode == 0x29 || o.isFormat) && o.endStatus == statusSUCCESS) || o.opcode == opRemat

/-- OP_CANCEL of an operation (R366). -/
def Dev.ctlCancel (d : Dev) (c : Clock) (p : Nat) (o : LongOp) : Dev × Ending :=
  if !o.active then (d, d.report p o (if o.passed then statusNOTCANCEL else statusSUCCESS))
  else if !o.cancellable then (d, d.report p o statusNOTCANCEL)
  else
    let d := d.opCancel c p o
    (d, d.report p o statusSUCCESS)

/-- OP_QUERY (R366, R368). -/
def execOpQuery (r : ReqRef) (s : State) : Out :=
  s.onDev fun c d => d.simple c r 0x68 .done always always always fun d q =>
    match d.ctlTarget r q with
    | none => (d, noOp)
    | some (p, o) => (d, d.report p o statusSUCCESS)

/-- OP_SUSPEND (R366, R367). -/
def execOpSuspend (r : ReqRef) (s : State) : Out :=
  s.onDev fun c d => d.simple c r 0x69 .done always always always fun d q =>
    match d.ctlTarget r q with
    | none => (d, noOp)
    | some (p, o) =>
      let d := if o.state = 1 then d.opSuspend c p o else d
      (d, d.report p o statusSUCCESS)

/-- OP_CANCEL (R366, R367). -/
def execOpCancel (r : ReqRef) (s : State) : Out :=
  s.onDev fun c d => d.simple c r 0x6B .done always always always fun d q =>
    match d.ctlTarget r q with
    | none => (d, noOp)
    | some (p, o) => d.ctlCancel c p o

/-- OP_RESUME (R366): it becomes the carrier of a suspended operation and runs its units; a re-materialisation takes no
carrier. -/
def execOpResume (r : ReqRef) (io : Io) (s : State) : Out :=
  s.onDev fun c d => d.command c r 0x6A .done always always always (fun _ _ => .go id) fun d q =>
    match d.carried q with
    | some (p, o) => (d.opRun c p o io 0, none)
    | none =>
      if q.work ≠ .none then (d, none) else
      match d.ctlTarget r q with
      | none => (d, some noOp)
      | some (p, o) =>
        if o.state ≠ 2 then (d, some (d.report p o statusSUCCESS))
        else if o.opcode = opRemat then
          let d := d.setOp p o fun k => { k with state := 1 }
          (d, some (d.report p o statusSUCCESS))
        else
          let d := (d.setOp p o fun k => { k with state := 1, carrier := some r }).modReq r fun y => { y with work := .carrier o.rs o.seq }
          (d.opRun c p { o with state := 1, carrier := some r } io 0, none)

/-- ABORT (R363, R364). -/
def execAbort (r : ReqRef) (s : State) : Out :=
  s.onDev fun c d => d.simple c r 0x60 .done always always always fun d q =>
    if fbits q.desc 24 5 4 ≠ 0 then
      (match d.ctlTarget r q with
      | none => (d, noOp)
      | some (p, o) => d.ctlCancel c p o)
    else
      let rs := match r.rs with
        | .part p _ => RsId.part p (fbits q.desc 24 3 0)
        | .mgmt _ => RsId.mgmt (fbits q.desc 24 3 0)
      let t : ReqRef := ⟨rs, fld q.desc 28 4⟩
      match d.req? t with
      | none => (d, ⟨statusSUCCESS, 0, 0, 0⟩)
      | some tq =>
        match d.carried tq with
        | some (p, o) => if o.cancellable then (d.opCancel c p o, ⟨statusSUCCESS, 0, 3, 0⟩) else (d, ⟨statusSUCCESS, 0, 4, 0⟩)
        | none => if tq.ponr then (d, ⟨statusSUCCESS, 0, 2, 0⟩) else (d.cutShort c t statusABORTED, ⟨statusSUCCESS, 0, 1, 0⟩)

end Sys2Proof.Machine
end

