-- ==== Sys2Proof/Machine/Admin.lean ====
section
/-! DEFINITION. The administrative commands: IDENTIFY, GET_LOG, GET_FEATURE, SET_FEATURE, FW_DOWNLOAD, FW_COMMIT
(R370 to R377, R488, R493). -/

namespace Sys2Proof.Machine

open Sys2Proof

def aSelect (q : Req) : Nat := fld q.desc 24 1
def aLength (q : Req) : Nat := fld q.desc 40 4
def aOffset (q : Req) : Nat := fld q.desc 32 8

/-- The partition that an administrative command means (R370). -/
def aPart (r : ReqRef) (q : Req) : Nat := if r.rs.isMgmt then fbits q.desc 25 5 0 else r.rs.partNo

/-- A bitmap of `n` bytes with the listed bits set. -/
def bitmap (n : Nat) (l : List Nat) : Bytes := le n ((dedupNat l).foldl (fun v i => v + 2 ^ i) 0)

/-- Writes data to the issuer's host buffer and ends with the number of bytes written (R317, R362). -/
def Dev.giveHost (d : Dev) (c : Clock) (r : ReqRef) (q : Req) (io : Io) (b : Bytes) : Dev × Ending :=
  if io.writesOk then (d.hostOut c r (fld q.desc 48 8) b, ⟨statusSUCCESS, 0, b.length, 0⟩) else (d, ⟨statusBADFIELD, 0, 0, 0⟩)

/-! ### IDENTIFY (R371 to R373) -/

/-- Version of a firmware slot, zero when empty. -/
def Firmware.version (f : Firmware) (i : Nat) : Nat := ((f.slots[i]?).map fun s => if s.state = 0 then 0 else s.version).getD 0

/-- Bytes 0 to 56 of R372: the serial number and the steppings, whose compute-die byte is 0xB0 (R310). -/
def identityBytes : Bytes := fit 32 Config.identity ++ le 1 0xB0 ++ fit 24 (Config.identity.drop 33)

/-- IDENTIFY kind 0; the stepping of the compute die is the one of R310 (R372). -/
def Dev.identifyModule (d : Dev) : Bytes :=
  identityBytes ++ zeros 7 ++ le 8 (d.fw.version d.fw.active) ++ le 8 (d.fw.version (1 - d.fw.active)) ++
  le 1 d.fw.active ++ zeros 7 ++ le 8 d.flash.geom.raw ++ le 1 (d.flash.geom.dies + 32 * d.flash.geom.density) ++ zeros 7 ++
  bitmap 20 ((List.range 160).filter fun t => !d.units.isRetired 1 t && !(d.units.spares 1).contains t) ++
  bitmap 40 d.modChans ++ bitmap 40 d.reserve ++ le 1 d.fabric.portConfig

def Dev.identifyPart (d : Dev) (p : Nat) : Bytes :=
  let x := d.part p
  let super := d.flash.geom.superPages * pageBytes
  le 1 (p + 64 * b2n x.cfg.repro) ++ le 1 (b2n x.cfg.maint + 2 * b2n x.cfg.info) ++ le 2 x.life.sites.length ++ le 4 x.vis.tick ++
  le 8 x.vis.origin ++ bitmap 40 x.life.chans ++ le 8 x.cfg.dramQuota ++ le 8 (x.cfg.flash0 * super) ++ le 8 (x.cfg.flash1 * super) ++
  le 4 x.cfg.contextQuota ++ le 4 x.cfg.changeQuota ++ le 4 x.cfg.wbMib ++ bitmap 2 (x.idx.map (·.num)) ++
  le 2 (x.models.filter (·.cur.isSome)).length ++ bitmap 32 (x.tables.map (·.num)) ++ le 8 x.vis.base

/-- The parameter block in the form in force, then the live count, the slots in use and CAPACITY. -/
def Index.identify (i : Index) : Bytes :=
  let k := i.params
  le 2 k.dim ++ le 1 k.fmt ++ le 1 (k.sketchBits / 128) ++ le 1 k.degree ++ le 1 k.attrBytes ++
  le 1 (b2n k.single + 2 * b2n k.projGiven) ++ zeros 1 ++ le 8 (if k.projGiven then 0 else k.seed) ++ zeros 8 ++ le 8 k.capacity ++
  zeros 32 ++ le 8 i.graph.live.length ++ le 8 (i.graph.nodes.filter fun n => !n.freed).length ++ le 8 k.capacity

def Model.identify (k : Model) : Bytes :=
  let hdr := match k.cur with
    | some g => g.hdr
    | none => (k.next.map fun n => n.2.1.hdr).getD []
  fit 64 hdr ++ le 4 k.version ++ le 1 (if k.unloading then 2 else if k.loading then 1 else 0)

/-- The data of a kind, or none when what it names does not exist. -/
def Dev.identifyData (d : Dev) (p : Nat) (q : Req) : Option Bytes :=
  match aSelect q with
  | 0 => some d.identifyModule
  | 1 => some (d.identifyPart p)
  | 2 => ((d.part p).index? (fbits q.desc 26 3 0)).map Index.identify
  | _ => ((d.part p).models.find? fun k => k.id == fld q.desc 28 2).map Model.identify

/-- IDENTIFY (R371): min(LENGTH, 4,096) bytes, zero-filled. -/
def execIdentify (r : ReqRef) (io : Io) (s : State) : Out :=
  s.onDev fun c d => d.simple c r 0x80 io.upto always
    (fun q => !r.rs.isMgmt || aSelect q != 0 || fbits q.desc 25 5 0 == 0)
    (fun q => (d.identifyData (aPart r q) q).isSome)
    fun d q => d.giveHost c r q io (fit (min (aLength q) 4096) ((d.identifyData (aPart r q) q).getD []))

/-! ### GET_LOG (R374, R375) -/

def sat64 (n : Nat) : Nat := min n (2 ^ 64 - 1)

/-- Log 0x01 (R243). -/
def Part.tableLog (x : Part) : Bytes := (sortBy (fun (t : Table) => t.num) x.tables).flatMap fun t => t.stats.bytes

/-- Log 0x02. -/
def Part.modelLog (x : Part) : Bytes :=
  (sortBy (fun (k : Model) => k.id) (x.models.filter (·.cur.isSome))).flatMap fun k =>
    le 2 k.id ++ zeros 2 ++ le 4 k.version ++ le 8 (sat64 k.invocations) ++ le 8 (sat64 k.rows) ++ le 8 (sat64 k.refusals)

/-- Log 0x03: running and suspended operations by SEQUENCE, then ended ones, newest first. -/
def Part.opLog (x : Part) : Bytes :=
  (sortBy (fun (o : LongOp) => o.seq) (x.ops.filter (·.active)) ++ (x.ops.filter fun o => !o.active).reverse).flatMap fun o =>
    le 1 (if o.opcode = opRemat then 0 else o.rs.num) ++ zeros 3 ++ le 4 o.seq ++ le 8 o.word0 ++ le 8 o.word1

/-- The partition's last FORMAT or SANITISE. -/
def Part.formatOp (x : Part) : Option LongOp :=
  match x.ops.find? fun o => o.active && o.isFormat with
  | some o => some o
  | none => x.lastFormat

/-- Log 0x04. -/
def Part.formatLog (x : Part) : Bytes :=
  match x.formatOp with
  | none => zeros 3 ++ le 1 x.keys.gen ++ zeros 28
  | some o => le 1 o.opcode ++ le 1 (if o.resumed && o.state == 1 then 5 else o.state) ++
      le 1 (if o.state = 3 then o.endStatus else 0) ++ le 1 x.keys.gen ++ zeros 4 ++ le 8 o.word1 ++ le 8 o.started ++
      le 8 (if o.state = 3 then o.ended else 0)

/-- A stage record of log 0x80 (R488). -/
def StageRec.bytes (g : StageRec) : Bytes :=
  le 1 g.stage ++ le 1 (g.outcome + 8 * b2n g.full) ++ le 1 g.cause ++ zeros 1 ++ le 4 g.duration ++ le 5 g.opTime ++ le 3 g.cycles ++
  le 8 g.time ++ le 2 g.spared ++ le 2 g.failed ++ le 4 g.firstFailed ++ le 8 g.d0 ++ le 8 g.d1 ++ zeros 16

/-- Log 0x80 (R488). -/
def Dev.stageLog (d : Dev) : Bytes :=
  le 1 d.power.path ++ le 1 d.mgmt.stage ++ zeros 2 ++ le 4 d.power.bringups ++ zeros 56 ++ d.power.records.flatMap StageRec.bytes

/-- A slot record of log 0x83 (R493). -/
def FwSlot.bytes (i : Nat) (f : FwSlot) : Bytes :=
  le 1 i ++ le 1 f.state ++ le 2 f.security ++ le 4 f.size ++ le 8 f.version ++ le 8 f.minLive ++ le 5 f.writtenOp ++ le 3 f.writtenCycles ++
  le 8 (if f.state = 3 then f.activateAt else 0) ++ fit 48 f.digest ++ zeros 40

def Firmware.log (f : Firmware) : Bytes := (indexed f.slots).flatMap fun e => FwSlot.bytes e.1 e.2

/-- `n` bytes of a log from a byte on; zeros beyond its end. -/
def cut (b : Bytes) (off n : Nat) : Bytes := fit n (b.drop off)

/-- The part of a log that a read asks for. -/
def Dev.logData (d : Dev) (c : Clock) (p id off n : Nat) : Bytes :=
  let x := d.part p
  match id with
  | 0x01 => cut x.tableLog off n
  | 0x02 => cut x.modelLog off n
  | 0x03 => cut x.opLog off n
  | 0x04 => cut x.formatLog off n
  | 0x80 => cut d.stageLog off n
  | 0x81 => ({ d.recorder with frozen := d.recorder.frozen.or (some c.time) } : Recorder).logAt c off n   -- frozen while it is copied (R475)
  | 0x82 => cut d.recorder.boxLog off n
  | _ => cut d.fw.log off n

/-- GET_LOG: the log is a snapshot taken at its admission (R374). -/
def execGetLog (r : ReqRef) (io : Io) (s : State) : Out :=
  s.onDev fun c d => d.command c r 0x81 io.upto
    (fun q => r.rs.isMgmt || !(decide (0x80 ≤ aSelect q) && decide (aSelect q ≤ 0x83)))
    (fun q => [1, 2, 3, 4].contains (aSelect q) || ([0x80, 0x81, 0x82, 0x83].contains (aSelect q) && fbits q.desc 25 5 0 == 0) ||
      (!r.rs.isMgmt && [0x80, 0x81, 0x82, 0x83].contains (aSelect q)))
    always (fun d q => .go fun y => { y with taken := [d.logData c (aPart r q) (aSelect q) (aOffset q) (aLength q)] })
    fun d q =>
      let w := d.giveHost c r q io (q.taken.headD [])
      (w.1, some w.2)

/-! ### Features (R376) -/

def featSize (id : Nat) : Option Nat :=
  match id with
  | 1 => some 132
  | 2 => some 16
  | 3 => some 8
  | 4 => some 8
  | 5 => some 16
  | 6 => some 8
  | _ => none

/-- The bytes of a feature (R53, R94, R122, R216, R255, R299). -/
def Features.bytes (f : Features) (id : Nat) : Bytes :=
  match id with
  | 1 => f.sat.count.flatMap (le 4) ++ f.sat.threshold.flatMap (le 4) ++
      le 2 ((indexed f.sat.armed).foldl (fun v e => v + b2n e.2 * 2 ^ e.1) 0) ++ zeros 2
  | 2 => le 8 f.search.small ++ le 4 f.search.bench.toNat ++ le 4 f.search.both.toNat
  | 3 => le 2 f.insert.pool ++ le 2 f.insert.hopBound ++ le 1 f.insert.seeds ++ le 1 f.insert.slack ++ zeros 2
  | 4 => le 4 f.window ++ zeros 4
  | 5 => le 4 f.place.hotMib ++ le 1 (f.place.admitMode + 4 * b2n f.place.tableJournal) ++ zeros 3 ++ le 4 f.place.stagingMib ++
      le 4 f.place.checkpointS
  | _ => le 2 f.lowWater ++ le 2 f.highWater ++ zeros 4

/-- An FP32 fraction from 0 to 1. -/
def fraction (v : Nat) : Option Nat := if v = 0x80000000 then some 0 else if v ≤ 0x3F800000 then some v else none

/-- The ranges and reserved fields of a feature's data. -/
def featOk (id : Nat) (b : Bytes) : Bool :=
  let rng := fun (v lo hi : Nat) => decide (lo ≤ v) && decide (v ≤ hi)
  match id with
  | 1 => zeroAt b 130 2
  | 2 => (match fraction (fld b 8 4), fraction (fld b 12 4) with
      | some x, some y => decide (x ≤ y)
      | _, _ => false)
  | 3 => rng (fld b 0 2) 16 1024 && rng (fld b 4 1) 1 64 && decide (fld b 5 1 ≤ 64) && zeroAt b 6 2
  | 4 => rng (fld b 0 4) 500 16000 && zeroAt b 4 4
  | 5 => decide (fld b 0 4 ≤ 1048576) && decide (fbits b 4 1 0 ≤ 2) && fbits b 4 7 3 == 0 && zeroAt b 5 3 &&
      rng (fld b 8 4) 64 16384 && decide (fld b 12 4 ≤ 3600)
  | _ => rng (fld b 0 2) 10 290 && rng (fld b 2 2) 20 300 && decide (fld b 0 2 < fld b 2 2) && zeroAt b 4 4

/-- A write of a feature; `repro` forces table journaling (R255). -/
def Features.write (f : Features) (id : Nat) (b : Bytes) (repro : Bool) : Features :=
  match id with
  | 1 => { f with sat := { f.sat with threshold := (List.range 16).map fun n => fld b (64 + 4 * n) 4, armed := List.replicate 16 true } }
  | 2 => { f with search := ⟨fld b 0 8, BitVec.ofNat 32 (fld b 8 4), BitVec.ofNat 32 (fld b 12 4)⟩ }
  | 3 => { f with insert := ⟨fld b 0 2, fld b 2 2, fld b 4 1, fld b 5 1⟩ }
  | 4 => { f with window := fld b 0 4 }
  | 5 => { f with place := ⟨fld b 0 4, fbits b 4 1 0, repro || fbits b 4 2 2 == 1, fld b 8 4, fld b 12 4⟩ }
  | _ => { f with lowWater := fld b 0 2, highWater := fld b 2 2 }

/-- GET_FEATURE; its clear option returns the counts, zeroes them and arms every counter in one step (R52, R53, R376). -/
def execGetFeature (r : ReqRef) (io : Io) (s : State) : Out :=
  s.onDev fun c d => d.simple c r 0x82 io.upto
    (fun q => !r.rs.isMgmt || fbits q.desc 25 6 6 == 0)
    (fun q => match featSize (aSelect q) with
      | some n => decide (n ≤ aLength q)
      | none => false)
    always fun d q =>
      let p := aPart r q
      let b := (d.part p).feat.bytes (aSelect q)
      let d := if fbits q.desc 25 6 6 = 1 ∧ io.writesOk then d.modPart p fun x =>
          { x with feat := { x.feat with sat := { x.feat.sat with count := List.replicate 16 0, armed := List.replicate 16 true } } } else d
      d.giveHost c r q io b

/-- SET_FEATURE (R52, R376); a smaller STAGING_MIB or HOT_CACHE_MIB evicts down to the new size (R255). A threshold written below the
count posts the event of R54 at once: no increment crosses there, so its SOURCE is 0xFFFF and its FABRIC_TIME that of the write (DESIGN
CHOICE, log 53). -/
def execSetFeature (r : ReqRef) (io : Io) (s : State) : Out :=
  s.onDev fun c d => d.simple c r 0x83 io.upto always
    (fun q => featSize (aSelect q) == some (aLength q) && (match ioRead io.reads 0 with
      | some b => b.length == aLength q && featOk (aSelect q) b
      | none => false))
    always fun d q =>
      let p := r.rs.partNo
      let id := aSelect q
      match ioRead io.reads 0 with
      | none => (d, ⟨statusBADFIELD, 0, 0, 0⟩)
      | some b =>
        let d := d.modPart p fun x =>
          (({ x with feat := x.feat.write id b x.cfg.repro } : Part).trimStaged).trimHot
        let d := if id = 1 then (List.range 16).foldl (fun d n => d.drift c p n 0xFFFF) d else d
        (d, ⟨statusSUCCESS, 0, b.length, 0⟩)

/-! ### Firmware download and commit (R377, R493 to R495) -/

/-- FW_DOWNLOAD, on a management ring set with PARTITION zero (R370): bytes now held are counted up to the highest byte written. -/
def execFwDownload (r : ReqRef) (io : Io) (s : State) : Out :=
  s.onDev fun c d => d.simple c r 0x84 io.upto always
    (fun q => (!r.rs.isMgmt || fbits q.desc 25 5 0 == 0) && (match ioRead io.reads 0 with
      | some b => b.length == aLength q
      | none => false))
    always fun d q =>
      let b := (ioRead io.reads 0).getD []
      let len := fun (n : Nat) => max n (aOffset q + b.length)
      match r.rs with
      | .mgmt _ =>
        let m := d.mgmt
        ({ d with mgmt := { m with fwBuf := m.fwBuf.writeN (aOffset q) b, fwLen := len m.fwLen } }, ⟨statusSUCCESS, 0, len m.fwLen, 0⟩)
      | .part p _ =>
        let x := d.part p
        (d.modPart p fun x => { x with fwBuf := x.fwBuf.writeN (aOffset q) b, fwLen := len x.fwLen }, ⟨statusSUCCESS, 0, len x.fwLen, 0⟩)

/-- A FW_COMMIT is in progress until its activation time is fixed; a slot stays scheduled until its activation (R377, R495). -/
def Firmware.busy (f : Firmware) : Bool := f.staging.isSome || f.slots.any fun s => s.state == 3

/-- Activation of a slot: live through staging, or at the next reset when the running version is below MIN_LIVE_VERSION
(R495). -/
def Dev.activate (d : Dev) (r : ReqRef) (slot at_ : Nat) : Dev × Option Ending :=
  let live := match d.fw.slots[slot]? with
    | some f => decide (f.minLive ≤ d.fw.version d.fw.active)
    | none => false
  if live then ({ d with fw := { d.fw with staging := some (r, slot, at_) } }, none)
  else ({ d with fw := { d.fw with slots := modAt (fun (f : FwSlot) => { f with state := 4 }) slot d.fw.slots } },
        some ⟨statusSUCCESS, 0, slot, 0⟩)

/-- The image of a buffer, at most 64 MiB. -/
def Dev.fwImage (d : Dev) (q : Req) : Bytes :=
  if fbits q.desc 25 7 7 = 1 then (d.part (fbits q.desc 25 5 0)).fwBuf.readN 0 (d.part (fbits q.desc 25 5 0)).fwLen
  else d.mgmt.fwBuf.readN 0 d.mgmt.fwLen

/-- FW_COMMIT: `authentic` is what the keeper's check of the image's signature and digests answers, and the manifest gives
the other fields (R377, R489, R494). -/
def execFwCommit (r : ReqRef) (authentic : Bool) (version security minLive : Nat) (s : State) : Out :=
  s.onDev fun c d =>
    let mine := match d.fw.staging with
      | some (k, _, _) => k == r
      | none => false
    d.command c r 0x85 .done (fun _ => mine || !d.fw.busy)
      (fun q => (fbits q.desc 25 7 7 == 1 || fbits q.desc 25 5 0 == 0) && (aSelect q != 2 || (match d.fw.slots[fbits q.desc 27 1 0]? with
        | some f => f.state == 1 || f.state == 4 || f.state == 6
        | none => false)))
      always (fun _ _ => .go id) fun d q =>
        if mine then (d, none)
        else if aSelect q = 2 then
          (match d.fw.slots[fbits q.desc 27 1 0]? with
          | some f => if f.security < d.fw.floor then (d, some ⟨statusBADFIELD, 0, 0, 0⟩)
              else d.activate r (fbits q.desc 27 1 0) (fld q.desc 56 8)
          | none => (d, some ⟨statusBADFIELD, 0, 0, 0⟩))
        else
          let img := d.fwImage q
          if !authentic || img.isEmpty || decide (security < d.fw.floor) then
            let d := d.record c 0x0704 0 0 none (if fbits q.desc 25 7 7 = 1 then fbits q.desc 25 5 0 else 64) 0 0
            (d, some ⟨statusBADFIELD, 0, 0, 0⟩)
          else
            let slot := 1 - d.fw.active
            let f : FwSlot := ⟨1, security, img.length, version, minLive, c.opSeconds, c.powerCycles, 0, Config.crypto 1 img⟩
            let d := { d with fw := { d.fw with slots := modAt (fun _ => f) slot d.fw.slots } }
            if aSelect q = 1 then d.activate r slot (fld q.desc 56 8) else (d, some ⟨statusSUCCESS, 0, slot, 0⟩)

end Sys2Proof.Machine
end

