-- ==== Sys2Proof/Machine/Ports.lean ====
section
/-! DEFINITION. Fabric ports, neighbours, neighbour discovery and echo, gates, and fabric time over PTP
(chapter 14: R419 to R430, R448 to R455). -/

namespace Sys2Proof.Machine

open Sys2Proof

/-! ### Big-endian fields of the frames outside the transport -/

def be (n v : Nat) : Bytes := (le n v).reverse

/-- The bytes of a frame of the module's own traffic: addresses, tag, type and body (R422). -/
def Fabric.ownBytes (f : Fabric) (port dst type : Nat) (body : Bytes) : Bytes :=
  let tag := if f.cfg.vlan = 0 then [] else be 2 0x8100 ++ be 2 f.cfg.vlan
  be 6 dst ++ be 6 (Config.macBase + port) ++ tag ++ be 2 type ++ body

/-- A frame of the module's own traffic (R422, R448). -/
def Dev.ownFrame (d : Dev) (c : Clock) (port : Nat) (urgent : Bool) (dst type : Nat) (body : Bytes) : Dev :=
  let data := d.fabric.ownBytes port dst type body
  d.sendFrame c port ⟨urgent, 64, 3, max 64 (data.length + 4), false, .frame port data, .free⟩

/-! ### IPv6 bodies of the frames outside the transport -/

/-- The Internet checksum: the complement of the ones' complement sum of 16-bit words. -/
def inetSum (b : Bytes) : Nat :=
  let s := (chunks 2 b).foldl (fun (s : Nat) w => s + 256 * fld w 0 1 + fld w 1 1) 0
  0xFFFF - (s % 65536 + s / 65536) % 65535

/-- An IPv6 packet of one upper layer, whose checksum stands at byte `at_` of `m` and is zero there. -/
def ipv6 (next src dst at_ : Nat) (m : Bytes) : Bytes :=
  let sum := inetSum (be 16 src ++ be 16 dst ++ be 4 m.length ++ be 3 0 ++ be 1 next ++ m)
  be 4 0x60000000 ++ be 2 m.length ++ be 1 next ++ be 1 255 ++ be 16 src ++ be 16 dst ++ patch m at_ (be 2 sum)

/-- An IPv6 packet with an ICMPv6 message. -/
def icmp (src dst : Nat) (m : Bytes) : Bytes := ipv6 58 src dst 2 m

/-- An IPv6 packet with a UDP datagram. -/
def udp (src dst port : Nat) (b : Bytes) : Bytes := ipv6 17 src dst 6 (be 2 port ++ be 2 port ++ be 2 (8 + b.length) ++ be 2 0 ++ b)

/-- A Neighbor Solicitation for a peer's address goes out on a port, to the solicited-node multicast address (R422; PRESUMED, log 39). -/
def Dev.solicit (d : Dev) (c : Clock) (port addr : Nat) : Dev :=
  d.ownFrame c port false (0x3333FF000000 + addr % 2 ^ 24) 0x86DD
    (icmp (d.fabric.cfg.addrs.getD port 0) (0xFF0200000000000000000001FF000000 + addr % 2 ^ 24)
      (be 1 135 ++ be 3 0 ++ be 4 0 ++ be 16 addr ++ be 1 1 ++ be 1 1 ++ be 6 (Config.macBase + port)))

/-- Peers whose records name a port and that are not resolved on it (R422). -/
def Dev.unresolved (d : Dev) (port : Nat) : List Peer :=
  d.fabric.cfg.peers.filter fun (k : Peer) => bitAt k.ports port && !(d.port port).resolved.contains k.addr

/-- Every such peer is solicited (R422). -/
def Dev.solicitAll (d : Dev) (c : Clock) (port : Nat) : Dev :=
  if !(d.port port).up then d else (d.unresolved port).foldl (fun (d : Dev) (k : Peer) => d.solicit c port k.addr) d

/-! ### Ports (R419, R420) -/

def Fabric.lanesPerPort (f : Fabric) : Nat := 32 / f.portCount

def Fabric.portOfLane (f : Fabric) (lane : Nat) : Nat := lane / f.lanesPerPort

/-- Every lane of the port is in service (R420). -/
def Dev.lanesOk (d : Dev) (port : Nat) : Bool :=
  (List.range d.fabric.lanesPerPort).all fun i => !d.units.isRetired 11 (d.fabric.lanesPerPort * port + i)

/-- The neighbour record of R473. -/
def Dev.neighbourGone (d : Dev) (c : Clock) (port : Nat) (n : Neigh) (cause : Nat) : Dev :=
  d.record c 0x0502 0x0C port none n.chassis n.portId cause

/-- PORT_UP: a port whose lanes have all trained comes up, once the fabric ports are in service, and its peers are resolved on it (R420, R422,
R424, R484, R502). -/
def execPortUp (port : Nat) (s : State) : Out :=
  s.onDev fun c d =>
    if d.fabric.portCount ≤ port ∨ (d.port port).up ∨ !d.lanesOk port ∨ d.power.mode ≠ .up then d
    else ((d.modPort port fun x => { x with up := true, busy := false, queue := [], lldpNext := c.time, lldpSent := 0 }).record c 0x0503 0x0C port
      none d.fabric.lanesPerPort 0 0).solicitAll c port

/-! ### LLDP (R424, R425) -/

def tlv (type : Nat) (b : Bytes) : Bytes := be 2 (type * 512 + b.length) ++ b

def ascii (s : String) : Bytes := s.toList.map fun ch => BitVec.ofNat 8 ch.toNat

def portText (n : Nat) : Bytes := if n < 10 then [BitVec.ofNat 8 (48 + n)] else [0x31#8, BitVec.ofNat 8 (38 + n)]

/-- An LLDPDU (R424). -/
def Dev.lldpBytes (d : Dev) (port ttl : Nat) : Bytes :=
  tlv 1 (be 1 4 ++ be 6 Config.macBase) ++ tlv 2 (be 1 7 ++ ascii "FP" ++ portText port) ++ tlv 3 (be 2 ttl) ++
  tlv 4 (ascii "Verrix VX-1440 FP" ++ portText port) ++ tlv 5 Config.serial ++ tlv 7 (be 2 0x80 ++ be 2 0x80) ++
  tlv 8 (be 1 17 ++ be 1 2 ++ be 16 (d.fabric.cfg.addrs.getD port 0) ++ be 1 1 ++ be 4 0 ++ be 1 0) ++ be 2 0

def lldpAddr : Nat := 0x0180C200000E

/-- LLDP_TRANSMIT: four LLDPDUs at 1 s intervals after the port comes up, then one every 30 s (R424). -/
def execLldpTransmit (port : Nat) (s : State) : Out :=
  let x := s.dev.port port
  if !x.up then s.onDev fun _ d => d
  else s.atTime x.lldpNext fun c d =>
    let d := d.modPort port fun y =>
      { y with lldpSent := y.lldpSent + 1, lldpNext := c.time + (if y.lldpSent + 1 < 4 then 1000000000 else 30000000000) }
    d.ownFrame c port true lldpAddr 0x88CC (d.lldpBytes port 120)

/-- Counts stop at their largest value (R456). -/
def bump (n : Nat) : Nat := min (n + 1) 0xFFFFFFFF

/-- A port goes down: its neighbours go, what it was sending is lost, and its flows move to other ports (R420, R423, R425). A PTP port bound
there rebinds once the master has not been heard for three announce intervals (R427). -/
def Dev.portDown (d : Dev) (c : Clock) (port lane : Nat) : Dev :=
  let x := d.port port
  if !x.up then d else
  let d := x.neighbours.foldl (fun (d : Dev) n => d.neighbourGone c port n 3) d
  let d := d.modPort port fun y => { y with up := false, busy := false, queue := [], neighbours := [], resolved := [] }
  d.record c 0x0504 0x0C port none lane 0 0

/-- LLDPDU (R425). -/
def execLldpdu (port : Nat) (n : Neighbour) (s : State) : Out :=
  s.onDev fun c d =>
    let x := d.port port
    if !x.up then d else
    let mine := fun (k : Neigh) => k.chassis == n.chassis && k.portId == n.portId
    let e : Neigh := ⟨n.chassis, n.portId, c.time + n.ttl * 1000000000⟩
    if x.neighbours.any mine then
      (if n.ttl = 0 then (d.modPort port fun y => { y with neighbours := y.neighbours.filter fun k => !mine k }).neighbourGone c port e 2
       else d.modPort port fun y => { y with neighbours := modIf mine (fun _ => e) y.neighbours })
    else if n.ttl = 0 then d
    else if 8 ≤ x.neighbours.length then d.modPort port fun y => { y with errors := bump y.errors }
    else (d.modPort port fun y => { y with neighbours := y.neighbours ++ [e] }).record c 0x0501 0x0C port none n.chassis n.portId 0

/-- LLDP_TTL_EXPIRY (R425). -/
def execLldpTtlExpiry (port i : Nat) (s : State) : Out :=
  match (s.dev.port port).neighbours[i]? with
  | none => s.onDev fun _ d => d
  | some n => s.atTime n.expires fun c d =>
      (d.modPort port fun y => { y with neighbours := y.neighbours.eraseIdx i }).neighbourGone c port n 1

/-! ### Neighbour discovery and echo (R422) -/

/-- The address belongs to the port. -/
def Dev.ownAddr (d : Dev) (port a : Nat) : Bool := (d.port port).up && a != 0 && d.fabric.cfg.addrs.getD port 0 == a

/-- NEIGHBOR_SOLICITATION: answered for the port's own address (R422). The sender's MAC address is open: a free value (log 8). -/
def execNeighborSolicitation (port target src : Nat) (s : State) : Out :=
  s.onDev fun c d =>
    if !d.ownAddr port target then d
    else d.fresh.ownFrame c port false (Config.freeNat d.free 0 % 2 ^ 48) 0x86DD (icmp target src
      (be 1 136 ++ be 3 0 ++ be 4 0x60000000 ++ be 16 target ++ be 1 2 ++ be 1 1 ++ be 6 (Config.macBase + port)))

/-- ECHO_REQUEST (R422). The sender's MAC address is open: a free value (log 8). -/
def execEchoRequest (port dst src : Nat) (data : List Byte) (s : State) : Out :=
  s.onDev fun c d =>
    if !d.ownAddr port dst then d
    else d.fresh.ownFrame c port false (Config.freeNat d.free 0 % 2 ^ 48) 0x86DD (icmp dst src (be 1 129 ++ be 3 0 ++ data))

/-- NEIGHBOR_ADVERTISEMENT: a peer's address is resolved on a port that its record names (R422). -/
def execNeighborAdvertisement (port target : Nat) (s : State) : Out :=
  s.onDev fun _ d =>
    if (d.port port).up && d.fabric.cfg.peers.any (fun (k : Peer) => k.addr == target && bitAt k.ports port) then
      d.modPort port fun y => { y with resolved := if y.resolved.contains target then y.resolved else y.resolved ++ [target] }
    else d

/-! ### Frames and gates (R448, R452, R455) -/

/-- FRAME_TRANSMISSION_END: the frame on the wire ends and the next one starts at that instant (R448). -/
def execFrameTransmissionEnd (port : Nat) (s : State) : Out :=
  let x := s.dev.port port
  if x.busy then s.atTime (ceilDiv x.endsAt 200) fun c d => (d.modPort port fun y => { y with busy := false }).kickAt c port x.endsAt
  else s.onDev fun c d => d.kick c port

/-- The gates of a port take their next entry's state; a fallback of R455 ends once PTP has returned. Of boundaries that a forward
correction has passed, one is made (R29). -/
def Dev.gateBoundary (d : Dev) (c : Clock) (port : Nat) : Dev :=
  (d.modPort port fun y =>
    { y with fallback := y.fallback && c.timeLost, sched := y.schedAt c.time, gateDone := max y.gateDone c.time,
             nextSched := match y.nextSched with
               | some g => if g.start ≤ c.time then none else some g
               | none => none }).kick c port

/-- GATE_ENTRY_BOUNDARY (R452, R455). -/
def execGateEntryBoundary (port : Nat) (s : State) : Out :=
  match (s.dev.port port).dueBoundary with
  | none => s.onDev fun _ d => d
  | some t => s.atTime t fun c d => d.gateBoundary c port

/-! ### PTP (R426 to R430) -/

/-- The order of the default best master clock algorithm, then the lower port (R427). -/
def Master.key (k : Master) : Nat :=
  (((((k.m.priority1 * 2 ^ 32 + k.m.clockQuality) * 256 + k.m.priority2) * 2 ^ 64 + k.m.grandmaster) * 2 ^ 16 + k.m.stepsRemoved) * 2 ^ 80 +
    k.m.source) * 16 + k.port

/-- 2^k seconds in ns, for −7 ≤ k ≤ 4. -/
def intervalNs (k : Int) : Nat := if k < 0 then 1000000000 / 2 ^ (-k).toNat else 1000000000 * 2 ^ k.toNat

def Master.expires (k : Master) : Nat := k.heard + 3 * intervalNs k.m.logInterval

/-- Binds to the best master there is; a rebinding starts its measurements again (R427). -/
def Ptp.rebind (x : Ptp) : Ptp :=
  let best := (sortBy Master.key x.masters).head?.map fun k => (k.port, k.m.source)
  if best == x.bound then x else { x with bound := best, sync := none, lastSync := none, reqAt := none, good := 0 }

/-- Enters the time-lost state: causes 1 no Announce, 2 offset (R428, R429); every gate but replication's is open from here on (R455). -/
def loseTime (c : Clock) (d : Dev) (cause : Nat) : Clock × Dev :=
  if c.timeLost then ({ c with ptpLocked := false }, d) else
  let c' : Clock := { c with timeLost := true, ptpLocked := false }
  let off := ofSigned 64 d.fabric.ptp.offset
  (c', ((d.record c' 0x0402 0 0 none cause off 0).modFabric fun f => { f with ptp := { f.ptp with lostAt := c.time, good := 0 } }).kickAll c')

/-- Runs an effect that changes the clock too. -/
def State.onBoth (s : State) (f : Clock → Dev → Clock × Dev) : Out :=
  let r := f s.clock s.dev
  .next { s with clock := r.1, dev := r.2 }

/-- ANNOUNCE (R427). -/
def execAnnounce (port : Nat) (m : PtpMsg) (s : State) : Out :=
  s.onDev fun c d =>
    if !(d.port port).up ∨ m.domain ≠ d.fabric.cfg.ptpDomain ∨ m.logInterval < -3 ∨ 3 < m.logInterval ∨ 255 ≤ m.stepsRemoved then d
    else d.modFabric fun f =>
      let rest := f.ptp.masters.filter fun (k : Master) => !(k.port == port && k.m.source == m.source)
      { f with ptp := ({ f.ptp with masters := rest ++ [⟨port, c.time, m⟩] } : Ptp).rebind }

/-- ANNOUNCE_TIMEOUT: masters not heard for three announce intervals are dropped; the port rebinds, or the time-lost state begins
(R427, R429). -/
def execAnnounceTimeout (s : State) : Out :=
  let x := s.dev.fabric.ptp
  match (sortBy Master.expires x.masters).head? with
  | none => s.onBoth fun c d => loseTime c d 1
  | some k =>
    let c := s.clock.reach k.expires
    ({ s with clock := c } : State).onBoth fun c d =>
      let d := d.modFabric fun f =>
        { f with ptp := ({ f.ptp with masters := f.ptp.masters.filter fun (k : Master) => decide (c.time < k.expires) } : Ptp).rebind }
      if d.fabric.ptp.masters.isEmpty then loseTime c d 1 else (c, d)

/-- Sends a Delay_Req on the bound port, in the transport that is selected (R426; fields and addresses of the standard: PRESUMED, log 39). -/
def Dev.delayReq (d : Dev) (c : Clock) (port : Nat) : Dev :=
  let x := d.fabric.ptp
  let body := be 1 1 ++ be 1 2 ++ be 2 44 ++ be 1 d.fabric.cfg.ptpDomain ++ be 1 0 ++ be 2 0 ++ be 8 0 ++ be 4 0 ++
    be 8 Config.clockIdentity ++ be 2 1 ++ be 2 (x.reqSeq % 65536) ++ be 1 1 ++ be 1 0x7F ++ be 10 0
  let d := d.modFabric fun f => { f with ptp := { x with reqSeq := (x.reqSeq + 1) % 65536, reqAt := some (x.reqSeq, c.time) } }
  if d.fabric.cfg.ptpUdp then
    d.ownFrame c port true 0x333300000181 0x86DD (udp (d.fabric.cfg.addrs.getD port 0) 0xFF0E0000000000000000000000000181 319 body)
  else d.ownFrame c port true 0x011B19000000 0x88F7 body

/-- The gates of a port that has a schedule stay in the fallback until the next entry boundary (R455). -/
def Dev.gatesFallback (d : Dev) (c : Clock) : Dev :=
  d.modFabric fun f => { f with ports := f.ports.map fun (x : Port) => if (x.schedAt c.time).isSome then { x with fallback := true, gateDone := max x.gateDone c.time } else x }

end Sys2Proof.Machine
end

