-- ==== Sys2Proof/Machine/Pauses.lean ====
section
/-! DEFINITION. Pauses of a partition and the progress share (R416 to R418). -/

namespace Sys2Proof.Machine

open Sys2Proof

def hourNs : Nat := 3600000000000

/-- Changes the bucket of an hour of operating time; the window is the last 720 whole hours and the current one. -/
def PauseAcct.inHour (a : PauseAcct) (hour : Nat) (f : PauseHour → PauseHour) : PauseAcct :=
  let l := if a.hours.any fun h => h.hour == hour then a.hours else ⟨hour, 0, 0, 0, 0⟩ :: a.hours
  let newest := l.foldl (fun m (h : PauseHour) => max m h.hour) 0
  { a with hours := modIf (fun (h : PauseHour) => h.hour == hour) f (l.filter fun h => decide (newest ≤ h.hour + 720)) }

/-- Adds started time `[lo, hi)` of operating time, hour by hour. -/
def PauseAcct.addStarted (a : PauseAcct) : Nat → Nat → Nat → PauseAcct
  | 0, _, _ => a
  | n + 1, lo, hi =>
    if hi ≤ lo then a else
    let e := min hi ((lo / hourNs + 1) * hourNs)
    (a.inHour (lo / hourNs) fun h => { h with started := h.started + (e - lo) }).addStarted n e hi

/-- The partition becomes started, or is no longer started. -/
def PauseAcct.setStarted (a : PauseAcct) (op : Nat) (on : Bool) : PauseAcct :=
  let a := match a.startedAt with
    | some t => a.addStarted 1000 (max t (op - 721 * hourNs)) op
    | none => a
  { a with startedAt := if on then some op else none }

def Dev.setStarted (d : Dev) (c : Clock) (p : Nat) (on : Bool) : Dev :=
  d.modPart p fun x => { x with acct := x.acct.setStarted c.opTime on }

/-- A pause of a started partition begins, for the cause of this row of R417. -/
def Dev.pauseStart (d : Dev) (c : Clock) (p cause : Nat) (counted : Bool) : Dev :=
  d.modPart p fun x => { x with acct := { x.acct with running := x.acct.running ++ [⟨c.time, cause, counted⟩] } }

/-- The pause ends: it is recorded and added to its hour (R418). -/
def Dev.pauseEnd (d : Dev) (c : Clock) (p cause : Nat) : Dev :=
  match (d.part p).acct.running.find? fun k => k.cause == cause with
  | none => d
  | some k =>
    let us := (c.time - k.start) / 1000
    let d := d.modPart p fun x =>
      { x with acct := ({ x.acct with running := x.acct.running.erase k } : PauseAcct).inHour (c.opTime / hourNs) fun h =>
          if k.counted then { h with counted := h.counted + us, longest := max h.longest us } else { h with uncounted := h.uncounted + us } }
    d.record c 0x0304 0 0 (some p) k.start c.time (cause + 256 * b2n k.counted)

/-- A pause that began and ended at the same instant of the model. -/
def Dev.pauseNow (d : Dev) (c : Clock) (p cause : Nat) (counted : Bool) : Dev := (d.pauseStart c p cause counted).pauseEnd c p cause

/-- The four sensors of R418: 0 counted time, 1 longest, 2 progress share in parts per million, 3 uncounted time. -/
def PauseAcct.sensor (a : PauseAcct) (op k : Nat) : Nat :=
  let a := match a.startedAt with
    | some _ => a.setStarted op true
    | none => a
  let l := a.hours.filter fun h => decide (op / hourNs ≤ h.hour + 720)
  let counted := sumNat (fun (h : PauseHour) => h.counted) l
  let powered := sumNat (fun (h : PauseHour) => h.started) l
  match k with
  | 0 => counted
  | 1 => l.foldl (fun m (h : PauseHour) => max m h.longest) 0
  | 2 => if powered = 0 then 1000000 else (1000000 * (powered - min powered (counted * 1000))) / powered
  | _ => sumNat (fun (h : PauseHour) => h.uncounted) l

end Sys2Proof.Machine
end

