-- ==== Sys2Proof/Machine/Rings.lean ====
section
/-! DEFINITION. Doorbell polls, descriptor fetch, nudges, moderation, ring faults, stopping and restarting ring sets
(R315, R317, R321 to R326, R332 to R338). -/

namespace Sys2Proof.Machine

open Sys2Proof

/-! ### State of a ring set -/

/-- Polled: running, stopping or faulting (R323). -/
def RingSt.live (s : RingSt) : Bool := s == .running || s == .stopping || s == .faulting

/-- Marks a refused write on the page of a ring set (R335, R337). -/
def Dev.rejectRs (d : Dev) (rs : RsId) : Dev :=
  match rs with
  | .part p _ => d.modPart p fun x => { x with regs := { x.regs with rejected := true } }
  | .mgmt _ => { d with mgmt := { d.mgmt with rejected := true } }

/-- The transport key of the ring set's partition is held (R337). -/
def Dev.hasTransportKey (d : Dev) (rs : RsId) : Bool := !rs.isMgmt && (d.part rs.partNo).keys.transport.isSome

/-- A ring set starts (R315): its indexes and counts are zero, its first poll is due at once (DESIGN CHOICE, log 28). A remote one
starts only with the transport key (R337). -/
def Dev.startRing (d : Dev) (c : Clock) (rs : RsId) : Dev :=
  let r := d.ring rs
  if r.regs.remote && !d.hasTransportKey rs then
    (d.modRun rs fun x => { x with st := .idle }).rejectRs rs
  else
    d.modRing rs fun r =>
      { r with run := { RingRun.reset with st := .running, fault := r.run.fault, interval := r.regs.minPoll, nextPoll := c.time },
               inflight := [], entries := [], drain := none, roce := ⟨[], 0, 0, none, 0, false, []⟩ }

/-- The ring set receives its owner's events (R321). -/
def Dev.isEventRing (d : Dev) (rs : RsId) : Bool :=
  match rs with
  | .part p n => (d.part p).regs.eventRing == n
  | .mgmt n => d.mgmt.eventRing == n

def Dev.heldEvents (d : Dev) (rs : RsId) : Bool :=
  d.isEventRing rs && (match rs with
    | .part p _ => !(d.part p).ev.held.isEmpty
    | .mgmt _ => !d.mgmt.ev.held.isEmpty)

/-- The partition of a ring set lets it work: started or draining, and bus mastering (R317, R398, R400). -/
def Dev.ringServed (d : Dev) (rs : RsId) : Bool :=
  match rs with
  | .part p _ => let l := (d.part p).life
                 l.st == .started || l.st == .draining
  | .mgmt _ => true

/-! ### Ring faults (R332) -/

/-- Completions of in-flight requests are written for this cause. -/
def causeWrites (cause : Nat) : Bool := cause == 1 || cause == 3 || cause == 4

/-- The payload of R330. -/
def ringFaultBytes (rs : RsId) (run : RingRun) : Bytes :=
  le 1 rs.num ++ le 1 run.failCause ++ zeros 2 ++ le 4 run.failValue ++ le 8 run.failAddr ++ le 8 run.failTime

/-- Faulted: FAULT takes the cause and the fault is reported. -/
def Dev.becomeFaulted (d : Dev) (c : Clock) (rs : RsId) : Dev :=
  let d := d.modRing rs fun r => { r with run := { r.run with st := .faulted, fault := r.run.failCause, pollOut := false }, drain := none }
  let run := (d.ring rs).run
  match rs with
  | .part p _ => d.postEvent c p 4 (ringFaultBytes rs run)
  | .mgmt n => d.record c 0x0308 0 0 none (n + 256 * run.failCause) run.failValue run.failAddr

/-- Enters faulting: fetching stops, and waiting entries that the cause leaves unwritten are dropped (R332, R446). A
stopped ring set faults when the write of its drain record fails (R317). -/
def Dev.ringFault (d : Dev) (c : Clock) (rs : RsId) (cause value addr : Nat) : Dev :=
  let r := d.ring rs
  if r.run.st ≠ .running ∧ r.run.st ≠ .stopping ∧ ¬(r.run.st = .stopped ∧ cause = 5) then d else
  d.modRing rs fun r =>
    { r with run := { r.run with st := .faulting, failCause := cause, failValue := value, failAddr := addr, failTime := c.time },
             entries := if causeWrites cause then r.entries else [],
             dropped := if causeWrites cause then r.dropped else min 0xFFFFFFFF (r.dropped + r.entries.length) }

/-! ### Polls (R323 to R325) -/

/-- Polls the doorbell block (R322, R323). -/
def Dev.poll (d : Dev) (c : Clock) (rs : RsId) : Dev :=
  (d.modRun rs fun x => { x with pollOut := true, pollStart := c.time }).readHost c rs 3 (d.ring rs).regs.doorbell 8

/-- A poll may be made: the ring set is polled, no other poll is outstanding, and its partition lets it work (R323, R393). -/
def Dev.mayPoll (d : Dev) (rs : RsId) : Bool := (d.ring rs).run.st.live && !(d.ring rs).run.pollOut && d.ringServed rs

/-- DOORBELL_POLL: at its time, when no other poll of the ring set is outstanding. The cap of R324 changes only timing. -/
def execDoorbellPoll (rs : RsId) (s : State) : Out :=
  if s.dev.mayPoll rs then s.atTime (s.dev.ring rs).run.nextPoll fun c d => d.poll c rs
  else s.onDev fun _ d => d

/-- `after_poll` of R323. -/
def RingRun.afterPoll (x : RingRun) (minP maxP : Nat) (work : Bool) : RingRun :=
  let y := if work then { x with interval := minP, empty := 0 }
    else if 3 < x.empty + 1 then { x with empty := x.empty + 1, interval := min (2 * x.interval) maxP }
    else { x with empty := x.empty + 1 }
  { y with nextPoll := y.pollStart + y.interval }

/-- A nudge at the present fabric time (R325). -/
def Dev.nudge (d : Dev) (c : Clock) (rs : RsId) : Dev :=
  let st := (d.ring rs).run.st
  if st = .running ∨ st = .stopping then d.modRun rs fun x => { x with nextPoll := min x.nextPoll (c.time + 250) } else d

/-- The ring set that a write to the nudge window names (R325). -/
def nudgeTarget (fn : Fn) (off : Nat) : Option RsId :=
  match fn with
  | .pf => if 0x201000 ≤ off ∧ off < 0x201010 ∧ off % 4 = 0 then some (.mgmt ((off - 0x201000) / 4)) else none
  | .vf n => if 0x200000 + 64 * n ≤ off ∧ off < 0x200000 + 64 * n + 64 ∧ off % 4 = 0 then some (.part n ((off - 0x200000) / 4 % 16)) else none
  | .remote _ _ => none

/-- LOCAL_NUDGE: a write of 4 bytes to the nudge window; a partition that the fabric manager fences takes none (R325, R400). -/
def execLocalNudge (fn : Fn) (off : Nat) (s : State) : Out :=
  s.onDev fun c d => match nudgeTarget fn off with
    | some rs => if d.heard rs then d.nudge c rs else d
    | none => d

/-! ### Descriptor fetch (R317, R321) -/

/-- Whether `n` more descriptors leave slots in hand (R321). -/
def Dev.slotsFor (d : Dev) (rs : RsId) (n : Nat) : Bool :=
  let r := d.ring rs
  let unread := (r.run.cqTail + r.cqSize - r.run.cqHead) % r.cqSize
  decide (unread + r.inFlight + n + 1 + (if d.isEventRing rs then 16 else 0) < r.cqSize)

/-- Descriptors that may be fetched now: at most 16, and none behind an ordered command that has not ended (R317, R344). -/
def Dev.fetchable (d : Dev) (rs : RsId) : Nat :=
  let r := d.ring rs
  if r.run.st != .running || !d.ringServed rs || r.inflight.any (fun q => q.waiting || q.ordered) || r.entries.any (·.ordered) ||
     (match rs with
      | .part p _ => (d.part p).life.reset.isSome || !(d.part p).life.busMaster
      | .mgmt _ => false) then 0
  else
    let avail := min 16 ((r.run.sqTail + r.sqSize - r.run.sqFetch) % r.sqSize)
    (List.range avail).foldl (fun n i => if n = i ∧ d.slotsFor rs (i + 1) then i + 1 else n) 0

/-- Takes descriptors in ring order up to and with the first ordered one (R317, R344). -/
def upToOrdered : List Bytes → List Bytes
  | [] => []
  | b :: l => if fbits b 1 0 0 == 1 then [b] else b :: upToOrdered l

/-- One fetched descriptor takes its SEQUENCE; steps 1 and 2 of R341 may end it at once. -/
def Dev.fetchOne (d : Dev) (c : Clock) (rs : RsId) (b : Bytes) : Dev :=
  let r := d.ring rs
  let n := r.run.fetched
  let found := ((r.run.founds.find? fun e => decide (n < e.1)).map (·.2)).getD c.time
  let q : Req := { seq := n % 2 ^ 32, desc := b, found := found }
  let d := d.modRing rs fun r =>
    { r with inflight := r.inflight ++ [q],
             run := { r.run with fetched := n + 1, sqFetch := (r.run.sqFetch + 1) % r.sqSize,
                                 founds := r.run.founds.filter fun e => decide (n + 1 < e.1) } }
  if q.ordered && decide (1 < (d.ring rs).inFlight) then d
  else match d.staticEnd c ⟨rs, q.seq⟩ q with
    | some e => d.finish c ⟨rs, q.seq⟩ e
    | none => d

/-- Reads `n` descriptors from SQ_FETCH on; past the last ring index it goes on at SQ_BASE (R316). -/
def Dev.readDescs (d : Dev) (c : Clock) (rs : RsId) (n : Nat) : Dev :=
  let r := d.ring rs
  let first := min n (r.sqSize - r.run.sqFetch)
  let d := d.readHost c rs 3 (r.regs.sqBase + 64 * r.run.sqFetch) (64 * first)
  if first < n then d.readHost c rs 3 r.regs.sqBase (64 * (n - first)) else d

/-- DESCRIPTOR_FETCH: the descriptors that a read returned, or none when it failed (R317, R332). -/
def execDescriptorFetch (rs : RsId) (data : Option (List (List Byte))) (s : State) : Out :=
  s.onDev fun c d =>
    let r := d.ring rs
    let n := d.fetchable rs
    if n = 0 then d else
    let addr := r.regs.sqBase + 64 * r.run.sqFetch
    match data with
    | none => (d.readHost c rs 3 addr 64).ringFault c rs 4 0 addr
    | some l =>
      let l := upToOrdered (l.take n)
      l.foldl (fun d b => d.fetchOne c rs b) (d.readDescs c rs l.length)

/-! ### Moderation and unmasking (R326) -/

/-- MODERATION_TIMEOUT: at t₀ + MOD_TIME, as the last entry written took it (R314). -/
def execModerationTimeout (rs : RsId) (s : State) : Out :=
  let r := s.dev.ring rs
  if r.run.pend = 0 then s.onDev fun _ d => d
  else s.atTime (r.run.t0 + r.run.modTime) fun c d => d.notify c rs

/-- MSIX_VECTOR_UNMASK. -/
def execMsixUnmask (fn : Fn) (v : Nat) (s : State) : Out := s.onDev fun _ d => d.unmask fn v

/-! ### Drains (R333, R334) -/

/-- The drain bound of a ring set in ns; 10 ms for a management ring set (R333). -/
def Dev.drainBound (d : Dev) (rs : RsId) : Nat :=
  match rs with
  | .part p _ => (d.part p).regs.drainBound * 1000000
  | .mgmt _ => 10000000

/-- A running ring set stops fetching and drains; a faulting one takes the bound (R332, R333). -/
def Dev.startDrain (d : Dev) (c : Clock) (rs : RsId) (cause : Nat) : Dev :=
  let r := d.ring rs
  let k : Drain := { start := c.time, bound := d.drainBound rs, cause := cause }
  if r.run.st = .running then
    d.modRing rs fun r => { r with run := { r.run with st := .stopping }, drain := some k }
  else if r.run.st = .faulting ∧ cause ≠ 0 ∧ r.drain.isNone then d.modRing rs fun r => { r with drain := some k }
  else d

/-- The 32 bytes of a drain record, without PHASE (R334). -/
def drainBytes (c : Clock) (r : RingSet) (cause aborted journaled : Nat) : Bytes :=
  le 1 2 ++ le 1 (if aborted = 0 then statusSUCCESS else 0x21) ++
  le 1 (cause + 4 * b2n (r.run.fetched == 0) + 8 * b2n (!r.run.anyCompleted)) ++ zeros 1 ++ le 2 r.run.sqFetch ++ zeros 2 ++
  le 4 r.run.lastCompleted ++ le 4 (r.run.fetched - 1) ++ le 4 aborted ++ le 4 journaled ++ le 8 c.time

/-- An operation past its point of no return whose carrier a STOP aborted runs on to its end (log 29). -/
def Dev.finishOp (d : Dev) (c : Clock) (p : Nat) (o : LongOp) : Nat → Dev
  | 0 => d
  | n + 1 =>
    match d.active? p o with
    | some k => if k.state = 1 then (d.opUnit c p k none true).finishOp c p o n else d
    | none => d

/-- The carrier of an operation is gone; `stop` tells a STOP, after which the partition goes on (R369, log 29). -/
def Dev.orphan (d : Dev) (c : Clock) (p : Nat) (o : LongOp) (stop : Bool) : Dev :=
  let o' : LongOp := { o with carrier := none }
  let d := d.setOp p o fun _ => o'
  if o'.cancellable then d.opCancel c p o'
  else if stop then d.finishOp c p o' (o'.total + 8) else d

/-- Every request of a ring set that has not ended is aborted without an entry (R333). -/
def Dev.abortRing (d : Dev) (c : Clock) (rs : RsId) (stop : Bool) : Dev :=
  let d := (d.ring rs).inflight.foldl (fun d q =>
    let op := d.carried q
    let d := d.cutSilent ⟨rs, q.seq⟩
    match op with
    | some (p, o) => if o.carrier == some ⟨rs, q.seq⟩ then d.orphan c p o stop else d
    | none => d) d
  d.modRing rs fun r => { r with entries := r.entries.filter fun e => fbits e.bytes 0 2 1 != 0 }

/-- The partition's transition ends when none of its ring sets runs or drains any more; given by Partition (R397, R398). -/
def Part.quiet (x : Part) : Bool := x.rings.all fun r => !r.run.st.live

/-- Once the record of a drain that has ended is written, the ring set is stopped or faulted (R332, R333). -/
def Dev.closeDrain (d : Dev) (c : Clock) (rs : RsId) : Dev :=
  let r := d.ring rs
  if r.drain.any (·.recorded) && r.entries.isEmpty then
    (if r.run.st == .faulting then d.becomeFaulted c rs
     else d.modRing rs fun r => { r with run := { r.run with st := .stopped, pollOut := false }, drain := none })
  else d

/-- A drain ends: what is still open is aborted, the drain record is written where the ring set writes completions, and the
ring set is stopped or faulted; a record that finds no slot waits for a poll, and the ring set with it (R321, R332 to R334). -/
def Dev.endDrain (d : Dev) (c : Clock) (rs : RsId) (k : Drain) : Dev :=
  if k.recorded then d.closeDrain c rs else
  let r := d.ring rs
  let aborted := r.inFlight
  let journaled := (r.inflight.filter (·.journaled)).length + (r.entries.filter (·.journaled)).length
  let faulting := r.run.st == .faulting
  let d := d.abortRing c rs (k.cause == 0)
  let d := if faulting && !causeWrites r.run.failCause then d
    else d.putEntry c rs { bytes := drainBytes c (d.ring rs) k.cause aborted journaled, now := true }
  let d := (d.modRing rs fun r => { r with drain := some { k with recorded := true } }).closeDrain c rs
  if k.cause = 0 ∧ !rs.isMgmt then d.applyAborted c rs.partNo else d

/-- STOP of a ring set (R333, R400). -/
def Dev.stop (d : Dev) (c : Clock) (rs : RsId) : Dev := if d.heard rs then d.startDrain c rs 0 else d

def execStopRing (rs : RsId) (s : State) : Out := s.onDev fun c d => d.stop c rs

/-- RESTART of a ring set (R335). The host has set bus mastering again before it (R398). -/
def Dev.restart (d : Dev) (c : Clock) (rs : RsId) : Dev :=
  let r := d.ring rs
  let st := r.run.st
  match rs with
  | .part p _ =>
    if (st = .stopped ∨ st = .faulted) ∧ r.regs.enable ∧ (d.part p).life.st = .started then
      ((d.modPart p fun x => { x with life := { x.life with busMaster := true } }).startRing c rs).flushRing c rs
    else d.rejectRs rs
  | .mgmt _ =>
    if (st = .idle ∨ st = .stopped ∨ st = .faulted) ∧ r.regs.enable ∧ d.mgmt.stage = 9 then (d.startRing c rs).flushRing c rs
    else d.rejectRs rs

def execRestartRing (rs : RsId) (s : State) : Out := s.onDev fun c d => d.restart c rs

end Sys2Proof.Machine
end

