-- ==== Sys2Proof/Machine/FailCore.lean ====
section
/-! DEFINITION. Retiring units under the generation fence, spares, sensors of spares, and what a failure does to requests in
flight (R391 to R396, R457 to R469). -/

namespace Sys2Proof.Machine

open Sys2Proof

/-! ### Kinds of unit (R465) -/

/-- Units of a kind in the module. -/
def kindTotal : Nat → Nat
  | 1 => 160
  | 2 => 264
  | 3 => 32
  | 4 => 32
  | 6 => 320
  | 7 => 2560
  | 8 => 64
  | 10 => 64
  | 11 => 32
  | _ => 0

/-- Units of a kind in service: neither retired nor standing by. -/
def Dev.inService (d : Dev) (k : Nat) : Nat :=
  kindTotal k - (d.units.retired.filter fun e => e.1 == k).length - (d.units.spares k).length

/-- Sensor 0x0520 + k (R469). -/
def Dev.sparesLeft (d : Dev) (k : Nat) : Nat :=
  if k = 1 ∨ k = 2 then (d.units.spares k).length
  else if k = 5 ∨ k = 6 then d.reserve.length
  else if k = 7 then (d.channels.filter fun (x : Channel) => !x.spareUsed && !x.lost).length
  else 0

/-- A PlatformEventMessage of a numeric sensor for the event receiver (R469). -/
def Dev.tellSensor (d : Dev) (id val : Nat) : Dev := if d.power.receiver.isSome then d.emit (.pldm (le 2 id ++ le 4 val)) else d

/-- Tells the event receiver of every spare count that changed since `old` (R469). -/
def Dev.tellSpares (d old : Dev) : Dev :=
  let d := [1, 2, 5, 6, 7].foldl (fun (d : Dev) k =>
    if d.sparesLeft k = old.sparesLeft k then d else d.tellSensor (0x0520 + k) (d.sparesLeft k)) d
  if d.reserve.length = old.reserve.length then d else d.tellSensor 0x0540 d.reserve.length

/-- Kind and index in one word (R473). -/
def unitWord (u : Option (Nat × Nat)) : Nat :=
  match u with
  | some (k, i) => k * 2 ^ 24 + i
  | none => 0xFFFFFFFF

/-- A read that a stack's base die stops returns a poisoned line: the request that it serves ends with DATA_POISONED (R209, R389). A write
is dropped, a read that a storage die stops is rebuilt as an unreadable page is (R270), and what a routing table or a context-pool bank
drops is replayed with the unit's other work: none of these changes more here. Which request the access served, and whether it read, are
open: free values (log 8). -/
def Dev.tagStops (d : Dev) (c : Clock) (kind index : Nat) : Dev :=
  let baseDie := kind == 5 || kind == 6 || (kind == 13 && decide (1 ≤ index) && decide (index ≤ 20))
  let p := Config.freeNat d.free 5 % 64
  let l := ((d.part p).admittedReqs p).filter fun e => match e.2.work with
    | .carrier _ _ => false
    | _ => true
  match l[Config.freeNat d.free 6 % max 1 l.length]? with
  | some e =>
    let subs := match e.2.work with
      | .searches s => s.length
      | _ => 1
    if baseDie && Config.freeNat d.free 7 % 2 == 0 then Dev.endServed c d e.1 (Config.freeNat d.free 8 % max 1 subs) false statusPOISON else d
  | none => d

/-- A tag failure marks a hardware fault of the unit that produced the tag: it is recorded and reported with the checking unit, the
partition expected and the tag carried; the access never reaches its data (R388 to R390, R473). Which unit checked, and the tag, are open: free values (log 8). -/
def Dev.tagFailure (d : Dev) (c : Clock) (k i : Nat) : Dev :=
  let kind := 1 + Config.freeNat d.free 1 % 13
  let index := Config.freeNat d.free 2 % 65536
  ((d.tagStops c kind index).record c 0x0307 kind index (some (Config.freeNat d.free 3 % 64)) (Config.freeNat d.free 4 % 128)
    (unitWord (some (k, i))) 0).fresh

/-- The cause for which a unit is declared failed, one of those that R457 gives its kind or a tag failure (R390): which one a failure has
is open, a free value (log 8). A tag failure is reported first. -/
def Dev.declared (d : Dev) (c : Clock) (k i : Nat) (causes : List Nat) : Dev × Nat :=
  let n := (causes ++ [4]).getD (Config.freeNat d.free 0 % (causes.length + 1)) 4
  ((if n = 4 then d.fresh.tagFailure c k i else d.fresh), n)

/-- Retires a unit and records it; `repl` is the spare that takes its place (R461, R463, R473). -/
def Dev.retireUnit (d : Dev) (c : Clock) (k i cause : Nat) (repl : Option (Nat × Nat)) : Dev :=
  if d.units.isRetired k i then d else
  let before := d.units.gen k i
  let u := d.units.retire k i
  let u : Units := match repl with
    | some e => { u with spare := u.spare.filter fun s => s != e }
    | none => u
  (({ d with units := u } : Dev).record c 0x0101 k i none cause (unitWord repl) before).tellSpares d

/-- A failure of a kind that has spares finds none left (R473; when it is written is a DESIGN CHOICE, log 31). -/
def Dev.sparesOut (d : Dev) (c : Clock) (k : Nat) : Dev := d.record c 0x0103 k 0 none (d.inService k) 0 0

/-- A retired unit returns to service as a spare with a raised generation (R464). -/
def Dev.returnUnit (d : Dev) (c : Clock) (k i stage : Nat) : Dev :=
  if !d.units.isRetired k i ∨ d.units.gen k i = 0xFFFF then d else
  let u := d.units.raise k i
  let u : Units := { u with retired := u.retired.filter fun e => e != (k, i),
                            spare := if k = 1 ∨ k = 2 then u.spare ++ [(k, i)] else u.spare }
  (({ d with units := u } : Dev).record c 0x0102 k i none stage 0 0).tellSpares d

/-! ### Requests in flight (R394) -/

/-- What becomes of a request whose partition's tiles or bank engines were reset (R394): updates and searches are replayed, a command
before its point of no return runs again from its descriptor, which is no replay, and every other goes on from where it stands. -/
def Dev.reclassify (d : Dev) (r : ReqRef) (q : Req) : Dev :=
  match q.work with
  | .searches _ => d.loseState r
  | .upd _ => d.loseState r
  | .train m v _ => if q.ponr then d else (d.dropRows r 0).modReq r fun y => { y with work := .model m v [] }
  | _ => if q.ponr then d else d.dropRows r 0

def Dev.reclassifyAll (d : Dev) (p : Nat) : Dev :=
  ((d.part p).admittedReqs p).foldl (fun d e => d.reclassify e.1 e.2) d

/-- The requests of every partition that a test selects lose their state and are replayed (R132, R457). -/
def Dev.loseWhere (d : Dev) (f : Req → Bool) : Dev :=
  (List.range 64).foldl (fun d p => ((d.part p).admittedReqs p).foldl (fun d e => if f e.2 then d.loseState e.1 else d) d) d

/-- The queued and running command groups of a partition are discarded and its channels enter memory mode (R393). -/
def Dev.dropGroups (d : Dev) (p : Nat) : Dev :=
  (d.part p).life.chans.foldl (fun d ch =>
    let d := (d.chan ch).running.foldl (fun (d : Dev) (g : Group) => d.dropToken (ch / 16) g.part) d
    d.modChan ch fun y => { y with queue := [], running := [], mode := .memory, oldest := none, windowEnd := none, closed := false }) d

/-! ### Sites (R144, R465) -/

/-- The site that replaces a failed one: the lowest-numbered spare, or the lowest enabled site that no partition holds. -/
def Dev.pickSite (d : Dev) : Option Nat :=
  match sortBy id (d.units.spares 1) with
  | t :: _ => some t
  | [] => (List.range 160).find? fun t => !d.units.isRetired 1 t && !(d.parts.any fun (x : Part) => x.life.sites.contains t)

/-- Retires a site of a partition's group; a spare takes its position. Answers false when no site is left (R144, R463). -/
def Dev.spareSite (d : Dev) (c : Clock) (p t cause : Nat) : Dev × Bool :=
  let repl := d.pickSite
  let d := (d.retireUnit c 1 t cause (repl.map fun s => (1, s))).modTile t fun _ => Tile.reset
  match repl with
  | some s => ((d.modPart p fun x => { x with life := { x.life with sites := x.life.sites.map fun u => if u = t then s else u } }).modTile s
      fun _ => Tile.reset, true)
  | none => ((d.sparesOut c 1).modPart p fun x => { x with life := { x.life with sites := x.life.sites.map fun u => if u = t then 160 else u } },
      false)

/-- A counted pause of a started partition that is not in a reset (R417, R466). -/
def Dev.shortPause (d : Dev) (c : Clock) (p cause : Nat) : Dev :=
  let l := (d.part p).life
  if (l.st == .started || l.st == .draining) && l.reset.isNone then d.pauseNow c p cause true else d

end Sys2Proof.Machine
end

