-- ==== Sys2Proof/Machine/Partition.lean ====
section
/-! DEFINITION. The life of a partition: OPEN, START, DISABLE, CLOSE, keys, drains, Function Level Reset, fence, release and the
partition reset (R312, R313, R333, R369, R384, R385, R391 to R407). -/

namespace Sys2Proof.Machine

open Sys2Proof

def Dev.modLife (d : Dev) (p : Nat) (f : PartLife → PartLife) : Dev := d.modPart p fun x => { x with life := f x.life }
def Dev.modKeys (d : Dev) (p : Nat) (f : Keys → Keys) : Dev := d.modPart p fun x => { x with keys := f x.keys }
def Dev.rejectPart (d : Dev) (p : Nat) : Dev := d.modPart p fun x => { x with regs := { x.regs with rejected := true } }

/-! ### DRAM contents that are lost and reloaded (R247, R385, R399) -/

/-- DRAM objects that a flash copy restores. -/
def Part.kept (x : Part) (a : Nat) : Bool :=
  x.objs.any fun o => ckptKind o.kind && decide (o.first * windowBytes ≤ a) && decide (a < o.first * windowBytes + o.size)

/-- The DRAM contents of a partition are lost. With table journaling the structure records hold every write-back, so that the
copy on flash is current; otherwise it is the last checkpoint (R258, R260). -/
def Part.loseDram (x : Part) : Part :=
  let ckpt := if x.feat.place.tableJournal || x.cfg.repro then x.mem.ckpt.overlay x.mem.dram x.kept else x.mem.ckpt
  let copies := if x.feat.place.tableJournal || x.cfg.repro then x.models.map fun k => (k.id, k.copy) else x.mem.ckptCopies
  { x with mem := { x.mem with dram := [], poison := [], staged := [], ckpt := ckpt, ckptCopies := copies }, scratch := [], scratchBad := [], hot := ⟨[], 0, []⟩,
           life := { x.life with dramValid := false } }

/-- DRAM contents are reloaded from flash: tables, tensors and their optimiser state from their checkpoints or packages, indexes from
their images and the journal; the working copy of a model that is current is the one of its checkpoint (R128, R187, R201, R247, R385). -/
def Part.reload (x : Part) : Part :=
  let copy := fun (k : Model) => ({ k with copy := ((x.mem.ckptCopies.find? fun e => e.1 == k.id).map (·.2)).getD false } : Model)
  let clean := fun (i : Index) => ({ i with dirBad := [], graphs := i.graphs.map fun (g : Graph) =>
    { g with nodes := g.nodes.map fun (n : Node) => if i.lostRanges.contains (n.slot / 512) then n
                                                   else { n with sketchPoison := false, listPoison := false } } } : Index)
  { x with mem := { x.mem with dram := x.mem.ckpt.filter fun e => x.kept e.1, poison := [], staged := [] },
           scratch := [], scratchBad := [], hot := ⟨[], 0, []⟩, idx := x.idx.map clean, models := x.models.map copy, life := { x.life with dramValid := true } }

/-! ### Resources of the composition (R383 to R385, R442) -/

def setOf (n v : Nat) : List Nat := (List.range n).filter (bitAt v)
def sameSet (a b : List Nat) : Bool := a.all b.contains && b.all a.contains

/-- A tile site is zeroed before another partition uses it (R385). -/
def Dev.giveSites (d : Dev) (p : Nat) (sites : List Nat) : Dev :=
  let old := (d.part p).life.sites
  let d := sites.foldl (fun (d : Dev) t => if old.contains t then d else d.modTile t fun _ => Tile.reset) d
  -- a site belongs to one group at any moment
  let d := (List.range 64).foldl (fun (d : Dev) q =>
    if q = p ∨ !((d.part q).life.sites.any sites.contains) then d
    else d.modLife q fun l => { l with sites := l.sites.filter fun t => !sites.contains t }) d
  d.modLife p fun l => { l with sites := sites }

/-- A channel is zeroed before another partition uses it: a closed partition whose contents it held loses them (R385). -/
def Dev.giveChannel (d : Dev) (p ch : Nat) : Dev :=
  let d := match (d.chan ch).dirty with
    | some q => if q = p then d else d.modPart q fun x => if x.life.st == PartSt.closed then x.loseDram else x
    | none => d
  d.modChan ch fun y => { y with dirty := some p, queue := [], running := [], mode := .memory, oldest := none, windowEnd := none }

/-- The channels that a partition takes leave the list of every other one: a channel belongs to one partition at any moment (R205). -/
def Dev.leaveChannels (d : Dev) (p : Nat) (chans : List Nat) : Dev :=
  (List.range 64).foldl (fun (d : Dev) q =>
    if q = p ∨ !((d.part q).life.chans.any chans.contains) then d
    else d.modPart q fun x => { x.loseDram with life := { x.life with chans := x.life.chans.filter fun ch => !chans.contains ch, dramValid := false } }) d

def Dev.giveChannels (d : Dev) (p : Nat) (chans : List Nat) : Dev :=
  if (d.part p).life.chans = chans then d else
  let d := (chans.foldl (fun (d : Dev) ch => d.giveChannel p ch) d).leaveChannels p chans
  d.modPart p fun x => { x.loseDram with life := { x.life with chans := chans, unfilled := [], dramValid := false } }

/-- Puts a composition record in force for a partition that is closed, or was never there (R384, R442). A list that names the
same units, or the list in force, keeps its positions. -/
def Dev.applyCfg (d : Dev) (p : Nat) (k : PartCfg) : Dev :=
  let x := d.part p
  let sites := setOf 160 k.sites
  let chans := setOf 320 k.channels
  let d := d.giveSites p (if k.sites = x.cfg.sites ∨ sameSet sites x.life.sites then x.life.sites else sites)
  let d := d.giveChannels p (if k.channels = x.cfg.channels ∨ sameSet chans x.life.chans then x.life.chans else chans)
  d.modPart p fun x =>
    { x with cfg := k, next := none,
             objs := (if k.present then [stagingObj k.stagingGib] else []) ++ x.objs.filter fun o => o.kind != .staging }

/-- Another partition that is not closed holds in force a site or channel that a record gives (R205, R384). -/
def Dev.heldElsewhere (d : Dev) (p : Nat) (k : PartCfg) : Bool :=
  (indexed d.parts).any fun x => x.1 != p && x.2.life.st != .closed &&
    (x.2.life.sites.any (bitAt k.sites) || x.2.life.chans.any (bitAt k.channels))

/-- A record takes effect in a closed partition: at once, or once what it gives is no longer held (R205, R384). -/
def Dev.takeCfg (d : Dev) (p : Nat) (k : PartCfg) : Dev :=
  if d.heldElsewhere p k then d.modPart p fun x => { x with next := some k } else d.applyCfg p k

/-- Changes that waited for the close take effect, here and in closed partitions that waited for what this one held (R384). -/
def Dev.applyNext (d : Dev) (p : Nat) : Dev :=
  let one := fun (d : Dev) (q : Nat) => match (d.part q).next with
    | some k => if (d.part q).life.st = .closed then d.takeCfg q k else d
    | none => d
  (List.range 64).foldl one (one d p)

/-! ### Keys (R402 to R406) -/

/-- Takes a transport key; what was accepted and answered under the old one is forgotten (R434). -/
def Dev.newTransport (d : Dev) (p : Nat) (k : Option Bytes) : Dev :=
  (d.modKeys p fun y => { y with transport := k }).modTransport p fun t => { t with windows := [], answers := [] }

/-- Zeroises a partition's keys (R406). -/
def Dev.zeroise (d : Dev) (p : Nat) : Dev :=
  (d.modKeys p fun y => { y with owner := none, media := none }).newTransport p none

/-- KEY_LOAD: takes KEY_DATA and zeroes it in every case (R313, R405). -/
def Dev.keyLoad (d : Dev) (c : Clock) (p sel : Nat) : Dev :=
  let x := d.part p
  let key := x.regs.keyData
  let d := d.modPart p fun y => { y with regs := { y.regs with keyData := zeros 32 } }
  if 2 ≤ sel ∨ (x.life.st ≠ .closed ∧ x.life.st ≠ .opened) then d.rejectPart p
  else if sel = 1 then d.newTransport p (some key)
  else
    let d := match x.life.st, x.keys.media, x.keys.record with
      | PartSt.opened, some (media : Bytes), some (r : WrapRec) => d.writeRecord c p r.gen 1 (r.count + 1) key media
      | _, _, _ => d
    d.modKeys p fun y => { y with owner := some key }

/-- KEY_LOAD (R313). A partition that the fabric manager fences takes no set-up write (R400). -/
def execKeyLoad (p sel : Nat) (s : State) : Out :=
  s.onDev fun c d => if (d.part p).barred then d else d.keyLoad c p sel

/-! ### OPEN, START, CLOSE (R397, R399, R404) -/

/-- A FORMAT or SANITISE past its point of no return goes on when the partition opens, in the state it was in: a running one to its end,
before any descriptor is fetched (R369, R379; DESIGN CHOICE, log 129). -/
def Dev.continueOps (d : Dev) (c : Clock) (p : Nat) : Dev :=
  ((d.part p).ops.filter fun o => o.outlasts && o.state == 1 && o.carrier.isNone).foldl (fun (d : Dev) (o : LongOp) => d.finishOp c p o (o.total + 8)) d

/-- The partition opens with its media key held: contents reloaded, epoch resumed, journal applied, a FORMAT or SANITISE continued (R112,
R128, R379, R404). -/
def Dev.opened (d : Dev) (c : Clock) (p : Nat) (first : Bool) : Dev :=
  let d := d.modPart p fun x =>
    let x : Part := if x.life.dramValid then x else x.reload.loseRanges d.flash p (List.range x.life.chans.length)
    let v : Vis := if first then ⟨100000, (c.time / 100000 + 1) * 100000, 0, 0, 0⟩ else x.vis
    let v : Vis := if first then v else { v with cur := max (v.byTime c.time) (v.highest + 1), highest := max (v.byTime c.time) (v.highest + 1) }
    { x with vis := v, life := { x.life with st := .opened, everOpened := true } }
  ((d.recoverJournal c p).modPart p fun y => { y with mem := { y.mem with ckptFrom := c.time } }).continueOps c p

/-- OPEN (R404). -/
def Dev.openPart (d : Dev) (c : Clock) (p : Nat) : Dev :=
  let x := d.part p
  match x.keys.owner with
  | none => d.rejectPart p
  | some key =>
    if x.life.st ≠ .closed ∨ d.mgmt.stage ≠ 9 ∨ d.power.mode ≠ .up ∨ !x.cfg.present then d.rejectPart p
    else match x.keys.record with
      | none => (d.newMediaKey c p 1).opened c p true
      | some r =>
        if r.alg = 0 then (d.newMediaKey c p r.gen).opened c p false
        else if r.owner = key then (d.modKeys p fun y => { y with media := some r.media }).opened c p false
        else (d.modKeys p fun y => { y with owner := none }).modPart p fun y => { y with regs := { y.regs with keyRefused := true } }

def execOpenPart (p : Nat) (s : State) : Out := s.onDev fun c d => if (d.part p).barred then d else d.openPart c p

/-- Features at a start (R51, R255, R312). -/
def Features.atStart (repro : Bool) : Features :=
  { Features.reset with place := { Features.reset.place with tableJournal := repro } }

/-- START (R312, R315, R397); the sizes that come into force evict what they leave no room for (R255). -/
def Dev.startPart (d : Dev) (c : Clock) (p : Nat) : Dev :=
  let x := d.part p
  if x.life.st ≠ .opened then d.rejectPart p else
  let d := d.applyAborted c p
  let d := d.modPart p fun x => (({ x with feat := Features.atStart x.cfg.repro, ev := ⟨0, 0, []⟩,
                                           life := { x.life with st := .started, busMaster := true, flr := false } } : Part).trimStaged).trimHot
  let d := d.setStarted c p true
  (List.range 16).foldl (fun (d : Dev) n =>
    if (d.ring (.part p n)).regs.enable then (d.startRing c (.part p n)).flushRing c (.part p n)
    else d.modRun (.part p n) fun r => { r with st := .idle }) d

def execStartPart (p : Nat) (s : State) : Out := s.onDev fun c d => if (d.part p).barred then d else d.startPart c p

/-- CLOSE: durable writes, checkpoints, then the keys go (R399); changes that waited for the close take effect (R384). -/
def Dev.closePart (d : Dev) (c : Clock) (p : Nat) : Dev :=
  if (d.part p).life.st ≠ .opened then d.rejectPart p else
  let d : Dev := { d with flash := (d.flash.flushPart p).1 }
  let d := d.checkpoint c p
  let d : Dev := { d with flash := (d.flash.flushPart p).1 }
  let d := (d.zeroise p).modPart p fun x => { x with fwBuf := [], fwLen := 0, life := { x.life with st := .closed, keyAtFence := false } }
  d.applyNext p

def execClosePart (p : Nat) (s : State) : Out := s.onDev fun c d => if (d.part p).barred then d else d.closePart c p

/-! ### DISABLE and Function Level Reset (R333, R369, R398, R401) -/

/-- Register fields of the function that a Function Level Reset resets (R311, R314, R398). -/
def Part.flrRegs (x : Part) : Part :=
  let rr := fun (g : RingRegs) => ({ g with modCount := 16, modTime := 1000, minPoll := 250, maxPoll := 100000 } : RingRegs)
  { x with regs := { x.regs with eventEnable := 0x1F, keyData := zeros 32 }, msix := List.replicate 16 MsixVec.reset,
           rings := x.rings.map (fun (r : RingSet) => { r with regs := rr r.regs }), life := { x.life with busMaster := false } }

/-- Operations end as at a disable: past its point of no return one waits for the next open, every other is cancelled (R369). -/
def Dev.endOps (d : Dev) (c : Clock) (p : Nat) : Dev := d.cancelOps c p fun o => o.opcode != opRemat

/-- A transition ends once no ring set of the partition works any more (R397, R398). -/
def Dev.settlePart (d : Dev) (c : Clock) (p : Nat) : Dev :=
  let x := d.part p
  if x.life.st ≠ .draining ∨ !x.quiet then d
  else
    let d := (d.endOps c p).pauseEnd c p 8
    if x.life.flr then (d.applyAborted c p).modPart p fun y => ({ y with life := { y.life with st := .started, flr := false } } : Part).flrRegs
    else (d.setStarted c p false).modLife p fun l => { l with st := .opened }

/-- Every running ring set drains (R333). -/
def Dev.drainAll (d : Dev) (c : Clock) (p cause : Nat) : Dev :=
  (List.range 16).foldl (fun (d : Dev) n => d.startDrain c (.part p n) cause) d

/-- DISABLE of a partition; during a partition reset it waits for the end of the reset, during a Function Level Reset's drain it
is ignored and refused (R312, R397, R401). -/
def Dev.disablePart (d : Dev) (c : Clock) (p : Nat) : Dev :=
  let l := (d.part p).life
  if l.st = .started then ((d.modLife p fun l => { l with st := .draining, flr := false }).pauseStart c p 8 false |>.drainAll c p 1).settlePart c p
  else match l.reset with
    | some r => d.modLife p fun l => { l with reset := some { r with after := max r.after 1 } }
    | none => if l.st = .fenced then d else d.rejectPart p

def execDisablePart (p : Nat) (s : State) : Out := s.onDev fun c d => d.disablePart c p

/-- A Function Level Reset of a virtual function (R398, R401). -/
def Dev.flr (d : Dev) (c : Clock) (p : Nat) : Dev :=
  let x := d.part p
  match x.life.st with
  | .closed => ((d.modKeys p fun k => { k with owner := none }).newTransport p none).modPart p Part.flrRegs
  | .opened => d.modPart p Part.flrRegs
  | .started => ((d.modLife p fun l => { l with st := .draining, flr := true }).pauseStart c p 8 false |>.drainAll c p 2).settlePart c p
  | .draining =>
    if x.life.flr then d
    else d.modPart p fun y =>
      let cause := fun (r : RingSet) => ({ r with drain := r.drain.map fun k => if k.cause = 0 then k else { k with cause := 2 } } : RingSet)
      { y with life := { y.life with flr := true }, rings := y.rings.map cause }
  | .fenced =>
    match x.life.reset with
    | some r => d.modLife p fun l => { l with reset := some { r with after := 2 } }
    | none => d.modPart p Part.flrRegs

def execFunctionLevelReset (p : Nat) (s : State) : Out := s.onDev fun c d => d.flr c p

/-- MGMT_FUNCTION_LEVEL_RESET: the management ring sets drain with cause 2 and stop (R333). -/
def execMgmtFunctionLevelReset (s : State) : Out :=
  s.onDev fun c d => (List.range 4).foldl (fun (d : Dev) n => d.startDrain c (.mgmt n) 2) d

/-- The owner of a ring set settles after one of its drains or faults ended. -/
def Dev.settleRs (d : Dev) (c : Clock) (rs : RsId) : Dev := if rs.isMgmt then d else d.settlePart c rs.partNo

/-- DOORBELL_POLL_RETURN: the words of the doorbell block, or none when the read failed (R322, R323, R332). A drain
record that waited for a slot is written, and its drain ends (R333). -/
def execDoorbellPollReturn (rs : RsId) (words : HostRead) (s : State) : Out :=
  s.onDev fun c d =>
    let r := d.ring rs
    if !r.run.pollOut || !r.run.st.live then d else
    let d := d.modRun rs fun x => { x with pollOut := false }
    match words with
    | none => (d.ringFault c rs 3 0 r.regs.doorbell).modRun rs fun x => { x with nextPoll := c.time + r.regs.maxPoll }
    | some b =>
      let tail := fld b 0 2
      let head := fld b 4 2
      let badHead := decide (r.cqSize ≤ head) ||
        decide ((r.run.cqTail + r.cqSize - r.run.cqHead) % r.cqSize < (head + r.cqSize - r.run.cqHead) % r.cqSize)
      let faulting := r.run.st == .faulting
      if !faulting && decide (r.sqSize ≤ tail) then
        (d.ringFault c rs 1 tail 0).modRun rs fun x => x.afterPoll r.regs.minPoll r.regs.maxPoll true
      else if badHead then
        (if faulting then d else d.ringFault c rs 2 head 0).modRun rs fun x => x.afterPoll r.regs.minPoll r.regs.maxPoll true
      else
        let work := (!faulting && tail != r.run.sqFetch) ||
          (head != r.run.cqHead && (!r.entries.isEmpty || d.heldEvents rs)) || decide (0 < r.inFlight)
        let upTo := r.run.fetched + (tail + r.sqSize - r.run.sqFetch) % r.sqSize
        let d := d.modRun rs fun x =>
          let x : RingRun := if faulting || tail == x.sqTail then x
            else { x with sqTail := tail, founds := x.founds ++ [(upTo, x.pollStart)] }
          ({ x with cqHead := head } : RingRun).afterPoll r.regs.minPoll r.regs.maxPoll work
        ((d.flushRing c rs).closeDrain c rs).settleRs c rs

/-- DRAIN_BOUND_EXPIRY (R333). -/
def execDrainBoundExpiry (rs : RsId) (s : State) : Out :=
  match (s.dev.ring rs).drain with
  | none => s.onDev fun _ d => d
  | some k => s.atTime (k.start + k.bound) fun c d => (d.endDrain c rs k).settleRs c rs

/-- DRAIN_COMPLETE: the last request in flight has ended (R333, R334). -/
def execDrainComplete (rs : RsId) (s : State) : Out :=
  s.onDev fun c d =>
    let r := d.ring rs
    match r.drain with
    | none => d
    | some k =>
      if r.inFlight ≠ 0 then d else (d.endDrain c rs k).settleRs c rs

/-- RING_FAULTED: `failed` is the address of a completion entry whose write failed, which faults a running ring set; with
none, or with nothing left in flight, a faulting ring set becomes faulted (R332). -/
def execRingFaulted (rs : RsId) (failed : Option Nat) (s : State) : Out :=
  s.onDev fun c d =>
    let d := match failed with
      | some a => d.ringFault c rs 5 0 a
      | none => d
    let r := d.ring rs
    if r.run.st = .faulting ∧ r.inFlight = 0 then
      (match r.drain with
       | some k => d.endDrain c rs k
       | none => d.becomeFaulted c rs).settleRs c rs
    else d

/-! ### Fence and release (R396, R400) -/

/-- The work in flight of a fenced partition ends: journaled updates are finished internally, operations are suspended, every
other request ends without effect and without a completion (R400). At a reset or a loss of power operations keep the state they are in
(R369, R379). -/
def Dev.fenceWork (d : Dev) (c : Clock) (p : Nat) (suspend : Bool) : Dev :=
  let x := d.part p
  let susp := fun (o : LongOp) => ({ o with state := if o.state = 1 ∧ suspend then 2 else o.state, carrier := none } : LongOp)
  let d := d.modPart p fun y => { y with ops := y.ops.map fun o => if o.active then susp o else o }
  let reqs := (indexed x.rings).flatMap fun r => r.2.inflight.map fun q => ((⟨.part p r.1, q.seq⟩ : ReqRef), q)
  let d := reqs.foldl (fun (d : Dev) e => d.cutSilent e.1) d
  let idle := fun (r : RingSet) => ({ r with run := { r.run with st := .idle, pollOut := false, pend := 0 }, entries := [], drain := none } : RingSet)
  let d := d.modPart p fun y => { y with rings := y.rings.map idle, invs := [], outs := [], remoteHeld := [], rowsHeld := [] }
  (((d.modTransport p fun t => { t with outs := [] }).dropGroups p).stopTiles p).applyAborted c p

/-- Fences a partition; during its reset it stays fenced at the end (R400, R401). Record causes: 1 fabric manager, 2 three resets,
3 reserve, 4 no spare site, 0 a reset or a fatal failure of the module, which writes no such record. -/
def Dev.fencePart (d : Dev) (c : Clock) (p cause : Nat) : Dev :=
  let x := d.part p
  match x.life.reset with
  | some r => (d.modLife p fun l => { l with reset := some { r with stayFenced := true, managed := true } }).record c 0x0306 0 0 (some p) cause 0 0
  | none =>
    if x.life.st = .fenced then d else
    let live := x.life.st == .started || x.life.st == .draining
    let d := if x.life.st = .draining then d.pauseEnd c p 8 else d
    let d := if live then (d.setStarted c p false).pauseStart c p 9 false else d
    let d := (d.modLife p fun l => { l with st := .fenced, flr := false, keyAtFence := x.keys.media.isSome, admitPaused := false }).fenceWork c p (cause != 0)
    if cause = 0 then d else d.record c 0x0306 0 0 (some p) cause 0 0

/-- Releases a fenced partition: retained, or scrubbed (R400, R406). -/
def Dev.releasePart (d : Dev) (c : Clock) (p : Nat) (scrub : Bool) : Dev :=
  let x := d.part p
  let d := d.pauseEnd c p 9
  if scrub then
    let d := (d.zeroise p).modPart p fun y =>
      ({ y.loseDram with fwBuf := [], fwLen := 0 } : Part).forgetOps fun o => o.active && !o.outlasts
    let d := d.modLife p fun l => { l with st := .closed, keyAtFence := false }
    d.applyNext p
  else
    let held := x.life.keyAtFence && x.keys.media.isSome
    let d := d.modLife p fun l => { l with st := if held then .opened else .closed, keyAtFence := false }
    -- a partition that left the map keeps its units until a release with scrub (R442)
    let leaving := match (d.part p).next with
      | some k => !k.present
      | none => false
    if held || leaving then d else d.applyNext p

/-! ### The partition reset (R392 to R396) -/

/-- A trigger of R392: the partition stops, its tiles and bank engines are reset, its requests are classified. -/
def Dev.partReset (d : Dev) (c : Clock) (p trigger : Nat) : Dev :=
  let x := d.part p
  if x.life.st ≠ .started ∨ x.life.reset.isSome then d else
  let recent := c.time :: x.life.resets.filter fun t => decide (c.time < t + 10000000000)
  let d := d.modLife p fun l => { l with st := .fenced, reset := some { start := c.time, trigger := trigger, stayFenced := decide (3 ≤ recent.length), after := 0 }, resets := recent }
  let d := d.pauseStart c p (if trigger = 3 then 7 else 6) (trigger != 3)
  ((d.dropGroups p).stopTiles p).reclassifyAll p

/-- CONTROL_FIRMWARE_HANG (R392). -/
def execControlFirmwareHang (p : Nat) (s : State) : Out := s.onDev fun c d => d.partReset c p 1

/-- ECC_STORM (R392). -/
def execEccStorm (p : Nat) (s : State) : Out := s.onDev fun c d => d.partReset c p 2

/-- RUNAWAY_PROGRAM (R392). -/
def execRunawayProgram (p : Nat) (s : State) : Out := s.onDev fun c d => d.partReset c p 3

/-- PARTITION_RESET_COMPLETE: sites that failed their self-test are spared, the partition is started again or stays fenced, and
what waited for the end of the reset is applied (R393 to R396, R401). -/
def execPartitionResetComplete (p : Nat) (failedSites : List Nat) (s : State) : Out :=
  s.onDev fun c d =>
    match (d.part p).life.reset with
    | none => d
    | some _ =>
      let bad := (d.part p).life.sites.filter failedSites.contains
      let d := bad.foldl (fun (d : Dev) t =>
        let w := d.spareSite c p t 3
        if w.2 then w.1 else w.1.fencePart c p 4) d
      match (d.part p).life.reset with
      | none => d
      | some r =>
        let d := (d.part p).life.sites.foldl (fun (d : Dev) t => d.modTile t fun _ => Tile.reset) d
        let d := d.record c 0x0305 0 0 (some p) r.trigger ((c.time - r.start) / 1000) bad.length
        let d := d.pauseEnd c p (if r.trigger = 3 then 7 else 6)
        if r.stayFenced then
          let d := d.modLife p fun l => { l with reset := none, keyAtFence := (d.part p).keys.media.isSome }
          let d := ((d.setStarted c p false).pauseStart c p 9 false).fenceWork c p true
          if 3 ≤ (d.part p).life.resets.length then d.record c 0x0306 0 0 (some p) 2 0 0 else d
        else
          let d := d.modLife p fun l => { l with st := .started, reset := none }
          let d := (List.range 16).foldl (fun (d : Dev) n => (d.flushRing c (.part p n)).closeDrain c (.part p n)) d
          if r.after = 1 then d.disablePart c p else if r.after = 2 then d.flr c p else d

end Sys2Proof.Machine
end

