-- ==== Sys2Proof/Machine/Tiers.lean ====
section
/-! DEFINITION. Losing channels and stacks, the reserve and re-materialisation (chapter 09: R252 to R263). -/

namespace Sys2Proof.Machine

open Sys2Proof

/-- The 24 bytes of a tier event, with a time and whether that was taken in the time-lost state (R263). -/
def tierBytes (kind stack chans window mib time : Nat) (lost : Bool) : Bytes :=
  le 1 kind ++ le 1 stack ++ le 2 chans ++ le 4 window ++ le 4 mib ++ le 8 time ++ le 1 (b2n lost) ++ zeros 3

/-- Whether some byte of an object lies at one of the positions. -/
def Part.objOn (x : Part) (o : Obj) (lost : List Nat) : Bool :=
  if o.kind = .table then
    match x.tables.find? fun t => t.num == o.owner with
    | some t => (indexed t.channels).any fun e => lost.contains e.2 && decide (8 * e.1 < t.rows)
    | none => false
  else if o.kind = .resident then
    match x.residents.find? fun t => t.window == o.first with
    | some t => (indexed t.chans).any fun e => lost.contains e.2 && decide (8 * e.1 < t.rows)
    | none => false
  else (List.range (min (ceilDiv o.size 4096) (max 1 x.life.chans.length))).any fun j =>
    lost.contains ((j + o.first) % max 1 x.life.chans.length)

/-- Objects that revert to their last checkpoint when the positions are lost (R260). -/
def Part.reverts (x : Part) (lost : List Nat) : List Obj :=
  if x.feat.place.tableJournal || x.cfg.repro then []
  else x.objs.filter fun o => (o.kind == .table || o.kind == .state) && x.objOn o lost

/-- The bytes of an object at the lost positions return to the last checkpoint (R260). -/
def Part.revert (x : Part) (lost : List Nat) (o : Obj) : Part :=
  let sel := fun (a : Nat) => decide (o.first * windowBytes ≤ a) && decide (a < o.first * windowBytes + o.size) && lost.contains (x.posOfByte o a)
  { x with mem := { x.mem with dram := x.mem.dram.overlay x.mem.ckpt sel, poison := x.mem.poison.filter fun l => !sel (64 * l) } }

/-- A request that may hold state in the staging region: staged queries, rows, list versions or folded values (R21, R257). -/
def Req.staged (q : Req) : Bool :=
  match q.work with
  | .none => q.opcode == 0x51
  | .carrier _ _ => false
  | .load _ => false
  | _ => true

/-- Entries of the hot-vector cache on lost channels go; which ones is open: a free value each (R259, log 33). -/
def Part.loseHot (x : Part) (ctr : Nat) : Part :=
  { x with hot := { x.hot with ents := ((indexed x.hot.ents).filter fun e => Config.freeNat ctr (2 ^ 20 + e.1) % 2 == 0).map (·.2) } }

/-- Bytes of DRAM contents that flash restores: indexes with the graphs being built, tables, tensors and their state; not what a load has
only reserved, nor the cache or the staging region (R247, R259). -/
def Part.contents (x : Part) : Nat :=
  sumNat (fun (i : Index) => (i.mib + i.buildMib) * 2 ^ 20) x.idx +
  sumNat (fun (o : Obj) => if o.kind = .staging ∨ o.kind = .stored then 0 else o.size) x.objs

/-- MiB of the contents to re-materialise at `k` of a partition's positions (the share of R248; DESIGN CHOICE, log 32). -/
def Part.shareMib (x : Part) (k : Nat) : Nat := ceilDiv (x.contents * k / max 1 x.life.chans.length) (2 ^ 20)

/-- What is not restored: staging bytes at the lost positions, whose new channels hold zeros, and staged units of flash-homed windows on them;
which of these lay there is open, a free value each (R249, R259, R385, log 33). -/
def Part.loseStaging (x : Part) (ctr : Nat) (lost : List Nat) : Part :=
  let gone := fun (a : Nat) => decide (a < windowBytes) && lost.contains (a / 4096 % max 1 x.life.chans.length)
  let stays := fun (e : Nat × Nat) => Config.freeNat ctr (2 ^ 21 + e.1) % 2 == 0
  { x with mem := { x.mem with dram := x.mem.dram.filter fun e => !gone e.1, poison := x.mem.poison.filter fun l => !gone (64 * l),
                               staged := ((indexed x.mem.staged).filter stays).map (·.2) } }

/-- The re-materialisation of some channels of a stack that were a partition's begins (R259, R263, R369). -/
def Dev.startRemat (d : Dev) (c : Clock) (p stack : Nat) (chans : List Nat) (mib : Nat) (channel : Option Nat) : Dev :=
  let mask := chans.foldl (fun v ch => v + 2 ^ (ch % 16)) 0
  let o : LongOp := ⟨.part p 0, 16 * stack + chans.headD 0 % 16, opRemat, 1, 0, false, 0, mib, none, c.time, 0, false, .remat stack mask mib channel⟩
  d.modPart p fun y => { y with ops := y.ops ++ [o] }

/-- What a partition meets when the channels at some of its positions are lost: requests whose staging lay there are replayed
(which ones is open: a free value each, log 33), objects revert, and the contents are loaded again (R257 to R263). -/
def Dev.rematPart (d : Dev) (c : Clock) (p stack : Nat) (chans lost : List Nat) (channel : Option Nat) : Dev :=
  let x := d.part p
  let mask := chans.foldl (fun v ch => v + 2 ^ (ch % 16)) 0
  let mib := x.shareMib lost.length
  let d := (indexed (x.admittedReqs p)).foldl (fun (d : Dev) e =>
    if e.2.2.staged && Config.freeNat d.free e.1 % 2 == 1 then d.loseState e.2.1 else d) d
  let ctr := d.free
  let d := ((d.modPart p fun y => (y.loseHot ctr).loseStaging ctr lost).fresh).postEvent c p 3 (tierBytes 0 stack mask 0 mib c.time c.timeLost)
  let d := (x.reverts lost).foldl (fun (d : Dev) o =>
    (d.modPart p fun y => y.revert lost o).postEvent c p 3 (tierBytes 2 stack mask o.first 0 x.mem.ckptTime x.mem.ckptLost)) d
  let d := d.modPart p fun y => y.loseRanges d.flash p lost
  (d.startRemat c p stack chans mib channel).shortPause c p 3

/-- A channel and its engines are retired; what was queued on it runs again on its replacement (R259, R461). -/
def Dev.retireChannel (d : Dev) (ch : Nat) : Dev :=
  let u := (List.range 8).foldl (fun (u : Units) g => u.retire 7 (8 * ch + g)) (d.units.retire 6 ch)
  let d := (d.chan ch).running.foldl (fun (d : Dev) (g : Group) => d.dropToken (ch / 16) g.part) d
  let d : Dev := { d with units := u, reserve := d.reserve.filter fun r => r != ch }
  d.modChan ch fun y => { y with lost := true, mode := .memory, running := [], queue := y.queue ++ y.running, windowEnd := none, oldest := none }

/-- The next reserve channel takes a lost channel's position; none leaves the position unfilled (R259, R262). -/
def Dev.fillPosition (d : Dev) (p ch : Nat) : Dev :=
  let pos := (posOf (d.part p).life.chans ch).getD 0
  match sortBy id d.reserve with
  | [] => d.modLife p fun l => { l with unfilled := l.unfilled ++ [pos] }
  | r :: _ =>
    let queue := (d.chan ch).queue
    let d := ({ d with reserve := d.reserve.filter fun y => y != r } : Dev).modChan r fun y => ({ y with dirty := some p, queue := queue } : Channel).turn
    (d.modChan ch fun y => { y with queue := [] }).modLife p fun l => { l with chans := l.chans.map fun y => if y = ch then r else y }

/-- The module's own channels are served first, each by the lowest-numbered reserve channel (R259); the map entries it held are lost until a
scan has rebuilt them (R261). -/
def Dev.fillModule (d : Dev) (ch : Nat) : Dev :=
  let side1 := d.modSide1.contains ch
  let mine := d.modChans.filter fun k => d.modSide1.contains k == side1
  let d : Dev := { d with power := { d.power with scanPending := true },
                          flash := { d.flash with entriesLost := (b2n side1, (posOf mine ch).getD 0, mine.length) :: d.flash.entriesLost } }
  let swap := fun (l : List Nat) (r : Nat) => l.map fun y => if y = ch then r else y
  match sortBy id d.reserve with
  | [] => { d with modChans := d.modChans.filter fun y => y != ch, modSide1 := d.modSide1.filter fun y => y != ch }
  | r :: _ => { d with reserve := d.reserve.filter fun y => y != r, modChans := swap d.modChans r, modSide1 := swap d.modSide1 r }

/-- Channels of one stack are lost (R259 to R263). -/
def Dev.loseChannels (d : Dev) (c : Clock) (stack : Nat) (chs : List Nat) (cause : Nat) (channel : Option Nat) : Dev :=
  let old := d
  let held := (List.range 64).filterMap fun p =>
    let mine := (d.part p).life.chans.filter chs.contains
    if mine.isEmpty then none else some (p, mine, mine.map fun ch => (posOf (d.part p).life.chans ch).getD 0)
  let mods := sortBy id (d.modChans.filter chs.contains)
  let d := chs.foldl Dev.retireChannel d
  let free0 := d.reserve.length
  let firstFree := (sortBy id d.reserve).head?
  let d := mods.foldl Dev.fillModule d
  let d := held.foldl (fun (d : Dev) e => e.2.1.foldl (fun (d : Dev) ch => d.fillPosition e.1 ch) d) d
  let used := free0 - d.reserve.length
  let wanted := mods.length + sumNat (fun (e : Nat × List Nat × List Nat) => e.2.1.length) held
  let mib := sumNat (fun (e : Nat × List Nat × List Nat) => (old.part e.1).shareMib e.2.1.length) held
  let d := match channel with
    | some ch => d.record c 0x0202 6 ch none (if used = 0 then 0xFFFF else firstFree.getD 0xFFFF) mib 0
    | none => d.record c 0x0203 5 stack none cause used (wanted - used)
  let d := held.foldl (fun (d : Dev) e => d.rematPart c e.1 stack e.2.1 e.2.2 channel) d
  let short := (held.filter fun e => !(d.part e.1).life.unfilled.isEmpty).map (·.1)
  let d := if d.reserve.isEmpty || used < wanted then
      d.record c 0x0209 0 0 none d.reserve.length (short.foldl (fun v p => v + 2 ^ p) 0) 0 else d
  (short.foldl (fun (d : Dev) p => d.fencePart c p 3) d).tellSpares old

/-- STACK_LOST: the channels of the stack that still stand are lost together (R259, R457). -/
def Dev.loseStack (d : Dev) (c : Clock) (s cause : Nat) : Dev :=
  if 20 ≤ s ∨ d.units.isRetired 5 s then d else
  ({ d with units := { d.units with retired := (5, s) :: d.units.retired } } : Dev).loseChannels c s
    (((List.range 16).map fun m => 16 * s + m).filter fun ch => !(d.chan ch).lost) cause none

def execStackLost (st : Nat) (s : State) : Out := s.onDev fun c d => d.loseStack c st 5

/-- A channel is lost; the fifth of its stack loses the stack (R457). -/
def Dev.loseChannel (d : Dev) (c : Clock) (ch cause : Nat) : Dev :=
  if 320 ≤ ch ∨ (d.chan ch).lost then d else
  let d := d.loseChannels c (ch / 16) [ch] cause (some ch)
  if 5 ≤ ((List.range 16).filter fun m => (d.chan (16 * (ch / 16) + m)).lost).length then d.loseStack c (ch / 16) 2 else d

def execChannelLost (ch : Nat) (s : State) : Out := s.onDev fun c d => d.loseChannel c ch 2

/-- BANK_ENGINE_FAILURE: the channel's spare takes the engine's place and name with a new generation, and its group runs again; a
second failure loses the channel (R220, R457). -/
def execBankEngineFailure (ch g : Nat) (s : State) : Out :=
  s.onDev fun c d =>
    let i := 8 * ch + g
    if 320 ≤ ch ∨ 8 ≤ g ∨ (d.chan ch).lost then d
    else
      let w := d.declared c 7 i [6, 7]
      let d := w.1
      if (d.chan ch).spareUsed then d.loseChannel c ch w.2 else
      let old := d
      let before := d.units.gen 7 i
      let again := (d.chan ch).running.filter fun r => r.eng == g
      let d := again.foldl (fun (d : Dev) (r : Group) => d.dropToken (ch / 16) r.part) d
      let d := d.modChan ch fun y =>
        ({ y with spareUsed := true, running := y.running.filter fun r => r.eng != g, queue := again ++ y.queue } : Channel).turn
      let u := d.units.raise 7 i
      let d := ({ d with units := { u with count := u.count + 1 } } : Dev).record c 0x0101 7 i none w.2 (unitWord (some (7, i))) before
      let d := d.tellSpares old
      match d.chanOwner ch with
      | some (p, _) => d.shortPause c p 4
      | none => d

/-- REMATERIALISATION_COMPLETE: the oldest running load of the partition is done (R259, R263). -/
def execRematerialisationComplete (p : Nat) (s : State) : Out :=
  s.onDev fun c d =>
    match (d.part p).ops.find? fun o => o.opcode == opRemat && o.state == 1 with
    | none => d
    | some o =>
      match o.work with
      | .remat stack mask mib channel =>
        let o' : LongOp := { o with done := mib }
        let d := (d.modPart p fun x => x.modOp o fun _ => o').opEnd c p o' ⟨statusSUCCESS, 0, 0, 0⟩
        let d := d.postEvent c p 3 (tierBytes 1 stack mask 0 mib c.time c.timeLost)
        d.record c 0x0204 (if channel.isSome then 6 else 5) (channel.getD stack) (some p) mib ((c.time - o.started) / 1000) 0
      | _ => d

/-- MAP_SCAN_COMPLETE: every lost map entry is rebuilt (R261). -/
def execMapScanComplete (s : State) : Out :=
  s.onDev fun _ d => { d with power := { d.power with scanPending := false }, flash := { d.flash with entriesLost := [] } }

end Sys2Proof.Machine
end

