-- ==== Sys2Proof/Machine/FlashEvents.lean ====
section
/-! DEFINITION. Events of the flash and of the stacks' lines: stripes, the groomer, wear, retired blocks, lost channels and dies,
hold-up energy, training, patrol scrub (chapters 08, 09 and 10). -/

namespace Sys2Proof.Machine

open Sys2Proof

/-- STRIPE_CLOSE_TIMEOUT: a stripe that has been open for 2 ms is closed with pad pages (R283). -/
def execStripeCloseTimeout (id : Nat) (s : State) : Out :=
  match s.dev.flash.stripes.find? fun k => k.id == id && k.isOpen with
  | none => s.onDev fun _ d => d
  | some k => s.atTime (k.openedAt + 2000000) fun _ d => { d with flash := d.flash.closeStripe id }

/-- STRIPE_DURABLE: every page of a closed stripe has been programmed (R283, R285). -/
def execStripeDurable (id : Nat) (s : State) : Out :=
  s.onDev fun _ d =>
    if d.flash.stripes.any fun k => k.id == id && !k.isOpen && !k.durable then { d with flash := d.flash.stripeDone id } else d

/-- IMAGE_SEGMENT_REWRITE: the image of an index is brought current, and its journal records are no longer needed; record packs that
hold none that is live become stale (R128, R258, R279). -/
def execImageSegmentRewrite (p idx : Nat) (s : State) : Out := s.onDev fun c d => (d.rewriteImage c p idx).dropStale p

/-! ### The groomer (R296 to R298) -/

/-- A relocation of the partition and side is under way. -/
def Flash.grooming (f : Flash) (p side : Nat) : Bool :=
  f.relocs.any fun c => f.supers.any fun s => s.id == c.victim && s.part == p && s.side == side

/-- A superblock of the partition and side has lost a member and stands first among the victims (R284). -/
def Flash.mustMove (f : Flash) (p side : Nat) : Bool := match f.victim p side with
  | some v => f.hurt.contains v.id
  | none => false

/-- Relocates a superblock: the record packs in it that are less than half live are repacked first, while the partition is open, and the
other live pages are copied as they stand (R279, R296, R298). -/
def Dev.relocate (d : Dev) (c : Clock) (p : Nat) (v : Super) (background : Bool) : Dev :=
  let packs := (d.flash.pages.filter fun g => g.super == v.id && !g.isModule && d.flash.named g).filterMap d.flash.recordPack
  let d := packs.foldl (fun (d : Dev) k => d.repack c p k.1 k.2) d
  { d with flash := d.flash.relocate c.time v background }

/-- Relocates the next victim when the free fraction is below a mark in per mille, or when it has lost a member (R284, R296). Record packs
without a live record are stale before it is chosen (R279). -/
def Dev.groom (d : Dev) (c : Clock) (p side mark : Nat) (background : Bool) : Dev :=
  let k := (d.part p).cfg
  let d := d.dropStale p
  if 2 ≤ side ∨ d.flash.lost side ∨ d.flash.grooming p side ∨
     (mark ≤ d.flash.freePerMille p side (if side = 0 then k.flash0 else k.flash1) ∧ d.flash.mustMove p side = false) then d
  else match d.flash.victim p side with
    | some v => d.relocate c p v background
    | none => d

/-- When the flash of a partition has been idle for 5 ms on a side (R296). -/
def Flash.idleAt (f : Flash) (p side : Nat) : Nat := ((f.lastUse p side).map fun t => t + 5000000).getD 0

/-- GROOMER_BACKGROUND: the side has been idle for 5 ms and is below HIGH_WATER (R296). -/
def execGroomerBackground (p side : Nat) (s : State) : Out :=
  s.atTime (s.dev.flash.idleAt p side) fun c d => d.groom c p side (d.part p).feat.highWater true

/-- GROOMER_FOREGROUND: below LOW_WATER (R296). -/
def execGroomerForeground (p side : Nat) (s : State) : Out := s.onDev fun c d => d.groom c p side (d.part p).feat.lowWater false

/-- WEAR_LEVELLING: relocates a superblock whose erase count lies 200 or more below the highest of its side, in the
background (R296). -/
def execWearLevelling (p side : Nat) (s : State) : Out :=
  s.atTime (s.dev.flash.idleAt p side) fun c d =>
    let d := d.dropStale p
    let top := d.flash.supers.foldl (fun (m : Nat) (k : Super) => if k.side = side then max m k.erases else m) 0
    let old := d.flash.supers.filter fun k => k.part == p && k.side == side && decide (k.erases + 200 ≤ top) &&
      !(d.flash.pages.any fun g => g.super == k.id && g.buffered)
    match sortBy (fun (k : Super) => d.flash.liveIn k.id * 2 ^ 32 + k.erases) old with
    | v :: _ => if d.flash.grooming p side then d else d.relocate c p v true
    | [] => d

/-- RELOCATION_COMPLETE (R298). -/
def execRelocationComplete (i : Nat) (s : State) : Out := s.onDev fun c d => { d with flash := d.flash.relocDone c.time i }

/-! ### Hold-up energy and training (R265, R293) -/

/-- The keeper measures the hold-up store; a change of the unflushed limit is reported, and at a limit of zero everything held is
made durable (R293). -/
def Dev.measureHoldup (d : Dev) (c : Clock) (j : Nat) : Dev :=
  let lim := unflushedLimit j
  let old := d.mgmt.unflushedLimit
  let d : Dev := { d with mgmt := { d.mgmt with holdupJ := j, unflushedLimit := lim }, power := { d.power with holdupAt := c.opTime } }
  let d := if lim = old then d else d.record c 0x0602 0 0 none j lim 0
  if lim = 0 then { d with flash := (List.range 65).foldl (fun (f : Flash) p => (f.flushPart p).1) d.flash } else d

def execHoldupMeasurement (joules : Nat) (s : State) : Out := s.onDev fun c d => d.measureHoldup c joules

/-- The reference report of a NAND die: one of the rated population, of 1 Tbit (R264, R266; DESIGN CHOICE, log 68). -/
def nandStandard (die : Nat) : NandReport := ⟨die, true, 16384, 2048, 4, 3, true, true, 1000, 188, 3600, true, 8⟩

/-- What a NAND die has reported. -/
def Flash.report (f : Flash) (die : Nat) : NandReport := (f.found.find? fun r => r.die == die).getD (nandStandard die)

/-- The highest rate up to 3,600 MT/s that every die in use on a channel reports (R265). -/
def Flash.rateOf (f : Flash) (ch : Nat) : Nat :=
  ((List.range f.geom.dies).filter fun n => !f.lostDies.contains (16 * ch + n)).foldl (fun (r : Nat) n => min r (f.report (16 * ch + n)).rate) 3600

/-- ZQ calibration, duty-cycle correction and DQ training of a storage die's channels at a temperature (R265). -/
def Flash.train (f : Flash) (side : Nat) (temp : Int) : Flash :=
  { f with temp0 := if side = 0 then temp else f.temp0, temp1 := if side = 1 then temp else f.temp1, trainings := f.trainings + 1,
           rates := (indexed f.rates).map fun e => if e.1 / 32 = side then f.rateOf e.1 else e.2 }

/-- FLASH_TRAINING_TEMPERATURE_DRIFT: a storage die's temperature, in 0.1 °C, has changed by 10 °C since its last training: it trains
again (R265). -/
def execFlashTrainingTemperatureDrift (die : Nat) (temp : Int) (s : State) : Out :=
  s.onDev fun _ d =>
    let f := d.flash
    let last := if die = 0 then f.temp0 else f.temp1
    if 2 ≤ die ∨ (temp - last).natAbs < 100 then d
    else { d with flash := f.train die temp }

/-! ### NAND failures (R271, R284, R286, R457) -/

/-- A die is lost: the stripes of its superblocks lose a member, unless its channel is lost already (R284). -/
def Flash.dieLost (f : Flash) (ch die : Nat) : Flash :=
  if f.lostDies.contains (16 * ch + die) then f else
  let f : Flash := { f with lostDies := (16 * ch + die) :: f.lostDies }
  if f.lostCh.contains ch then f else f.loseMember fun s => s.sixteen == ch / 16 && s.die == die

/-- A flash channel is lost: the stripes of its group lose a member, those that had lost that die already apart (R284). -/
def Dev.withoutChannel (d : Dev) (ch : Nat) : Flash :=
  { d.flash.loseMember (fun s => s.sixteen == ch / 16 && !d.flash.lostDies.contains (16 * ch + s.die)) with
    lostCh := ch :: d.flash.lostCh }

/-- NAND_BLOCK_FAILURE: the block is retired and its data reprogrammed; too many retire the die (R271). The row does not say whether an
erase or a program failed: a free value (log 8). -/
def execNandBlockFailure (ch die block : Nat) (s : State) : Out :=
  s.onDev fun c d =>
    if 64 ≤ ch ∨ d.flash.geom.dies ≤ die ∨ d.flash.badBlocks.contains (ch, die, block) then d else
    let d := (d.record c 0x0205 9 (16 * ch + die) none block (1 + Config.freeNat d.free 0 % 2) 0).fresh
    let bad := (ch, die, block) :: d.flash.badBlocks
    let d : Dev := { d with flash := { d.flash with badBlocks := bad } }
    let n := (bad.filter fun b => b.1 == ch && b.2.1 == die).length
    if Config.spareBlocks < n ∧ !d.units.isRetired 9 (16 * ch + die) then
      ({ d with units := d.units.retire 9 (16 * ch + die), flash := d.flash.dieLost ch die } : Dev).record c 0x0206 9 (16 * ch + die) none n 0 0
    else d

/-- A flash channel is retired; new stripes of its group are 14 + 1 (R284). -/
def Dev.flashChannelLost (d : Dev) (c : Clock) (f : Nat) : Dev :=
  if 64 ≤ f ∨ d.flash.lostCh.contains f then d else
  let d : Dev := { d with flash := d.withoutChannel f, units := d.units.retire 8 f }
  d.record c 0x0207 8 f none d.flash.geom.dies 0 0

/-- FLASH_CHANNEL_LOST (R284). -/
def execFlashChannelLost (f : Nat) (s : State) : Out := s.onDev fun c d => d.flashChannelLost c f

/-- ASHLAR_ENGINE_FAILURE: the read is issued again on another engine of the die (R99, R457). -/
def execAshlarEngineFailure (ae : Nat) (s : State) : Out :=
  s.onDev fun c d =>
    if 64 ≤ ae ∨ d.units.isRetired 10 ae then d else
    let w := d.declared c 10 ae [6]
    w.1.retireUnit c 10 ae w.2 none

/-- Single-copy pages whose copies lie behind a side: unreachable when its storage die is lost (R286). -/
def Flash.singlePages (f : Flash) (side : Nat) : Nat :=
  (f.map.filter fun e => e.1 / sideBit == side && f.pages.any fun g => g.lpn == e.1 && g.seq == e.2 && !g.dual).length

/-- A storage die is lost (R286): by itself, and then for good, or with its carrier (log 89). -/
def Dev.loseDie (d : Dev) (c : Clock) (side : Nat) (forGood : Bool) : Dev :=
  let n := d.flash.singlePages side
  let f := d.flash
  let keep := f.relocs.filter fun r => r.lpn / sideBit != side
  let f : Flash := { f with lost0 := f.lost0 || side == 0, lost1 := f.lost1 || side == 1, relocs := keep,
                            forGood := if forGood then side :: f.forGood else f.forGood }
  let d : Dev := { d with flash := f, units := { d.units with retired := (13, 21 + side) :: d.units.retired } }
  d.record c 0x0208 13 (21 + side) none n 0 0

/-! ### Patrol scrub (R208, R210) -/

/-- The channel that holds a byte of a partition, or a node slot of an index of it. -/
def Part.chanOf (x : Part) (pos : Nat) : Nat := x.life.chans.getD pos 320

/-- One line with an uncorrectable error is poisoned and reported (R208, R210). `b` names it: its low three bits say 0 a line of the
partition range (tables, tensors, master copies and staging among them), 1 a node's sketch, 2 its neighbour list, 3 its attribute word or
its states, 4 an entry of the hot-vector cache, 5 a bucket of a handle directory, 6 a line of a channel that holds none of these, 7 a
node's document record in the write buffer; the next six the partition; then the line, or the index and the slot or bucket, or the channel. -/
def Dev.scrubOne (d : Dev) (c : Clock) (stack b : Nat) : Dev :=
  let p := b / 8 % 64
  let x := d.part p
  let what := b % 8
  let rest := b / 512
  let idx := rest % 16
  let at_ := rest / 16
  let hit := fun (d : Dev) (ch : Nat) (part : Option Nat) => (d.record c 0x0201 6 ch part (Config.freeNat d.free 0) 0 0).fresh
  if what = 0 then
    match x.objs.find? fun o => o.kind != .stored && decide (o.first * windowBytes ≤ 64 * rest) && decide (64 * rest < o.first * windowBytes + o.size) with
    | none => d
    | some o =>
      let ch := x.chanOf (x.posOfByte o (64 * rest))
      if ch / 16 ≠ stack ∨ x.mem.poison.contains rest then d
      else hit (d.modPart p fun y => { y with mem := { y.mem with poison := rest :: y.mem.poison } }) ch (some p)
  else if what ≤ 3 then
    let ch := x.chanOf (at_ / 512 % max 1 (8 * x.life.chans.length) / 8)
    if ch / 16 ≠ stack ∨ ((x.index? idx).bind fun i => i.graph.node? at_).isNone then d
    else hit (d.modIndex p idx fun i => i.modGraph fun g => g.modNode at_ fun n =>
      if what = 2 then { n with listPoison := true } else { n with sketchPoison := true }) ch (some p)
  else if what = 4 then
    -- the cache and the directory are spread over the partition's channels; which line lies where is open (log 32)
    let ch := x.chanOf (at_ % max 1 x.life.chans.length)
    if ch / 16 ≠ stack ∨ (x.hot.ent? idx at_).isNone then d
    else hit (d.modPart p fun y => { y with hot := { y.hot with
      ents := modIf (fun (e : HotEnt) => e.index == idx && e.slot == at_) (fun e => { e with bad := true }) y.hot.ents } }) ch (some p)
  else if what = 5 then
    let ch := x.chanOf (at_ % max 1 x.life.chans.length)
    if ch / 16 ≠ stack ∨ ((x.index? idx).map fun i => decide (at_ < i.graph.dir.m) && !i.dirBad.contains at_) ≠ some true then d
    else hit (d.modIndex p idx fun i => { i with dirBad := at_ :: i.dirBad }) ch (some p)
  else if what = 7 then
    -- a document record in the write buffer; which of the stack's module channels holds it is open (log 32)
    match (x.index? idx).bind fun i => (i.graph.node? at_).map fun n => (i, n), d.modChans.find? fun ch => ch / 16 == stack with
    | some (i, n), some ch =>
      if n.docPoison || !d.docPoisoned i p { n with docPoison := true } then d
      else hit (d.modIndex p idx fun i => i.modGraph fun g => g.modNode at_ fun n => { n with docPoison := true }) ch (some p)
    | _, _ => d
  else if what = 6 then
    (if rest / 16 ≠ stack ∨ (d.chan rest).lost then d else hit d rest ((d.chanOwner rest).map (·.1)))
  else d

/-- PATROL_SCRUB: every line of a stack is read; correctable errors are corrected, the others poison their lines (R210). -/
def execPatrolScrub (stack : Nat) (bad : List Nat) (s : State) : Out := s.onDev fun c d => bad.foldl (fun (d : Dev) b => d.scrubOne c stack b) d

end Sys2Proof.Machine
end

