-- ==== Sys2Proof/Machine/Failures.lean ====
section
/-! DEFINITION. Unit failures, module-fatal events, the black box and the keepers (R457 to R466, R477 to R479, R504 to R507). -/

namespace Sys2Proof.Machine

open Sys2Proof

/-! ### Module-fatal (R459, R477, R478) -/

/-- The black-box snapshot goes into the empty slot, or else the one with the lowest SNAPSHOT_SEQ (R478). Answers the slot. -/
def Recorder.addBox (r : Recorder) (b : Snapshot) : Recorder × Nat :=
  if r.boxes.length < 8 then ({ r with boxes := r.boxes ++ [b] }, r.boxes.length)
  else
    let low := r.boxes.foldl (fun m (k : Snapshot) => min m k.seq) b.seq
    let i := r.boxes.findIdx fun k => k.seq == low
    ({ r with boxes := modAt (fun _ => b) i r.boxes }, i)

/-- What serves no more in the fatal state: the management ring sets, the fabric ports and the latches of BAR0. The keepers go on, and the
link dies answer BAR0 with zero (R477; DESIGN CHOICE for the fabric ports, log 131). -/
def Dev.fatalStop (d : Dev) : Dev :=
  { d with mgmt := { d.mgmt with stage := 0, rings := d.mgmt.rings.map fun (r : RingSet) => RingSet.reset r.regs.localQpn }, latches := [],
           fabric := { d.fabric with ports := List.replicate 16 Port.reset } }

/-- The module-fatal sequence: the freeze ends, the record is written, every partition is fenced and its keys zeroised, the write
buffer is copied where the compute die has not failed itself, and the snapshot of the ring at the record is taken (R477, R478). -/
def Dev.moduleFatal (d : Dev) (c : Clock) (cause kind idx : Nat) : Dev :=
  if d.power.mode = .fatal then d else
  let d := d.thaw c
  let fatalSeq := d.recorder.nextSeq
  let d := d.record c 0x0803 kind idx none cause 0 0
  let r := d.recorder
  let d := (List.range 64).foldl (fun (d : Dev) p => (d.fencePart c p 0).zeroise p) d
  let box : Snapshot := ⟨d.power.snapshots + 1, fatalSeq, c.opSeconds, c.powerCycles, c.recTime, c.timeState, r.active, r.nextSeq,
    if r.active = 0 then r.k0.ring else r.k1.ring⟩
  let added := d.recorder.addBox box
  let d : Dev := { d with flash := if kind = 13 ∧ idx = 0 then d.flash else d.flash.toSlc, recorder := { added.1 with fatal := true },
                          power := { d.power with mode := .fatal, snapshots := d.power.snapshots + 1 } }
  d.fatalStop.record c 0x0802 0 0 none added.2 (d.power.snapshots) 0

/-- MODULE_FATAL (R459, R477). -/
def execModuleFatal (cause : Nat) (u : UnitId) (s : State) : Out := s.onDev fun c d => d.moduleFatal c cause u.kind u.num

/-! ### Units of the compute die (R77, R132, R144, R457) -/

/-- Searches and updates of every partition that hold a seat which a test selects lose their state: each waits for its replay, which takes
another seat (R132, R349, R457). -/
def Dev.loseSeats (d : Dev) (hit : Seat → Bool) (upd : Req → Bool) : Dev :=
  (List.range 64).foldl (fun d p => ((d.part p).admittedReqs p).foldl (fun d e =>
    if upd e.2 then d.loseState e.1 else d.loseSearches e.1 fun s => (s.seat.map hit).getD false) d) d

/-- TRAVERSE_ENGINE_FAILURE: its walks are replayed on other engines; a spare joins the pool (R457, R465). -/
def execTraverseEngineFailure (te : Nat) (s : State) : Out :=
  s.onDev fun c d =>
    if 264 ≤ te ∨ d.units.isRetired 2 te then d else
    let spare := (d.units.spares 2).contains te
    let repl := if spare then none else (sortBy id (d.units.spares 2)).head?.map fun e => (2, e)
    let d := d.loseSeats (fun k => k.place && k.engine == te) fun q => q.place && q.engine == te
    let w := d.declared c 2 te [1, 6]
    let d := w.1.retireUnit c 2 te w.2 repl
    let d := if !spare && repl.isNone then d.sparesOut c 2 else d
    let mv := fun (d : Dev) (e : ReqRef × Req) => if e.2.place && e.2.engine == te then
        d.modReq e.1 fun q => { q with engine := (d.pickEngine).getD te } else d
    (List.range 64).foldl (fun (d : Dev) p => ((d.part p).admittedReqs p).foldl mv d) d

/-- CONTEXT_POOL_BANK_FAILURE: requests whose state it holds are replayed with state in another bank, once one has room; the pool shrinks
(R132, R133, R457). -/
def execContextPoolBankFailure (b : Nat) (s : State) : Out :=
  s.onDev fun c d =>
    if 32 ≤ b ∨ d.units.isRetired 3 b then d else
    let d := d.loseSeats (fun k => decide (0 < k.ctx) && k.bank == b) fun _ => false
    let w := d.declared c 3 b [2]
    w.1.retireUnit c 3 b w.2 none

/-- SCREEN_UNIT_FAILURE: the unit is retired. When an operation was under way on it, which is open (log 70), that operation is run again
on another unit and recorded; its output, and every status, are those of the first run (R63, R77, R457). -/
def execScreenUnitFailure (su : Nat) (s : State) : Out :=
  s.onDev fun c d =>
    if 32 ≤ su ∨ d.units.isRetired 4 su then d else
    let under := Config.freeNat d.free 5 % 2 = 1
    let op := Config.freeNat d.free 6 % 3
    let p := Config.freeNat d.free 7 % 64
    let w := d.declared c 4 su [6]
    let d := w.1.retireUnit c 4 su w.2 none
    if under then d.record c 0x0303 4 su (some p) op 0 0 else d

/-- TILE_FAILURE: the running invocation ends and its requests are handled as R394 handles them, so that those for which a tile encoded,
sketched or reranked are replayed; a spare site takes the position, and with none left the partition is fenced
(R132, R144, R169, R394, R457, R465). -/
def execTileFailure (t : Nat) (s : State) : Out :=
  s.onDev fun c d =>
    if 160 ≤ t ∨ d.units.isRetired 1 t then d else
    let w := d.declared c 1 t [2, 3]
    let d := w.1
    match d.siteOf t with
    | none => d.retireUnit c 1 t w.2 none
    | some (p, _) =>
      let serves := match (d.part p).running with
        | some i => i.serves
        | none => []
      let d := (d.stopInv p).modPart p fun x => { x with invs := x.invs.filter fun k => !k.going }
      let d := serves.foldl (fun (d : Dev) r => match d.req? r.1 with
        | some q => (match q.work with
          | .searches _ => (d.dropRows r.1 r.2).setSearch r.1 r.2 fun k => { k with lost := true, seat := none, ceWait := false }
          | _ => d.reclassify r.1 q)
        | none => d) d
      let z := d.spareSite c p t w.2
      if z.2 then z.1.shortPause c p 4 else z.1.fencePart c p 4

/-- MESH_LINK_FAILURE: traffic takes another route; only timing changes (R457). -/
def execMeshLinkFailure (_link : Nat) (s : State) : Out := s.onDev fun _ d => d

/-! ### Keepers (R470, R504 to R507) -/

def Recorder.keeper (r : Recorder) (k : Nat) : Keeper := if k = 0 then r.k0 else r.k1
def Recorder.modKeeper (r : Recorder) (k : Nat) (f : Keeper → Keeper) : Recorder :=
  if k = 0 then { r with k0 := f r.k0 } else { r with k1 := f r.k1 }

/-- Partitions that are started now. -/
def Dev.startedParts (d : Dev) : List Nat := (List.range 64).filter fun p => (d.part p).life.st == .started

/-- The active keeper fails and the standby takes over (R506). -/
def Dev.failover (d : Dev) (c : Clock) : Dev :=
  let old := d.recorder.active
  let r := d.recorder.modKeeper old fun k => { k with present := false }
  let seq := r.nextSeq
  let d : Dev := { d with recorder := { r with active := 1 - old } }
  let d := d.record c 0x0703 0x0E old none 0 seq 0
  d.startedParts.foldl (fun (d : Dev) p => d.shortPause c p 5) d

/-- A link die fails: its lanes, its host port and its keeper are lost; with the other one lost before, the module fails (R457, R459). -/
def Dev.linkDie (d : Dev) (c : Clock) (n : Nat) : Dev :=
  if 2 ≤ n ∨ d.units.isRetired 13 (23 + n) then d
  else if d.units.isRetired 13 (24 - n) then d.moduleFatal c 5 13 (23 + n)
  else
    let d := d.retireUnit c 13 (23 + n) 5 none
    let u := (List.range 16).foldl (fun (u : Units) i => u.retire 11 (16 * n + i)) d.units
    let d : Dev := { d with units := u, power := { d.power with hostLink := modAt (fun _ => false) n d.power.hostLink } }
    let half := d.fabric.portCount / 2
    let d := (List.range half).foldl (fun (d : Dev) i => d.portDown c (n * half + i) (16 * n + i * d.fabric.lanesPerPort)) d
    if !(d.recorder.keeper n).present then d
    else if d.recorder.active = n ∧ (d.recorder.keeper (1 - n)).present then d.failover c
    else { d with recorder := d.recorder.modKeeper n fun k => { k with present := false } }

/-- LINK_DIE_FAILURE (R457). -/
def execLinkDieFailure (n : Nat) (s : State) : Out := s.onDev fun c d => d.linkDie c n

/-- KEEPER_FAILOVER: the active keeper has failed; with no standby in service its link die counts as failed (R505, R506). -/
def execKeeperFailover (s : State) : Out :=
  s.onDev fun c d =>
    let a := d.recorder.active
    if (d.recorder.keeper (1 - a)).present then d.failover c else d.linkDie c a

/-- KEEPER_LINK_FAILURE: heartbeats are missing while the claim line is held; both keepers write SINGLE records (R505). -/
def execKeeperLinkFailure (s : State) : Out := s.onDev fun _ d => { d with power := { d.power with keeperLinkOk := false } }

/-- KEEPER_HANDOVER: after an activation that changed the keeper section the standby becomes active (R507). -/
def execKeeperHandover (s : State) : Out :=
  s.onDev fun _ d =>
    let a := d.recorder.active
    if d.fw.keeperChanged && (d.recorder.keeper (1 - a)).present then
      { d with recorder := { d.recorder with active := 1 - a }, fw := { d.fw with keeperChanged := false } }
    else d

/-! ### Fabric lanes, storage dies, stale speakers (R286, R420, R457, R462) -/

/-- FABRIC_LANE_FAILURE: the lane is retired and takes its whole port down (R420). -/
def execFabricLaneFailure (lane : Nat) (s : State) : Out :=
  s.onDev fun c d =>
    if 32 ≤ lane then d else (d.retireUnit c 11 lane 5 none).portDown c (d.fabric.portOfLane lane) lane

/-- A storage die is lost, by itself or with its carrier; with the other one lost before, the module fails (R286, R459). -/
def Dev.storageDieLost (d : Dev) (c : Clock) (n : Nat) (forGood : Bool) : Dev :=
  if 2 ≤ n ∨ d.flash.lost n then d
  else if d.flash.lost (1 - n) then d.moduleFatal c 6 13 (21 + n)
  else d.loseDie c n forGood

/-- STORAGE_DIE_LOST (R286). -/
def execStorageDieLost (n : Nat) (s : State) : Out := s.onDev fun c d => d.storageDieLost c n true

/-- A request whose only copy a dropped packet carried is replayed (R132, R462). Which one, if any, is open: free values (log 8). -/
def Dev.staleLoses (d : Dev) : Dev :=
  let p := Config.freeNat d.free 2 % 64
  let l := ((d.part p).admittedReqs p).filter fun e => match e.2.work with
    | .searches _ => true
    | .upd _ => true
    | _ => false
  match l[Config.freeNat d.free 3 % (l.length + 1)]? with
  | some e => d.loseState e.1
  | none => d

/-- STALE_SPEAKER: a packet whose generation is not the one in force is dropped, counted and recorded, and what it alone carried is replayed
(R462). The receiving unit is open: free values (log 8). -/
def execStaleSpeaker (u : UnitId) (gen : Nat) (s : State) : Out :=
  s.onDev fun c d =>
    if !kindHasGen u.kind ∨ gen = d.units.gen u.kind u.num then d else
    let d : Dev := { d with units := { d.units with stale := modAt (fun n => min (n + 1) 0xFFFFFFFF) u.kind d.units.stale } }
    let at_ := unitWord (some (1 + Config.freeNat d.free 0 % 15, Config.freeNat d.free 1 % 65536))
    (d.staleLoses.record c 0x0104 u.kind u.num none at_ gen 0).fresh

/-- The sensors of R469. -/
def Dev.sensor469 (d : Dev) (id : Nat) : Option Nat :=
  if 0x0500 ≤ id ∧ id < 0x0510 then d.units.stale[id - 0x0500]?
  else if 0x0520 ≤ id ∧ id < 0x0530 then some (d.sparesLeft (id - 0x0520))
  else if id = 0x0540 then some d.reserve.length
  else if id = 0x0541 then some d.units.count
  else if id = 0x0542 then some (d.recorder.keeper d.recorder.active).skipped
  else if id = 0x0543 then some d.recorder.boxes.length
  else none

end Sys2Proof.Machine
end

