-- ==== Sys2Proof/Machine/ModelRuns.lean ====
section
/-! DEFINITION. The commands that run a model: EMBED, RERANK and TRAIN_STEP (chapter 07: R187 to R190, R197 to R203; R359, R360). -/

namespace Sys2Proof.Machine

open Sys2Proof

/-- The version that a request which names a model uses from its admission (R186). -/
def Dev.useModel (d : Dev) (p m : Nat) : Grant := .go fun q => { q with work := .model m ((d.part p).modelVersion m) [] }

/-- Neither loading nor being unloaded, as EMBED and RERANK need it: not being unloaded (R186). -/
def Part.notUnloading (x : Part) (m : Nat) : Bool :=
  match x.model? m with
  | some k => !k.unloading
  | none => true

/-- A request's rows are queued: some wait or run, or have been served. -/
def Part.rowsQueued (x : Part) (r : ReqRef) : Bool := x.rowsOpen r 0 || !(x.outsOf r 0).isEmpty

/-! ### EMBED (R359) -/

/-- Token bytes of the rows of an EMBED input; none when the rows do not fill the input exactly or one passes MAX_TOKENS (R359). -/
def embedRows (maxTokens : Nat) : Nat → Bytes → Option (List Bytes)
  | 0, b => if b.isEmpty then some [] else none
  | n + 1, b =>
    let t := fld b 0 4
    let len := roundUp (4 + 4 * t) 8
    if b.length < len ∨ t = 0 ∨ maxTokens < t then none
    else (embedRows maxTokens n (b.drop len)).map fun l => (b.drop 4).take (4 * t) :: l

/-- The rows that an EMBED's input gives. -/
def embedInput (maxTokens : Nat) (q : Req) (io : Io) : Option (List Bytes) :=
  (ioRead io.reads 0).bind fun b => if b.length = fld q.desc 40 4 then embedRows maxTokens (fld q.desc 28 4) b else none

/-- The rows of an EMBED enter invocations of its model (R187, R190). -/
def Part.queueEmbed (x : Part) (r : ReqRef) (m v : Nat) (rows : List Bytes) : Part :=
  match x.pkgOf m v with
  | none => x
  | some g => x.addRows (Inv.new 0 m v) ((indexed rows).map fun e => InvRow.ofTokens r 0 e.1 0 g.maxTokens e.2)

/-- The last row's version among what invocations left for a request; the version admitted with when there is none (log 105). -/
def lastVersion (l : List RowOut) (v : Nat) : Nat := ((l.getLast?).map (·.version)).getD v

/-- A request whose rows have all been served takes what they left; none while it waits, or once it has ended. -/
def Dev.takeRows (d : Dev) (r : ReqRef) : Option (Dev × Req × List RowOut) :=
  let p := r.rs.partNo
  match d.req? r with
  | none => none
  | some q =>
    if (d.part p).rowsOpen r 0 then none
    else some (d.modPart p fun x => x.dropOuts r 0, q, (d.part p).outsOf r 0)

/-- EMBED: the rows are read and checked at its admission, the model's invocations run, and their output rows are written in row order (R187, R190,
R198, R359). -/
def execEmbed (r : ReqRef) (io : Io) (s : State) : Out :=
  s.onDev fun c d =>
    let p := r.rs.partNo
    let m := ((d.req? r).map mdl).getD 0
    let rows := fun (x : Part) (q : Req) => match x.modelLive m with
      | some k => embedInput k.2.maxTokens q io
      | none => some []
    d.command c r 0x41 io.upto (fun _ => (d.part p).notUnloading m) (fun q => (rows (d.part p) q).isSome)
      (fun _ => ((d.part p).modelLive m).isSome)
      (fun d q => match d.useModel p m with
        | .go f => .go fun y => { f y with taken := (rows (d.part p) q).getD [] }
        | g => g)
      fun d q =>
        let v := (q.usesModel.map (·.2)).getD 0
        let d := if (d.part p).rowsQueued r then d else d.modPart p fun x => x.queueEmbed r m v q.taken
        if io.upto = .halfway then (d, none) else
        match (d.runRows c (Dev.endServed c) r 0).takeRows r with
        | none => (d.runRows c (Dev.endServed c) r 0, none)
        | some (d, q, outs) =>
          if io.writesOk then
            (d.hostOut c r (fld q.desc 56 8) (outs.flatMap (·.bytes)),
             some ⟨statusSUCCESS, q.flags, lastVersion outs v + 2 ^ 32 * fld q.desc 28 4, 0⟩)
          else (d, some ⟨statusBADFIELD, 0, 0, 0⟩)

/-! ### RERANK (R102, R189, R360) -/

/-- A node that would be eligible at an epoch, found through the handle directory (R360). -/
def Part.eligibleNode (x : Part) (index h epoch : Nat) : Option Node :=
  match x.index? index with
  | none => none
  | some i => (i.graphAt epoch).nodes.find? fun n => n.handle == h && n.eligible epoch []

/-- The items of a RERANK: the nodes that the handles of its list name, of those eligible at its epoch (R102, R360). -/
def Part.rerankNodes (x : Part) (q : Req) (words : Bytes) : List Node :=
  ((List.range (fld q.desc 28 2)).map fun i => fld words (8 * i) 5).filterMap fun h =>
    x.eligibleNode (fbits q.desc 27 3 0) h q.epoch

/-- Every document of the nodes can be read (R256). -/
def Dev.docsReadable (d : Dev) (p index : Nat) (nodes : List Node) : Bool := match (d.part p).index? index with
  | some i => nodes.all fun n => d.docReadable i p n
  | none => true

/-- A document of the nodes returns DATA_POISONED (R209, R360). -/
def Dev.docsPoisoned (d : Dev) (p index : Nat) (nodes : List Node) : Bool :=
  ((d.part p).index? index).any fun i => nodes.any fun n => d.docPoisoned i p n

/-- A document of the nodes waits for a map scan (R261). -/
def Dev.docsWait (d : Dev) (p index : Nat) (nodes : List Node) : Bool :=
  ((d.part p).index? index).any fun i => nodes.any fun n => d.docWaits i p n

/-- Each item with the scores the model gave it. -/
def rerankItems (items : List Nat) (scores : List (List F32)) : List CeItem :=
  (indexed items).map fun n => { pos := n.1, handle := n.2, scores := scores.getD n.1 [] }

/-- The result slots of a RERANK (R102, R349). -/
def rerankSlots (k exits : Nat) (o : CeOut) : List Slot :=
  (o.items.take k).map fun i =>
    { handle := i.handle, reranked := true, exited := decide (i.stop < exits), score := i.score, pre := f32nan }

/-- The entry of a RERANK of `n` items with `k` results asked for (R360, R362). -/
def rerankEnding (q : Req) (k n v : Nat) (o : CeOut) : Ending :=
  ⟨if n < k then statusPARTIAL else statusSUCCESS,
   q.flags ||| (if o.tie then flagTIE else 0) ||| (if o.nan then flagNAN else 0),
   min k n + 2 ^ 16 * o.exited + 2 ^ 32 * v, 0⟩

/-- The items of a RERANK enter an invocation of the cross-encoder (R102, R189). -/
def Dev.queueItems (d : Dev) (c : Clock) (r : ReqRef) (m v : Nat) (q : Req) (query : Bytes) (nodes : List Node) : Dev :=
  let d := match (d.part r.rs.partNo).index? (fbits q.desc 27 3 0) with
    | some i => d.readDocs c.time i r.rs.partNo nodes
    | none => d
  let d := d.modPart r.rs.partNo fun x => match x.pkgOf m v with
    | none => x
    | some g => x.addRows { Inv.new 1 m v with margin := BitVec.ofNat 32 (fld q.desc 44 4), exitK := fld q.desc 30 2 }
        (rerankRows r 0 (fld q.desc 40 4) g.maxTokens (query.take (4 * fld q.desc 40 4)) (nodes.map fun n => (n.doc, n.docTokens)))
  d.modReq r fun y => { y with work := .model m v (nodes.map (·.handle)) }

/-- A RERANK whose rows have been served ends with its slots (R102, R360). -/
def Dev.closeRerank (d : Dev) (c : Clock) (r : ReqRef) (m v : Nat) (q : Req) (items : List Nat) (outs : List RowOut) (writesOk : Bool) :
    Dev × Option Ending :=
  let k := fld q.desc 30 2
  let w := lastVersion outs v
  let exits := (((d.part r.rs.partNo).pkgOf m w).map Pkg.exits).getD 0
  let o := ceRank k exits (BitVec.ofNat 32 (fld q.desc 44 4)) (rerankItems items (outs.map rowScores))
  if writesOk then
    (d.hostOut c r (fld q.desc 56 8) (slotsBytes k (rerankSlots k exits o)), some (rerankEnding q k items.length w o))
  else (d, some ⟨statusBADFIELD, 0, 0, 0⟩)

/-- RERANK: the documents of the items whose handles name an eligible node are scored by the cross-encoder, row by row
(R102, R189, R197, R360). -/
def execRerank (r : ReqRef) (io : Io) (s : State) : Out :=
  s.onDev fun c d =>
    let p := r.rs.partNo
    let m := ((d.req? r).map mdl).getD 0
    let okModel := fun (q : Req) => (match (d.part p).modelLive m with
      | some k => k.2.kind == 1 && decide (fld q.desc 40 4 ≤ k.2.maxTokens)
      | none => true)
    d.command c r 0x42 io.upto (fun _ => (d.part p).notUnloading m)
      (fun q => (ioRead io.reads 0).isSome && (ioRead io.reads 1).isSome && okModel q)
      (fun q => ((d.part p).modelLive m).isSome && ((d.part p).index? (fbits q.desc 27 3 0)).isSome)
      (fun d _ => d.useModel p m)
      fun d q =>
        let v := (q.usesModel.map (·.2)).getD 0
        let nodes := (d.part p).rerankNodes q ((ioRead io.reads 1).getD [])
        let fresh := !(d.part p).rowsQueued r
        if fresh && d.docsWait p (fbits q.desc 27 3 0) nodes then (d, none)
        else if fresh && d.docsPoisoned p (fbits q.desc 27 3 0) nodes then (d, some ⟨statusPOISON, 0, 0, 0⟩)
        else if fresh && !d.docsReadable p (fbits q.desc 27 3 0) nodes then (d, some ⟨statusMEDIA, 0, 0, 0⟩)
        else
          let d := if fresh then d.queueItems c r m v q ((ioRead io.reads 0).getD []) nodes else d
          if io.upto = .halfway then (d, none) else
          match (d.runRows c (Dev.endServed c) r 0).takeRows r with
          | none => (d.runRows c (Dev.endServed c) r 0, none)
          | some (d, q, outs) =>
            d.closeRerank c r m v q (match q.work with
              | .model _ _ l => l
              | _ => []) outs io.writesOk

/-! ### TRAIN_STEP (R199 to R203) -/

/-- Writes the code of element `i` of an array that begins at `a`. -/
def putElem (m : Memory) (f : Elem) (a i code : Nat) : Memory :=
  let w := f.bits
  if 8 ≤ w then m.writeN (a + i * (w / 8)) (le (w / 8) code)
  else
    let o := m.readLe (a + i * w / 8) 1
    let k := 2 ^ (i * w % 8)
    m.writeN (a + i * w / 8) (le 1 (o - o / k % 2 ^ w * k + code % 2 ^ w * k))

/-- The hyper-parameters of a training step (R182, R200). -/
def Pkg.hyper (g : Pkg) (eta : F32) : Hyper :=
  ⟨g.optimiser, eta, Config.hyper g.hdr 0, Config.hyper g.hdr 1, Config.hyper g.hdr 2, Config.hyper g.hdr 3⟩

/-- One trainable tensor's update: its master copy and optimiser values (R199, R200), with the new values. -/
def trainMasters (g : Pkg) (eta : F32) (step : Nat) (t : Bytes) (at_ : Nat) (grad : List F32) (m : PartMem) : PartMem × List F32 :=
  let n := Tz.elems t
  let word := fun (slot i : Nat) => f32at m.dram (at_ + 4 * (slot * n + i))
  let out := (List.range n).map fun i => optStep (g.hyper eta) step (word 0 i) (grad.getD i f32zero) (word 1 i) (word 2 i)
  let col := fun (f : F32 × F32 × F32 → F32) => out.flatMap fun (o : F32 × F32 × F32) => le 4 (f o).toNat
  (m.put at_ (col (·.1) ++ (if 2 ≤ g.slots then col (·.2.1) else []) ++ (if 3 ≤ g.slots then col (·.2.2) else [])), out.map (·.1))

/-- Bytes of a tensor where its working copy stands (R157, R183, R227). -/
def Tz.placed (t : Bytes) : Nat := if Tz.placement t = 1 then Tz.rows t * resRow t else Tz.size t

/-- A trainable tensor's working copy is rewritten from its master copy: its group scales narrowed to binary16, then each element narrowed
with the new scale of its group (R38, R199; log 110). Answers the saturated values. -/
def rewriteCopy (t : Bytes) (values : List F32) (from_ to_ : Nat) (m : PartMem) : PartMem × Nat :=
  let f := Tz.elem t
  let n := Tz.rows t * Tz.cols t
  let base := m.dram.writeN to_ (m.dram.readN from_ (Tz.placed t))
  let scaled := (indexed (values.drop n)).foldl (fun (acc : Memory × Nat) e =>
    let at_ := Tz.scaleOf t e.1
    let q := quantise .b16 (f32num e.2)
    (acc.1.writeN (to_ + (Tz.codeAt t at_.1 at_.2).2) (le 2 q.1), acc.2 + b2n q.2)) (base, 0)
  let out := (indexed (values.take n)).foldl (fun (acc : Memory × Nat) e =>
    let r := e.1 / Tz.cols t
    let k := e.1 % Tz.cols t
    let q := quantise f ((f32num e.2).mul (f32num (f32div f32one (Tz.scale t scaled.1 to_ r k))))
    (putElem acc.1 f to_ (Tz.codeAt t r k).1 q.1, acc.2 + b2n q.2)) scaled
  (m.put to_ (out.1.readN to_ (Tz.placed t)), out.2)

/-- Where a trainable tensor's working copy stands: of a streamed tensor in either half of its object, of a resident one in the window of
that copy (R199, R201). -/
def Pkg.copyAt (g : Pkg) (t : Bytes) (copy : Bool) : Nat :=
  if Tz.placement t = 1 then
    let nth := ((g.tensors.takeWhile fun y => y != t).filter fun y => Tz.placement y == 1).length
    (((if copy then g.residents2 else g.residents)[nth]?).map fun k => k.window * windowBytes).getD 0
  else (g.window.getD 0) * windowBytes + (if copy then g.tensorBytes else 0) + ((g.layout.find? fun y => y.1 == t).map (·.2)).getD 0

/-- The updates of the trainable tensors of a step: master copies, with a structure record of each where tables are journaled, then the
working copy that becomes current (R199 to R201, R258). -/
def Dev.trainTensors (d : Dev) (c : Clock) (p : Nat) (g : Pkg) (copy : Bool) (eta : F32) (step : Nat) (grads : List (List F32)) : Dev × Nat :=
  (indexed (g.areas g.slots)).foldl (fun (acc : Dev × Nat) e =>
    let t := e.2.1
    let w := trainMasters g eta step t ((g.stateWindow.getD 0) * windowBytes + e.2.2) (grads.getD e.1 []) (acc.1.part p).mem
    let o := rewriteCopy t w.2 (g.copyAt t copy) (g.copyAt t !copy) w.1
    let d := (acc.1.modPart p fun y => { y with mem := o.1 }).backRecord c p
      ((g.stateWindow.getD 0) * windowBytes + e.2.2, 4 * g.slots * Tz.elems t)
    (d.saturate c p (Tz.counter t) o.2 (d.tileSource p), acc.2 + o.2)) (d, 0)

/-- Row updates of one table, mode and rate are joined: the step's read-modify-write of a row sums what every engine command of the step
gives it (R200). -/
def joinUpds (l : List RowUpd) : List RowUpd :=
  l.foldl (fun (acc : List RowUpd) u =>
    let same := fun (v : RowUpd) => v.table == u.table && v.mode == u.mode && v.eta == u.eta
    if acc.any same then modIf same (fun v => { v with rows := v.rows ++ u.rows, bad := v.bad ++ u.bad }) acc else acc ++ [u]) []

/-- One set of row updates that waited is applied (R239 to R242). Answers the device, saturated elements, and whether a poisoned row was
dropped (R241). -/
def Dev.applyUpd (d : Dev) (c : Clock) (p : Nat) (u : RowUpd) : Dev × Nat × Bool :=
  match (d.part p).tables.find? fun y => y.num == u.table with
  | none => (d, 0, false)
  | some t =>
    let w := (d.settleTable c (Dev.endServed c) p t).foldRows c p t u.mode u.eta u.bad u.rows
    (w.1, w.2.sat, w.2.anyPoison)

/-- The row updates of a step, in ascending order of source identity, one read-modify-write for each row (R140, R200, R242). Answers
saturated elements, and whether a poisoned row was dropped (R241). -/
def Dev.trainTables (d : Dev) (c : Clock) (p : Nat) (upds : List RowUpd) : Dev × Nat × Bool :=
  (joinUpds (sortBy (·.source) upds)).foldl (fun (acc : Dev × Nat × Bool) u =>
    let w := acc.1.applyUpd c p u
    (w.1, acc.2.1 + w.2.1, acc.2.2 || w.2.2)) (d, 0, false)

/-- A line that a step's update reads is poisoned: a master copy, an optimiser value, or the working copy that is rewritten (R209). -/
def Part.trainPoisoned (x : Part) (g : Pkg) (copy : Bool) : Bool :=
  (0 < g.masterBytes && x.mem.poisoned ((g.stateWindow.getD 0) * windowBytes) g.masterBytes) ||
  g.masters.any fun t => 0 < Tz.placed t && x.mem.poisoned (g.copyAt t copy) (Tz.placed t)

/-- Applies a computed training step: every trainable tensor and table is updated, the other copy becomes current, and the version
rises (R199 to R201, R362). A poisoned line that it reads ends it with no update (R209). -/
def Dev.applyTrain (d : Dev) (c : Clock) (r : ReqRef) (desc : Bytes) (o : RowOut) : Dev × Ending :=
  let p := r.rs.partNo
  let m := fld desc 24 2
  match (d.part p).modelLive m with
  | none => (d, ⟨statusBADHANDLE, 0, 0, 0⟩)
  | some (k, g) =>
    if (d.part p).trainPoisoned g k.copy then (d, ⟨statusPOISON, 0, 0, 0⟩) else
    let w := d.trainTensors c p g k.copy (BitVec.ofNat 32 (fld desc 44 4)) (fld desc 28 4) o.grads
    let t := w.1.trainTables c p o.upds
    let v := k.version + 1
    let d := t.1.modPart p fun x =>
      (x.modModel m fun y => { y with version := v, copy := !k.copy }).setHighest m (max v (x.highest m))
    let q := d.req? r
    let flags := (q.map (·.flags)).getD 0 ||| (if 0 < w.2 + t.2.1 then flagSAT else 0)
    (d, ⟨if t.2.2 || (q.map (·.poison)).getD false then statusPOISON else statusSUCCESS, flags, o.version + 2 ^ 32 * v, fld o.bytes 0 4⟩)

/-- Whether an earlier admitted TRAIN_STEP on the model stands before this one (R201). -/
def Part.trainBefore (x : Part) (p m : Nat) (r : ReqRef) (q : Req) : Bool :=
  (x.modelUsers p m r none).any fun e => e.2.opcode == 0x43 && (decide (e.2.admitTime < q.admitTime) ||
    (e.2.admitTime == q.admitTime && (decide (e.1.rs.num < r.rs.num) || (e.1.rs.num == r.rs.num && decide (e.1.seq < r.seq)))))

/-- The running invocation uses the working copy that a training step on the model would write (R201). -/
def Part.copyInUse (x : Part) (m : Nat) : Bool :=
  match x.model? m, x.running with
  | some k, some i => i.model == m && decide (k.base ≤ i.version) && i.copy != k.copy
  | _, _ => false

/-- The batch of a TRAIN_STEP enters an invocation of its own, in the package's layout, as ONE row with token count 0 (R188, R358; DESIGN
CHOICE, log 105: the spec does not say how its rows and token counts are known). -/
def Part.queueTrain (x : Part) (r : ReqRef) (m v : Nat) (q : Req) (batch : Bytes) : Part :=
  x.addRows { Inv.new 2 m v with step := fld q.desc 28 4, rate := BitVec.ofNat 32 (fld q.desc 44 4) }
    [⟨r, 0, 0, fit (fld q.desc 40 4) batch, 0, 0, true⟩]

/-- What a computed training step has left, once its invocation has ended. -/
def Dev.computeTrain (d : Dev) (c : Clock) (r : ReqRef) (m v : Nat) (q : Req) (batch : Bytes) (run : Bool) : Dev :=
  match q.work with
  | .train _ _ _ => d
  | _ =>
    let d := if (d.part r.rs.partNo).rowsQueued r then d else d.modPart r.rs.partNo fun x => x.queueTrain r m v q batch
    let d := if run then d.runRows c (Dev.endServed c) r 0 else d
    match d.takeRows r with
    | some (e, _, o :: _) => e.modReq r fun y => { y with work := .train m v o }
    | _ => d

/-- TRAIN_STEP (R199 to R203): its pass runs, and in a standard partition its updates apply in arrival order once no invocation uses
the copy they write; in a reproducible one they are held for the barrier epoch (R140). -/
def execTrainStep (r : ReqRef) (io : Io) (s : State) : Out :=
  s.onDev fun c d =>
    let p := r.rs.partNo
    let m := ((d.req? r).map mdl).getD 0
    d.command c r 0x43 io.upto (fun q => q.admitted || !(d.part p).modelBusy m)
      (fun _ => (ioRead io.reads 0).isSome) (fun _ => ((d.part p).modelLive m).isSome)
      (fun d _ => d.useModel p m)
      fun d q =>
        let v := (q.usesModel.map (·.2)).getD 0
        let d := d.computeTrain c r m v q ((ioRead io.reads 0).getD []) (decide (io.upto ≠ .halfway))
        let x := d.part p
        match (d.req? r).map Req.work with
        | some (Work.train _ _ o) =>
          if x.cfg.repro ∨ io.upto ≠ .done ∨ x.trainBefore p m r q ∨ x.copyInUse m then (d, none)
          else
            let w := d.applyTrain c r q.desc o
            (w.1, some w.2)
        | _ => (d, none)

end Sys2Proof.Machine
end

