-- ==== Sys2Proof/Machine/Registers.lean ====
section
/-! DEFINITION. BAR0: the management page, the partition set-up pages, the ring set blocks, the MSI-X tables and the latches
(R305 to R314, R9). -/

namespace Sys2Proof.Machine

open Sys2Proof

/-! ### Fields of a register (R9, R307, R308) -/

/-- Access codes of R9; an RWL field that is locked is given as `.ro`. -/
inductive Access where
  | ro | rw | w1c | wo
  deriving DecidableEq, Repr

/-- A field of a 64-bit register: its bits, its access code and its stated range. -/
structure Field where
  hi : Nat
  lo : Nat
  acc : Access
  ok : Nat → Bool

def anyVal (_ : Nat) : Bool := true
def inRange (a b v : Nat) : Bool := decide (a ≤ v) && decide (v ≤ b)

/-- RWL: takes writes only while it is not locked (R9). -/
def rwl (locked : Bool) (hi lo : Nat) (ok : Nat → Bool) : Field := ⟨hi, lo, if locked then .ro else .rw, ok⟩

/-- Whether a write of `size` bytes at `off` reaches the field. -/
def Field.touched (f : Field) (off size : Nat) : Bool :=
  let s := 8 * (off % 8)
  decide (f.lo < s + 8 * size) && decide (s ≤ f.hi)

/-- The register with the written half or whole replaced (R307). -/
def merged (old off size v : Nat) : Nat := setBits old (8 * (off % 8) + 8 * size - 1) (8 * (off % 8)) v

/-- One field takes its part of a write: the register's new value, and whether the write was refused (R308). -/
def Field.write (f : Field) (old off size v : Nat) (cur : Nat × Bool) : Nat × Bool :=
  let m := merged old off size v
  let x := bits m f.hi f.lo
  if !f.touched off size then cur else
  match f.acc with
  | .ro => cur
  | .w1c => (setBits cur.1 f.hi f.lo (bits old f.hi f.lo ^^^ (bits old f.hi f.lo &&& bits (merged 0 off size v) f.hi f.lo)), cur.2)
  | .rw => if f.ok x then (setBits cur.1 f.hi f.lo x, cur.2) else (cur.1, true)
  | .wo => if f.ok x then (setBits cur.1 f.hi f.lo x, cur.2) else (cur.1, true)

/-- A write of a register: new value of its writable fields, and whether a field refused it. -/
def writeReg (fs : List Field) (old off size v : Nat) : Nat × Bool := fs.foldl (fun r f => f.write old off size v r) (old, false)

/-! ### Ring set blocks (R314) -/

def RingSet.reg (r : RingSet) (off : Nat) : Nat :=
  let g := r.regs
  match off with
  | 0x00 => g.sqBase
  | 0x08 => g.cqBase
  | 0x10 => g.doorbell
  | 0x18 => g.sqOrder + 2 ^ 8 * g.cqOrder + 2 ^ 16 * b2n g.enable + 2 ^ 17 * b2n g.remote + 2 ^ 20 * g.vector
  | 0x20 => g.peerQpn + 2 ^ 32 * g.rkey
  | 0x28 => g.localQpn % 2 ^ 24 + 2 ^ 32 * g.peerId
  | 0x30 => g.modCount + 2 ^ 32 * g.modTime
  | 0x38 => g.minPoll + 2 ^ 32 * g.maxPoll
  | 0x48 => r.run.st.code + 2 ^ 8 * r.run.fault
  | 0x50 => r.run.fetched % 2 ^ 32 + 2 ^ 32 * r.inFlight
  | 0x58 => r.run.sqFetch + 2 ^ 16 * r.sqRelease + 2 ^ 32 * r.run.cqTail + 2 ^ 48 * r.run.cqHead
  | _ => 0

/-- Fields of a ring set block; `vmax` is the highest vector, `lock` locks the RWL fields. -/
def ringFields (lock : Bool) (vmax off : Nat) : List Field :=
  match off with
  | 0x00 => [rwl lock 63 12 anyVal]
  | 0x08 => [rwl lock 63 12 anyVal]
  | 0x10 => [rwl lock 63 6 anyVal]
  | 0x18 => [rwl lock 4 0 (inRange 4 16), rwl lock 12 8 (inRange 4 16), rwl lock 16 16 anyVal, rwl lock 17 17 anyVal, rwl lock 24 20 (inRange 0 vmax)]
  | 0x20 => [rwl lock 23 0 anyVal, rwl lock 63 32 anyVal]
  | 0x28 => [rwl lock 47 32 anyVal]
  | 0x30 => [⟨7, 0, .rw, inRange 1 255⟩, ⟨51, 32, .rw, inRange 0 1000000⟩]
  | 0x38 => [⟨16, 0, .rw, inRange 250 100000⟩, ⟨48, 32, .rw, inRange 250 100000⟩]
  | 0x40 => [⟨0, 0, .wo, anyVal⟩, ⟨1, 1, .wo, anyVal⟩]
  | _ => []

/-- Installs a register's value. -/
def RingRegs.set (g : RingRegs) (off v : Nat) : RingRegs :=
  match off with
  | 0x00 => { g with sqBase := v }
  | 0x08 => { g with cqBase := v }
  | 0x10 => { g with doorbell := v }
  | 0x18 => { g with sqOrder := bits v 4 0, cqOrder := bits v 12 8, enable := bitAt v 16, remote := bitAt v 17, vector := bits v 24 20 }
  | 0x20 => { g with peerQpn := bits v 23 0, rkey := bits v 63 32 }
  | 0x28 => { g with peerId := bits v 47 32 }
  | 0x30 => { g with modCount := bits v 7 0, modTime := bits v 51 32 }
  | 0x38 => { g with minPoll := bits v 16 0, maxPoll := bits v 48 32 }
  | _ => g

/-- A write to a ring set block. A write that would make MIN_POLL exceed MAX_POLL leaves both and is refused (R314). -/
def Dev.writeRing (d : Dev) (c : Clock) (rs : RsId) (lock : Bool) (vmax off size v : Nat) : Dev :=
  let base := off / 8 * 8
  let r := d.ring rs
  let w := writeReg (ringFields lock vmax base) (r.reg base) off size v
  let crossed := base == 0x38 && decide (bits w.1 48 32 < bits w.1 16 0)
  let d := if w.2 || crossed then d.rejectRs rs else d
  if base = 0x40 then
    let d := if bitAt w.1 0 then d.stop c rs else d
    if bitAt w.1 1 then d.restart c rs else d
  else if crossed then d
  else d.modRing rs fun r => { r with regs := r.regs.set base w.1 }

/-! ### MSI-X tables (R310, R311) -/

/-- A 64-bit word of an MSI-X table: address, or data and vector control with its mask bit. -/
def msixReg (l : List MsixVec) (off : Nat) : Nat :=
  let m := l.getD (off / 16) MsixVec.reset
  if off % 16 < 8 then m.addr else m.data + 2 ^ 32 * b2n m.masked

/-- The pending-bit array. -/
def pba (l : List MsixVec) : Nat := (indexed l).foldl (fun n e => n + b2n e.2.pending * 2 ^ e.1) 0

/-- A write to a vector; clearing its mask bit delivers its one pending message (R326). -/
def Dev.writeMsix (d : Dev) (fn : Fn) (off size v : Nat) : Dev :=
  let n := off / 16
  let m := d.msixVec fn n
  if off % 16 < 8 then
    let a := merged m.addr off size v
    d.modMsix fn n fun y => { y with addr := a }
  else
    let w := merged (m.data + 2 ^ 32 * b2n m.masked) off size v
    let d := d.modMsix fn n fun y => { y with data := bits w 31 0 }
    if bitAt w 32 then d.modMsix fn n fun y => { y with masked := true } else d.unmask fn n

/-! ### The management function page (R310) -/

/-- RESERVE_SHORT: the reserve, chosen at stage 9, no longer holds 16 free channels. -/
def Dev.reserveShort (d : Dev) : Bool := d.mgmt.stage == 9 && decide (d.reserve.length < 16)

/-- Token bytes of a register of eight stacks. -/
def tokenWord (l : List Arbiter) (first : Nat) (f : Arbiter → Nat) : Nat :=
  ((l.drop first).take 8).reverse.foldl (fun n a => 256 * n + f a) 0

def Dev.mgmtReg (d : Dev) (c : Clock) (off : Nat) : Nat :=
  if 0x400 ≤ off ∧ off < 0x600 then (d.ring (.mgmt ((off - 0x400) / 128))).reg ((off - 0x400) % 128)
  else if 0xC00 ≤ off ∧ off < 0xE00 then msixReg d.mgmt.msix (off - 0xC00)
  else match off with
  | 0x00 => 0xB0 + 2 ^ 8 + 2 ^ 18
  | 0x08 => d.mgmt.stage + 16 * b2n c.timeLost + 32 * b2n c.ptpLocked + 64 * d.recorder.active + 128 * b2n d.reserveShort
  | 0x10 => c.time % 2 ^ 64
  | 0x18 => c.opSeconds % 2 ^ 40 + 2 ^ 40 * (c.powerCycles % 2 ^ 24)
  | 0x20 => sumNat (fun i => (d.part i).life.st.code * 16 ^ i) (List.range 16)
  | 0x28 => sumNat (fun i => (d.part (16 + i)).life.st.code * 16 ^ i) (List.range 16)
  | 0x30 => sumNat (fun i => (d.part (32 + i)).life.st.code * 16 ^ i) (List.range 16)
  | 0x38 => sumNat (fun i => (d.part (48 + i)).life.st.code * 16 ^ i) (List.range 16)
  | 0x40 => d.mgmt.reserve
  | 0x48 => d.mgmt.holdupJ % 2 ^ 16 + 2 ^ 32 * d.mgmt.unflushedLimit
  | 0x50 => d.mgmt.eventRing
  | 0x58 => b2n d.mgmt.rejected
  | 0x60 => d.mgmt.ev.lost + 2 ^ 32 * d.mgmt.ev.seq
  | 0x80 => tokenWord d.arbiters 0 (·.set)
  | 0x88 => tokenWord d.arbiters 8 (·.set)
  | 0x90 => tokenWord d.arbiters 16 (·.set)
  | 0xA0 => tokenWord d.arbiters 0 (·.effective)
  | 0xA8 => tokenWord d.arbiters 8 (·.effective)
  | 0xB0 => tokenWord d.arbiters 16 (·.effective)
  | 0xE00 => pba d.mgmt.msix
  | _ => 0

/-- A token budget that may be set (R218). -/
def budgetOk (v : Nat) : Bool := inRange 16 96 v && v % 8 == 0

def mgmtFields (lock : Bool) (off : Nat) : List Field :=
  let budgets := fun (n : Nat) => (List.range n).map fun k => (⟨8 * k + 7, 8 * k, .rw, budgetOk⟩ : Field)
  match off with
  | 0x40 => [rwl lock 1 0 (inRange 0 2)]
  | 0x50 => [rwl lock 1 0 anyVal]
  | 0x58 => [⟨0, 0, .w1c, anyVal⟩]
  | 0x80 => budgets 8
  | 0x88 => budgets 8
  | 0x90 => budgets 4
  | _ => []

/-- Sets the token budgets of the stacks that a register names; they take effect at the next rebalancing point (R218). -/
def Dev.setBudgets (d : Dev) (first v : Nat) : Dev :=
  { d with arbiters := (indexed d.arbiters).map fun e =>
      if first ≤ e.1 ∧ e.1 < first + 8 then { e.2 with set := bits v (8 * (e.1 - first) + 7) (8 * (e.1 - first)) } else e.2 }

/-- A ring set block of the management function takes writes while its ring set is idle, stopped or faulted (R9). -/
def Dev.writeMgmt (d : Dev) (c : Clock) (off size v : Nat) : Dev :=
  if 0x400 ≤ off ∧ off < 0x600 then
    let rs := RsId.mgmt ((off - 0x400) / 128)
    d.writeRing c rs (d.ring rs).run.st.live 31 ((off - 0x400) % 128) size v
  else if 0xC00 ≤ off ∧ off < 0xE00 then d.writeMsix .pf (off - 0xC00) size v
  else
    let base := off / 8 * 8
    let w := writeReg (mgmtFields (d.mgmt.stage == 9) base) (d.mgmtReg c base) off size v
    let m := d.mgmt
    let m : Mgmt := if base = 0x40 then { m with reserve := w.1 } else if base = 0x50 then { m with eventRing := w.1 }
      else if base = 0x58 then { m with rejected := bitAt w.1 0 } else m
    let d : Dev := { d with mgmt := { m with rejected := m.rejected || w.2 } }
    if base = 0x80 ∨ base = 0x88 ∨ base = 0x90 then d.setBudgets (base - 0x80) w.1 else d

/-! ### A partition's set-up page (R311 to R313) -/

def Dev.partReg (d : Dev) (c : Clock) (p off : Nat) : Nat :=
  let x := d.part p
  if 0x400 ≤ off ∧ off < 0xC00 then (d.ring (.part p ((off - 0x400) / 128))).reg ((off - 0x400) % 128)
  else if 0xC00 ≤ off ∧ off < 0xD00 then msixReg x.msix (off - 0xC00)
  else match off with
  | 0x00 => p + 2 ^ 12 + 2 ^ 16 * b2n x.cfg.repro + 2 ^ 17 * b2n x.cfg.maint + 2 ^ 18 * b2n x.cfg.info +
      2 ^ 32 * popcount 160 x.cfg.sites + 2 ^ 48 * popcount 320 x.cfg.channels
  | 0x08 => d.comp.epoch + 2 ^ 32 * x.life.st.code + 2 ^ 36 * b2n c.timeLost
  | 0x10 => c.time % 2 ^ 64
  | 0x18 => x.vis.cur % 2 ^ 64
  | 0x28 => x.regs.drainBound + 2 ^ 8 * x.regs.eventRing + 2 ^ 16 * x.regs.eventEnable
  | 0x30 => b2n x.regs.rejected + 2 * b2n x.keys.owner.isSome + 4 * b2n x.keys.transport.isSome + 8 * b2n x.regs.keyRefused
  | 0x38 => x.ev.lost + 2 ^ 32 * x.ev.seq
  | 0xE00 => pba x.msix
  | _ => 0

def partFields (lock : Bool) (off : Nat) : List Field :=
  match off with
  | 0x20 => [⟨0, 0, .wo, anyVal⟩, ⟨1, 1, .wo, anyVal⟩, ⟨2, 2, .wo, anyVal⟩, ⟨3, 3, .wo, anyVal⟩]
  | 0x28 => [rwl lock 6 0 (inRange 1 90), rwl lock 11 8 anyVal, ⟨20, 16, .rw, anyVal⟩]
  | 0x30 => [⟨0, 0, .w1c, anyVal⟩, ⟨3, 3, .w1c, anyVal⟩]
  | _ => []

/-- RWL fields of a set-up page are locked from the start until the partition is disabled (R9). -/
def Part.locked (x : Part) : Bool := x.life.st == .started || x.life.st == .draining || x.life.st == .fenced

/-- The control bits written with 1 request their transitions, OPEN first (R312, log 35). -/
def Dev.control (d : Dev) (c : Clock) (p v : Nat) : Dev :=
  let d := if bitAt v 0 then d.openPart c p else d
  let d := if bitAt v 1 then d.startPart c p else d
  let d := if bitAt v 2 then d.disablePart c p else d
  if bitAt v 3 then d.closePart c p else d

/-- A write to a partition's set-up page; `clear` tells a write by a remote owner outside an SPDM session (R311 to R313, R409). A
partition that the fabric manager fences takes none (R400); one in a partition reset has STATE 4 and takes them as that state does (R312). -/
def Dev.writePart (d : Dev) (c : Clock) (fn : Fn) (p : Nat) (clear : Bool) (off size v : Nat) : Dev :=
  let x := d.part p
  let base := off / 8 * 8
  if x.barred then d
  else if 0x400 ≤ off ∧ off < 0xC00 then
    d.writeRing c (.part p ((off - 0x400) / 128)) x.locked 15 ((off - 0x400) % 128) size v
  else if 0xC00 ≤ off ∧ off < 0xD00 then d.writeMsix fn (off - 0xC00) size v
  else if 0x100 ≤ off ∧ off < 0x120 then
    (if clear then d.rejectPart p
     else d.modPart p fun y => { y with regs := { y.regs with keyData := patch y.regs.keyData (off - 0x100) (le size v) } })
  else if base = 0x120 then
    (if off % 8 ≠ 0 ∨ !bitAt v 8 then (if off % 8 = 0 ∧ 2 ≤ bits v 1 0 then d.rejectPart p else d)
     else d.keyLoad c p (bits v 1 0))
  else
    let w := writeReg (partFields x.locked base) (d.partReg c p base) off size v
    let d := if base = 0x28 then
        d.modPart p fun y => { y with regs := { y.regs with drainBound := bits w.1 6 0, eventRing := bits w.1 11 8, eventEnable := bits w.1 20 16 } }
      else if base = 0x30 then
        d.modPart p fun y => { y with regs := { y.regs with rejected := bitAt w.1 0, keyRefused := bitAt w.1 3 } }
      else d
    let d := if w.2 then d.rejectPart p else d
    if base = 0x20 then d.control c p w.1 else d

/-! ### BAR0 (R305 to R309) -/

/-- What an offset names for a function (R305): nothing, the management page, or a set-up page with its writability. -/
inductive Page where
  | none
  | mgmt (off : Nat)
  | part (p off : Nat) (writable : Bool)
  deriving DecidableEq, Repr

/-- The set-up page has the same offsets for a remote owner, counted from its base (R306). -/
def pageOf (fn : Fn) (off : Nat) : Page :=
  match fn with
  | .pf =>
    if off < 0x100000 then .mgmt off
    else if off < 0x140000 then .part ((off - 0x100000) / 0x1000) (off % 0x1000) false
    else .none
  | .vf n => if off / 0x1000 = 0x100 + n ∧ n < 64 then .part n (off % 0x1000) true else .none
  | .remote n _ => if off < 0x1000 ∧ n < 64 then .part n off true else .none

/-- Aligned accesses of 4 or 8 bytes (R307). -/
def accessOk (off size : Nat) : Bool := (size == 4 || size == 8) && off % size == 0

/-- The link dies answer BAR0: from stage 3 on, and with zero in the fatal state (R477, R482). -/
def Dev.bar0Up (d : Dev) : Bool :=
  match d.power.mode with
  | .up => true
  | .bringup k => decide (3 < k)
  | .stopped => decide (3 ≤ d.mgmt.stage)
  | _ => false

/-- Registers that latch their high half (R309). -/
def latched (fn : Fn) (off : Nat) : Bool :=
  match pageOf fn off with
  | .mgmt o => o == 0x10 || o == 0x18
  | .part _ o _ => o == 0x10
  | .none => false

/-- The function that a latch belongs to: a remote owner has one, whether it reads inside a session or not (R309). -/
def latchFn : Fn → Fn
  | .remote n _ => .remote n false
  | fn => fn

/-- The whole register at an aligned offset. -/
def Dev.reg64 (d : Dev) (c : Clock) (fn : Fn) (off : Nat) : Nat :=
  if !d.bar0Up then 0 else
  match pageOf fn off with
  | .mgmt o => d.mgmtReg c o
  | .part p o _ => d.partReg c p o
  | .none => 0

/-- A read: the value, and its effect on the latches and on the epoch that it reports (R112, R307, R309). -/
def Dev.regRead (d : Dev) (c : Clock) (fn : Fn) (off size : Nat) : Dev × Nat :=
  if !accessOk off size then (d, 0) else
  let base := off / 8 * 8
  let v := d.reg64 c fn base
  let d := match pageOf fn base with
    | .part p 0x18 _ => d.modPart p fun x => if x.life.st == .closed then x else { x with vis := x.vis.take }
    | _ => d
  if size = 8 then (d, v)
  else if !latched fn base then (d, if off = base then v % 2 ^ 32 else v / 2 ^ 32)
  else
    let fn := latchFn fn
    let mine := fun (e : Fn × Nat × Nat) => e.1 == fn && e.2.1 == base
    let rest := d.latches.filter fun e => !mine e
    if off = base then ({ d with latches := (fn, base, v / 2 ^ 32) :: rest }, v % 2 ^ 32)
    else match d.latches.find? mine with
      | some e => ({ d with latches := rest }, e.2.2)
      | none => (d, v / 2 ^ 32)

/-- A read whose value is returned to the host; in the fatal state zero, and nothing where no die answers. -/
def Dev.hostRegRead (d : Dev) (c : Clock) (fn : Fn) (off size : Nat) : Dev :=
  if d.bar0Up || d.power.mode == .fatal then
    let r := d.regRead c fn off size
    r.1.emit (.regRead fn off r.2)
  else d

/-- A write to BAR0, or by a remote owner (R305 to R308). -/
def Dev.regWrite (d : Dev) (c : Clock) (fn : Fn) (off size v : Nat) : Dev :=
  if !accessOk off size || !d.bar0Up then d else
  let v := v % 256 ^ size
  match nudgeTarget fn off with
  | some rs => if size = 4 ∧ d.heard rs then d.nudge c rs else d
  | none =>
    match pageOf fn off with
    | .mgmt o => d.writeMgmt c o size v
    | .part p o true => d.writePart c fn p (match fn with
        | .remote _ s => !s
        | _ => false) o size v
    | _ => d

/-- REGISTER_WRITE. A write whose field has a behaviour of its own has that behaviour. -/
def execRegisterWrite (fn : Fn) (off size val : Nat) (s : State) : Out := s.onDev fun c d => d.regWrite c fn off size val

/-- LOW_HALF_READ_LATCH: a 4-byte read of the low half of a register (R309). -/
def execLowHalfRead (fn : Fn) (off : Nat) (s : State) : Out := s.onDev fun c d => d.hostRegRead c fn (off / 8 * 8) 4

/-- HIGH_HALF_READ_RELEASE: a 4-byte read of the high half of a register (R309). -/
def execHighHalfRead (fn : Fn) (off : Nat) (s : State) : Out := s.onDev fun c d => d.hostRegRead c fn (off / 8 * 8 + 4) 4

end Sys2Proof.Machine
end

