-- ==== Sys2Proof/Machine/Transport.lean ====
section
/-! DEFINITION. Packets of the transport that arrive: their checks, set-up messages, nudges, updates of remote modules, the
RoCEv2 connections of remote ring sets, and the barrier epoch of held updates (R140, R325, R338, R431 to R438, R445, R446, R451). -/

namespace Sys2Proof.Machine

open Sys2Proof

/-! ### Fields of a packet (R432) -/

def pkVersion (k : Packet) : Nat := fbits k.hdr 0 3 0
def pkType (k : Packet) : Nat := fbits k.hdr 0 7 4
def pkKeyed (k : Packet) : Bool := fbits k.hdr 1 0 0 == 1
def pkService (k : Packet) : Nat := fbits k.hdr 1 2 1
def pkPart (k : Packet) : Nat := fbits k.hdr 2 5 0
def pkKind (k : Packet) : Nat := fbits k.hdr 3 0 0
def pkSource (k : Packet) : Nat := fld k.hdr 4 2
def pkEpoch (k : Packet) : Nat := fld k.hdr 8 4
def pkSeq (k : Packet) : Nat := fld k.hdr 16 8

/-- The payload has the layout of its type (R436); only types that flow towards the device are laid out here. -/
def payloadOk (k : Packet) : Bool :=
  let b := k.payload
  let setup := decide (fld b 0 4 < 0x1000) && (fld b 4 1 == 4 || fld b 4 1 == 8) && zeroAt b 5 3
  match pkType k with
  | 1 => b.length == 8 && setup
  | 2 => b.length == 16 && setup
  | 4 => decide (4 ≤ b.length)
  | 5 => b.length == 8 && zeroAt b 1 7
  | 7 => decide (12 ≤ b.length)
  | 8 => decide (24 ≤ b.length)
  | 9 => b.length == 16 && zeroAt b 9 3
  | 10 => b.length == 16 && zeroAt b 12 4
  | _ => false

/-- The first check of R435: layout, length and reserved fields. -/
def wellFormedPacket (k : Packet) : Bool :=
  k.hdr.length == 32 && pkVersion k == 1 && fbits k.hdr 1 7 3 == 0 && fbits k.hdr 2 7 6 == 0 && fbits k.hdr 3 7 1 == 0 &&
  zeroAt k.hdr 12 4 && zeroAt k.hdr 24 8 && fld k.hdr 6 2 == k.payload.length && decide (k.payload.length ≤ 9098) && payloadOk k

/-- A port runs the transport: it is up, and a UDP port has been configured (R431, R441). -/
def Dev.runsTransport (d : Dev) (port : Nat) : Bool :=
  decide (port < d.fabric.portCount) && (d.port port).up && d.fabric.cfg.transportPort != 0

/-- A packet arrives where the transport runs and passes the first check (R431, R435). -/
def Dev.laidOut (d : Dev) (k : Packet) : Bool := d.runsTransport k.port && wellFormedPacket k

def Dev.portError (d : Dev) (port : Nat) : Dev := d.modPort port fun x => { x with errors := bump x.errors }

/-- MALFORMED_TRANSPORT_PACKET: dropped and counted as a port error (R431, R435, R436). -/
def execMalformedTransportPacket (k : Packet) (s : State) : Out :=
  s.onDev fun _ d => if d.laidOut k then d else d.portError k.port

/-! ### The window of accepted SEQUENCE values (R434) -/

def RxWin.fresh (w : RxWin) (n : Nat) : Bool :=
  match w.highest with
  | none => true
  | some h => decide (h < n) || (decide (h < n + 2049) && !w.seen.contains n)

def RxWin.accept (w : RxWin) (n : Nat) : RxWin :=
  let h := match w.highest with
    | some h => max h n
    | none => n
  { w with highest := some h, seen := (n :: w.seen).filter fun x => decide (h < x + 2049) }

def TransportPart.win (t : TransportPart) (kind source : Nat) : RxWin :=
  (t.windows.find? fun w => w.kind == kind && w.source == source).getD ⟨kind, source, none, []⟩

/-- Records an accepted SEQUENCE; answers below the window are forgotten. -/
def TransportPart.record (t : TransportPart) (kind source n : Nat) : TransportPart :=
  let w := (t.win kind source).accept n
  let mine := fun (x : RxWin) => x.kind == kind && x.source == source
  { t with windows := w :: t.windows.filter (fun x => !mine x),
           answers := t.answers.filter fun a => !(a.kind == kind && a.source == source) || w.seen.contains a.sequence }

/-! ### The checks of R435 -/

/-- The owner of a partition sends the packet (R306, R435). -/
def PartCfg.fromOwner (f : PartCfg) (k : Packet) : Bool := f.present && f.ownerRemote && pkKind k == 1 && pkSource k == f.ownerPeer

/-- One of the partition's UPDATE_SOURCES sends the packet (R442). -/
def PartCfg.fromSource (f : PartCfg) (k : Packet) : Bool :=
  f.present && pkKind k == 0 && (indexed f.sources).any fun e => bitAt f.sourcesUsed e.1 && e.2 == pkSource k

/-- What is policed on arrival, and in which service (R451). -/
def policeService (k : Packet) : Nat := if pkType k = 1 ∨ pkType k = 2 ∨ pkType k = 4 then 3 else pkService k

/-- Ingress policing: the partition's bucket and its service's, from neither of which a dropped packet takes (R451). -/
def Dev.police (d : Dev) (c : Clock) (k : Packet) : Dev × Bool :=
  let p := pkPart k
  let s := policeService k
  let len := d.fabric.counted k.port (d.fabric.frameLen k.payload.length (pkKeyed k))
  let u := d.sub p
  let sb := u.services.getD s Bucket.off
  let ok := u.ingress.holds c.time len && sb.holds c.time len
  let step := fun (b : Bucket) => if b.rate = 0 then b else if ok then b.take c.time len else b.refill c.time
  let d := d.modSub p fun y => { y with ingress := step y.ingress, services := modAt step s y.services }
  (if ok then d else d.modTransport p fun t => { t with drops := modAt bump s t.drops }, ok)

/-- COMP_EPOCH under R445. -/
def Dev.epochOk (d : Dev) (c : Clock) (e : Nat) : Bool := e == d.comp.epoch || (e == d.comp.prev && decide (c.time < d.comp.graceEnd))

/-- What becomes of an arriving packet. -/
inductive Fate where
  | dropped
  | repeated (payload : Option Bytes)   -- an accepted SETUP_WRITE or UPDATE again, with the answer it was given
  | stale                               -- refused by its epoch
  | accepted
  deriving DecidableEq, Repr

/-- The checks of R435 in order; `keyed` is what the type requires, `from_` whether the source is one the type takes, `epoch`
whether the type uses COMP_EPOCH, `policed` whether R451 polices it. -/
def Dev.receiveIf (d : Dev) (c : Clock) (k : Packet) (keyed from_ epoch policed : Bool) : Dev × Fate :=
  let p := pkPart k
  let t := d.transport p
  if !d.laidOut k then (d.portError k.port, .dropped)
  else if (d.part p).life.st == .fenced || !from_ || pkKeyed k != keyed || (keyed && !((d.part p).keys.transport.isSome && k.tagOk)) then
    (d.modTransport p fun t => { t with authFails := bump t.authFails }, .dropped)
  else if keyed && !(t.win (pkKind k) (pkSource k)).fresh (pkSeq k) then
    (match t.answers.find? fun a => a.kind == pkKind k && a.source == pkSource k && a.sequence == pkSeq k && a.type == pkType k with
     | some a => (d, .repeated a.payload)
     | none => (d.modTransport p fun t => { t with replays := bump t.replays }, .dropped))
  else
    let w := if policed then d.police c k else (d, true)
    if !w.2 then (w.1, .dropped)
    else if epoch && !d.epochOk c (pkEpoch k) then
      (w.1.modTransport p fun t => { t with stale := bump t.stale }, .stale)
    else (if keyed then w.1.modTransport p fun t => t.record (pkKind k) (pkSource k) (pkSeq k) else w.1, .accepted)

/-- The checks of a packet other than an RDMA message: every type that flows towards the device but UPDATE_ACK is policed (R435, R451). -/
def Dev.receive (d : Dev) (c : Clock) (k : Packet) (keyed from_ epoch : Bool) : Dev × Fate :=
  d.receiveIf c k keyed from_ epoch (pkType k != 9)

/-! ### Answers (R434, R436) -/

/-- Sends an answer to the source of a packet: a host peer, or the module of its source number (log 36). -/
def Dev.answer (d : Dev) (c : Clock) (k : Packet) (type svc : Nat) (payload : Bytes) : Dev :=
  if pkKind k = 1 then d.sendPacket c (pkPart k) type (pkKeyed k) svc (pkSource k) false payload
  else d.sendPacket c (pkPart k) type (pkKeyed k) svc (pkSource k / 64) true payload

/-- Keeps the answer given to an accepted packet, or that none is given yet (R434). -/
def Dev.keepAnswer (d : Dev) (k : Packet) (payload : Option Bytes) : Dev :=
  if !pkKeyed k then d else
  let same := fun (a : Answer) => a.kind == pkKind k && a.source == pkSource k && a.sequence == pkSeq k && a.type == pkType k
  d.modTransport (pkPart k) fun t =>
    { t with answers := ⟨pkKind k, pkSource k, pkSeq k, pkType k, payload, pkKeyed k⟩ :: t.answers.filter fun a => !same a }

/-- REDIRECT: the SEQUENCE refused and the epoch in force (R436, R445). -/
def Dev.redirect (d : Dev) (c : Clock) (k : Packet) : Dev :=
  d.answer c k 10 (pkService k) (le 8 (pkSeq k) ++ le 4 d.comp.epoch ++ zeros 4)

/-! ### Set-up messages (R306, R437) -/

/-- The payload of a SETUP_RESPONSE. -/
def setupResponse (off size status data : Nat) : Bytes := le 4 off ++ le 1 size ++ le 1 status ++ zeros 2 ++ le 8 data

/-- DATA of a response that carries no value read is not stated by the spec: a free value (log 37). -/
def Dev.setupAnswer (d : Dev) (c : Clock) (k : Packet) (status : Nat) (data : Option Nat) (keep : Bool) : Dev :=
  let v := data.getD (Config.freeNat d.free 0 % 2 ^ 64)
  let pay := setupResponse (fld k.payload 0 4) (fld k.payload 4 1) status v
  let d := d.fresh.answer c k 3 3 pay
  if keep then d.keepAnswer k (some pay) else d

/-- SETUP_READ (R306, R436, R437). -/
def execSetupRead (k : Packet) (s : State) : Out :=
  s.onDev fun c d =>
    let p := pkPart k
    let x := d.part p
    if pkType k ≠ 1 then d else
    let w := d.receive c k x.keys.transport.isSome (x.cfg.fromOwner k) true
    match w.2 with
    | .accepted =>
      let r := w.1.regRead c (.remote p k.session) (fld k.payload 0 4) (fld k.payload 4 1)
      r.1.setupAnswer c k 0 (some r.2) false
    | .stale => w.1.setupAnswer c k 1 none false
    | _ => w.1

/-- SETUP_WRITE: before the transport key is held it needs a session; KEY_DATA always does (R409, R437). -/
def execSetupWrite (k : Packet) (s : State) : Out :=
  s.onDev fun c d =>
    let p := pkPart k
    let x := d.part p
    if pkType k ≠ 2 then d else
    let off := fld k.payload 0 4
    let size := fld k.payload 4 1
    let keyData := decide (0x100 ≤ off) && decide (off < 0x120)
    let w := d.receive c k x.keys.transport.isSome (x.cfg.fromOwner k) true
    match w.2 with
    | .accepted =>
      if !k.session && (!x.keys.transport.isSome || keyData) then (w.1.rejectPart p).setupAnswer c k 2 none true
      else (w.1.regWrite c (.remote p k.session) off size (fld k.payload 8 8)).setupAnswer c k 0 none true
    | .stale => w.1.setupAnswer c k 1 none false
    | .repeated (some a) => w.1.answer c k 3 3 a
    | _ => w.1

/-- FABRIC_NUDGE: only from the ring set's peer (R325, R436, R445). -/
def execFabricNudge (k : Packet) (s : State) : Out :=
  s.onDev fun c d =>
    let p := pkPart k
    let x := d.part p
    if pkType k ≠ 5 then d else
    let w := d.receive c k true (x.cfg.fromOwner k) true
    if w.2 ≠ .accepted then w.1 else
    let n := fld k.payload 0 1
    let rs := RsId.part p n
    let g := (w.1.ring rs).regs
    if n < 16 ∧ g.remote ∧ g.peerId = pkSource k ∧ w.1.heard rs then w.1.nudge c rs else w.1

/-! ### Updates of remote modules (R140, R433, R436, R446) -/

/-- The payload of an UPDATE_ACK. -/
def ackBytes (seq : Nat) (e : Ending) : Bytes := le 8 seq ++ le 1 e.status ++ zeros 3 ++ le 4 e.r0

/-- Sends an UPDATE_ACK, or drops and counts it when its destination is gone (R446). -/
def Dev.sendAck (d : Dev) (c : Clock) (p source svc : Nat) (ack : Bytes) : Dev :=
  let f := (d.part p).cfg
  let named := (indexed f.sources).any fun e => bitAt f.sourcesUsed e.1 && e.2 == source
  if named && (d.fabric.peer? (source / 64) true).isSome then d.sendPacket c p 9 true svc (source / 64) true ack
  else d.modTransport p fun t => { t with dropped := bump t.dropped }

/-- Ends an UPDATE: its answer is kept and sent. -/
def Dev.endUpdate (d : Dev) (c : Clock) (k : Packet) (e : Ending) : Dev :=
  (d.keepAnswer k (some (ackBytes (pkSeq k) e))).sendAck c (pkPart k) (pkSource k) (pkService k) (ackBytes (pkSeq k) e)

/-- An accepted UPDATE: checked as a SCATTER_UPDATE, then applied, or held for its barrier epoch (R140, R238 to R242). -/
def Dev.runUpdate (d : Dev) (c : Clock) (k : Packet) : Dev :=
  let p := pkPart k
  let x := d.part p
  let b := k.payload.drop 8
  let barrier := fld k.payload 0 8
  let t := x.table? (UBatch.ofBytes b).table
  let bad := !(UBatch.ofBytes b).ok b || (match t with
    | some t => !t.takes b
    | none => false) || (if x.cfg.repro then barrier == 0 else barrier != 0)
  if bad then d.endUpdate c k ⟨statusBADFIELD, 0, 0, 0⟩
  else if x.cfg.repro && decide (barrier ≤ x.vis.cur) then d.endUpdate c k ⟨statusDEADLINE, 0, 0, 0⟩
  else if t.isNone then d.endUpdate c k ⟨statusBADHANDLE, 0, 0, 0⟩
  else if x.cfg.repro then
    (d.keepAnswer k none).modPart p fun y =>
      { y with remoteHeld := y.remoteHeld ++ [⟨pkSource k, pkService k, pkSeq k, barrier, b⟩] }
  else
    let w := d.applyBatch c p b
    w.1.endUpdate c k w.2

/-- UPDATE (R436). A partition that is closed takes none (log 38). -/
def execUpdate (k : Packet) (s : State) : Out :=
  s.onDev fun c d =>
    let x := d.part (pkPart k)
    if pkType k ≠ 8 then d else
    let w := d.receive c k true (x.cfg.fromSource k) true
    match w.2 with
    | .accepted => if x.life.st = .closed then d else w.1.runUpdate c k
    | .stale => w.1.redirect c k
    | .repeated (some a) => w.1.sendAck c (pkPart k) (pkSource k) (pkService k) a
    | _ => w.1

/-- UPDATE_ACK: the UPDATE it names is repeated no more (R433). -/
def execUpdateAck (k : Packet) (s : State) : Out :=
  s.onDev fun c d =>
    let p := pkPart k
    let x := d.part p
    if pkType k ≠ 9 then d else
    let w := d.receive c k true (x.cfg.fromSource k) false
    if w.2 ≠ .accepted then w.1 else
    w.1.modTransport p fun t =>
      { t with outs := t.outs.filter fun o => !(o.sequence == fld k.payload 0 8 && o.peer == pkSource k / 64) }

/-- UPDATE_REPEAT_TIMEOUT: the identical packet again, at intervals that double up to 64 ms, until its destination is no peer or
its partition is closed or fenced (R433). -/
def execUpdateRepeatTimeout (p sequence : Nat) (s : State) : Out :=
  match (s.dev.transport p).outs.find? fun o => o.sequence == sequence with
  | none => s.onDev fun _ d => d
  | some o => s.atTime o.next fun c d =>
      let st := (d.part p).life.st
      match d.fabric.peer? o.peer true with
      | none => d.modTransport p fun t => { t with outs := t.outs.filter fun q => q.sequence != sequence }
      | some k =>
        if st = .closed ∨ st = .fenced then d.modTransport p fun t => { t with outs := [] }
        else
          let next := fun (q : OutUpdate) => ({ q with interval := min (2 * q.interval) 64000000, next := c.time + min (2 * q.interval) 64000000 } : OutUpdate)
          (d.modTransport p fun t => { t with outs := modIf (fun q => q.sequence == sequence) next t.outs }).sendTo c p p .free
            (fbits o.hdr 1 2 1) k true o.payload.length fun port => .packet port o.peer o.hdr o.payload

/-! ### The barrier epoch (R140) -/

/-- An update held for its barrier. -/
inductive Held where
  | local_ (r : ReqRef) (q : Req)
  | remote (u : RemoteUpd)
  | rows (u : HeldRows)
  deriving DecidableEq, Repr

def Held.barrier : Held → Nat
  | .local_ _ q => q.deadline
  | .remote u => u.barrier
  | .rows u => u.barrier

/-- Order of R140: barrier, source identity of R139, step sequence number, then SEQUENCE. The table updates of a TRAIN_STEP come from bank
engines, each of which holds rows of its own, so that the identity of the first stands for all of them. -/
def Held.key (h : Held) : Nat :=
  let step := match h with
    | .local_ _ q => (match q.work with
        | .held b => (UBatch.ofBytes b).step
        | _ => fld q.desc 28 4)
    | .remote u => (UBatch.ofBytes u.batch).step
    | .rows _ => 0
  let src := match h with
    | .local_ r q => if q.opcode = 0x43 then 0x00020000 else r.rs.num
    | .remote u => 0x80000000 + u.source
    | .rows u => u.upd.source
  let tie := match h with
    | .local_ r q => r.rs.num * 2 ^ 32 + q.seq
    | .remote u => u.sequence
    | .rows _ => 0
  ((h.barrier * 2 ^ 33 + src) * 2 ^ 32 + step) * 2 ^ 64 + tie

/-- Held updates of a partition whose barrier epoch has begun, in order. -/
def Part.dueHeld (x : Part) (p : Nat) : List Held :=
  let mine := (x.admittedReqs p).filterMap fun e => if e.2.opcode == 0x52 || e.2.opcode == 0x43 then some (Held.local_ e.1 e.2) else none
  sortBy Held.key ((mine ++ x.remoteHeld.map Held.remote ++ x.rowsHeld.map Held.rows).filter fun h => decide (h.barrier ≤ x.vis.cur))

/-- One of them is applied and ends; one whose forward and backward passes have not ended was not accepted in time (R140). -/
def Dev.applyHeld (d : Dev) (c : Clock) (p : Nat) (h : Held) : Dev :=
  match h with
  | .remote u =>
    let w := d.applyBatch c p u.batch
    let ack := ackBytes u.sequence w.2
    let mine := fun (a : Answer) => a.kind == 0 && a.source == u.source && a.sequence == u.sequence && a.type == 8
    let d := w.1.modPart p fun y => { y with remoteHeld := y.remoteHeld.filter fun v => v != u }
    (d.modTransport p fun t => { t with answers := modIf mine (fun a => { a with payload := some ack }) t.answers }).sendAck c p u.source u.service ack
  | .rows u =>
    let w := (d.modPart p fun y => { y with rowsHeld := y.rowsHeld.erase u }).applyUpd c p u.upd
    u.serves.foldl (fun (d : Dev) r => if w.2.2 then d.markDropped (Dev.endServed c) (r, 0) else d) w.1
  | .local_ r q =>
    match q.work with
    | .held b =>
      let w := d.applyBatch c p b
      w.1.finish c r w.2
    | .train _ _ o =>
      let w := d.applyTrain c r q.desc o
      w.1.finish c r w.2
    | _ => d.finish c r ⟨statusDEADLINE, 0, 0, 0⟩

/-- A held training step whose working copy an invocation still uses: it, and what comes after it, waits (R140, R201). -/
def Held.waits (h : Held) (x : Part) : Bool := match h with
  | .local_ _ q => (match q.work with
      | .train m _ _ => x.copyInUse m
      | _ => false)
  | .remote _ => false
  | .rows _ => false

/-- Applies held updates in order up to one that waits. -/
def Dev.applyDue (d : Dev) (c : Clock) (p : Nat) : List Held → Dev
  | [] => d
  | h :: l => if h.waits (d.part p) then d else (d.applyHeld c p h).applyDue c p l

/-- BARRIER_EPOCH_APPLY: at the tick that begins an epoch, every held update that names it (R140). -/
def execBarrierEpochApply (p : Nat) (s : State) : Out :=
  s.onDev fun c d =>
    let x := d.part p
    if !x.cfg.repro || x.life.st == .closed || x.life.st == .fenced then d
    else d.applyDue c p (x.dueHeld p)

/-! ### RoCEv2 connections (R336 to R338, R438) -/

/-- Sends every request packet of a connection that is not completed again (go-back-N). -/
def Dev.roceResend (d : Dev) (c : Clock) (rs : RsId) : Dev :=
  let r := d.ring rs
  match d.fabric.peer? r.regs.peerId false with
  | none => d
  | some k =>
    let d := d.modRing rs fun x => { x with roce := { x.roce with sentAt := c.time } }
    r.roce.outstanding.foldl (fun (d : Dev) (o : RoceOut) => d.sendTo c rs.partNo r.regs.localQpn o.tie o.svc k true o.len fun _ => o.out) d

/-- One more retry, or the connection has failed after seven (R338). -/
def Dev.roceRetry (d : Dev) (c : Clock) (rs : RsId) : Dev :=
  if 7 ≤ (d.ring rs).roce.retries then
    (d.modRing rs fun x => { x with roce := { x.roce with outstanding := [], held := [], failed := true } }).ringFault c rs 6 0 0
  else (d.modRing rs fun x => { x with roce := { x.roce with retries := x.roce.retries + 1 } }).roceResend c rs

/-- A CNP for a marked response, at most one in 50 µs; its fields are those of the RoCEv2 annex (PRESUMED, log 39). -/
def Dev.sendCnp (d : Dev) (c : Clock) (rs : RsId) : Dev :=
  let r := d.ring rs
  let due := match r.roce.lastCnp with
    | none => true
    | some t => decide (t + 50000 ≤ c.time)
  if !due then d else
  let bth := le 1 0x81 ++ zeros 1 ++ le 2 0xFFFF ++ le 1 0x40 ++ be 3 r.regs.peerQpn ++ zeros 20
  (d.modRing rs fun x => { x with roce := { x.roce with lastCnp := some c.time } }).sendPacket c rs.partNo 7 true 3 r.regs.peerId false bth

/-- The checks of an RDMA message of a partition's owner, of which requests are policed; it uses no COMP_EPOCH (R435, R451; DESIGN CHOICE,
log 132). -/
def Dev.receiveRdma (d : Dev) (c : Clock) (rs : RsId) (k : RoceIn) : Dev × Fate :=
  d.receiveIf c k.pkt true ((d.part rs.partNo).cfg.fromOwner k.pkt) false (k.kind == .request)

/-- RDMA_PACKET: once it has passed its checks, a response or acknowledgement completes requests, a NAK sends the rest again, a request is
dropped and counted (R338, R435, R438). -/
def execRdmaPacket (rs : RsId) (k : RoceIn) (s : State) : Out :=
  s.onDev fun c d =>
    if !(d.ring rs).regs.remote ∨ pkType k.pkt ≠ 7 ∨ pkPart k.pkt ≠ rs.partNo then d else
    let w := d.receiveRdma c rs k
    if w.2 ≠ .accepted then w.1 else
    let d := w.1
    let r := d.ring rs
    if r.roce.failed then d else
    let done := fun (d : Dev) => if k.completes = 0 then d else
      (d.modRing rs fun x =>
        { x with roce := { x.roce with outstanding := x.roce.outstanding.drop k.completes, sentAt := c.time, retries := 0 } }).issueHeld c rs
        r.roce.held.length
    match k.kind with
    | .request => d.modFabric fun f => { f with roceDrops := bump f.roceDrops }
    | .response => if k.ecn then (done d).sendCnp c rs else done d
    | .nak => (done d).roceRetry c rs

/-- CNP: the queue pair's send rate falls; only timing changes (R438). -/
def execCnp (rs : RsId) (s : State) : Out :=
  s.onDev fun _ d => d.modRing rs fun x => if x.regs.remote then { x with roce := { x.roce with rate := x.roce.rate + 1 } } else x

/-- ROCE_ACK_TIMEOUT: 4.096 µs × 2¹⁰ after the last request sent or completed (R438). -/
def execRoceAckTimeout (rs : RsId) (s : State) : Out :=
  let r := s.dev.ring rs
  if r.roce.outstanding.isEmpty || r.roce.failed then s.onDev fun _ d => d
  else s.atTime (r.roce.sentAt + 4194304) fun c d => d.roceRetry c rs

end Sys2Proof.Machine
end

