-- ==== Sys2Proof/Machine/FmMessages.lean ====
section
/-! DEFINITION. The fabric manager's messages: composition epochs, traffic, gates, fabric configuration, fence and release, and
the recorder's messages (R383, R384, R439 to R446, R449, R452 to R454, R476). -/

namespace Sys2Proof.Machine

open Sys2Proof

/-! ### Header and response (R439, R440) -/

/-- What a message asks of the module. -/
inductive FmClass where
  | recorder      -- R476
  | power         -- R483
  | query
  | fabric        -- every other one
  deriving DecidableEq, Repr

/-- Whether the keepers answer a message, and the result that refuses it at once: in sleep 5 for the fabric manager's
other messages (R477, R484, R500, R524). None: no answer. -/
def Dev.fmGate (d : Dev) (k : FmClass) : Option Nat :=
  let local_ := k == .recorder || k == .power
  match d.power.mode with
  | .up => some 0
  | .sleep => if k = .fabric then some 5 else some 0
  | .fatal => if local_ then some 0 else none
  | .stopped => if local_ then some 0 else none
  | .bringup _ => if local_ then some 0 else none
  | .shutdown => if local_ then some 0 else none
  | .off => if local_ && d.power.auxOk then some 0 else none
  | .held => none

/-- The layout of a message: its type, its length, and its reserved fields. PARTITION and SCRUB belong to FENCE and RELEASE. -/
def fmLayout (type : Nat) (m : Bytes) : Bool :=
  decide (16 ≤ m.length) && fld m 0 1 == type && zeroAt m 1 3 && fld m 8 4 + 16 == m.length && zeroAt m 13 3 && fbits m 12 7 7 == 0 &&
  (type == 6 || fbits m 12 6 6 == 0) && (type == 5 || type == 6 || fbits m 12 5 0 == 0)

/-- The 16-byte response. -/
def Dev.fmReply (d : Dev) (m : Bytes) (result : Nat) (extra : Bytes) : Dev :=
  let pend := match d.comp.pending with
    | some (e, _, _, _) => e
    | none => 0
  d.emit (.fmResponse (le 1 result ++ zeros 3 ++ le 4 (fld m 4 4) ++ le 4 d.comp.epoch ++ le 4 pend ++ extra))

/-- A message: the session, the state of the module, the layout, then its own result and effect (R439, R440). -/
def Dev.fm (d : Dev) (k : FmClass) (type : Nat) (session : Bool) (m : Bytes) (run : Dev → Nat × Dev × Bytes) : Dev :=
  match d.fmGate k with
  | none => d
  | some r =>
    if !session then d.fmReply m 7 []
    else if r ≠ 0 then d.fmReply m r []
    else if !fmLayout type m then d.fmReply m 1 []
    else
      let w := run d
      w.2.1.fmReply m w.1 w.2.2

/-! ### Composition records (R383, R442) -/

def PartCfg.ofBytes (b : Bytes) : PartCfg :=
  { present := fbits b 0 0 0 == 1, repro := fbits b 0 1 1 == 1, maint := fbits b 0 2 2 == 1, info := fbits b 0 3 3 == 1,
    ownerRemote := fbits b 0 4 4 == 1, ownerPeer := fld b 2 2, sites := fld b 4 20, channels := fld b 24 40,
    dramQuota := fld b 64 8, stagingGib := fld b 72 1, screenWeight := fld b 73 1, places := fld b 74 2, changeQuota := fld b 76 4,
    contextQuota := fld b 80 4, flash0 := fld b 84 4, flash1 := fld b 88 4, wbMib := fld b 92 2,
    sources := (List.range 4).map fun i => fld b (96 + 2 * i) 2, sourcesUsed := fbits b 104 3 0 }

/-- Reserved fields of a record are zero. -/
def recordClean (b : Bytes) : Bool :=
  fbits b 0 7 5 == 0 && zeroAt b 1 1 && zeroAt b 94 2 && fbits b 104 7 4 == 0 && zeroAt b 105 23

/-- The values of a record lie in their ranges (R383, R442). -/
def Dev.cfgInRange (d : Dev) (k : PartCfg) : Bool :=
  let nc := popcount 320 k.channels
  let nt := popcount 160 k.sites
  let siteOk := fun (t : Nat) => !d.units.isRetired 1 t && !(d.units.spares 1).contains t
  !k.present ||
  (inRange 1 144 nt && ((setOf 160 k.sites).all fun t => siteOk t || d.parts.any fun (x : Part) => bitAt x.cfg.sites t) && decide (1 ≤ nc) &&
   decide (k.dramQuota ≤ nc * channelBytes) && inRange 1 64 k.stagingGib && inRange 1 255 k.screenWeight && inRange 1 256 k.places &&
   inRange 65536 67108864 k.changeQuota && inRange 65536 100663296 k.contextQuota && inRange 16 2048 k.wbMib &&
   (k.ownerRemote || k.ownerPeer == 0) && (indexed k.sources).all fun e => bitAt k.sourcesUsed e.1 || e.2 == 0)

/-- Superblocks of one side (R266, R267), less the one that holds the module's own pages (log 40). -/
def Dev.superCount (d : Dev) : Nat := d.flash.geom.raw / 2 / (d.flash.geom.superPages * pageBytes) - 1

/-- Sums, sharing, module and reserve channels, and what another partition that is not closed holds in force (R383, R440). -/
def Dev.cfgConflict (d : Dev) (l : List PartCfg) : Bool :=
  let on := (indexed l).filter fun e => e.2.present
  let sum := fun (f : PartCfg → Nat) => sumNat (fun (e : Nat × PartCfg) => f e.2) on
  let pairs := fun (f : PartCfg → PartCfg → Bool) => on.any fun a => on.any fun b => decide (a.1 < b.1) && f a.2 b.2
  let own := fun (ch : Nat) => d.modChans.contains ch || d.reserve.contains ch
  decide (256 < sum (·.places)) || decide (100663296 < sum (·.contextQuota)) || decide (8 < (on.filter fun e => e.2.repro).length) ||
  decide (d.superCount < sum (·.flash0)) || decide (d.superCount < sum (·.flash1)) ||
  pairs (fun a b => a.sites &&& b.sites != 0 || a.channels &&& b.channels != 0) ||
  on.any (fun e => (setOf 320 e.2.channels).any own) ||
  on.any fun e => (indexed d.parts).any fun x => x.1 != e.1 && x.2.life.st != .closed &&
    (x.2.life.sites.any (bitAt e.2.sites) || x.2.life.chans.any (bitAt e.2.channels))

/-! ### An epoch takes effect (R384, R442 to R444) -/

/-- What of a new record takes effect at the epoch in a partition that is not closed (R384). -/
def PartCfg.atEpoch (old new : PartCfg) (fits0 fits1 : Bool) : PartCfg :=
  { new with repro := old.repro, maint := old.maint, info := old.info, ownerRemote := old.ownerRemote, ownerPeer := old.ownerPeer,
             sites := old.sites, channels := old.channels, stagingGib := old.stagingGib, changeQuota := old.changeQuota,
             flash0 := if new.flash0 < old.flash0 && !fits0 then old.flash0 else new.flash0,
             flash1 := if new.flash1 < old.flash1 && !fits1 then old.flash1 else new.flash1 }

/-- One record at its epoch. The pause of a changed partition lasts no time in the model (log 41). -/
def Dev.applyRecord (d : Dev) (c : Clock) (p : Nat) (k : PartCfg) : Dev :=
  let x := d.part p
  if !k.present then
    (if x.cfg.present then (d.fencePart c p 1).modPart p fun y => { y with next := some PartCfg.none } else d)
  else if x.life.st = .closed then d.takeCfg p k
  else
    let fits := fun (side supers : Nat) => decide (d.flash.usedPages p side ≤ d.flash.shareOf supers)
    let m := x.cfg.atEpoch k (fits 0 k.flash0) (fits 1 k.flash1)
    let d := d.modPart p fun y => { y with cfg := m, next := if m = k then none else some k }
    if m ≠ x.cfg then d.shortPause c p 2 else d

/-- The pending epoch takes effect; the partitions that are started under it are told (R443, R444). -/
def Dev.takeEpoch (d : Dev) (c : Clock) (e grace : Nat) (recs : List PartCfg) : Dev :=
  let old := d.comp.epoch
  let graceEnd := c.time + 1000 * grace
  let d : Dev := { d with comp := ⟨e, old, graceEnd, none⟩, power := { d.power with storedMap := some recs, storedEpoch := e } }
  let d := (indexed recs).foldl (fun (d : Dev) k => d.applyRecord c k.1 k.2) d
  let d := d.startedParts.foldl (fun (d : Dev) p => d.postEvent c p 5 (le 4 e ++ le 4 old ++ le 8 graceEnd ++ zeros 8)) d
  d.record c 0x0505 0 0 none e old 0

/-- COMPOSITION_EFFECTIVE (R443). -/
def execCompositionEffective (s : State) : Out :=
  match s.dev.comp.pending with
  | none => s.onDev fun _ d => d
  | some (e, g, t, l) => s.atTime t fun c d => d.takeEpoch c e g l

/-- GRACE_PERIOD_END: the previous epoch is accepted no more (R444, R445). -/
def execGracePeriodEnd (s : State) : Out :=
  if s.dev.comp.graceEnd = 0 then s.onDev fun _ d => d
  else s.atTime s.dev.comp.graceEnd fun _ d => { d with comp := { d.comp with graceEnd := 0 } }

/-- COMPOSE (R440, R442, R443). -/
def Dev.compose (d : Dev) (c : Clock) (b : Bytes) : Nat × Dev × Bytes :=
  let raws := chunks 128 (b.drop 64)
  let recs := raws.map PartCfg.ofBytes
  let e := fld b 0 4
  let floor := match d.comp.pending with
    | some (k, _, _, _) => max k d.comp.epoch
    | none => d.comp.epoch
  if b.length ≠ 8256 ∨ !zeroAt b 16 48 ∨ !raws.all recordClean then (1, d, [])
  else if e ≤ floor then (2, d, [])
  else if 100000 < fld b 4 4 ∨ !recs.all d.cfgInRange then (4, d, [])
  else if d.cfgConflict recs then (3, d, [])
  else
    let grace := if fld b 4 4 = 0 then 5000 else fld b 4 4
    let at_ := fld b 8 8
    -- each accepted COMPOSE writes the fabric-time floor (R430)
    let d : Dev := { d with power := { d.power with floor := c.time } }
    if at_ ≤ c.time then (0, ({ d with comp := { d.comp with pending := none } } : Dev).takeEpoch c e grace recs, [])
    else (0, { d with comp := { d.comp with pending := some (e, grace, at_, recs) } }, [])

def execCompose (session : Bool) (msg : List Byte) (s : State) : Out :=
  s.onDev fun c d => d.fm .fabric 1 session msg fun d => d.compose c (msg.drop 16)

/-! ### TRAFFIC (R449) -/

def trafficClean (b : Bytes) : Bool :=
  b.length == 4192 && zeroAt b 16 16 && ((b.take 16).all fun x => decide (x.toNat < 64)) &&
  ((chunks 64 (b.drop 32)).all fun r => zeroAt r 12 4 && zeroAt r 56 8)

/-- A rate that is not zero needs a burst that one largest frame passes. -/
def burstOk (r : Bytes) (off : Nat) : Bool := fld r off 4 == 0 || decide (9279 ≤ fld r (off + 4) 4)

def trafficOk (b : Bytes) : Bool :=
  (indexed (chunks 64 (b.drop 32))).all fun e =>
    let r := e.2
    ((List.range 4).all fun i => fld r i 1 != 0) && burstOk r 4 && burstOk r 16 && ((List.range 4).all fun s => burstOk r (24 + 8 * s)) &&
    (e.1 != 64 || zeroAt r 16 40)

def Subscriber.ofBytes (r : Bytes) (now : Nat) : Subscriber :=
  let bucket := fun (o : Nat) => Bucket.start (fld r o 4) (fld r (o + 4) 4) now
  ⟨fld r 0 1, fld r 1 1, fld r 2 1, fld r 3 1, bucket 4, bucket 16, (List.range 4).map fun s => bucket (24 + 8 * s)⟩

/-- TRAFFIC: applied at its acceptance (R449 allows 1 ms). -/
def execTraffic (session : Bool) (msg : List Byte) (s : State) : Out :=
  s.onDev fun c d => d.fm .fabric 2 session msg fun d =>
    let b := msg.drop 16
    if !trafficClean b then (1, d, [])
    else if !trafficOk b then (4, d, [])
    else
      let subs := (chunks 64 (b.drop 32)).map fun r => Subscriber.ofBytes r c.time
      (0, (d.modFabric fun f => { f with overhead := (b.take 16).map (·.toNat), subs := subs }).kickAll c, [])

/-! ### GATES (R452 to R454) -/

def gateEntries (b : Bytes) : List (Nat × Nat) := (chunks 8 (b.drop 16)).map fun e => (fld e 0 4, fbits e 4 3 0)

def gatesClean (b : Bytes) : Bool :=
  decide (16 ≤ b.length) && b.length == 16 + 8 * fld b 1 1 && fbits b 0 7 4 == 0 && zeroAt b 2 2 &&
  ((chunks 8 (b.drop 16)).all fun e => fbits e 4 7 4 == 0 && zeroAt e 5 3)

/-- The longest interval in which a gate stays open across entries and cycles; none when it never closes (R452, R454). -/
def longestOpen (cycle : Nat) (l : List (Nat × Nat)) (svc : Nat) : Option Nat :=
  let ends := (l.drop 1).map (·.1) ++ [cycle]
  let spans := (l.zip ends).map fun e => (bitAt e.1.2 svc, e.2 - e.1.1)
  if spans.all (·.1) then none
  else
    let runs := (spans ++ spans).foldl (fun (r : Nat × Nat) e => if e.1 then (max r.1 (r.2 + e.2), r.2 + e.2) else (r.1, 0)) (0, 0)
    some runs.1

/-- Values of a GATES message; `guard` is the guard band of the port. -/
def gatesOk (b : Bytes) (guard : Nat) : Bool :=
  let l := gateEntries b
  let cycle := fld b 4 4
  inRange 1 64 (fld b 1 1) && inRange 10000 1000000000 cycle && (l.map (·.1)).headD 1 == 0 &&
  ((l.zip (l.drop 1)).all fun e => decide (e.1.1 < e.2.1)) && (l.all fun e => decide (e.1 < cycle)) &&
  [0, 1, 2, 3].all fun s => match longestOpen cycle l s with
    | none => true
    | some n => n == 0 || decide (guard ≤ n)

/-- GATES: the schedule holds from its BASE_TIME, or from the first whole cycle after now (R454). -/
def execGates (session : Bool) (msg : List Byte) (s : State) : Out :=
  s.onDev fun c d => d.fm .fabric 3 session msg fun d =>
    let b := msg.drop 16
    let port := fbits b 0 3 0
    if !gatesClean b then (1, d, [])
    else if !gatesOk b (d.fabric.nsOf (d.fabric.counted port 9216)) then (4, d, [])
    else
      let base := fld b 8 8
      let cycle := fld b 4 4
      let start := if c.time ≤ base then base else base + roundUp (c.time - base) cycle
      let g : GateSched := ⟨start, base, cycle, gateEntries b⟩
      (0, (d.modPort port fun x => { x with sched := x.schedAt c.time, nextSched := some g }).kick c port, [])

/-! ### FABRIC (R441, R446) -/

def peerOf (r : Bytes) : Peer := ⟨fld r 0 2, fbits r 2 0 0 == 1, fld r 4 2, leNat (r.drop 8).reverse⟩

def fabricClean (b : Bytes) : Bool :=
  decide (272 ≤ b.length) && b.length == 272 + 24 * fld b 8 2 && fbits b 1 7 2 == 0 && fbits b 2 7 3 == 0 && fbits b 3 7 7 == 0 &&
  fbits b 7 7 4 == 0 && zeroAt b 10 6 && ((chunks 24 (b.drop 272)).all fun r => fbits r 2 7 1 == 0 && zeroAt r 3 1 && zeroAt r 6 2)

def fabricOk (b : Bytes) : Bool :=
  let ports := if fbits b 2 1 0 = 0 then 4 else if fbits b 2 1 0 = 1 then 8 else 16
  let ids := (chunks 24 (b.drop 272)).map fun r => fld r 0 2
  decide (fbits b 2 1 0 ≤ 2) && fld b 4 2 != 0 && decide (fld b 6 2 ≤ 4094) && decide (fld b 8 2 ≤ 1024) &&
  zeroAt b (16 + 16 * ports) (16 * (16 - ports)) && (dedupNat ids).length == ids.length

def FabricCfg.ofBytes (b : Bytes) : FabricCfg :=
  { moduleNumber := fld b 0 2, ptpUdp := fbits b 2 2 2 == 1, ptpDomain := fbits b 3 6 0, transportPort := fld b 4 2, vlan := fld b 6 2,
    addrs := (List.range 16).map fun i => leNat ((b.drop (16 + 16 * i)).take 16).reverse,
    peers := (chunks 24 (b.drop 272)).map peerOf }

/-- A removed peer: its started partitions' remote ring sets fault with cause 6 (R446). -/
def Dev.peersGone (d : Dev) (c : Clock) : Dev :=
  let gone := fun (d : Dev) (id : Nat) => (d.fabric.peer? id false).isNone
  let one := fun (d : Dev) (rs : RsId) =>
    let r := d.ring rs
    if r.regs.remote && gone d r.regs.peerId then
      (d.modRing rs fun x => { x with roce := { x.roce with outstanding := [], held := [], failed := true } }).ringFault c rs 6 0 0 else d
  let d := d.startedParts.foldl (fun (d : Dev) p => (List.range 16).foldl (fun (d : Dev) n => one d (.part p n)) d) d
  d.modFabric fun f =>
    let keep := fun (o : OutUpdate) => (f.peer? o.peer true).isSome
    { f with parts := f.parts.map fun (t : TransportPart) => { t with outs := t.outs.filter keep } }

/-- FABRIC: applied at its acceptance, but for PORT_CONFIG, which the next stage 3 takes; peers that are not resolved are solicited (R420,
R422, R441). -/
def execFabric (session : Bool) (msg : List Byte) (s : State) : Out :=
  s.onDev fun c d => d.fm .fabric 4 session msg fun d =>
    let b := msg.drop 16
    if !fabricClean b then (1, d, [])
    else if !fabricOk b then (4, d, [])
    else
      let f := FabricCfg.ofBytes b
      let d := d.modFabric fun x =>
        { x with cfg := f, storedPortConfig := fbits b 2 1 0,
                 ports := x.ports.map fun (y : Port) => { y with resolved := y.resolved.filter fun a => f.peers.any fun (k : Peer) => k.addr == a },
                 ptp := ({ x.ptp with masters := x.ptp.masters.filter fun (m : Master) => m.m.domain == f.ptpDomain } : Ptp).rebind }
      (0, (List.range 16).foldl (fun (d : Dev) i => d.solicitAll c i) (d.peersGone c), [])

/-! ### FENCE, RELEASE, QUERY (R400, R440) -/

/-- FENCE (R400). A partition in a reset stays fenced at its end. -/
def execFence (session : Bool) (msg : List Byte) (s : State) : Out :=
  s.onDev fun c d => d.fm .fabric 5 session msg fun d =>
    let p := fbits msg 12 5 0
    let l := (d.part p).life
    if msg.length ≠ 16 then (1, d, [])
    else if l.st = .fenced ∧ !(match l.reset with
        | some r => !r.stayFenced
        | none => false) then (5, d, [])
    else (0, d.fencePart c p 1, [])

/-- RELEASE (R400). -/
def execRelease (session : Bool) (msg : List Byte) (s : State) : Out :=
  s.onDev fun c d => d.fm .fabric 6 session msg fun d =>
    let p := fbits msg 12 5 0
    let l := (d.part p).life
    if msg.length ≠ 16 then (1, d, [])
    else if l.st ≠ .fenced ∨ l.reset.isSome then (5, d, [])
    else (0, d.releasePart c p (fbits msg 12 6 6 == 1), [])

/-- QUERY changes nothing and always returns result 0 inside a session (R440). -/
def execQuery (session : Bool) (msg : List Byte) (s : State) : Out :=
  s.onDev fun _ d =>
    match d.fmGate .query with
    | none => d
    | some _ => d.fmReply msg (if session then 0 else 7) []

/-! ### The recorder's messages (R475, R476) -/

def execRecorderFreeze (session : Bool) (msg : List Byte) (s : State) : Out :=
  s.onDev fun c d => d.fm .recorder 0x10 session msg fun d => if msg.length ≠ 16 then (1, d, []) else (0, d.freeze c, [])

def execRecorderThaw (session : Bool) (msg : List Byte) (s : State) : Out :=
  s.onDev fun c d => d.fm .recorder 0x11 session msg fun d => if msg.length ≠ 16 then (1, d, []) else (0, d.thaw c, [])

/-- RECORDER_READ: bytes of a keeper's part of log 0x81, or of log 0x82. -/
def execRecorderRead (session : Bool) (msg : List Byte) (s : State) : Out :=
  s.onDev fun c d => d.fm .recorder 0x12 session msg fun d =>
    let b := msg.drop 16
    let src := fld b 0 1
    let off := fld b 4 4
    let n := fld b 8 4
    let size := if src = 2 then 2097664 else 262208
    if b.length ≠ 16 ∨ !zeroAt b 1 3 ∨ !zeroAt b 12 4 then (1, d, [])
    else if 2 < src ∨ n = 0 ∨ 4096 < n ∨ size < off + n then (4, d, [])
    else (0, d, if src = 2 then (d.recorder.boxLog.drop off).take n else fit n (d.recorder.partAt c src off n))

end Sys2Proof.Machine
end

