-- ==== Sys2Proof/Machine/Power.lean ====
section
/-! DEFINITION. Resets, supplies, pins, sleep and wake, throttling, live firmware activation, boundary scan, SPDM and the sensors
(R408 to R411, R418, R456, R480 to R483, R493 to R503, R508 to R525). -/

namespace Sys2Proof.Machine

open Sys2Proof

def Dev.modPower (d : Dev) (f : Power → Power) : Dev := { d with power := f d.power }
def Dev.modFw (d : Dev) (f : Firmware → Firmware) : Dev := { d with fw := f d.fw }

/-- A clock at a later stage of the same command. -/
def overDev (r : Clock × Dev) (f : Clock → Dev → Dev) : Clock × Dev := (r.1, f r.1 r.2)

/-! ### Status pins (R517) -/

def Dev.statusN (d : Dev) : Bool := !(d.power.mode == .stopped || d.power.mode == .fatal || d.power.mode == .shutdown)

/-- The throttling step in force: the higher of the thermal and the power step (R523). -/
def Power.step (x : Power) : Nat := max x.thermalStep x.powerStep
def Dev.thermN (d : Dev) : Bool := !(decide (2 ≤ d.power.step) || d.power.mode == .shutdown)
def Dev.leakN (d : Dev) : Bool := !d.power.leak
def Dev.sleepN (d : Dev) : Bool := !(d.power.mode == .sleep)

/-! ### Stage records (R488) -/

def Dev.stageStart (d : Dev) (c : Clock) (n : Nat) : Dev :=
  d.modPower fun x => { x with records := modAt (fun _ => { StageRec.empty n with
    outcome := 4, opTime := c.opSeconds, cycles := c.powerCycles, time := c.recTime }) (n - 1) x.records }

/-! ### What a reset or a loss of power leaves (R480, R486, R493) -/

/-- A partition after a reset: closed, its registers at their reset values, its DRAM contents lost; a FORMAT or SANITISE past its
point of no return stands in its metadata pages, every other operation is cancelled (R369, R379, R486). -/
def Part.afterReset (x : Part) : Part :=
  let y := x.loseDram.forgetOps fun o => !o.outlasts
  { y with life := { y.life with st := .closed, keyAtFence := false, flr := false, reset := none, resets := [], busMaster := false,
                                 admitPaused := false },
           regs := ⟨10, 0, 0x1F, false, false, zeros 32⟩, feat := Features.reset, ev := ⟨0, 0, []⟩,
           msix := List.replicate 16 MsixVec.reset, rings := x.rings.map fun (r : RingSet) => RingSet.reset r.regs.localQpn,
           ops := y.ops.map fun (o : LongOp) => { o with carrier := none }, invs := [], remoteHeld := [], rowsHeld := [], fwBuf := [], fwLen := 0 }

/-- The transport after a reset: its SEQUENCE counts go on from their durable marks (R433). -/
def TransportPart.afterReset (t : TransportPart) : TransportPart := { TransportPart.reset with seq := t.mark, mark := t.mark }

/-- Everything that a reset of the module loses, but for the state of the supplies and of bring-up. -/
def Dev.ground (d : Dev) : Dev :=
  let mg := d.mgmt
  let keep := fun (x : Channel) => ({ Channel.reset with spareUsed := x.spareUsed, lost := x.lost } : Channel)
  let cancel := fun (f : FwSlot) => ({ f with state := if f.state = 3 then 1 else f.state, activateAt := 0 } : FwSlot)
  { d with parts := d.parts.map Part.afterReset,
           mgmt := { Mgmt.reset with reserve := mg.reserve, holdupJ := mg.holdupJ, unflushedLimit := mg.unflushedLimit,
                                     rings := mg.rings.map fun (r : RingSet) => RingSet.reset r.regs.localQpn },
           comp := ⟨d.comp.epoch, d.comp.epoch, 0, none⟩, channels := d.channels.map keep,
           arbiters := List.replicate 20 Arbiter.reset, tiles := List.replicate 160 Tile.reset,
           fabric := { Fabric.reset with portConfig := d.fabric.portConfig, storedPortConfig := d.fabric.storedPortConfig,
                                         parts := d.fabric.parts.map TransportPart.afterReset },
           latches := [], fw := { d.fw with slots := d.fw.slots.map cancel, staging := none } }

/-- Steps 1 to 3 of R481: every partition that is not closed is fenced, the write buffer is copied to the SLC region, every key is
zeroised. -/
def Dev.prepareReset (d : Dev) (c : Clock) : Dev :=
  let fence := fun (d : Dev) p => if (d.part p).life.st == PartSt.closed then d.zeroise p else (d.fencePart c p 0).zeroise p
  let d := (List.range 64).foldl fence d
  { d with flash := d.flash.toSlc, power := { d.power with floor := c.time } }

/-- Pauses of a fence end with the reset: the partition is not started any more (R417). -/
def Dev.endPauses (d : Dev) (c : Clock) : Dev := (List.range 64).foldl (fun (d : Dev) p => d.pauseEnd c p 9) d

/-- Fabric time is on holdover once the fabric ports are down (R429, R500). -/
def holdover (r : Clock × Dev) : Clock × Dev := loseTime r.1 r.2 1

/-- Bring-up starts at stage 1: on the fast path when `warm`. POWER_CYCLES and the clock are the caller's. -/
def Dev.startBringup (d : Dev) (c : Clock) (warm : Bool) : Dev :=
  let recs := (List.range 9).map fun i => StageRec.empty (i + 1)
  let d := d.modPower fun x =>
    { x with mode := .bringup 1, warm := warm, path := b2n warm, bringups := x.bringups + 1, records := recs ++ x.records.drop 9,
             heldReset := false, dramKept := warm && x.dramKept, sealed := warm && x.sealed, hostLink := [false, false],
             thermalStep := 0, thermalSince := [none, none, none], powerStep := 0, powerCap := 96, scanPending := false }
  let d := d.modFw fun f => { f with copy := if d.power.dramKept then f.copy else none }
  ({ d with mgmt := { d.mgmt with stage := 0 } } : Dev).stageStart c 1

/-- A reset takes effect: step 4 of R481 for a warm one, then bring-up. -/
def takeReset (c : Clock) (d : Dev) (warm : Bool) : Clock × Dev :=
  let r := holdover (c, d.endPauses c)
  overDev r fun c d => ((d.modPower fun x => { x with sealed := warm, dramKept := warm }).ground).startBringup c warm

/-- A warm request holds only where a sealed map stands, or can be sealed (R482). -/
def Dev.warmOk (d : Dev) : Bool :=
  match d.power.mode with
  | .up => true
  | .sleep => true
  | .bringup _ => d.power.warm
  | .stopped => d.power.warm
  | _ => false

/-- A module reset requested by the management path (R480 to R483, R524): held during thermal shutdown until the module has cooled. -/
def resetModule (c : Clock) (d : Dev) (warm : Bool) : Clock × Dev :=
  match d.power.mode with
  | .shutdown => if d.power.temp < 850 then takeReset c d false else (c, d.modPower fun x => { x with heldReset := true })
  | .off => (c, d)
  | .fatal => (c, d)
  | .held => (c, d)
  | _ => takeReset c (d.prepareReset c) (warm && d.warmOk)

/-- A message that resets, puts to sleep or wakes: the response is sent before the change begins (R483). -/
def powerMsg (type : Nat) (session : Bool) (m : Bytes) (c : Clock) (d : Dev) (judge : Nat) (run : Clock → Dev → Clock × Dev) : Clock × Dev :=
  match d.fmGate .power with
  | none => (c, d)
  | some _ =>
    let res := if !session then 7 else if !fmLayout type m || m.length != 32 then 1 else judge
    let d := d.fmReply m res []
    if res = 0 then run c d else (c, d)

/-- MODULE_RESET (R480 to R483). -/
def execModuleReset (session : Bool) (msg : List Byte) (s : State) : Out :=
  s.onBoth fun c d =>
    let b := msg.drop 16
    let judge := if !zeroAt b 1 15 then 1 else if 1 < fld b 0 1 then 4 else if d.power.mode = .fatal then 5 else 0
    powerMsg 0x20 session msg c d judge fun c d => resetModule c d (fld b 0 1 == 0)

/-! ### Supplies (R294, R503, R509 to R512) -/

/-- Both inputs are gone: the keepers lose their count, their rings and what they held (R430, R470). -/
def losePowerOfKeepers (c : Clock) (d : Dev) : Clock × Dev :=
  let empty := fun (k : Keeper) => ({ k with ring := [], skipped := 0, missed := 0 } : Keeper)
  let r := d.recorder
  ({ c with everLocked := false, timeLost := true, ptpLocked := false, slew := 0, fast := 0, slewAcc := 0 },
   { d with recorder := { r with k0 := empty r.k0, k1 := empty r.k1, frozen := none, held := [], skippedNow := 0, windows := [], fatal := false },
            power := { d.power with mode := .off, kept := false, sealed := false, receiver := none, resetLow := false, heldReset := false } })

/-- The 48 V input and the auxiliary input are within their limits: a bring-up starts from the floor when no count was kept
(R430, R480, R510). -/
def powerUp (c : Clock) (d : Dev) : Clock × Dev :=
  let c : Clock := { c with powered := true, powerCycles := c.powerCycles + 1 }
  if d.power.mode ≠ .off then (c, d)
  else if d.power.kept then (c, d.startBringup c false)
  else
    let c : Clock := { c with time := d.power.floor + 1000000000 }
    (c, (d.modPower fun x => { x with kept := true, fromFloor := true }).startBringup c false)

/-- POWER_ON: the 48 V input has come within its limits (R480, R510). -/
def execPowerOn (s : State) : Out :=
  s.onBoth fun c d =>
    if d.power.inputOk then (c, d)
    else
      let d := d.modPower fun x => { x with inputOk := true }
      if d.power.auxOk then powerUp c d else (c, d)

/-- MiB that the hold-up copy writes: unflushed pages of the write buffer (R294). -/
def Flash.bufferedMib (f : Flash) : Nat := ceilDiv (pageBytes * (f.pages.filter fun p => p.buffered).length) (2 ^ 20)

/-- A FORMAT or SANITISE that power loss has interrupted is one that continues after a power cycle (R375). -/
def Dev.powerCycled (d : Dev) : Dev :=
  { d with parts := d.parts.map fun (x : Part) => { x with ops := x.ops.map fun (o : LongOp) => { o with resumed := true } } }

/-- The 48 V input is lost: the floor is written, the write buffer is copied on hold-up power, every key and all DRAM are lost (R294, R406,
R430, R480, R503). In the fatal state nothing is left to copy it: what the fatal sequence could not copy is lost with DRAM (R477). How long
the copy took is measured: a free value (log 8). -/
def loseInput (c : Clock) (d : Dev) : Clock × Dev :=
  if !d.power.inputOk then (c, d) else
  let mode := d.power.mode
  let mib := if mode = .fatal then 0 else d.flash.bufferedMib
  let d := d.modPower fun x => { x with inputOk := false, resetLow := false, floor := c.time }
  let d := match mode with
    | .bringup k => d.modPower fun x =>
        { x with records := modAt (fun (r : StageRec) => { r with outcome := 3, cause := 7 }) (k - 1) x.records }
    | _ => d
  let d := if mode = .fatal then d else (d.prepareReset c).endPauses c
  let d := (d.record c 0x0601 0 0 none mib (Config.freeNat d.free 0 % 50000) 0).fresh
  let r := holdover (c, d)
  let c : Clock := { r.1 with powered := false }
  let d := if mode = .fatal then ({ r.2 with flash := r.2.flash.loseBuffer } : Dev).ground.powerCycled
    else (r.2.ground.powerCycled.modPower fun x => { x with mode := .off, sealed := false, dramKept := false, hostLink := [false, false] })
  let d : Dev := { d with mgmt := { d.mgmt with stage := 0 } }
  if d.power.auxOk then (c, d) else losePowerOfKeepers c d

/-- LOWER_LIMIT_TRIP (R294). -/
def execLowerLimitTrip (s : State) : Out := s.onBoth loseInput

/-- INPUT_LOST_IN_SLEEP: DRAM is lost; the buffer was flushed at sleep entry (R503). -/
def execInputLostInSleep (s : State) : Out := s.onBoth fun c d => if d.power.mode = .sleep then loseInput c d else (c, d)

/-- AUX_INPUT_LOST: the keepers change over to the 48 V regulators, or lose their power with it (R510). No event code of R473 names
the change (log 45). -/
def execAuxInputLost (s : State) : Out :=
  s.onBoth fun c d =>
    let d := d.modPower fun x => { x with auxOk := false }
    if d.power.inputOk && d.power.mode != .off then (c, d) else losePowerOfKeepers c d

/-- AUX_INPUT_RESTORED: bring-up may start now, where the 48 V input waited for it (R510). -/
def execAuxInputRestored (s : State) : Out :=
  s.onBoth fun c d =>
    if d.power.auxOk then (c, d)
    else
      let d := d.modPower fun x => { x with auxOk := true }
      if d.power.inputOk && d.power.mode == .off then powerUp c d else (c, d)

/-- NAND operations of a side stand still (R511). -/
def Dev.nandStop (d : Dev) (side : Nat) : Dev :=
  if d.flash.nandOff.contains side then d else { d with flash := { d.flash with nandOff := side :: d.flash.nandOff } }

/-- CARRIER_SUPPLY_FAULT (R511). -/
def execCarrierSupplyFault (side : Nat) (s : State) : Out :=
  s.onDev fun c d =>
    if 2 ≤ side then d else
    ((d.modPower fun x => { x with carrierSupply := modAt (fun _ => false) side x.carrierSupply }).nandStop side).storageDieLost c side false

/-- CARRIER_REMOVED (R512). -/
def execCarrierRemoved (side : Nat) (s : State) : Out :=
  s.onDev fun c d =>
    if 2 ≤ side then d else
    ((d.modPower fun x => { x with carrierPresent := modAt (fun _ => false) side x.carrierPresent }).nandStop side).storageDieLost c side false

/-! ### Sleep and wake (R498 to R503) -/

/-- The conditions of R498. -/
def Dev.maySleep (d : Dev) : Bool :=
  d.power.mode == .up && d.mgmt.stage == 9 && !d.power.scanPending && !d.fw.busy &&
  d.parts.all fun (x : Part) => x.life.st == .closed && x.ops.all fun (o : LongOp) => !o.active

/-- The WAKE_SOURCES rules of R483. -/
def wakeSourcesOk (src at_ : Nat) : Bool := bitAt src 0 && bitAt src 3 && (bitAt src 4 == (at_ != 0)) && decide (src < 32)

/-- A fabric port is taken down in order: a shutdown LLDPDU, and its neighbours go (R424, R425, R499). -/
def Dev.portSleep (d : Dev) (c : Clock) (port : Nat) : Dev :=
  let x := d.port port
  if !x.up then d else
  let d := d.emit (.frame port (d.fabric.ownBytes port lldpAddr 0x88CC (d.lldpBytes port 0)))
  let d := x.neighbours.foldl (fun (d : Dev) n => d.neighbourGone c port n 2) d
  d.modPort port fun y => { y with up := false, busy := false, queue := [], neighbours := [], resolved := [] }

/-- Sleep entry (R499, R500): the management ring sets drain, the buffer is flushed, links go down, the maps are sealed. -/
def enterSleep (src at_ : Nat) (c : Clock) (d : Dev) : Clock × Dev :=
  let drain := fun (d : Dev) n =>
    let d := d.startDrain c (.mgmt n) 0
    match (d.ring (.mgmt n)).drain with
    | some k => d.endDrain c (.mgmt n) k
    | none => d
  let d := (List.range 4).foldl drain d
  let d : Dev := { d with flash := (List.range 65).foldl (fun (f : Flash) p => (f.flushPart p).1) d.flash }
  let d := (List.range 16).foldl (fun (d : Dev) i => d.portSleep c i) d
  let d := d.modFabric fun f => { f with ptp := Ptp.reset }
  let d := d.stageStart c 11
  let done := fun (r : StageRec) => ({ r with outcome := 1, duration := Config.freeNat d.free 0 % 351 } : StageRec)
  let d := d.fresh.modPower fun x =>
    { x with mode := .sleep, wakeSources := src, wakeAt := at_, floor := c.time, hostLink := [false, false], sealed := true, dramKept := true,
             records := modAt done 10 x.records }
  holdover (c, d)

/-- SLEEP (R483, R498, R499). -/
def execSleep (session : Bool) (msg : List Byte) (s : State) : Out :=
  s.onBoth fun c d =>
    let b := msg.drop 16
    let judge := if !zeroAt b 1 7 then 1 else if !wakeSourcesOk (fld b 0 1) (fld b 8 8) then 4 else if !d.maySleep then 5 else 0
    powerMsg 0x21 session msg c d judge (enterSleep (fld b 0 1) (fld b 8 8))

/-- A host port can train: its link die serves and its PERST_N is released (R484, R502, R516, R518). -/
def Dev.hostServes (d : Dev) (port : Nat) : Bool := !d.units.isRetired 13 (23 + port) && !d.power.perst.getD port true

/-- The module wakes: 40 ms later STAGE reads 9 and the management ring sets start (R502). Its checks pass; a wake that fails them
becomes a warm reset, which a MODULE_RESET shows (log 46). -/
def wake (c : Clock) (d : Dev) : Clock × Dev :=
  if d.power.mode ≠ .sleep then (c, d) else
  let d := d.stageStart c 10
  let c := c.reach (c.time + 40000000)
  let done := fun (r : StageRec) => ({ r with outcome := 1, duration := 40 } : StageRec)
  let d := d.modPower fun x =>
    { x with mode := .up, sealed := false, hostLink := [d.hostServes 0, d.hostServes 1], records := modAt done 9 x.records }
  let start := fun (d : Dev) n => if (d.ring (.mgmt n)).regs.enable then (d.startRing c (.mgmt n)).flushRing c (.mgmt n) else d
  (c, (List.range 4).foldl start d)

/-- WAKE (R483, R501). -/
def execWake (session : Bool) (msg : List Byte) (s : State) : Out :=
  s.onBoth fun c d =>
    let judge := if !zeroAt msg 16 16 then 1 else if d.power.mode ≠ .sleep then 5 else 0
    powerMsg 0x22 session msg c d judge wake

/-- WAKE_AT_REACHED (R501). -/
def execWakeAtReached (s : State) : Out :=
  if s.dev.power.mode = .sleep ∧ s.dev.power.wakeAt ≠ 0 ∧ bitAt s.dev.power.wakeSources 4 then
    ({ s with clock := s.clock.reach s.dev.power.wakeAt } : State).onBoth wake
  else s.onDev fun _ d => d

/-- FABRIC_WAKE_PATTERN on L0 or L16 (R501). -/
def execFabricWakePattern (lane : Nat) (s : State) : Out :=
  s.onBoth fun c d =>
    if (lane = 0 ∧ bitAt d.power.wakeSources 1) ∨ (lane = 16 ∧ bitAt d.power.wakeSources 2) then wake c d else (c, d)

/-! ### The reset input and the host ports (R516, R518) -/

/-- MODULE_RESET_N_ASSERT: 1 ms of assertion (R518). -/
def execModuleResetNAssert (s : State) : Out :=
  s.onBoth fun c d =>
    match d.power.mode with
    | .fatal => (c, d)
    | .off => (c, d)
    | .shutdown => resetModule c d false
    | .sleep =>
      let r := wake c d
      overDev r fun c d => (d.prepareReset c).modPower fun x => { x with resetLow := true }
    | _ => (c, (d.prepareReset c).modPower fun x => { x with resetLow := true })

/-- MODULE_RESET_N_RELEASE: a warm reset, or stage 1 after a cold hold (R482, R518). -/
def execModuleResetNRelease (s : State) : Out :=
  s.onBoth fun c d =>
    if !d.power.resetLow then (c, d) else
    let d := d.modPower fun x => { x with resetLow := false }
    if d.power.mode = .held then (c, d.startBringup c false) else takeReset c d d.warmOk

/-- MODULE_RESET_N_COLD_HOLD: still asserted at 100 ms (R518). -/
def execModuleResetNColdHold (s : State) : Out :=
  s.onBoth fun c d =>
    if !d.power.resetLow ∨ d.power.mode = .held then (c, d) else
    let r := holdover (c, d.endPauses c)
    overDev r fun _ d => (d.ground.modPower fun x => { x with mode := .held, sealed := false, dramKept := false, hostLink := [false, false] })

/-- The functions of a host port take a Function Level Reset; which they are is fixed by the system (log 47). -/
def Dev.hostDown (d : Dev) (c : Clock) (port : Nat) : Dev :=
  let d := d.modPower fun x => { x with hostLink := modAt (fun _ => false) port x.hostLink }
  let flr := fun (d : Dev) p => if Config.hostPort p % 2 = port ∧ !(d.part p).cfg.ownerRemote then d.flr c p else d
  let d := (List.range 64).foldl flr d
  if Config.hostPort 64 % 2 = port then (List.range 4).foldl (fun (d : Dev) n => d.startDrain c (.mgmt n) 2) d else d

/-- PERST_N_ASSERT (R518). -/
def execPerstNAssert (port : Nat) (s : State) : Out :=
  s.onDev fun c d =>
    if 2 ≤ port then d else (d.modPower fun x => { x with perst := modAt (fun _ => true) port x.perst }).hostDown c port

/-- A host port trains when its link die serves and it is not held in reset. -/
def Dev.hostTrain (d : Dev) (port : Nat) : Dev :=
  if !d.hostServes port ∨ d.power.mode ≠ .up then d
  else d.modPower fun x => { x with hostLink := modAt (fun _ => true) port x.hostLink }

/-- PERST_N_RELEASE: the port retrains (R518). -/
def execPerstNRelease (port : Nat) (s : State) : Out :=
  s.onDev fun _ d =>
    if 2 ≤ port then d else (d.modPower fun x => { x with perst := modAt (fun _ => false) port x.perst }).hostTrain port

/-- REFCLK_LOSS: the link goes down as on PERST_N, and the port retrains in SRIS mode (R516). -/
def execRefclkLoss (port : Nat) (s : State) : Out :=
  s.onDev fun c d =>
    if 2 ≤ port then d else
    ((d.modPower fun x => { x with refclk := modAt (fun _ => false) port x.refclk, sris := modAt (fun _ => true) port x.sris }).hostDown c port).hostTrain port

/-! ### Temperature and power (R218, R522 to R524) -/

/-- Entry threshold of a step, in 0.1 °C. -/
def stepEntry (k : Nat) : Int := if k = 1 then 940 else if k = 2 then 980 else 1020

/-- The token budget ceiling of a step (R522). -/
def stepCap (k : Nat) : Nat := if k = 0 then 96 else if k = 1 then 48 else if k = 2 then 32 else 16

/-- A step is left when its exit condition has held for 1 s; from there the next lower one is looked at. -/
def leaveSteps (since : List (Option Nat)) (now : Nat) : Nat → Nat
  | 0 => 0
  | k + 1 => match since.getD k none with
    | some t => if t + 1000000000 ≤ now then leaveSteps since now k else k + 1
    | none => k + 1

/-- Applies the step in force: the ceilings of the token budgets, a record and the sensor's message when it changed. Which die is
the hottest is measured: a free value (log 8). -/
def Dev.applySteps (d : Dev) (c : Clock) (before : Nat) : Dev :=
  let cap := min (stepCap d.power.step) d.power.powerCap
  let d : Dev := { d with arbiters := d.arbiters.map fun (a : Arbiter) => { a with cap := cap } }
  if d.power.step = before then d
  else ((d.record c 0x0604 13 (Config.freeNat d.free 0 % 25) none d.power.step (ofSigned 64 d.power.temp) 0).fresh).tellSensor 0x0627 d.power.step

/-- Thermal shutdown (R524). -/
def thermalOff (c : Clock) (d : Dev) : Clock × Dev :=
  let d := (d.prepareReset c).endPauses c
  let r := holdover (c, d)
  overDev r fun _ d =>
    ({ d.ground with mgmt := { d.ground.mgmt with stage := 0 } } : Dev).modPower fun x =>
      { x with mode := .shutdown, heldReset := false, sealed := false, dramKept := false, hostLink := [false, false], thermalStep := 0, powerStep := 0,
               thermalSince := [none, none, none] }

/-- The rails that throttling concerns are up. -/
def Dev.running (d : Dev) : Bool :=
  match d.power.mode with
  | .up => true
  | .bringup _ => true
  | .stopped => true
  | .fatal => true
  | _ => false

/-- THERMAL_SAMPLE: T in 0.1 °C (R522, R524). A power step is left when the power has stayed below 2,300 W for 10 ms, which no command
reports: a free value decides it (log 44). -/
def execThermalSample (temp : Int) (s : State) : Out :=
  s.onBoth fun c d =>
    let before := d.power.step
    let d := d.modPower fun x => { x with temp := temp }
    if !d.running then (c, d)
    else if 1050 ≤ temp ∧ d.power.mode ≠ .fatal then thermalOff c d
    else
      let since := (indexed d.power.thermalSince).map fun e =>
        if temp + 40 ≤ stepEntry (e.1 + 1) then some (e.2.getD c.time) else none
      let entered := if 1020 ≤ temp then 3 else if 980 ≤ temp then 2 else if 940 ≤ temp then 1 else 0
      let k := max entered (leaveSteps since c.time d.power.thermalStep)
      let calm := decide (d.power.powerSince + 10000000 ≤ c.time) && Config.freeNat d.free 0 % 2 == 1
      let d := d.fresh.modPower fun x =>
        { x with thermalSince := since, thermalStep := k, powerStep := if calm then 0 else x.powerStep, powerCap := if calm then 96 else x.powerCap }
      (c, d.applySteps c before)

/-- POWER_LIMITED: budgets are lowered first (to the lowest, log 44); at the lowest budgets step 2 is entered, and step 3 when the
excess lasts 1 ms more (R20, R523). -/
def execPowerLimited (s : State) : Out :=
  s.onDev fun c d =>
    if !d.running then d else
    let before := d.power.step
    let high := (indexed d.arbiters).filter fun e => decide (16 < e.2.effective)
    if !high.isEmpty then
      ((d.modPower fun x => { x with powerCap := 16, powerSince := c.time }).record c 0x0603 0 0 none (high.foldl (fun v e => v + 2 ^ e.1) 0) 16 1).applySteps c before
    else
      (d.modPower fun x =>
        { x with powerStep := if x.powerStep = 0 then 2 else if x.powerSince + 1000000 ≤ c.time then 3 else x.powerStep, powerSince := c.time }).applySteps c before

/-- THERMAL_SHUTDOWN (R524). -/
def execThermalShutdown (s : State) : Out :=
  s.onBoth fun c d => if d.running && d.power.mode != .fatal then thermalOff c (d.modPower fun x => { x with temp := max x.temp 1050 }) else (c, d)

/-- THERMAL_SHUTDOWN_EXIT: every sensor reads below 85 °C; a reset held until then starts a cold bring-up (R524). -/
def execThermalShutdownExit (s : State) : Out :=
  s.onBoth fun c d =>
    if d.power.mode ≠ .shutdown then (c, d) else
    let d := d.modPower fun x => { x with temp := min x.temp 849 }
    if d.power.heldReset then takeReset c d false else (c, d)

/-- LEAK_DETECTED: LEAK_N only (R517). -/
def execLeakDetected (present : Bool) (s : State) : Out := s.onDev fun _ d => d.modPower fun x => { x with leak := present }

/-- FABRIC_TIME_FLOOR_WRITE: once in every hour of operating time (R430). -/
def execFabricTimeFloorWrite (s : State) : Out :=
  s.onDev fun c d => d.modPower fun x => { x with floor := c.time, floorHour := c.opTime / hourNs }

/-! ### Live firmware (R493 to R497) -/

/-- The slot whose activation is scheduled. -/
def Firmware.scheduled (f : Firmware) : Option (Nat × FwSlot) := (indexed f.slots).find? fun e => e.2.state == 3

/-- FW_STAGING_COMPLETE: the activation time is fixed and FW_COMMIT completes (R495). -/
def execFwStagingComplete (s : State) : Out :=
  s.onDev fun c d =>
    match d.fw.staging with
    | none => d
    | some (r, slot, at_) =>
      let a := roundUp (max at_ c.time) 1000000
      let d := d.modFw fun f => { f with staging := none }
      if (d.req? r).isNone then d else
      (d.modFw fun f => { f with target := slot, slots := modAt (fun (k : FwSlot) => { k with state := 3, activateAt := a }) slot f.slots }).finish c r
        ⟨statusSUCCESS, 0, slot, a⟩

/-- At A every core runs the new bank; the pause lasts no time in the model (log 41). Whether the keeper section changed is told by the
KEEPER_HANDOVER that follows (R496, R507). -/
def Dev.activateSlot (d : Dev) (c : Clock) (slot : Nat) (k : FwSlot) : Dev :=
  let old := d.fw.active
  let d := d.startedParts.foldl (fun (d : Dev) p => d.shortPause c p 1) d
  let swap := fun (l : List FwSlot) => modAt (fun (x : FwSlot) => { x with state := 2, activateAt := 0 }) slot (modAt (fun (x : FwSlot) => { x with state := 1 }) old l)
  let take := fun (f : Firmware) => ({ f with slots := swap f.slots, active := slot, floor := max f.floor k.security } : Firmware)
  let d := d.modFw fun f => { take f with keeperChanged := true, copy := some k.version }
  d.record c 0x0702 0 0 none k.version 0 0

/-- FW_ACTIVATION (R496). -/
def execFwActivation (s : State) : Out :=
  match s.dev.fw.scheduled with
  | none => s.onDev fun _ d => d
  | some (slot, k) => s.atTime k.activateAt fun c d => d.activateSlot c slot k

/-- FW_ACTIVATION_ROLLBACK: a core has not resumed by 4 ms after A, so every core returns to its old bank (R496). -/
def execFwActivationRollback (s : State) : Out :=
  match s.dev.fw.scheduled with
  | none => s.onDev fun _ d => d
  | some (slot, k) =>
    let c0 := s.clock.reach k.activateAt
    let on := s.dev.startedParts.filter fun p => (s.dev.part p).life.reset.isNone
    let d := on.foldl (fun (d : Dev) p => d.pauseStart c0 p 1 true) s.dev
    ({ s with clock := c0, dev := d } : State).atTime (c0.time + 4000000) fun c d =>
      let d := on.foldl (fun (d : Dev) p => d.pauseEnd c p 1) d
      let d := d.modFw fun f => { f with slots := modAt (fun (x : FwSlot) => { x with state := 6, activateAt := 0 }) slot f.slots }
      d.record c 0x0702 0 0 none (d.fw.version d.fw.active) 4000 0

/-! ### Boundary scan (R519, R520) -/

/-- IDCODE of a die in the order of the chain: LD0, LD1, SD0, SD1, CD, SB0 to SB19, all of stepping B0 (R310, R520). -/
def idcode (die : Nat) : Nat :=
  let part := if die < 2 then 0x1D14 else if die < 4 then 0x5D14 else if die = 4 then 0xC144 else 0x5B14
  4 * 2 ^ 28 + part * 2 ^ 12 + 0x2E7 * 2 + 1

/-- Instruction codes: all ones is BYPASS; the others are PRESUMED (log 48). -/
def tapIDCODE : Nat := 2
def tapSAMPLE : Nat := 1
def tapEXTEST : Nat := 0

/-- A rail of R513, by its place in the order, is up: VKEEP while the keepers have power, VBUS and the stack rails in sleep too, every other
rail outside sleep, thermal shutdown and loss of the input (R510, R513 to R515, R518, R524). -/
def Dev.railUp (d : Dev) (rail : Nat) : Bool :=
  match d.power.mode with
  | .off => rail == 0 && d.power.auxOk
  | .shutdown => rail == 0
  | .sleep => decide (rail < 6)
  | _ => decide (rail < 12) && (rail == 0 || d.power.inputOk)

/-- The device drives the ONFI outputs of a side: VIO_ONFI is up and the carrier's supplies are within their limits (R511). -/
def Dev.onfiDriven (d : Dev) (side : Nat) : Bool := d.railUp 11 && d.power.carrierSupply.getD side false

/-- The rail that feeds the logic of a die in the order of the chain: VDD_SL, VDD_CD or VDD_SB (R513, R519). -/
def dieRail (die : Nat) : Nat := if die < 4 then 9 else if die = 4 then 7 else 5

/-- What the port of a die does: bypass in sleep and in a die whose rails are off; EXTEST only while the reset input has been
asserted for more than 100 ms (R520). -/
def Dev.tapActs (d : Dev) (die : Nat) : Nat :=
  let i := d.power.tapIr.getD die 0xFF
  if d.power.mode == .sleep || !d.railUp (dieRail die) || (i == tapEXTEST && d.power.mode != .held) then 0xFF else i

/-- Bits shifted out of a port's data register while `bits` are shifted in. The pin cells hold what the pins carry: free values. -/
def Dev.tapShift (d : Dev) (die : Nat) (bits : List Bool) : List Bool :=
  let i := d.tapActs die
  if i = tapIDCODE then (((List.range 32).map fun k => bitAt (idcode die) k) ++ bits).take bits.length
  else if i = tapSAMPLE ∨ i = tapEXTEST then (List.range bits.length).map fun k => Config.freeNat d.free k % 2 == 1
  else (false :: bits).take bits.length

/-- TEST_ACCESS_PORT_CYCLE (R519, R520). TRST_N selects IDCODE; an instruction shift captures the pattern 01 (log 48). -/
def execTestAccessPortCycle (k : TapCycle) (s : State) : Out :=
  s.onDev fun _ d =>
    match k with
    | .trst => d.modPower fun x => { x with tapIr := List.replicate 25 tapIDCODE }
    | .shiftIr die instr =>
      (d.emit (.tdo [true, false, false, false, false, false, false, false])).modPower fun x =>
        { x with tapIr := modAt (fun _ => instr % 256) die x.tapIr }
    | .shiftDr die bits => if 25 ≤ die then d else (d.emit (.tdo (d.tapShift die bits))).fresh

/-! ### SPDM and PLDM (R408 to R411, R469) -/

/-- Blocks of R410 in the DMTF measurement format: index, specification, sizes and value. -/
def measBlock (i kind : Nat) (v : Bytes) : Bytes := le 1 i ++ le 1 1 ++ le 2 (v.length + 3) ++ le 1 kind ++ le 2 v.length ++ v

def Dev.slotDigest (d : Dev) (i : Nat) : Bytes :=
  match d.fw.slots[i]? with
  | some f => if f.state = 0 then zeros 48 else fit 48 f.digest
  | none => zeros 48

/-- Block 7: the requester's own partition (R410). -/
def Dev.partBlock (d : Dev) (p : Nat) : Bytes :=
  let f := (d.part p).cfg
  le 1 p ++ le 1 (b2n f.repro) ++ le 1 (b2n f.maint + 2 * b2n f.info) ++ le 2 (popcount 160 f.sites) ++ le 40 f.channels ++ le 4 d.comp.epoch

/-- The measurement blocks that a requester may read. -/
def Dev.measurements (d : Dev) (source : SpdmFrom) : List (Nat × Bytes) :=
  let own := match source with
    | .management => none
    | .localOwner p => some p
    | .remoteOwner k => some (pkPart k)
  [(1, measBlock 1 0 (fit 48 (Config.crypto 11 []))), (2, measBlock 2 1 (d.slotDigest d.fw.active ++ le 8 (d.fw.version d.fw.active))),
   (3, measBlock 3 1 (d.slotDigest (1 - d.fw.active))), (4, measBlock 4 1 (fit 48 (Config.crypto 14 (d.slotDigest d.fw.active)))),
   (5, measBlock 5 3 (fit 48 (Config.crypto 15 (d.units.retired.flatMap fun e => le 1 e.1 ++ le 2 e.2)))),
   (6, measBlock 6 0x83 ((identityBytes.drop 32).take 25 ++ le 1 d.mgmt.reserve ++ le 1 d.fabric.portConfig ++ le 8 d.flash.geom.raw))] ++
  (match own with
   | some p => [(7, measBlock 7 0x83 (d.partBlock p))]
   | none => [])

/-- The codes of DSP0274 that the table of R408 supports. -/
def spdmSupported : List Nat := [0x84, 0xE1, 0xE3, 0x81, 0x82, 0x83, 0xE0, 0xE4, 0xE5, 0xE8, 0xE9, 0xEC]

def spdmError (code data : Nat) : Bytes := le 1 0x12 ++ le 1 0x7F ++ le 1 code ++ le 1 data

/-- The response to a request: signatures, certificates and key shares are the keeper's cryptography (log 10, log 49). -/
def Dev.spdmAnswer (d : Dev) (q : SpdmReq) : Bytes :=
  let head := fun (p1 p2 : Nat) => le 1 0x12 ++ le 1 (q.code % 128) ++ le 1 p1 ++ le 1 p2
  if !spdmSupported.contains q.code then spdmError 7 q.code
  else if q.code = 0xE0 then
    let l := d.measurements q.source
    if q.param2 = 0 then head l.length 0 ++ zeros 4
    else
      let sel := if q.param2 = 0xFF then l else l.filter fun e => e.1 == q.param2
      if sel.isEmpty then spdmError 1 0
      else
        let body := sel.flatMap (·.2)
        let sig := if bitAt q.param1 0 then Config.crypto 16 (q.data ++ body) else []
        head 0 0 ++ le 1 sel.length ++ le 3 body.length ++ body ++ sig
  else if q.code = 0x82 then
    (if q.param1 % 16 = 0 then head 0 0 ++ Config.crypto 17 (Config.serial ++ q.data) else spdmError 1 0)
  else if q.code = 0x83 ∧ q.param1 % 16 ≠ 0 then spdmError 1 0
  else head 0 0 ++ Config.crypto (256 + q.code) (q.data ++ le 2 (q.param1 + 256 * q.param2))

/-- The keepers have power and answer (R477, R484, R500, R524). -/
def Dev.keepersAnswer (d : Dev) : Bool := (d.power.inputOk || d.power.auxOk) && d.power.mode != .held

/-- SPDM_REQUEST (R408 to R411). A remote owner's comes as an unkeyed message of the transport, which passes the checks of R435, and is
answered by one (R409, R436, R437; log 132). -/
def execSpdmRequest (q : SpdmReq) (s : State) : Out :=
  s.onDev fun c d =>
    if !d.keepersAnswer then d else
    match q.source with
    | .remoteOwner k =>
      if pkType k ≠ 4 then d else
      let w := d.receive c k false ((d.part (pkPart k)).cfg.fromOwner k) false
      if w.2 = .accepted then w.1.answer c k 4 3 (w.1.spdmAnswer q) else w.1
    | _ => d.emit (.spdm (d.spdmAnswer q))

/-- SET_EVENT_RECEIVER (R469). -/
def execSetEventReceiver (eid tag : Nat) (s : State) : Out :=
  s.onDev fun _ d => if d.keepersAnswer then d.modPower fun x => { x with receiver := some (eid, tag) } else d

/-- The numeric sensors of R418, R456, R469 and R525; temperatures, voltages and currents that the model does not hold are free
values, and an identifier that no table names has no sensor. `kind` and partition of R418 are told by the identifier. -/
def Dev.sensor (d : Dev) (c : Clock) (id : Nat) : Option Nat :=
  let t := fun (n : Nat) => d.transport n
  if 0x0100 ≤ id ∧ id < 0x0200 then some ((d.part (id % 64)).acct.sensor c.opTime ((id - 0x0100) / 64))
  else if 0x0200 ≤ id ∧ id < 0x0300 then some ((t ((id - 0x0200) / 4)).drops.getD ((id - 0x0200) % 4) 0)
  else if 0x0300 ≤ id ∧ id < 0x0340 then some (t (id - 0x0300)).authFails
  else if 0x0340 ≤ id ∧ id < 0x0380 then some (t (id - 0x0340)).replays
  else if 0x0380 ≤ id ∧ id < 0x03C0 then some (t (id - 0x0380)).stale
  else if 0x03C0 ≤ id ∧ id < 0x0400 then
    some ((t (id - 0x03C0)).dropped + sumNat (fun (r : RingSet) => r.dropped) (d.part (id - 0x03C0)).rings)
  else if 0x0400 ≤ id ∧ id < 0x0410 then some (d.port (id - 0x0400)).errors
  else if 0x0410 ≤ id ∧ id < 0x0420 then some (d.port (id - 0x0410)).gateWaits
  else if id = 0x0420 then some (ofSigned 64 d.fabric.ptp.offset)
  else if id = 0x0421 then some (match d.fabric.ptp.bound with
    | some b => b.1
    | none => 0xFF)
  else if 0x0500 ≤ id ∧ id < 0x0600 then d.sensor469 id
  else if id = 0x0627 then some d.power.step
  else if id = 0x062C then some (b2n d.power.leak)
  else if (0x0600 ≤ id ∧ id < 0x0619) ∨ (0x0620 ≤ id ∧ id < 0x062C) then some (Config.freeNat d.free id)
  else none

end Sys2Proof.Machine
end

