-- ==== Sys2Proof/Machine/Bringup.lean ====
section
/-! DEFINITION. The nine stages of bring-up (R252, R253, R261, R262, R430, R464, R484 to R492, R494, R504). -/

namespace Sys2Proof.Machine

open Sys2Proof

/-! ### Tests of units (R464, R484) -/

/-- A unit fails its test: it is retired, and what it served takes its replacement (R457, R461, R484). -/
def Dev.testFails (d : Dev) (c : Clock) (u : UnitId) : Dev :=
  let channel := fun (d : Dev) ch => if 320 ≤ ch ∨ (d.chan ch).lost then d else (d.retireUnit c 6 ch 3 none).retireChannel ch
  match u.kind with
  | 1 => if d.units.isRetired 1 u.num then d else
    (match d.siteOf u.num with
     | some (p, _) => (d.spareSite c p u.num 3).1
     | none => d.retireUnit c 1 u.num 3 none)
  | 2 => d.retireUnit c 2 u.num 3 ((sortBy id (d.units.spares 2)).head?.map fun e => (2, e))
  | 5 => (List.range 16).foldl (fun (d : Dev) m => channel d (16 * u.num + m)) (d.retireUnit c 5 u.num 5 none)
  | 6 => channel d u.num
  | 7 =>
    let ch := u.num / 8
    if (d.chan ch).spareUsed then channel d ch
    else (({ d with units := d.units.raise 7 u.num } : Dev).record c 0x0101 7 u.num none 3 (unitWord (some (7, u.num))) (d.units.gen 7 u.num)).modChan ch
      fun x => { x with spareUsed := true }
  | 8 => d.flashChannelLost c u.num
  | 11 => d.retireUnit c 11 u.num 5 none
  | 9 => if 1024 ≤ u.num ∨ d.flash.lostDies.contains u.num then d
         else { d.retireUnit c 9 u.num 3 none with flash := d.flash.dieLost (u.num / 16) (u.num % 16) }
  | 13 => if u.num = 21 ∨ u.num = 22 then (if d.flash.lost (u.num - 21) then d else d.loseDie c (u.num - 21) true) else d.retireUnit c 13 u.num 5 none
  | 14 => d
  | 15 => d
  | k => d.retireUnit c k u.num 3 none

/-- Kinds of unit that a stage tests (R464). -/
def stageTests (n : Nat) : List Nat :=
  if n = 3 then [11] else if n = 4 then [1, 2, 3, 4] else if n = 5 then [6, 7] else if n = 6 then [8, 10] else []

/-- A retired unit that passes returns, only as a spare (R464). -/
def Dev.testPasses (d : Dev) (c : Clock) (stage k i : Nat) : Dev :=
  let d := d.returnUnit c k i stage
  if d.units.isRetired k i then d
  else if k = 6 then
    ({ d with units := { d.units with retired := d.units.retired.filter fun e => e != (5, i / 16) } } : Dev).modChan i fun x => { x with lost := false, spareUsed := false }
  else if k = 8 then { d with flash := { d.flash with lostCh := d.flash.lostCh.filter fun y => y != i } }
  else d

/-- The tests of a stage: units that fail are retired; at a cold bring-up retired units that pass return (R464). -/
def Dev.runTests (d : Dev) (c : Clock) (stage : Nat) (failed : List UnitId) : Dev :=
  let bad := fun (e : Nat × Nat) => failed.any fun u => u.kind == e.1 && u.num == e.2
  let again := d.units.retired.filter fun e => !d.power.warm && (stageTests stage).contains e.1 && !bad e
  let d := again.foldl (fun (d : Dev) e => d.testPasses c stage e.1 e.2) d
  failed.foldl (fun (d : Dev) u => d.testFails c u) d

/-! ### What each stage does (R484) -/

/-- Stage 1: the choice of the active keeper, where a failed keeper is retested at a cold bring-up; the energy of the hold-up store is
measured, but on the fast path when the last measurement is under 24 h old (R293, R484, R504, R506). -/
def Dev.stage1 (d : Dev) (c : Clock) (failed : List UnitId) (joules : Nat) : Dev :=
  let ok := fun (k : Nat) => !failed.any fun u => u.kind == 14 && u.num == k
  let d := if d.power.warm && decide (c.opTime < d.power.holdupAt + 86400 * 1000000000) then d else d.measureHoldup c joules
  let r := d.recorder
  let keep := fun (k : Nat) (x : Keeper) => ({ x with present := ok k && (x.present || !d.power.warm) && !d.units.isRetired 13 (23 + k) } : Keeper)
  let k0 := keep 0 r.k0
  { d with recorder := { r with k0 := k0, k1 := keep 1 r.k1, active := if k0.present then 0 else 1 },
           power := { d.power with keeperLinkOk := d.power.keeperLinkOk || !d.power.warm } }

/-- The slot that stage 2 tries first: one whose activation waits for a reset (R495), else the active one. -/
def Firmware.bootSlot (f : Firmware) : Nat := (f.slots.findIdx? fun k => k.state == 4).getD f.active

/-- Stage 2: the slot that authenticates becomes active, and the floor rises to its SECURITY_VERSION (R494). -/
def Dev.stage2 (d : Dev) (bad : List Nat) : Dev × Bool :=
  let f := d.fw
  let first := f.bootSlot
  let good := fun (i : Nat) => !bad.contains i && (match f.slots[i]? with
    | some k => k.state != 0 && decide (f.floor ≤ k.security)
    | none => false)
  let pick := if good first then some first else if good (1 - first) then some (1 - first) else none
  let mark := fun (e : Nat × FwSlot) =>
    ({ e.2 with state := if pick == some e.1 then 2 else if e.2.state = 0 then 0 else if e.1 = first || pick.isNone then 5 else if e.2.state = 2 then 1 else e.2.state } : FwSlot)
  match pick with
  | none => (d.modFw fun f => { f with slots := (indexed f.slots).map mark }, false)
  | some i =>
    (d.modFw fun f => { f with slots := (indexed f.slots).map mark, active := i,
                               floor := max f.floor (((f.slots[i]?).map (·.security)).getD 0) }, true)

/-- Stage 3: the port configuration in the boot flash is taken, and each host port trains in the mode its reference clock gives, unless its
training fails (R420, R516). -/
def Dev.stage3 (d : Dev) (failed : List UnitId) : Dev :=
  let up := fun (i : Nat) => d.hostServes i && !failed.contains ⟨15, i⟩
  let d := d.modFabric fun f => { f with portConfig := f.storedPortConfig }
  d.modPower fun x => { x with hostLink := [up 0, up 1], sris := x.refclk.map fun r => !r }

/-- Stage 3 goes on with a stack, a storage die and a link die of which one at least trains (R484). -/
def Dev.linksOk (d : Dev) (failed : List UnitId) : Bool :=
  (List.range 20).any (fun i => !d.units.isRetired 5 i && !d.units.isRetired 13 (1 + i)) && !(d.flash.forGood.contains 0 && d.flash.forGood.contains 1) &&
  [0, 1].any fun i => !d.units.isRetired 13 (23 + i) && !failed.contains ⟨15, i⟩

/-- Module channels at a raw capacity (R252). -/
def moduleChannelCount (raw : Nat) : Nat := ceilDiv (2 * (raw * 5 / 16384 + 8 * 2 ^ 30)) (9 * 2 ^ 30)

/-- Channels that no composition may be using: in no partition's list and not named by the stored map. -/
def Dev.openChannel (d : Dev) (ch : Nat) : Bool :=
  !(d.chan ch).lost && !(d.parts.any fun (x : Part) => x.life.chans.contains ch) &&
  !((d.power.storedMap.getD []).any fun (k : PartCfg) => k.present && bitAt k.channels ch)

/-- The channels that one side's module channels take: those that still stand, then the lowest free of the highest stack, in no stack
of the other side (R252; DESIGN CHOICE, log 42). -/
def Dev.pickModule (d : Dev) (n : Nat) (kept other : List Nat) : List Nat :=
  let taken := other.map (· / 16)
  let free := (List.range 320).filter fun ch => d.openChannel ch && !kept.contains ch && !d.reserve.contains ch && !taken.contains (ch / 16)
  (kept ++ sortBy (fun ch => (19 - ch / 16) * 16 + ch % 16) free).take n

/-- Stage 6: the module channels: half with the SD0-side map entries and the first copy of the write buffer, half with the SD1-side
entries and the second copy, in disjoint sets of stacks (R252). -/
def Dev.chooseModule (d : Dev) : Dev :=
  let n := moduleChannelCount d.flash.geom.raw
  let kept := d.modChans.filter fun ch => !(d.chan ch).lost
  let kept1 := kept.filter d.modSide1.contains
  let side0 := d.pickModule (ceilDiv n 2) (kept.filter fun ch => !d.modSide1.contains ch) kept1
  let side1 := d.pickModule (n / 2) kept1 side0
  { d with modChans := side0 ++ side1, modSide1 := side1 }

/-! ### NAND discovery (R265 to R267) -/

/-- A NAND die reports what the device can use (R266). -/
def nandFits (r : NandReport) : Bool :=
  r.present && r.dataBytes == 16384 && decide (2048 ≤ r.spareBytes) && r.planes == 4 && (r.cells == 3 || r.cells == 4) && r.oneShot && r.slcMode &&
  (r.density == 512 || r.density == 1000 || r.density == 2000)

/-- What has to be equal on every die in use (R266). -/
def nandShape (r : NandReport) : List Nat := [r.spareBytes, r.cells, r.density, r.blockPages]

/-- The geometry that dies of a shape give a module with `n` of them on a channel. -/
def nandGeometry (r : NandReport) (n : Nat) : Geometry :=
  ⟨n, if r.density = 512 then 0 else if r.density = 1000 then 1 else 2, 64 * r.blockPages⟩

/-- The dies of the whole module, by their numbers. -/
def allDies : List Nat := List.range 1024

/-- The geometry in use when dies that fit differ: the one held, where a die of it is found, else that of the lowest-numbered die
(R266; DESIGN CHOICE, log 68). -/
def Flash.pattern (f : Flash) : Option NandReport :=
  let ok := (allDies.map f.report).filter nandFits
  match ok.find? fun r => nandGeometry r f.geom.dies == f.geom with
  | some r => some r
  | none => ok.head?

/-- Discovery at stage 6: the population from the largest number of usable dies on a channel, up to the next of 4, 8, 12 and 16; and the dies
that failed a condition or are missing (R266, R267). -/
def Flash.discover (f : Flash) (nand : List NandReport) : Flash × List Nat :=
  let f : Flash := { f with found := nand ++ f.found.filter fun r => !(nand.any fun k => k.die == r.die) }
  match f.pattern with
  | none => (f, allDies.filter fun i => i % 16 < f.geom.dies)
  | some r =>
    let usable := fun (i : Nat) => nandFits (f.report i) && nandShape (f.report i) == nandShape r
    let most := (List.range 64).foldl (fun (m : Nat) ch => max m ((List.range 16).filter fun n => usable (16 * ch + n)).length) 0
    let n := roundUp (max 1 most) 4
    ({ f with geom := nandGeometry r n }, allDies.filter fun i => !usable i && (decide (i % 16 < n) || (f.report i).present))

/-- The NAND of the module is discovered, unusable dies fail, and both storage dies train at their temperatures (R265 to R267, R284). -/
def Dev.discoverNand (d : Dev) (c : Clock) (rep : StageReport) : Dev × List UnitId :=
  let r := d.flash.discover rep.nand
  let bad := r.2.map fun i => (⟨9, i⟩ : UnitId)
  let d := (bad.filter fun u => !(rep.failed.any fun k => k == u)).foldl (fun (d : Dev) u => d.testFails c u) { d with flash := r.1 }
  ({ d with flash := (d.flash.train 0 rep.temps.1).train 1 rep.temps.2 }, bad)

/-! ### Stage 6 -/

/-- The latest version of a logical page of an owner that the map names on either side. -/
def Flash.newest (f : Flash) (p owner n : Nat) : Nat := match f.lpn? p owner n with
  | none => 0
  | some l => max ((mapGet f.map l).getD 0) ((mapGet f.map (l + sideBit)).getD 0)

/-- Pages of stored objects hold what the map now names: an older version, or zeros, where a write did not survive (R295, R303). -/
def Part.resync (x : Part) (p : Nat) (old new : Flash) : Part :=
  let fix := fun (m : PartMem) (o : Obj) => (List.range (ceilDiv o.size pageBytes)).foldl (fun (m : PartMem) i =>
    if old.newest p o.first i = new.newest p o.first i then m
    else { m with flash := (m.flash.zero (o.first * windowBytes + pageBytes * i) pageBytes).writeN (o.first * windowBytes + pageBytes * i)
                    (new.bodyOf p o.first i).data }) m
  { x with mem := (x.objs.filter fun (o : Obj) => o.kind == .stored).foldl fix x.mem }

/-- Stage 6: the storage dies and the flash map: discovered and trained, then rebuilt by a scan of the headers, or checked on the fast path;
then the SLC pages are reprogrammed. A storage die that was lost with its carrier is back when that is there, one that has failed itself is
not (R265 to R267, R286, R303, R304, R491, R512; log 89). Answers the NAND dies that failed. -/
def Dev.stage6 (d : Dev) (c : Clock) (rep : StageReport) (fast : Bool) : Dev × List UnitId :=
  let here := fun (i : Nat) => d.power.carrierPresent.getD i true && d.power.carrierSupply.getD i true
  let f := d.flash
  let back := fun (i : Nat) => here i && !f.forGood.contains i
  let d : Dev := if fast then d else
    { d with flash := { f with lost0 := f.lost0 && !back 0, lost1 := f.lost1 && !back 1, nandOff := f.nandOff.filter fun i => !here i },
             units := { d.units with retired := d.units.retired.filter fun e => !(e == (13, 21) && back 0) && !(e == (13, 22) && back 1) } }
  let d := [0, 1].foldl (fun (d : Dev) i => if here i || d.flash.lost i then d else d.loseDie c i false) d
  let r := if fast then (d, []) else d.discoverNand c rep
  let d := r.1
  let gens := d.parts.map fun (x : Part) => x.keys.gen
  let old := d.flash
  let new := if fast then old.fromSlc c.time else (old.rebuilt gens).fromSlc c.time
  let d : Dev := { d with flash := { new with entriesLost := [] }, parts := if fast then d.parts else (indexed d.parts).map fun e => e.2.resync e.1 old new }
  (d.chooseModule, r.2)

/-- Stage 8: fabric time that runs from the floor is stepped to a time that no partition has used (R430). -/
def stage8 (c : Clock) (d : Dev) : Clock × Dev :=
  if !d.power.fromFloor ∨ c.everLocked then (c, d) else
  let used := d.parts.foldl (fun m (x : Part) => if x.keys.record.isSome then max m (x.vis.origin + (x.vis.highest + 1 - x.vis.base) * x.vis.tick) else m) 0
  if c.time < used then (c.jump (used - c.time), d) else (c, d)

/-- Reserve channels of a RESERVE value: those that still stand empty, then the highest open ones (R253; DESIGN CHOICE, log 42). -/
def Dev.chooseReserve (d : Dev) : Dev :=
  let free := fun (ch : Nat) => d.openChannel ch && !d.modChans.contains ch
  let kept := sortBy id (d.reserve.filter free)
  let more := sortBy (fun ch => 320 - ch) ((List.range 320).filter fun ch => free ch && !kept.contains ch)
  { d with reserve := (kept ++ more).take (16 * d.mgmt.reserve) }

/-- Positions whose channel did not pass are filled from the reserve, and a re-materialisation that power loss ended starts again for them; a
partition with one that cannot be filled is fenced (R259, R262, R369, R485). -/
def Dev.fillPositions (d : Dev) (c : Clock) (p : Nat) : Dev :=
  let bad := (d.part p).life.chans.filter fun ch => (d.chan ch).lost
  let d := bad.foldl (fun (d : Dev) ch => d.fillPosition p ch) d
  let d := (List.range 20).foldl (fun (d : Dev) st =>
    let mine := bad.filter fun ch => ch / 16 == st
    if mine.isEmpty then d
    else d.startRemat c p st mine ((d.part p).shareMib mine.length) (if mine.length = 1 then mine.head? else none)) d
  if (d.part p).life.unfilled.isEmpty then d
  else (d.record c 0x0209 0 0 none d.reserve.length (2 ^ p) 0).fencePart c p 3

/-- Stage 9: reserve channels, the stored composition, the management ring sets (R253, R484, R485). -/
def Dev.stage9 (d : Dev) (c : Clock) : Dev :=
  let d := d.chooseReserve
  let recs := d.power.storedMap.getD []
  let d : Dev := { d with comp := ⟨d.power.storedEpoch, d.power.storedEpoch, 0, none⟩ }
  let apply := fun (d : Dev) (k : Nat × PartCfg) =>
    if k.2.present then d.applyCfg k.1 k.2 else if (d.part k.1).cfg.present then d.applyRecord c k.1 k.2 else d
  let d := (indexed recs).foldl apply d
  let d := (List.range 64).foldl (fun (d : Dev) p => d.fillPositions c p) d
  let d := d.modPower fun x => { x with mode := .up, sealed := false }
  let d : Dev := { d with mgmt := { d.mgmt with stage := 9, ev := ⟨0, 0, []⟩ } }
  (List.range 4).foldl (fun (d : Dev) n =>
    if (d.ring (.mgmt n)).regs.enable then (d.startRing c (.mgmt n)).flushRing c (.mgmt n) else d) d

/-! ### Ends of stages (R484, R488, R491, R492) -/

/-- DETAIL0 of a stage record. -/
def Dev.stageDetail (d : Dev) (n : Nat) : Nat :=
  if n = 3 then (List.range 32).foldl (fun v i => v + b2n (!d.units.isRetired 11 i) * 2 ^ i) 0
  else if n = 4 then d.inService 1
  else if n = 5 then ((List.range 320).filter fun ch => !(d.chan ch).lost).length
  else if n = 6 then d.flash.geom.raw
  else if n = 7 then 2944
  else 0

/-- Writes a stage's record again at its end, and its STAGE event. -/
def Dev.stageEnd (d : Dev) (c : Clock) (rep : StageReport) (ok full fast : Bool) (cause spared : Nat) : Dev :=
  let n := rep.stage
  let first := match rep.failed with
    | u :: _ => u.kind * 2 ^ 24 + u.num % 2 ^ 16
    | [] => 0
  let outcome := if !ok then 3 else if 0 < spared then 2 else if fast && (n == 4 || n == 5) then 5 else 1
  let cores := if n = 7 then 2944 - rep.failed.length else d.stageDetail n
  let d1 := if n = 6 then rep.scan else if n = 7 then d.fw.version d.fw.active else 0
  let took := if ok then 0 else cause
  let fails := rep.failed.length
  let fill := fun (r : StageRec) =>
    let r : StageRec := { r with outcome := outcome, full := full, cause := took, duration := rep.duration }
    let r : StageRec := { r with spared := spared, failed := fails, firstFailed := first, d0 := cores, d1 := d1 }
    r
  (d.modPower fun x => { x with records := modAt fill (n - 1) x.records }).record c 0x0701 0 0 none n rep.duration spared

/-- The work of a stage on the device, whether it passes, and NAND dies that failed in it. -/
def stageWork (c : Clock) (d : Dev) (rep : StageReport) (fast : Bool) : Clock × Dev × Bool × List UnitId :=
  let d := if fast && decide (4 ≤ rep.stage) && decide (rep.stage ≤ 6) then d else d.runTests c rep.stage rep.failed
  match rep.stage with
  | 1 => let d := d.stage1 c rep.failed rep.joules
         (c, d, rep.ok && (d.recorder.k0.present || d.recorder.k1.present), [])
  | 2 => let w := d.stage2 rep.slots
         (c, w.1, rep.ok && w.2, [])
  | 3 => (c, d.stage3 rep.failed, rep.ok && d.linksOk rep.failed, [])
  | 5 => (c, d, rep.ok && d.channels.any fun (x : Channel) => !x.lost, [])
  | 6 => let d := d.stage6 c rep fast
         (c, d.1, rep.ok && !(d.1.flash.lost0 && d.1.flash.lost1), d.2)
  | 7 => (c, d.modFw fun f => { f with copy := if rep.ok then some (f.version f.active) else none }, rep.ok, [])
  | 8 => let w := stage8 c d
         (w.1, w.2, rep.ok, [])
  | _ => (c, d, rep.ok || rep.stage == 9, [])

/-- A stage is over: its record is written, and the next stage starts or bring-up stops (R484, R492). -/
def finishStage (c : Clock) (d : Dev) (rep : StageReport) : Clock × Dev :=
  let n := rep.stage
  let full := d.power.warm && decide (4 ≤ n) && decide (n ≤ 6) && rep.full
  let fast := d.power.warm && !full
  let before := d.units.count
  let w := stageWork c d rep fast
  let c := w.1
  let d := w.2.1
  let d := if full then d.modPower fun x => { x with path := 2 } else d
  let pass := w.2.2.1
  let nand := w.2.2.2.filter fun u => !(rep.failed.any fun k => k == u)
  let rep : StageReport := { rep with failed := rep.failed ++ nand }
  let d := d.stageEnd c rep pass full fast rep.cause (d.units.count - before)
  if !pass then (c, d.modPower fun x => { x with mode := .stopped })
  else if n = 9 then (c, d.stage9 c)
  else
    let d : Dev := { d with mgmt := { d.mgmt with stage := n }, power := { d.power with mode := .bringup (n + 1) } }
    (c, d.stageStart c (n + 1))

/-- BRINGUP_STAGE: the running stage ends as the report says (R484, R488). -/
def execBringupStage (rep : StageReport) (s : State) : Out :=
  s.onBoth fun c d =>
    match d.power.mode with
    | .bringup k => if rep.stage = k ∧ 1 ≤ k ∧ k ≤ 9 then finishStage c d rep else (c, d)
    | _ => (c, d)

end Sys2Proof.Machine
end

