-- ==== Sys2Proof/Machine/EngineRows.lean ====
section
/-! DEFINITION. The engines' own events: invocations and plan entries start, tiles take their descriptors, channels switch, and bank
engines run their command groups (chapters 06 to 08). -/

namespace Sys2Proof.Machine

open Sys2Proof

/-! ### Invocations (R146, R191) -/

/-- What an engine has done may end the running invocation of a partition. -/
def Dev.invStep (d : Dev) (c : Clock) (p : Nat) : Dev := (Dev.runTiles c (Dev.endServed c) p (d.tileFuel p) d).invDone (Dev.endServed c) p

/-- TILE_INVOCATION_START: the tile at position `pos` of partition `p` starts the stream of plan entry `entry` (R146, R188). A start that
is not the tile's and its invocation's next does not occur. -/
def execTileInvocationStart (t p pos entry : Nat) (s : State) : Out :=
  s.onDev fun _ d =>
    if d.siteOf t = some (p, pos) ∧ (d.part p).nextEntry pos = some entry then d.startTile p pos else d

/-- PLAN_ENTRY_START: the oldest waiting invocation starts when none runs, and the entry when its predecessors have completed
(R187, R191, R192, R222). -/
def execPlanEntryStart (p entry : Nat) (s : State) : Out :=
  s.onDev fun c d => (d.modPart p fun x => x.beginInv c).startEntry p entry

/-! ### Descriptors of a tile (R147 to R179) -/

/-- A tile takes the next descriptor of its stream, of a class and an operation; what can then run on its partition's tiles runs. A
descriptor that is not the next of the stream does not occur. -/
def Dev.takeDesc (d : Dev) (c : Clock) (t cls op : Nat) (b : List Byte) : Dev :=
  let x := d.tile t
  if x.running && x.prog[x.next]? == some b && Td.cls b == cls && Td.op b == op then
    match d.siteOf t with
    | some (p, _) => (d.dispatch t).invStep c p
    | none => d
  else d

/-- MATRIX DENSE (R152, R157, R160). -/
def execMatrixDense (t : Nat) (b : List Byte) (s : State) : Out := s.onDev fun c d => d.takeDesc c t 0 0 b
/-- MATRIX SPARSE24 (R158). -/
def execMatrixSparse24 (t : Nat) (b : List Byte) (s : State) : Out := s.onDev fun c d => d.takeDesc c t 0 1 b
/-- MATRIX BLOCK (R159). -/
def execMatrixBlock (t : Nat) (b : List Byte) (s : State) : Out := s.onDev fun c d => d.takeDesc c t 0 2 b
/-- VECTOR MAP (R161, R163). -/
def execMapVec (t : Nat) (b : List Byte) (s : State) : Out := s.onDev fun c d => d.takeDesc c t 1 0 b
/-- VECTOR ZIP (R161, R163). -/
def execZipVec (t : Nat) (b : List Byte) (s : State) : Out := s.onDev fun c d => d.takeDesc c t 1 1 b
/-- VECTOR REDUCE (R162). -/
def execReduceVec (t : Nat) (b : List Byte) (s : State) : Out := s.onDev fun c d => d.takeDesc c t 1 2 b
/-- QUANT QUANTISE (R164). -/
def execQuantiseVec (t : Nat) (b : List Byte) (s : State) : Out := s.onDev fun c d => d.takeDesc c t 2 0 b
/-- QUANT DEQUANTISE (R164). -/
def execDequantiseVec (t : Nat) (b : List Byte) (s : State) : Out := s.onDev fun c d => d.takeDesc c t 2 1 b
/-- SCREEN ARGMAX (R165). -/
def execArgmax (t : Nat) (b : List Byte) (s : State) : Out := s.onDev fun c d => d.takeDesc c t 3 0 b
/-- SCREEN SELECT (R165). -/
def execSelect (t : Nat) (b : List Byte) (s : State) : Out := s.onDev fun c d => d.takeDesc c t 3 1 b
/-- SCREEN MERGE (R166). -/
def execMerge (t : Nat) (b : List Byte) (s : State) : Out := s.onDev fun c d => d.takeDesc c t 3 2 b
/-- XFER COPY (R171). -/
def execXferCopy (t : Nat) (b : List Byte) (s : State) : Out := s.onDev fun c d => d.takeDesc c t 4 0 b
/-- XFER GATHER (R171). -/
def execXferGather (t : Nat) (b : List Byte) (s : State) : Out := s.onDev fun c d => d.takeDesc c t 4 1 b
/-- XFER SCATTER (R171). -/
def execXferScatter (t : Nat) (b : List Byte) (s : State) : Out := s.onDev fun c d => d.takeDesc c t 4 2 b
/-- XFER MULTICAST (R171). -/
def execMulticast (t : Nat) (b : List Byte) (s : State) : Out := s.onDev fun c d => d.takeDesc c t 4 3 b
/-- XFER ADD_FP32 (R171, R173). -/
def execAddFp32 (t : Nat) (b : List Byte) (s : State) : Out := s.onDev fun c d => d.takeDesc c t 4 4 b
/-- SYNC WAIT (R176). -/
def execSyncWait (t : Nat) (b : List Byte) (s : State) : Out := s.onDev fun c d => d.takeDesc c t 5 0 b
/-- SYNC SIGNAL (R176). -/
def execSyncSignal (t : Nat) (b : List Byte) (s : State) : Out := s.onDev fun c d => d.takeDesc c t 5 1 b
/-- SYNC FENCE (R176). -/
def execSyncFence (t : Nat) (b : List Byte) (s : State) : Out := s.onDev fun c d => d.takeDesc c t 5 2 b
/-- SYNC END (R176, R191). -/
def execSyncEnd (t : Nat) (b : List Byte) (s : State) : Out := s.onDev fun c d => d.takeDesc c t 5 3 b

/-! ### Channels and command groups (R211 to R221) -/

/-- COMMAND_GROUP_START: a group for an engine of the channel arrives, or stands queued, and starts when the mode, the waiting accesses
and the tokens let it (R211, R213, R217, R221). `oldest` is the arrival of an ordinary access that waits. -/
def execCommandGroupStart (ch eng : Nat) (g : GroupIn) (oldest : Option Nat) (s : State) : Out :=
  s.onDev fun c d =>
    match d.chanOwner ch with
    | none => d
    | some (p, pos) =>
      let x := d.part p
      let e := 8 * pos + eng
      let d := d.modChan ch fun y => y.waits oldest
      let d := if ((d.chan ch).queue.any fun k => k.eng == eng) || decide (8 ≤ eng) || !x.groupOk e g.cmds then d
        else d.queueGroup ch ⟨eng, p, ceilDiv (x.groupBound e g.cmds) 32, 0, d.nextOrd, none, g.cmds, 0, g.serves⟩
      (d.startGroups c.time ch false).modChan ch Channel.turn

/-- COMMAND_GROUP_END: the group's remaining commands have run, its writes are visible, its token returns, and when it was the last and
an access waits the switch into memory mode begins at once (R213, R215, R217, R221). -/
def execCommandGroupEnd (ch eng : Nat) (oldest : Option Nat) (s : State) : Out :=
  s.onDev fun c d =>
    let d := d.modChan ch fun y => y.waits oldest
    let p := (d.groupOn ch eng).map (·.part)
    let d := d.finishGroup c (Dev.endServed c) ch eng
    match p with
    | some p => d.invStep c p
    | none => d

/-- CHANNEL_MODE_SWITCH_COMPLETE (R211, R213, R214): the transfers that waited for memory mode run. -/
def execChannelModeSwitchComplete (ch : Nat) (oldest : Option Nat) (s : State) : Out :=
  s.onDev fun c d =>
    let d := d.switchDone c.time ch oldest
    let d := match d.chanOwner ch with
      | some (p, _) => d.invStep c p
      | none => d
    d.modChan ch Channel.turn

/-- MEMORY_WINDOW_EXPIRY: admission closes, the accesses admitted are served, and the channel switches to processor mode when groups
are queued (R214). -/
def execMemoryWindowExpiry (ch : Nat) (s : State) : Out :=
  match (s.dev.chan ch).windowEnd with
  | none => s.onDev fun _ d => d
  | some t => s.atTime t fun _ d => d.modChan ch fun x =>
      if x.mode = .memory then ({ x with windowEnd := none, closed := !x.queue.isEmpty, oldest := none } : Channel).turn else x

/-- Every stack's tokens are redistributed and new budgets are in force; groups that waited for a token may start (R217 to R219). Of
points that a forward correction has passed, one is made (R29). -/
def Dev.rebalanceAll (d : Dev) (c : Clock) : Dev :=
  let d := (List.range 20).foldl (Dev.rebalance c.time) { d with nextPoint := (c.time / 20000 + 1) * 20000 }
  (List.range 20).foldl (fun d k => d.startGroups c.time (16 * k) false) d

/-- REBALANCING_POINT: at the next multiple of 20 µs (R217). -/
def execRebalancingPoint (s : State) : Out := s.atTime s.dev.nextPoint fun c d => d.rebalanceAll c

/-! ### Commands of a bank engine (R220, R223 to R228, R236, R240) -/

/-- An engine runs the next command of its running group, which is the record given, of an opcode. A record that is not the next of
the group does not occur. -/
def Dev.takeBank (d : Dev) (c : Clock) (p eng op : Nat) (b : List Byte) : Dev :=
  match (d.part p).life.chans[eng / 8]? with
  | none => d
  | some ch => match d.groupOn ch (eng % 8) with
    | none => d
    | some g =>
      if g.part == p && g.cmds[g.next]? == some b && Bc.op b == op then
        (d.bankStep c (Dev.endServed c) ch (eng % 8)).modChan ch Channel.turn
      else d

/-- The index and the range that the LOCAL of a SCAN names (R226). -/
def Part.scanNames (x : Part) (eng : Nat) (b : Bytes) : Nat × Nat := ((x.rangeAt eng (Bc.loc b)).map fun q => (q.1.num, q.2)).getD (0, 0)

/-- The table that the LOCAL of a ROW_READ or ROW_UPDATE names (R231, R236). -/
def Part.tableNamed (x : Part) (eng : Nat) (b : Bytes) : Nat := ((x.tableAt eng (Bc.loc b)).map fun q => q.1.num).getD 0

/-- LOAD (R224, R246). -/
def execLoad (p eng : Nat) (cmd : List Byte) (s : State) : Out := s.onDev fun c d => d.takeBank c p eng 1 cmd
/-- STORE (R208, R224, R246). -/
def execStore (p eng : Nat) (cmd : List Byte) (s : State) : Out := s.onDev fun c d => d.takeBank c p eng 2 cmd
/-- SCAN of the range whose first line is at LOCAL (R95, R226): range `range` of index `index`, both 0 when LOCAL names none. -/
def execScan (p eng index range : Nat) (cmd : List Byte) (s : State) : Out :=
  s.onDev fun c d => if (d.part p).scanNames eng cmd = (index, range) then d.takeBank c p eng 3 cmd else d
/-- MATVEC over a resident tensor (R227, R228). -/
def execMatvec (p eng : Nat) (cmd : List Byte) (s : State) : Out := s.onDev fun c d => d.takeBank c p eng 4 cmd
/-- ROW_READ of COUNT rows of the table at LOCAL (R236); `table` is 0 when LOCAL names none. -/
def execRowRead (p eng table count : Nat) (cmd : List Byte) (s : State) : Out :=
  s.onDev fun c d => if (d.part p).tableNamed eng cmd = table ∧ Bc.count cmd = count then d.takeBank c p eng 5 cmd else d
/-- ROW_UPDATE of the table at LOCAL, with its mode and the bits of its rate (R240 to R242); `table` is 0 when LOCAL names none. -/
def execRowUpdate (p eng table mode eta : Nat) (cmd : List Byte) (s : State) : Out :=
  s.onDev fun c d =>
    if (d.part p).tableNamed eng cmd = table ∧ Bc.p0 cmd = mode ∧ Bc.p1 cmd = eta then d.takeBank c p eng 6 cmd else d
/-- FILL (R224). -/
def execFill (p eng : Nat) (cmd : List Byte) (s : State) : Out := s.onDev fun c d => d.takeBank c p eng 7 cmd

end Sys2Proof.Machine
end

