-- ==== Sys2Proof/Machine/TimeSteps.lean ====
section
/-! DEFINITION. Corrections of fabric time, the events that a forward step passes, and the PTP messages that measure (R28, R29, R426 to
R429, R455). -/

namespace Sys2Proof.Machine

open Sys2Proof

/-! ### Events that a forward step passes (R28, R29) -/

/-- A scheduled event of R28 that the device makes itself. -/
inductive Due where
  | deadline (r : ReqRef)
  | tick (p : Nat)
  | gate (port : Nat)
  | poll (rs : RsId)
  | activation (slot : Nat) (k : FwSlot)
  | rebalancing
  | composition
  | grace
  deriving DecidableEq, Repr

/-- Place in the table of R28, which orders events of one time; a composition takes effect before a grace period ends. -/
def Due.rank : Due → Nat
  | .deadline _ => 0
  | .tick _ => 2
  | .gate _ => 4
  | .poll _ => 5
  | .activation _ _ => 7
  | .rebalancing => 8
  | .composition => 9
  | .grace => 10

/-- Commands in flight with a deadline that may end them. -/
def Dev.deadlines (d : Dev) : List (Nat × Due) :=
  (indexed d.parts).flatMap fun x => (indexed x.2.rings).flatMap fun g => g.2.inflight.filterMap fun (q : Req) =>
    let r : ReqRef := ⟨.part x.1 g.1, q.seq⟩
    (d.deadlineOf r q).map fun t => (t, .deadline r)

/-- Doorbell polls that may be made, those of the management ring sets first, which breaks ties (R323, R324). -/
def Dev.polls (d : Dev) : List (Nat × Due) :=
  let one := fun (rs : RsId) => if d.mayPoll rs then some ((d.ring rs).run.nextPoll, Due.poll rs) else none
  ((List.range d.mgmt.rings.length).filterMap fun n => one (.mgmt n)) ++
  (indexed d.parts).flatMap fun x => (indexed x.2.rings).filterMap fun g => one (.part x.1 g.1)

/-- Every scheduled event, with its time. -/
def Dev.scheduled (d : Dev) : List (Nat × Due) :=
  d.deadlines ++
  ((indexed d.parts).filterMap fun x => if x.2.life.st = .closed then none else some (x.2.vis.nextTick, .tick x.1)) ++
  ((indexed d.fabric.ports).filterMap fun x => x.2.dueBoundary.map fun t => (t, .gate x.1)) ++ d.polls ++
  (d.fw.scheduled.map fun k => (k.2.activateAt, .activation k.1 k.2)).toList ++ [(d.nextPoint, .rebalancing)] ++
  (d.comp.pending.map fun k => (k.2.2.1, .composition)).toList ++
  (if d.comp.graceEnd = 0 then [] else [(d.comp.graceEnd, .grace)])

/-- One event takes place. At a tick of a reproducible partition the updates held for the epoch it begins are applied (R140). -/
def Dev.fire (d : Dev) (c : Clock) : Due → Dev
  | .deadline r => d.expire c r
  | .tick p =>
    let d := d.beginEpoch c p
    let x := d.part p
    if !x.cfg.repro || x.life.st == .fenced then d else d.applyDue c p (x.dueHeld p)
  | .gate port => d.gateBoundary c port
  | .poll rs => d.poll c rs
  | .activation slot k => d.activateSlot c slot k
  | .rebalancing => d.rebalanceAll c
  | .composition => match d.comp.pending with
    | some (e, g, _, l) => d.takeEpoch c e g l
    | none => d
  | .grace => { d with comp := { d.comp with graceEnd := 0 } }

/-- The events up to fabric time fire at once, in the order of their times and then of R28. -/
def Dev.catchUp (d : Dev) (c : Clock) : Nat → Dev
  | 0 => d
  | n + 1 =>
    match sortBy (fun (e : Nat × Due) => 16 * e.1 + e.2.rank) (d.scheduled.filter fun e => decide (e.1 ≤ c.time)) with
    | [] => d
    | e :: _ => (d.fire c e.2).catchUp c n

/-! ### Following a master (R426 to R429, R455) -/

/-- Corrects the count by a measured offset: a step forward above 10 µs, whose events fire at once, else a faster or a slower count
(R29, R428). -/
def steer (c : Clock) (d : Dev) (port : Nat) (off : Int) : Clock × Dev :=
  if 10000 < off then
    let c := c.jump off.toNat
    (c, (d.catchUp c (64 * (off.toNat / 10000 + 64) + 4096)).record c 0x0404 0x0C port none off.toNat 0 0)
  else if off < 0 then (c.slowBy off.natAbs, d)
  else (c.hastenBy off.toNat, d)

/-- Synchronisation is back: the time-lost state ends (R429, R455). -/
def regainTime (c : Clock) (d : Dev) (port : Nat) (off : Int) (lost : Nat) : Clock × Dev :=
  let c : Clock := { c with timeLost := false }
  (c, ((d.record c 0x0403 0x0C port none (ofSigned 64 off) lost 0).gatesFallback c).kickAll c)

/-- PTP_LOCKED after a measurement: set at the sixteenth good one in a row, cleared beyond 1 µs (R428). -/
def judgeLock (c : Clock) (d : Dev) (port : Nat) (off : Int) (good gm : Nat) : Clock × Dev :=
  if 16 ≤ good ∧ !c.ptpLocked then
    let c' : Clock := { c with ptpLocked := true, everLocked := true, timeLost := false }
    let d := if c.timeLost then (d.gatesFallback c').kickAll c' else d
    (c', d.record c' 0x0401 0x0C port none gm 0 0)
  else if 1000 < off.natAbs then ({ c with ptpLocked := false }, d)
  else (c, d)

/-- Follows a measured offset of the master (R428, R429): slowing, quickening or stepping the count, locking and unlocking. -/
def follow (c : Clock) (d : Dev) (port : Nat) (off : Int) : Clock × Dev :=
  let gm := ((d.fabric.ptp.masters.find? fun k => k.port == port).map fun k => k.m.grandmaster).getD 0
  let d := d.modFabric fun f => { f with ptp := { f.ptp with offset := off } }
  if off < -1000000 then loseTime c d 2
  else
    let good := if off.natAbs ≤ 250 then d.fabric.ptp.good + 1 else 0
    let d := d.modFabric fun f => { f with ptp := { f.ptp with good := good } }
    let lost := (c.time - d.fabric.ptp.lostAt) / 1000000
    let r := steer c d port off
    let r := if c.timeLost && c.everLocked then regainTime r.1 r.2 port off lost else r
    judgeLock r.1 r.2 port off good gm

/-- A whole Sync: origin with its correction, and arrival; a Delay_Req follows (R426, R428). -/
def wholeSync (c : Clock) (d : Dev) (port : Nat) (t1 : Int) (t2 : Nat) : Clock × Dev :=
  let off := t1 + d.fabric.ptp.delay - (t2 : Int)
  let d := d.modFabric fun f => { f with ptp := { f.ptp with lastSync := some (t1, t2), sync := none } }
  let r := follow c d port off
  (r.1, r.2.delayReq r.1 port)

/-- The message comes from the bound master on the bound port (R427). -/
def Dev.fromMaster (d : Dev) (port : Nat) (m : PtpMsg) : Bool :=
  (d.port port).up && m.domain == d.fabric.cfg.ptpDomain && d.fabric.ptp.bound == some (port, m.source)

/-- SYNC (R426, R428). -/
def execSync (port : Nat) (m : PtpMsg) (s : State) : Out :=
  s.onBoth fun c d =>
    if !d.fromMaster port m ∨ m.logInterval < -7 ∨ 0 < m.logInterval then (c, d)
    else if m.twoStep then (c, d.modFabric fun f => { f with ptp := { f.ptp with sync := some (m.seq, m.arrival, m.correction) } })
    else wholeSync c d port (m.origin + m.correction) m.arrival

/-- FOLLOW_UP: completes a two-step Sync (R426). -/
def execFollowUp (port : Nat) (m : PtpMsg) (s : State) : Out :=
  s.onBoth fun c d =>
    match d.fabric.ptp.sync with
    | some (seq, t2, corr) =>
      if d.fromMaster port m && m.seq == seq then wholeSync c d port (m.origin + corr + m.correction) t2 else (c, d)
    | none => (c, d)

/-- DELAY_RESP: the mean path delay from the last whole Sync and the last Delay_Req (R426). -/
def execDelayResp (port : Nat) (m : PtpMsg) (s : State) : Out :=
  s.onDev fun _ d =>
    match d.fabric.ptp.lastSync, d.fabric.ptp.reqAt with
    | some (t1, t2), some (seq, t3) =>
      if d.fromMaster port m && m.forUs && m.seq == seq then
        let t4 : Int := m.origin - m.correction
        d.modFabric fun f => { f with ptp := { f.ptp with delay := ((t2 : Int) - t1 + t4 - t3) / 2, reqAt := none } }
      else d
    | _, _ => d

end Sys2Proof.Machine
end

