-- ==== Sys2Proof/Machine/Dispatch.lean ====
section
/-! DEFINITION. One arm per command: its meaning on everything but the queue. -/

namespace Sys2Proof.Machine

open Sys2Proof

def exec (i : Instr) (s : State) : Host.Outcome State Fault Refusal :=
  match i with
  | .search r io => Sys2Proof.Machine.execSearch r io s
  | .searchBatch r io => Sys2Proof.Machine.execSearchBatch r io s
  | .recallProbe r io => Sys2Proof.Machine.execRecallProbe r io s
  | .insert r io => Sys2Proof.Machine.execInsert r io s
  | .delete r io => Sys2Proof.Machine.execDelete r io s
  | .upsert r io => Sys2Proof.Machine.execUpsert r io s
  | .indexCreate r io => Sys2Proof.Machine.execIndexCreate r io s
  | .indexBuild r io => Sys2Proof.Machine.execIndexBuild r io s
  | .indexCompact r io => Sys2Proof.Machine.execIndexCompact r io s
  | .put r io => Sys2Proof.Machine.execPut r io s
  | .get r io => Sys2Proof.Machine.execGet r io s
  | .discard r io => Sys2Proof.Machine.execDiscard r io s
  | .secureDiscard r io => Sys2Proof.Machine.execSecureDiscard r io s
  | .flush r io => Sys2Proof.Machine.execFlush r io s
  | .modelLoad r io => Sys2Proof.Machine.execModelLoad r io s
  | .modelUnload r io => Sys2Proof.Machine.execModelUnload r io s
  | .embed r io => Sys2Proof.Machine.execEmbed r io s
  | .rerank r io => Sys2Proof.Machine.execRerank r io s
  | .trainStep r io => Sys2Proof.Machine.execTrainStep r io s
  | .tableCreate r io => Sys2Proof.Machine.execTableCreate r io s
  | .gather r io => Sys2Proof.Machine.execGather r io s
  | .scatterUpdate r io => Sys2Proof.Machine.execScatterUpdate r io s
  | .abort r => Sys2Proof.Machine.execAbort r s
  | .opQuery r => Sys2Proof.Machine.execOpQuery r s
  | .opSuspend r => Sys2Proof.Machine.execOpSuspend r s
  | .opResume r io => Sys2Proof.Machine.execOpResume r io s
  | .opCancel r => Sys2Proof.Machine.execOpCancel r s
  | .identify r io => Sys2Proof.Machine.execIdentify r io s
  | .getLog r io => Sys2Proof.Machine.execGetLog r io s
  | .getFeature r io => Sys2Proof.Machine.execGetFeature r io s
  | .setFeature r io => Sys2Proof.Machine.execSetFeature r io s
  | .fwDownload r io => Sys2Proof.Machine.execFwDownload r io s
  | .fwCommit r authentic version security minLive => Sys2Proof.Machine.execFwCommit r authentic version security minLive s
  | .format r io => Sys2Proof.Machine.execFormat r io s
  | .sanitise r io => Sys2Proof.Machine.execSanitise r io s
  | .openPart p => Sys2Proof.Machine.execOpenPart p s
  | .startPart p => Sys2Proof.Machine.execStartPart p s
  | .disablePart p => Sys2Proof.Machine.execDisablePart p s
  | .closePart p => Sys2Proof.Machine.execClosePart p s
  | .keyLoad p sel => Sys2Proof.Machine.execKeyLoad p sel s
  | .stopRing rs => Sys2Proof.Machine.execStopRing rs s
  | .restartRing rs => Sys2Proof.Machine.execRestartRing rs s
  | .registerWrite fn off size val => Sys2Proof.Machine.execRegisterWrite fn off size val s
  | .lowHalfRead fn off => Sys2Proof.Machine.execLowHalfRead fn off s
  | .highHalfRead fn off => Sys2Proof.Machine.execHighHalfRead fn off s
  | .localNudge fn off => Sys2Proof.Machine.execLocalNudge fn off s
  | .msixUnmask fn v => Sys2Proof.Machine.execMsixUnmask fn v s
  | .doorbellPoll rs => Sys2Proof.Machine.execDoorbellPoll rs s
  | .doorbellPollReturn rs words => Sys2Proof.Machine.execDoorbellPollReturn rs words s
  | .descriptorFetch rs data => Sys2Proof.Machine.execDescriptorFetch rs data s
  | .admission p => Sys2Proof.Machine.execAdmission p s
  | .moderationTimeout rs => Sys2Proof.Machine.execModerationTimeout rs s
  | .drainBoundExpiry rs => Sys2Proof.Machine.execDrainBoundExpiry rs s
  | .drainComplete rs => Sys2Proof.Machine.execDrainComplete rs s
  | .ringFaulted rs failed => Sys2Proof.Machine.execRingFaulted rs failed s
  | .functionLevelReset p => Sys2Proof.Machine.execFunctionLevelReset p s
  | .mgmtFunctionLevelReset => Sys2Proof.Machine.execMgmtFunctionLevelReset s
  | .setupRead k => Sys2Proof.Machine.execSetupRead k s
  | .setupWrite k => Sys2Proof.Machine.execSetupWrite k s
  | .spdmRequest q => Sys2Proof.Machine.execSpdmRequest q s
  | .fabricNudge k => Sys2Proof.Machine.execFabricNudge k s
  | .rdmaPacket rs k => Sys2Proof.Machine.execRdmaPacket rs k s
  | .cnp rs => Sys2Proof.Machine.execCnp rs s
  | .roceAckTimeout rs => Sys2Proof.Machine.execRoceAckTimeout rs s
  | .update k => Sys2Proof.Machine.execUpdate k s
  | .updateAck k => Sys2Proof.Machine.execUpdateAck k s
  | .updateRepeatTimeout p sequence => Sys2Proof.Machine.execUpdateRepeatTimeout p sequence s
  | .compose session msg => Sys2Proof.Machine.execCompose session msg s
  | .traffic session msg => Sys2Proof.Machine.execTraffic session msg s
  | .gates session msg => Sys2Proof.Machine.execGates session msg s
  | .fabric session msg => Sys2Proof.Machine.execFabric session msg s
  | .fence session msg => Sys2Proof.Machine.execFence session msg s
  | .release session msg => Sys2Proof.Machine.execRelease session msg s
  | .query session msg => Sys2Proof.Machine.execQuery session msg s
  | .recorderFreeze session msg => Sys2Proof.Machine.execRecorderFreeze session msg s
  | .recorderThaw session msg => Sys2Proof.Machine.execRecorderThaw session msg s
  | .recorderRead session msg => Sys2Proof.Machine.execRecorderRead session msg s
  | .recorderFreezeTimeout => Sys2Proof.Machine.execRecorderFreezeTimeout s
  | .coalesceWindowClose j => Sys2Proof.Machine.execCoalesceWindowClose j s
  | .moduleReset session msg => Sys2Proof.Machine.execModuleReset session msg s
  | .sleep session msg => Sys2Proof.Machine.execSleep session msg s
  | .wake session msg => Sys2Proof.Machine.execWake session msg s
  | .wakeAtReached => Sys2Proof.Machine.execWakeAtReached s
  | .fabricWakePattern lane => Sys2Proof.Machine.execFabricWakePattern lane s
  | .compositionEffective => Sys2Proof.Machine.execCompositionEffective s
  | .gracePeriodEnd => Sys2Proof.Machine.execGracePeriodEnd s
  | .announce port m => Sys2Proof.Machine.execAnnounce port m s
  | .sync port m => Sys2Proof.Machine.execSync port m s
  | .delayResp port m => Sys2Proof.Machine.execDelayResp port m s
  | .announceTimeout => Sys2Proof.Machine.execAnnounceTimeout s
  | .lldpdu port n => Sys2Proof.Machine.execLldpdu port n s
  | .lldpTtlExpiry port j => Sys2Proof.Machine.execLldpTtlExpiry port j s
  | .lldpTransmit port => Sys2Proof.Machine.execLldpTransmit port s
  | .neighborSolicitation port target src => Sys2Proof.Machine.execNeighborSolicitation port target src s
  | .echoRequest port dst src data => Sys2Proof.Machine.execEchoRequest port dst src data s
  | .gateEntryBoundary port => Sys2Proof.Machine.execGateEntryBoundary port s
  | .epochTick p => Sys2Proof.Machine.execEpochTick p s
  | .reproducibleBatchApply p => Sys2Proof.Machine.execReproducibleBatchApply p s
  | .barrierEpochApply p => Sys2Proof.Machine.execBarrierEpochApply p s
  | .deadlineExpiry r => Sys2Proof.Machine.execDeadlineExpiry r s
  | .rebalancingPoint => Sys2Proof.Machine.execRebalancingPoint s
  | .checkpointTimer p => Sys2Proof.Machine.execCheckpointTimer p s
  | .patrolScrub stack bad => Sys2Proof.Machine.execPatrolScrub stack bad s
  | .holdupMeasurement joules => Sys2Proof.Machine.execHoldupMeasurement joules s
  | .fabricTimeFloorWrite => Sys2Proof.Machine.execFabricTimeFloorWrite s
  | .stripeCloseTimeout id => Sys2Proof.Machine.execStripeCloseTimeout id s
  | .stripeDurable id => Sys2Proof.Machine.execStripeDurable id s
  | .imageSegmentRewrite p idx => Sys2Proof.Machine.execImageSegmentRewrite p idx s
  | .groomerBackground p side => Sys2Proof.Machine.execGroomerBackground p side s
  | .groomerForeground p side => Sys2Proof.Machine.execGroomerForeground p side s
  | .wearLevelling p side => Sys2Proof.Machine.execWearLevelling p side s
  | .relocationComplete j => Sys2Proof.Machine.execRelocationComplete j s
  | .flashReadComplete r j handle ok => Sys2Proof.Machine.execFlashReadComplete r j handle ok s
  | .walkComplete r j => Sys2Proof.Machine.execWalkComplete r j s
  | .benchScanComplete r j => Sys2Proof.Machine.execBenchScanComplete r j s
  | .requestReplay r io => Sys2Proof.Machine.execRequestReplay r io s
  | .tileInvocationStart t p pos entry => Sys2Proof.Machine.execTileInvocationStart t p pos entry s
  | .planEntryStart p entry => Sys2Proof.Machine.execPlanEntryStart p entry s
  | .matrixDense t d => Sys2Proof.Machine.execMatrixDense t d s
  | .matrixSparse24 t d => Sys2Proof.Machine.execMatrixSparse24 t d s
  | .matrixBlock t d => Sys2Proof.Machine.execMatrixBlock t d s
  | .mapVec t d => Sys2Proof.Machine.execMapVec t d s
  | .zipVec t d => Sys2Proof.Machine.execZipVec t d s
  | .reduceVec t d => Sys2Proof.Machine.execReduceVec t d s
  | .quantiseVec t d => Sys2Proof.Machine.execQuantiseVec t d s
  | .dequantiseVec t d => Sys2Proof.Machine.execDequantiseVec t d s
  | .argmax t d => Sys2Proof.Machine.execArgmax t d s
  | .select t d => Sys2Proof.Machine.execSelect t d s
  | .merge t d => Sys2Proof.Machine.execMerge t d s
  | .xferCopy t d => Sys2Proof.Machine.execXferCopy t d s
  | .xferGather t d => Sys2Proof.Machine.execXferGather t d s
  | .xferScatter t d => Sys2Proof.Machine.execXferScatter t d s
  | .multicast t d => Sys2Proof.Machine.execMulticast t d s
  | .addFp32 t d => Sys2Proof.Machine.execAddFp32 t d s
  | .syncWait t d => Sys2Proof.Machine.execSyncWait t d s
  | .syncSignal t d => Sys2Proof.Machine.execSyncSignal t d s
  | .syncFence t d => Sys2Proof.Machine.execSyncFence t d s
  | .syncEnd t d => Sys2Proof.Machine.execSyncEnd t d s
  | .commandGroupStart ch eng g oldest => Sys2Proof.Machine.execCommandGroupStart ch eng g oldest s
  | .commandGroupEnd ch eng oldest => Sys2Proof.Machine.execCommandGroupEnd ch eng oldest s
  | .load p eng c => Sys2Proof.Machine.execLoad p eng c s
  | .store p eng c => Sys2Proof.Machine.execStore p eng c s
  | .scan p eng index range c => Sys2Proof.Machine.execScan p eng index range c s
  | .matvec p eng c => Sys2Proof.Machine.execMatvec p eng c s
  | .rowRead p eng table count c => Sys2Proof.Machine.execRowRead p eng table count c s
  | .rowUpdate p eng table mode eta c => Sys2Proof.Machine.execRowUpdate p eng table mode eta c s
  | .fill p eng c => Sys2Proof.Machine.execFill p eng c s
  | .channelModeSwitchComplete ch oldest => Sys2Proof.Machine.execChannelModeSwitchComplete ch oldest s
  | .memoryWindowExpiry ch => Sys2Proof.Machine.execMemoryWindowExpiry ch s
  | .tileFailure t => Sys2Proof.Machine.execTileFailure t s
  | .traverseEngineFailure te => Sys2Proof.Machine.execTraverseEngineFailure te s
  | .contextPoolBankFailure b => Sys2Proof.Machine.execContextPoolBankFailure b s
  | .screenUnitFailure su => Sys2Proof.Machine.execScreenUnitFailure su s
  | .bankEngineFailure ch g => Sys2Proof.Machine.execBankEngineFailure ch g s
  | .channelLost ch => Sys2Proof.Machine.execChannelLost ch s
  | .stackLost stack => Sys2Proof.Machine.execStackLost stack s
  | .rematerialisationComplete p => Sys2Proof.Machine.execRematerialisationComplete p s
  | .mapScanComplete => Sys2Proof.Machine.execMapScanComplete s
  | .meshLinkFailure link => Sys2Proof.Machine.execMeshLinkFailure link s
  | .nandBlockFailure ch die block => Sys2Proof.Machine.execNandBlockFailure ch die block s
  | .flashChannelLost f => Sys2Proof.Machine.execFlashChannelLost f s
  | .ashlarEngineFailure ae => Sys2Proof.Machine.execAshlarEngineFailure ae s
  | .storageDieLost d => Sys2Proof.Machine.execStorageDieLost d s
  | .fabricLaneFailure lane => Sys2Proof.Machine.execFabricLaneFailure lane s
  | .linkDieFailure d => Sys2Proof.Machine.execLinkDieFailure d s
  | .staleSpeaker u gen => Sys2Proof.Machine.execStaleSpeaker u gen s
  | .moduleFatal cause u => Sys2Proof.Machine.execModuleFatal cause u s
  | .controlFirmwareHang p => Sys2Proof.Machine.execControlFirmwareHang p s
  | .eccStorm p => Sys2Proof.Machine.execEccStorm p s
  | .runawayProgram p => Sys2Proof.Machine.execRunawayProgram p s
  | .partitionResetComplete p failedSites => Sys2Proof.Machine.execPartitionResetComplete p failedSites s
  | .keeperFailover => Sys2Proof.Machine.execKeeperFailover s
  | .keeperLinkFailure => Sys2Proof.Machine.execKeeperLinkFailure s
  | .keeperHandover => Sys2Proof.Machine.execKeeperHandover s
  | .powerOn => Sys2Proof.Machine.execPowerOn s
  | .lowerLimitTrip => Sys2Proof.Machine.execLowerLimitTrip s
  | .inputLostInSleep => Sys2Proof.Machine.execInputLostInSleep s
  | .auxInputLost => Sys2Proof.Machine.execAuxInputLost s
  | .auxInputRestored => Sys2Proof.Machine.execAuxInputRestored s
  | .carrierSupplyFault side => Sys2Proof.Machine.execCarrierSupplyFault side s
  | .carrierRemoved side => Sys2Proof.Machine.execCarrierRemoved side s
  | .moduleResetNAssert => Sys2Proof.Machine.execModuleResetNAssert s
  | .moduleResetNRelease => Sys2Proof.Machine.execModuleResetNRelease s
  | .moduleResetNColdHold => Sys2Proof.Machine.execModuleResetNColdHold s
  | .perstNAssert port => Sys2Proof.Machine.execPerstNAssert port s
  | .perstNRelease port => Sys2Proof.Machine.execPerstNRelease port s
  | .refclkLoss port => Sys2Proof.Machine.execRefclkLoss port s
  | .thermalSample temp => Sys2Proof.Machine.execThermalSample temp s
  | .powerLimited => Sys2Proof.Machine.execPowerLimited s
  | .thermalShutdown => Sys2Proof.Machine.execThermalShutdown s
  | .thermalShutdownExit => Sys2Proof.Machine.execThermalShutdownExit s
  | .leakDetected present => Sys2Proof.Machine.execLeakDetected present s
  | .bringupStage rep => Sys2Proof.Machine.execBringupStage rep s
  | .fwStagingComplete => Sys2Proof.Machine.execFwStagingComplete s
  | .fwActivation => Sys2Proof.Machine.execFwActivation s
  | .fwActivationRollback => Sys2Proof.Machine.execFwActivationRollback s
  | .followUp port m => Sys2Proof.Machine.execFollowUp port m s
  | .neighborAdvertisement port target => Sys2Proof.Machine.execNeighborAdvertisement port target s
  | .portUp port => Sys2Proof.Machine.execPortUp port s
  | .flashTrainingTemperatureDrift d temp => Sys2Proof.Machine.execFlashTrainingTemperatureDrift d temp s
  | .testAccessPortCycle c => Sys2Proof.Machine.execTestAccessPortCycle c s
  | .setEventReceiver eid tag => Sys2Proof.Machine.execSetEventReceiver eid tag s
  | .frameTransmissionEnd port => Sys2Proof.Machine.execFrameTransmissionEnd port s
  | .malformedTransportPacket k => Sys2Proof.Machine.execMalformedTransportPacket k s

end Sys2Proof.Machine
end

