-- ==== Sys2Proof/Safety.lean ====
section
/-! DEFINITION. What counts as a safe run, and the words in which statements about commands are made: a request in hand, the
end of a request, the invariant of the clock. -/

namespace Sys2Proof

open Sys2Proof.Machine

/-- A step that goes on. -/
def Safe (s : State) : Prop := ∃ t, step s = .next t

/-- Request `q` is in hand for a run of opcode `op`: it is in flight under `r`, admitted, its ring set and partition let it run,
and its deadline has not passed (R342, R344). -/
def Carries (s : State) (r : ReqRef) (op : Nat) (q : Req) : Prop :=
  s.dev.req? r = some q ∧ q.opcode = op ∧ s.dev.canRun r q = true ∧ q.admitted = true ∧
  expired s.clock q (s.dev.barrierOp r op) = false

/-- Request `q` of opcode `op` has been fetched under `r`, may run, and is neither admitted nor waiting (R341). -/
def Fetched (s : State) (r : ReqRef) (op : Nat) (q : Req) : Prop :=
  s.dev.req? r = some q ∧ q.opcode = op ∧ s.dev.canRun r q = true ∧ q.admitted = false ∧ q.waiting = false

/-- The outcome in which the device is `d` and request `r` has then ended with `e`; the queue and the clock stand. -/
def Ended (s : State) (r : ReqRef) (d : Dev) (e : Ending) : Out := .next { s with dev := d.finish s.clock r e }

/-- The outcome in which the device is `d`; the queue and the clock stand. -/
def Becomes (s : State) (d : Dev) : Out := .next { s with dev := d }

/-- The outcome in which fabric time has reached `t` and the device is `d`; the queue stands. -/
def BecomesAt (s : State) (t : Nat) (d : Dev) : Out := .next { s with clock := s.clock.reach t, dev := d }

/-- The keeper's counts agree (R29, R428 to R430, R471): time is locked only outside the time-lost state, that state ends only once
the count has been locked, a correction is absorbed in one direction, and the part of it not yet due is less than a period. -/
def ClockOk (c : Clock) : Prop :=
  (c.ptpLocked = true → c.timeLost = false) ∧ (c.timeLost = false → c.everLocked = true) ∧
  (c.slew = 0 ∨ c.fast = 0) ∧ c.slewAcc < slewPeriod

/-- A message of the fabric manager that is judged on its own: in an SPDM session, to a keeper that answers its class, and whole
(R439, R440, R483). -/
def FmHeard (s : State) (k : FmClass) (type : Nat) (m : List Byte) : Prop :=
  s.dev.fmGate k = some 0 ∧ fmLayout type m = true

/-- A bank-engine command that its engine takes: it is the next record of the group that the engine runs for the partition, and its
opcode is `op` (R220 to R223). -/
def BankTakes (s : State) (p eng op : Nat) (cmd : List Byte) (ch : Nat) (g : Group) : Prop :=
  (s.dev.part p).life.chans[eng / 8]? = some ch ∧ s.dev.chanOwner ch = some (p, eng / 8) ∧ s.dev.groupOn ch (eng % 8) = some g ∧ g.part = p ∧
  g.cmds[g.next]? = some cmd ∧ Bc.op cmd = op

/-- A descriptor that a tile takes: it is the next of the stream that the tile runs, of this class and operation (R146, R147). -/
def TileTakes (s : State) (t p cls op : Nat) (b : List Byte) : Prop :=
  (∃ pos, s.dev.siteOf t = some (p, pos)) ∧ (s.dev.tile t).running = true ∧
  (s.dev.tile t).prog[(s.dev.tile t).next]? = some b ∧ Td.cls b = cls ∧ Td.op b = op

end Sys2Proof
end

