-- ==== Sys2Proof/Certificates/Slice0/Obligations.lean ====
section
/-! DEFINITION. The statements about the model, for the provers. Each docstring names the rules of spec/ that its statement follows; a
choice of the model's own that a statement rests on is named there with its log entry. -/

open Sys2Proof Sys2Proof.Machine

/-- A step takes the command at the front of the queue and answers what `exec` answers on the rest of it; on an empty queue one
nanosecond of the oscillator passes (the model's choice, log 1). -/
def Obligations.StepRunsTheFront : Prop :=
  (∀ (i : Instr) (l : List Instr) (s : State), s.pending = i :: l → step s = exec i { s with pending := l }) ∧
  (∀ s : State, s.pending = [] → step s = .next { s with clock := s.clock.tick })

/-- Every command answers a next state from every state, and leaves the commands that wait behind it alone: no command of this
block faults or is refused (R9, R10 answer errors by status bytes, events and counters). -/
def Obligations.EveryCommandGoesOn : Prop :=
  ∀ (i : Instr) (s : State), ∃ t, exec i s = .next t ∧ t.pending = s.pending

/-- R29: fabric time never decreases under any command, as long as a keeper holds the count (R430 says what a power-on does when
none does). -/
def Obligations.TimeNeverDecreases : Prop :=
  ∀ s t : State, s.dev.power.kept = true → step s = .next t → s.clock.time ≤ t.clock.time

/-- The keeper's clock stays in order under every step: PTP_LOCKED and TIME_LOST exclude each other, TIME_LOST clears only once
the count has been locked since the keeper was powered, and a correction is absorbed in one direction at a time (R29, R428 to
R430). -/
def Obligations.ClockStaysInOrder : Prop :=
  ∀ s t : State, ClockOk s.clock → step s = .next t → ClockOk t.clock

/-- A tick of the oscillator counts one nanosecond when no correction stands, and never more than two or less than none; operating
time counts it exactly when the module is powered (R28, R29, R310). -/
def Obligations.TickCounts : Prop :=
  ∀ c : Clock,
    c.time ≤ c.tick.time ∧ c.tick.time ≤ c.time + 2 ∧
    (c.slew = 0 → c.fast = 0 → c.tick.time = c.time + 1) ∧
    (0 < c.slew → (c.tick.time = c.time ∧ c.tick.slew + 1 = c.slew) ∨ (c.tick.time = c.time + 1 ∧ c.tick.slew = c.slew)) ∧
    (c.slew = 0 → 0 < c.fast →
      (c.tick.time = c.time + 2 ∧ c.tick.fast + 1 = c.fast) ∨ (c.tick.time = c.time + 1 ∧ c.tick.fast = c.fast)) ∧
    c.tick.opTime = c.opTime + (if c.powered then 1 else 0) ∧
    c.tick.timeLost = c.timeLost ∧ c.tick.ptpLocked = c.ptpLocked

/-- The end of a request (R318, R319): it leaves the in-flight table, every other request in flight stands, and no other ring set's
slots move. -/
def Obligations.EndRemovesOnlyItsRequest : Prop :=
  ∀ (d : Dev) (c : Clock) (r : ReqRef) (e : Ending),
    (d.finish c r e).req? r = none ∧
    ∀ r' : ReqRef, r' ≠ r → (d.finish c r e).req? r' = d.req? r'

/-- A completion entry (R319, R14): 32 bytes of KIND 0; STATUS; the flags with a success status and zero with any other; the command
id and SEQUENCE of the descriptor; RESULT0 and RESULT1 with a success status, and zero with an error outside the three
exceptions of R362. -/
def Obligations.CompletionEntryLayout : Prop :=
  ∀ (q : Req) (rel : Nat) (e : Ending), e.status < 256 → e.flags < 2 ^ 16 → e.r0 < 2 ^ 64 → e.r1 < 2 ^ 64 → q.seq < 2 ^ 32 →
    (completionBytes q rel e).length = 32 ∧
    fld (completionBytes q rel e) 1 1 = e.status ∧
    fld (completionBytes q rel e) 2 2 = (if okStatus e.status then e.flags else 0) ∧
    fld (completionBytes q rel e) 8 4 = q.commandId ∧
    fld (completionBytes q rel e) 12 4 = q.seq ∧
    (okStatus e.status = true → fld (completionBytes q rel e) 16 8 = e.r0 ∧ fld (completionBytes q rel e) 24 8 = e.r1) ∧
    (okStatus e.status = false → e.status ≠ statusREDIRECT → e.status ≠ statusSUSPENDED → e.status ≠ statusNOTCANCEL →
      fld (completionBytes q rel e) 16 16 = 0)

/-- The slot rules (R320, R321): an entry goes to CQ_BASE + 32 × CQ_TAIL of its ring set when no entry waits before it and a slot is
free, CQ_TAIL advances by one modulo the ring's size, and PHASE inverts exactly when CQ_TAIL returns to zero; otherwise the entry
waits behind the others and CQ_TAIL stands. Said of a ring set that has not faulted and whose partition is not fenced. -/
def Obligations.EntriesTakeSlotsInOrder : Prop :=
  ∀ (d : Dev) (c : Clock) (p n : Nat) (e : WaitEntry),
    p < d.parts.length → n < (d.part p).rings.length → (d.part p).life.st ≠ .fenced → unwritten (d.ring (.part p n)) = false →
    let r := d.ring (.part p n)
    let r' := (d.putEntry c (.part p n) e).ring (.part p n)
    (r.entries = [] → r.cqFull = false →
      r'.run.cqTail = (r.run.cqTail + 1) % r.cqSize ∧
      r'.run.phase = (if (r.run.cqTail + 1) % r.cqSize = 0 then !r.run.phase else r.run.phase) ∧
      r'.entries = []) ∧
    (¬(r.entries = [] ∧ r.cqFull = false) → r'.run.cqTail = r.run.cqTail ∧ r'.entries = r.entries ++ [e])

/-- The checks before a command runs (R339 to R341): a request that fails one ends with that check's status and is not admitted, and the
first check that fails decides. Here for the checks that every opcode shares: the opcode, the composition epoch, the command's
own condition, and the reserved and body fields. The opcode check is the opcode table's: an opcode it does not give is refused on every ring
set, a management ring set refuses one that is not marked M, and a partition without the profile an opcode needs refuses it. -/
def Obligations.AdmissionChecksInOrder : Prop :=
  (∀ (d : Dev) (c : Clock) (r : ReqRef) (q : Req) (perm fields handles : Bool),
      (∀ st, d.opcodeCheck r.rs q.opcode = some st → d.gate c r q perm fields handles = some ⟨st, 0, 0, 0⟩) ∧
      (d.opcodeCheck r.rs q.opcode = none → d.comp.accepts c.time q.compEpoch = false →
        d.gate c r q perm fields handles = some ⟨statusREDIRECT, 0, d.comp.epoch, 0⟩) ∧
      (d.opcodeCheck r.rs q.opcode = none → d.comp.accepts c.time q.compEpoch = true → perm = false →
        d.gate c r q perm fields handles = some ⟨statusNOTPERM, 0, 0, 0⟩) ∧
      (d.opcodeCheck r.rs q.opcode = none → d.comp.accepts c.time q.compEpoch = true → perm = true →
        (r.rs.isMgmt = true ∨ (d.part r.rs.partNo).exclusive = false) →
        (headerOk q.desc = false ∨ bodyOk q.desc = false ∨ fields = false) →
        d.gate c r q perm fields handles = some ⟨statusBADFIELD, 0, 0, 0⟩) ∧
      (d.gate c r q perm fields handles = none → perm = true ∧ fields = true ∧ handles = true ∧ headerOk q.desc = true ∧
        bodyOk q.desc = true ∧ d.comp.accepts c.time q.compEpoch = true)) ∧
  (∀ (d : Dev) (rs : RsId) (op : Nat),
      (opInfo op = none → d.opcodeCheck rs op = some statusBADOP) ∧
      (∀ i n, opInfo op = some i → rs = .mgmt n → d.opcodeCheck rs op = if i.mgmt then none else some statusBADOP) ∧
      (∀ i p n, opInfo op = some i → rs = .part p n → i.part = 0 → d.opcodeCheck rs op = none) ∧
      (∀ i p n, opInfo op = some i → rs = .part p n → i.part = 1 → (d.part p).cfg.info = false →
        d.opcodeCheck rs op = some statusBADOP) ∧
      (∀ i p n, opInfo op = some i → rs = .part p n → i.part = 2 → (d.part p).cfg.maint = false →
        d.opcodeCheck rs op = some statusBADOP))

/-- SEARCH and SEARCH_BATCH complete (R12, R24, R106, R349, R362): a run takes each search from where it stands to its end. When every
search of the request has ended, a SEARCH ends with the status, the flags and the valid count of its own record, and with its read epoch in
RESULT1; a batch ends with the counts of R362 over all of its searches, having written one status byte for each to its status array. A search
without a cross-encoder, its candidates scored, closes with its exact list: SUCCESS_PARTIAL when it has fewer than K results,
SUCCESS_REPLAYED after a replay, SUCCESS otherwise. -/
def Obligations.SearchesComplete : Prop :=
  (∀ (s : State) (r : ReqRef) (io : Io) (q w : Req) (l0 l : List SearchRun), io.upto = .done → q.work = .searches l0 →
    let d := (List.range l0.length).foldl (fun (d : Dev) i => d.runSearch s.clock r io (q.deadline != 0) i) s.dev
    d.req? r = some w → w.opcode = q.opcode → w.work = .searches l → (∀ k ∈ l, k.status.isSome = true) →
    (Carries s r 0x10 q → ∀ x xs, l = x :: xs →
      exec (.search r io) s = Ended s r d ⟨x.status.getD 0, x.flags, x.valid, w.epoch⟩) ∧
    (Carries s r 0x11 q → io.writesOk = true → l ≠ [] → exec (.searchBatch r io) s =
      Ended s r (d.hostOut s.clock r (fld w.desc 40 8) (l.flatMap fun x => le 1 (x.status.getD 0))) (batchEnding l w.epoch))) ∧
  (∀ (d : Dev) (c : Clock) (r : ReqRef) (i : Nat) (io : Io) (late : Bool) (x : SearchRun) (ix : Index),
    let b := SBlock.ofBytes x.block
    let f := x.final false none
    (d.part r.rs.partNo).index? b.index = some ix → b.d = 0 ∨ b.ce = false → io.writesOk = true →
    let status := if f.slots.length < b.k then statusPARTIAL else if x.replayed then statusREPLAYED else statusSUCCESS
    d.rerank c r i io late x = ((d.hostOut c r b.resAddr (x.record (d.part r.rs.partNo).cfg.repro false f)).modPart r.rs.partNo fun y =>
      y.dropOuts r i).setSearch r i fun _ => { x with flags := f.flags, valid := f.slots.length, status := some status })

/-- INSERT, UPSERT and DELETE complete (R27, R115, R116, R126, R362): once the update is journaled, its vector at hand and its node
placed, with no lost range in the way, it is linked and committed at the first epoch that begins after now, which RESULT0 reports; each
change to its index structures is recorded, its links before its epoch (R258). -/
def Obligations.IndexUpdatesComplete : Prop :=
  ∀ (s : State) (r : ReqRef) (io : Io) (q : Req) (u : UpdRun) (j : Nat), io.upto = .done → q.work = .upd u → u.journal = some j →
    (s.dev.part r.rs.partNo).cfg.repro = false → r.rs.partNo < s.dev.parts.length → deadlinePassed s.clock q = false →
    let x := s.dev.part r.rs.partNo
    (∀ op, op = 0x20 ∨ op = 0x22 → Carries s r op q → u.haveVec = true → u.placed = true → x.cannotApply u q.epoch = false →
      let d := (s.dev.modPart r.rs.partNo fun _ => x.linkUpd u q.epoch).structAppend s.clock r.rs.partNo u.index u.handle
        ((x.linkUpd u q.epoch).linksOf u)
      let y := d.part r.rs.partNo
      (if op = 0x20 then exec (.insert r io) s else exec (.upsert r io) s) =
        Ended s r ((d.modPart r.rs.partNo fun _ =>
          (({ y with vis := y.vis.assign.1 } : Part).commitUpd u (x.vis.cur + 1) (orderKeyOf r q)).applied j).structAppend s.clock
            r.rs.partNo u.index u.handle 0)
          ⟨withReplays statusSUCCESS q.replays, q.flags, x.vis.cur + 1, u.version⟩) ∧
    (Carries s r 0x21 q → x.updLost u = false → x.handleState u.index u.handle ≠ .pending → (x.handleState u.index u.handle).refuses 0x21 = none →
      exec (.delete r io) s =
        Ended s r ((s.dev.modPart r.rs.partNo fun _ =>
          (({ x with vis := x.vis.assign.1 } : Part).deleteUpd s.clock.time u (x.vis.cur + 1) (orderKeyOf r q)).applied j).structAppend
            s.clock r.rs.partNo u.index u.handle 0)
          ⟨withReplays statusSUCCESS q.replays, 0, x.vis.cur + 1, 0⟩)

/-- PUT completes (R347, R357, R362), to an object that stands or with CREATE to a new one at the lowest free windows: the bytes are at
their place, the object reaches to the highest byte written, its pages are accepted into the write buffer, and RESULT0 and RESULT1
give the first window and the size. -/
def Obligations.PutCompletes : Prop :=
  ∀ (s : State) (r : ReqRef) (io : Io) (q : Req) (x y : Part) (o : Obj) (b : Bytes), Carries s r 0x30 q → io.upto = .done →
    x = s.dev.part r.rs.partNo → ioRead io.reads 0 = some b →
    ((oCreate q = false ∧ x.storedAt (oWin q) = some o ∧ y = x) ∨
     (oCreate q = true ∧ ∃ w, x.freeWindows (ceilDiv (fld q.desc 52 4) 64) = some w ∧
        o = ⟨w, ceilDiv (fld q.desc 52 4) 64, .stored, 0, fld q.desc 52 4, fbits q.desc 28 1 1 == 1, 0⟩ ∧
        y = { x with objs := x.objs ++ [o] })) →
    let size := max o.size (oOff q + oLen q)
    let y' : Part := { y with
      objs := modIf (fun (k : Obj) => k.first == o.first) (fun k => { k with size := size }) y.objs,
      mem := (y.mem.writePages (o.first * windowBytes + oOff q) b).unstage o }
    let pages := (List.range (ceilDiv (oLen q) 16384)).map fun i =>
      (min 16384 (oLen q - 16384 * i), y'.mem.flash.pageData (o.first * windowBytes + oOff q + 16384 * i) 16384)
    let d : Dev := { s.dev.modPart r.rs.partNo fun _ => y' with
      flash := s.dev.flash.acceptGroup s.clock.time r.rs.partNo x.keys.gen (!o.single) (singleSide o.first r.rs.partNo)
        o.first (oOff q / 16384) pages }
    exec (.put r io) s = Ended s r (d.settleBuffer r.rs.partNo) ⟨statusSUCCESS, 0, o.first, size⟩

/-- GET completes (R357, R362): of an object that can be read it gives its bytes to the host; of a document record or a full-vector
record whose copy can be read, from sound lines and with no map entry still missing (R209, R261), it gives the part asked for, with the whole length in RESULT0 and the commit epoch in RESULT1. -/
def Obligations.GetCompletes : Prop :=
  ∀ (s : State) (r : ReqRef) (io : Io) (q : Req), Carries s r 0x31 q → io.upto = .done → io.writesOk = true →
    let p := r.rs.partNo
    let x := s.dev.part p
    (∀ o, oKind q = 0 → x.storedAt (oWin q) = some o → s.dev.objWaits p o (oOff q) (oLen q) = false →
      s.dev.objReadable p o (oOff q) (oLen q) = true →
      exec (.get r io) s =
        Ended s r ((s.dev.readObj s.clock.time p o (oOff q) (oLen q)).hostOut s.clock r (fld q.desc 56 8) (x.mem.flash.readN (o.first * windowBytes + oOff q) (oLen q)))
          ⟨statusSUCCESS, 0, oLen q, 0⟩) ∧
    (∀ n e known i, x.item (fbits q.desc 29 3 0) (fld q.desc 44 5) = some (n, e, known) → x.index? (fbits q.desc 29 3 0) = some i →
      (oKind q = 1 ∧ s.dev.docWaits i p n = false ∧ s.dev.docReadable i p n = true ∧ s.dev.docPoisoned i p n = false ∨
       oKind q = 2 ∧ known = true ∧ s.dev.flash.waits p (ownerVector i.num) (i.vecPage n.slot) (!i.params.single) (singleSide i.num p) = false ∧
         (s.dev.vecReadable i p n 0 || s.dev.vecReadable i p n 1) = true) →
      i.dirPoisoned (fld q.desc 44 5) = false →
      let b := if oKind q = 1 then n.doc else vectorBytes n
      exec (.get r io) s =
        Ended s r ((s.dev.readItem s.clock.time i p n (oKind q == 1)).hostOut s.clock r (fld q.desc 56 8) ((b.drop (oOff q)).take (oLen q))) ⟨statusSUCCESS, 0, b.length, e⟩)

/-- DISCARD, SECURE_DISCARD and FLUSH complete (R300, R302, R346, R357, R362): the range is unmapped and trimmed on each
side, once; a secure one also
erases every superblock that holds or held a version of one of its pages; with FREE the whole object goes; RESULT0 counts the
pages. After a checkpoint where one is asked for, a FLUSH makes the partition's accepted writes durable, and RESULT0 gives their
bytes. -/
def Obligations.DiscardsAndFlushesComplete : Prop :=
  (∀ (s : State) (r : ReqRef) (io : Io) (q : Req) (secure : Bool) (o : Obj), io.upto = .done →
      Carries s r (if secure then 0x33 else 0x32) q → (s.dev.part r.rs.partNo).storedAt (oWin q) = some o →
      let p := r.rs.partNo
      let lpns := (List.range (oLen q / 16384)).filterMap fun i => s.dev.flash.lpn? p o.first (oOff q / 16384 + i)
      let d := if q.ponr then s.dev else (s.dev.discard s.clock p o (oOff q) (oLen q) false).modReq r fun y => { y with ponr := true }
      let d1 : Dev := if secure then { d with flash := d.flash.eraseOld s.clock.time p lpns } else d
      let d2 := if fbits q.desc 28 2 2 = 1 then d1.discard s.clock p o 0 0 true else d1
      (if secure then exec (.secureDiscard r io) s else exec (.discard r io) s) = Ended s r d2 ⟨statusSUCCESS, 0, oLen q / 16384, 0⟩) ∧
  (∀ (s : State) (r : ReqRef) (io : Io) (q : Req), Carries s r 0x34 q → io.upto = .done →
      let d := if fbits q.desc 28 5 5 = 1 then s.dev.checkpoint s.clock r.rs.partNo else s.dev
      let f := d.flash.flushPart r.rs.partNo
      exec (.flush r io) s = Ended s r { d with flash := f.1 } ⟨statusSUCCESS, 0, f.2, 0⟩)

/-- INDEX_CREATE and TABLE_CREATE complete (R352, R231, R254, R362): the index stands in the partition under its number with no node, its
parameters as given and its slots' DRAM committed, which RESULT0 reports in MiB; the table stands at the object it was given, and
RESULT0 and RESULT1 report its window and its MiB. A projection that the host gives is read from it. Each takes the bank-group lines that its engines need, and the hot-vector cache gives
way to the DRAM it commits. -/
def Obligations.CreationsComplete : Prop :=
  ∀ (s : State) (r : ReqRef) (io : Io) (q : Req),
    let p := r.rs.partNo
    (Carries s r 0x28 q →
      let prm := mkParams ((ioRead io.reads 0).getD []) ((ioRead io.reads 1).getD [])
      let prm' := if prm.projGiven then prm else { prm with proj := [] }
      let i : Index := { num := uIndex q, params := prm', graphs := [Graph.empty], reserved := 0, mib := prm.slotsMib prm.capacity }
      let n := prm'.lines (s.dev.part p).engineCount
      exec (.indexCreate r io) s =
        Ended s r ((if fbits ((ioRead io.reads 0).getD []) 6 1 1 == 1 then
              s.dev.askHost s.clock r (fld ((ioRead io.reads 0).getD []) 16 8) (2 * prm.dim * prm.sketchBits) else s.dev).modPart p fun y =>
            (({ y with idx := insertBy (·.num) i y.idx } : Part).takeLines 2 i.num (y.freeLine n) n).trimHot)
          ⟨statusSUCCESS, 0, prm.slotsMib prm.capacity, 0⟩) ∧
    (Carries s r 0x50 q → ∀ y w,
      let t := (s.dev.part p).tableAsked io q
      (s.dev.part p).newObj .table t.bytes t.num = some (y, w) →
      exec (.tableCreate r io) s =
        Ended s r (s.dev.modPart p fun _ => (({ y with tables := insertBy (·.num) { t with first := w } y.tables } : Part).takeLines 1
            t.num (y.freeLine t.lines) t.lines).trimHot)
          ⟨statusSUCCESS, 0, w, t.mib⟩)

/-- GATHER and SCATTER_UPDATE complete (R215, R235 to R242, R362). The command groups that have begun on the table's channels end first. A
gather over rows that are not poisoned then writes one FP32 vector per bag and reports bags and rows read, and one that reads a poisoned row
ends with DATA_POISONED and writes none. A scatter update in a standard partition folds its positions to one value for each row that it names
in range, applies them at once, and reports rows updated and positions dropped, with DATA_POISONED when it met a poisoned row; more than
65,536 rows need room in the staging region. In a reproducible partition it is held for its barrier epoch. -/
def Obligations.TableCommandsComplete : Prop :=
  ∀ (s : State) (r : ReqRef) (io : Io) (q : Req), io.upto = .done →
    let p := r.rs.partNo
    let x := s.dev.part p
    (Carries s r 0x51 q → ∀ t0,
      let g := GBatch.ofBytes ((batchOf io q).getD [])
      x.table? g.table = some t0 →
      let d := s.dev.settleTable s.clock (Dev.endServed s.clock) p t0
      let y := d.part p
      let t := (y.table? g.table).getD t0
      let o := gatherAll t y.mem.dram y.mem.poison g
      let e := d.modPart p fun y => { y with tables := modIf (fun k => k.num == t.num) (fun k => { k with stats := o.stats }) y.tables }
      (o.poisoned = false → io.writesOk = true → exec (.gather r io) s =
        Ended s r (e.hostOut s.clock r (fld q.desc 40 8) (o.out.flatMap fun v => v.flatMap fun e => le 4 e.toNat)) ⟨statusSUCCESS, 0, g.bags, o.rowsRead⟩) ∧
      (o.poisoned = true → exec (.gather r io) s = Ended s r e ⟨statusPOISON, 0, 0, 0⟩) ∧
      (y.mem.poison = [] → o.poisoned = false)) ∧
    (Carries s r 0x52 q → ∀ b t0, q.work = .held b →
      let u := UBatch.ofBytes b
      x.table? u.table = some t0 →
      let d := s.dev.settleTable s.clock (Dev.endServed s.clock) p t0
      let t := ((d.part p).table? u.table).getD t0
      let pos := (indexed u.indices).map fun e => (e.2, UBatch.value b u t.dim e.1)
      let n := (foldUpdates u.mode t.rows (pos.filter fun e => e.1 != padIndex)).length
      let w := d.foldRows s.clock p t u.mode u.rate [] pos
      (x.cfg.repro = true → exec (.scatterUpdate r io) s = Becomes s s.dev) ∧
      (x.cfg.repro = false → (n ≤ 65536 ∨ 4 * t.dim * n ≤ (d.part p).stagingFree) → exec (.scatterUpdate r io) s =
        Ended s r w.1 ⟨if w.2.anyPoison then statusPOISON else statusSUCCESS, if 0 < w.2.sat then flagSAT else 0, w.2.updated, w.2.dropped⟩) ∧
      ((d.part p).mem.poison = [] → w.2.anyPoison = false)) ∧
    (∀ t m poison g, (gatherAll t m poison g).out.length = g.bags) ∧
    (∀ mode rows pos, ((foldUpdates mode rows pos).map (·.1)).Nodup ∧
      ∀ e ∈ foldUpdates mode rows pos, e.1 < rows ∧ e.1 ∈ pos.map (·.1))

/-- MODEL_LOAD and its unload option complete (R185, R186, R358, R362): a load whose package stands and can be placed, with no
TRAIN_STEP on the old version, gives the identifier the version above the highest it has held, from the epoch that RESULT1 names
on, and the hot-vector cache keeps the room that the placed objects leave (R254); an unload with no invocation left frees the identifier with every version it holds. -/
def Obligations.ModelLoadsComplete : Prop :=
  ∀ (s : State) (r : ReqRef) (io : Io) (q : Req), Carries s r 0x40 q → io.upto = .done →
    let p := r.rs.partNo
    let m := mdl q
    (fbits q.desc 26 0 0 = 0 → ∀ o y g,
      let d1 := s.dev.modPart p fun x => x.markLoading m
      let x1 := d1.part p
      (x1.modelUsers p m r none).any (fun e => e.2.opcode == 0x43) = false →
      x1.storedAt (fld q.desc 28 4) = some o → x1.placePkg o (x1.readPkg o) m = some (y, g) →
      exec (.modelLoad r io) s =
        Ended s r ((((d1.readObj s.clock.time p o 0 o.size).modPart p fun _ => ({ y with vis := y.vis.assign.1 }.setHighest m (x1.highest m + 1)).modModel m
            fun k => { k with next := some (x1.highest m + 1, g, y.vis.cur + 1) }).modReq r fun k => { k with work := .none }).modPart p Part.trimHot)
          ⟨statusSUCCESS, 0, x1.highest m + 1, y.vis.cur + 1⟩) ∧
    (fbits q.desc 26 0 0 = 1 →
      let d1 := s.dev.modPart p fun x => x.modModel m fun k => { k with unloading := true }
      (d1.part p).modelUsers p m r none = [] →
      exec (.modelUnload r io) s = Ended s r (d1.modPart p fun x => x.unloadModel m) ⟨statusSUCCESS, 0, 0, 0⟩)

/-- EMBED, RERANK and TRAIN_STEP complete (R187, R190, R198, R199, R201, R359, R362): an EMBED whose rows have been served writes
them in row order and reports the version that its last row used and its items; a RERANK whose rows have been served writes its K result
slots, is partial when fewer items than K are eligible, and reports valid and exited items and the version; a TRAIN_STEP of a standard
partition whose pass is computed, with no earlier one standing and no invocation on the copy that it writes, applies its updates at once.
The tensors' updates are followed by the tables', the other copy becomes current and the model's version rises by one; it reports the version it trained in the low half of RESULT0 and the new one in the high half,
and its loss in RESULT1. -/
def Obligations.InferenceCompletes : Prop :=
  (∀ (s : State) (r : ReqRef) (io : Io) (q : Req) (v : Nat) (l : List Nat), io.upto = .done →
      let p := r.rs.partNo
      let x := s.dev.part p
      (q.work = .model (mdl q) v l → x.rowsQueued r = true → io.writesOk = true →
        ∀ d w outs, (s.dev.runRows s.clock (Dev.endServed s.clock) r 0).takeRows r = some (d, w, outs) →
        let u := ((outs.getLast?).map (·.version)).getD v
        (Carries s r 0x41 q → exec (.embed r io) s = Ended s r (d.hostOut s.clock r (fld w.desc 56 8) (outs.flatMap (·.bytes)))
            ⟨statusSUCCESS, w.flags, u + 2 ^ 32 * fld w.desc 28 4, 0⟩) ∧
        (Carries s r 0x42 q → ∀ m u' items, w.work = .model m u' items →
          let exits := (((d.part p).pkgOf (mdl q) u).map Pkg.exits).getD 0
          let k := fld w.desc 30 2
          let o := ceRank k exits (BitVec.ofNat 32 (fld w.desc 44 4)) (rerankItems items (outs.map rowScores))
          exec (.rerank r io) s = Ended s r (d.hostOut s.clock r (fld w.desc 56 8) (slotsBytes k (rerankSlots k exits o)))
            (rerankEnding w k items.length u o))) ∧
      (∀ m o, Carries s r 0x43 q → q.work = .train m v o → x.cfg.repro = false → x.trainBefore p (mdl q) r q = false →
        x.copyInUse (mdl q) = false →
        exec (.trainStep r io) s = Ended s r (s.dev.applyTrain s.clock r q.desc o).1 (s.dev.applyTrain s.clock r q.desc o).2)) ∧
  (∀ (d : Dev) (c : Clock) (r : ReqRef) (desc : Bytes) (o : RowOut) (k : Model) (g : Pkg),
      (d.part r.rs.partNo).modelLive (fld desc 24 2) = some (k, g) → (d.part r.rs.partNo).trainPoisoned g k.copy = false →
      (d.applyTrain c r desc o).2.r0 = o.version + 2 ^ 32 * (k.version + 1) ∧
      (d.applyTrain c r desc o).2.r1 = fld o.bytes 0 4 ∧
      let w := d.trainTensors c r.rs.partNo g k.copy (BitVec.ofNat 32 (fld desc 44 4)) (fld desc 28 4) o.grads
      let m := fld desc 24 2
      (d.applyTrain c r desc o).1 = (w.1.trainTables c r.rs.partNo o.upds).1.modPart r.rs.partNo fun x =>
        (x.modModel m fun y => { y with version := k.version + 1, copy := !k.copy }).setHighest m (max (k.version + 1) (x.highest m)))

/-- The commands that start a long operation (R350, R354, R365, R366, R380, R381): one that passes every check and finds room is
admitted, is its operation's carrier, and the operation stands in its partition, running, with nothing done and its units
counted. A build keeps the index searchable and holds the DRAM of what it builds (R131); a FORMAT or SANITISE first cancels the
partition's probes, builds and compactions (R378). -/
def Obligations.LongOperationsBegin : Prop :=
  ∀ (s : State) (r : ReqRef) (io : Io) (q : Req), io.upto = .admitted → s.dev.gate s.clock r q true true true = none →
    (∀ e, s.dev.opOf r.rs r.seq = some e → e.2.active = false) →
    let p := r.rs.partNo
    let x := s.dev.part p
    let e := s.dev.enter s.clock r fun y => { y with work := .carrier r.rs r.seq }
    let starts := fun (d : Dev) (p op total : Nat) (w : OpWork) =>
      Becomes s (d.modPart p fun y => { y with ops := y.ops ++ [newOp s.clock r op total w] })
    p < s.dev.parts.length → (r.rs.isMgmt = false → x.ownOps < 8) →
    (Fetched s r 0x12 q → ∀ blk prb, io.reads[0]? = some (some blk) → io.reads[1]? = some (some prb) →
      x.blockOk blk true = true → probeOk prb = true → x.blockNames blk true = true → x.blockCtx (probeBlock blk) ≤ x.cfg.contextQuota →
      exec (.recallProbe r io) s = starts e p 0x12 (fld prb 0 2)
        (.probe (SBlock.ofBytes (probeBlock blk)).index (probeBlock blk) prb x.vis.cur 0 0 0)) ∧
    (Fetched s r 0x29 q → ∀ i,
      let idx := uIndex q
      let items := fld q.desc 32 8
      let live := if fbits q.desc 24 4 4 == 1 then i.graph.live.map (·.slot) else []
      let mib := i.params.slotsMib (items + i.graph.live.length)
      r.rs.isMgmt = false →
      x.index? idx = some i → x.indexOp idx = false → x.probeOn idx = false →
      (items = 0 ∨ (x.storedAt (fld q.desc 28 4)).isSome = true) → s.dev.mibRefusal p mib = none →
      exec (.indexBuild r io) s =
        starts ((e.modIndex p idx fun i => { i with building := true, recorded := [], buildMib := mib }).modPart p Part.trimHot) p 0x29
          (ceilDiv (items + live.length) 4096) (.build idx (fbits q.desc 24 5 5) (fld q.desc 28 4) items live)) ∧
    (Fetched s r 0x2A q → ∀ i, r.rs.isMgmt = false → x.index? (uIndex q) = some i → x.indexOp (uIndex q) = false →
      exec (.indexCompact r io) s =
        starts e p 0x2A i.graph.rangeCount (.compact (uIndex q) (i.graph.targets (e.part p).horizon))) ∧
    (Fetched s r 0x88 q → exec (.format r io) s = starts (e.cancelIndexOps s.clock p) p 0x88 3
      (.format ((if fld q.desc 28 2 = 0 then 10 else fld q.desc 28 2) * 10000))) ∧
    (Fetched s r 0x89 q → r.rs.isMgmt = false → exec (.sanitise r io) s =
      let d := e.cancelIndexOps s.clock p
      starts d p 0x89 (d.flash.supersOf p).length (.sanitise 0 false))

/-- R110: an INDEX_BUILD issued while a probe of the index runs or is suspended ends with NOT_PERMITTED. -/
def Obligations.BuildDuringProbeRefused : Prop :=
  ∀ (s : State) (r : ReqRef) (io : Io) (q : Req), Fetched s r 0x29 q → s.dev.opcodeCheck r.rs 0x29 = none →
    s.dev.comp.accepts s.clock.time q.compEpoch = true → (s.dev.part r.rs.partNo).probeOn (uIndex q) = true →
    exec (.indexBuild r io) s = Ended s r s.dev ⟨statusNOTPERM, 0, 0, 0⟩

/-- ABORT and the OP_ commands complete (R363, R364, R366, R368): ABORT answers 0 for a command that is not in flight, 2 for one
past its point of no return, 1 for one it ends (a FLUSH that it ends still begins to make durable what was accepted, R346), and for an operation's carrier 3 when it cancels the operation and 4 when that
cannot be; OP_QUERY, OP_SUSPEND and OP_CANCEL report the operation as it then stands, and success with zeros where no operation is
named; OP_RESUME makes itself the carrier of a suspended operation and runs its units. -/
def Obligations.OperationControlsComplete : Prop :=
  ∀ (s : State) (r : ReqRef) (io : Io) (q : Req),
    let ok := fun (n : Nat) => (⟨statusSUCCESS, 0, n, 0⟩ : Ending)
    (Carries s r 0x60 q → fbits q.desc 24 5 4 = 0 → ∀ p n, r.rs = .part p n →
      let t : ReqRef := ⟨.part p (fbits q.desc 24 3 0), fld q.desc 28 4⟩
      (s.dev.req? t = none → exec (.abort r) s = Ended s r s.dev (ok 0)) ∧
      (∀ tq, s.dev.req? t = some tq → s.dev.carried tq = none →
        exec (.abort r) s = if tq.ponr then Ended s r s.dev (ok 2) else Ended s r (s.dev.cutShort s.clock t statusABORTED) (ok 1)) ∧
      (∀ tq y o, s.dev.req? t = some tq → s.dev.carried tq = some (y, o) →
        exec (.abort r) s = if o.cancellable then Ended s r (s.dev.opCancel s.clock y o) (ok 3) else Ended s r s.dev (ok 4))) ∧
    (∀ op, op = 0x68 ∨ op = 0x69 ∨ op = 0x6B → Carries s r op q → s.dev.ctlTarget r q = none →
      (if op = 0x68 then exec (.opQuery r) s else if op = 0x69 then exec (.opSuspend r) s else exec (.opCancel r) s) =
        Ended s r s.dev (ok 0)) ∧
    (∀ p o, s.dev.ctlTarget r q = some (p, o) →
      (Carries s r 0x68 q → exec (.opQuery r) s = Ended s r s.dev (s.dev.report p o statusSUCCESS)) ∧
      (Carries s r 0x69 q → o.state = 1 →
        exec (.opSuspend r) s = Ended s r (s.dev.opSuspend s.clock p o) ((s.dev.opSuspend s.clock p o).report p o statusSUCCESS)) ∧
      (Carries s r 0x6B q → o.active = true → o.cancellable = true →
        exec (.opCancel r) s = Ended s r (s.dev.opCancel s.clock p o) ((s.dev.opCancel s.clock p o).report p o statusSUCCESS)) ∧
      (Carries s r 0x6B q → o.active = true → o.cancellable = false →
        exec (.opCancel r) s = Ended s r s.dev (s.dev.report p o statusNOTCANCEL)) ∧
      (Carries s r 0x6A q → q.work = .none → o.state = 2 → o.opcode ≠ opRemat →
        exec (.opResume r io) s = Becomes s
          (((s.dev.setOp p o fun k => { k with state := 1, carrier := some r }).modReq r fun y =>
            { y with work := .carrier o.rs o.seq }).opRun s.clock p { o with state := 1, carrier := some r } io 0)))

/-- IDENTIFY, GET_LOG, GET_FEATURE, SET_FEATURE, FW_DOWNLOAD and FW_COMMIT complete (R371, R374, R376, R377, R489, R494): the reads
write what they name to the host and report its length, a log as it stood when its GET_LOG was admitted; a feature takes the bytes given, smaller staging and cache sizes evict, and a
threshold below its count posts its event (its SOURCE and time are the model's choice, log 53); an image's bytes are held at their
offset; a commit of an authentic image at or above the security floor fills the slot that is not active. -/
def Obligations.AdminCommandsComplete : Prop :=
  ∀ (s : State) (r : ReqRef) (io : Io) (q : Req), io.upto = .done →
    let gives := fun (b : Bytes) => Ended s r (s.dev.hostOut s.clock r (fld q.desc 48 8) b) ⟨statusSUCCESS, 0, b.length, 0⟩
    (Carries s r 0x80 q → io.writesOk = true → ∀ b, s.dev.identifyData (aPart r q) q = some b →
      exec (.identify r io) s = gives (fit (min (aLength q) 4096) b)) ∧
    (Carries s r 0x81 q → io.writesOk = true →
      exec (.getLog r io) s = gives (q.taken.headD [])) ∧
    (Fetched s r 0x81 q → s.dev.gate s.clock r q true true true = none →
      (aSelect q ∈ [1, 2, 3, 4] ∨ r.rs.isMgmt = true ∧ aSelect q ∈ [0x80, 0x81, 0x82, 0x83] ∧ fbits q.desc 25 5 0 = 0) →
      exec (.getLog r { io with upto := .admitted }) s = Becomes s (s.dev.enter s.clock r fun y =>
        { y with taken := [s.dev.logData s.clock (aPart r q) (aSelect q) (aOffset q) (aLength q)] })) ∧
    (Carries s r 0x82 q → io.writesOk = true → fbits q.desc 25 6 6 = 0 →
      exec (.getFeature r io) s = gives ((s.dev.part (aPart r q)).feat.bytes (aSelect q))) ∧
    (Carries s r 0x83 q → ∀ b, io.reads[0]? = some (some b) →
      let d := s.dev.modPart r.rs.partNo fun x =>
        (({ x with feat := x.feat.write (aSelect q) b x.cfg.repro } : Part).trimStaged).trimHot
      exec (.setFeature r io) s =
        Ended s r (if aSelect q = 1 then (List.range 16).foldl (fun d n => d.drift s.clock r.rs.partNo n 0xFFFF) d else d)
          ⟨statusSUCCESS, 0, b.length, 0⟩) ∧
    (Carries s r 0x84 q → ∀ b, io.reads[0]? = some (some b) →
      (∀ p n, r.rs = .part p n → let len := max (s.dev.part p).fwLen (aOffset q + b.length)
        exec (.fwDownload r io) s =
          Ended s r (s.dev.modPart p fun x => { x with fwBuf := x.fwBuf.writeN (aOffset q) b, fwLen := max x.fwLen (aOffset q + b.length) })
            ⟨statusSUCCESS, 0, len, 0⟩) ∧
      (∀ n, r.rs = .mgmt n → let len := max s.dev.mgmt.fwLen (aOffset q + b.length)
        exec (.fwDownload r io) s =
          Ended s r { s.dev with mgmt := { s.dev.mgmt with fwBuf := s.dev.mgmt.fwBuf.writeN (aOffset q) b, fwLen := len } }
            ⟨statusSUCCESS, 0, len, 0⟩)) ∧
    (Carries s r 0x85 q → s.dev.fw.staging = none → aSelect q = 0 → ∀ version security minLive,
      let img := s.dev.fwImage q
      let f : FwSlot := ⟨1, security, img.length, version, minLive, s.clock.opSeconds, s.clock.powerCycles, 0, Config.crypto 1 img⟩
      img ≠ [] → s.dev.fw.floor ≤ security →
      exec (.fwCommit r true version security minLive) s =
        Ended s r { s.dev with fw := { s.dev.fw with slots := modAt (fun _ => f) (1 - s.dev.fw.active) s.dev.fw.slots } }
          ⟨statusSUCCESS, 0, 1 - s.dev.fw.active, 0⟩)

/-- KEY_LOAD, OPEN, START, CLOSE and DISABLE of a partition (R312, R313, R397, R399, R402 to R405). KEY_LOAD of a closed or open partition
zeroes KEY_DATA and takes it as the transport key or the owner key; in an open one a new owner key also writes a new record of the same
media key. In any other state it takes nothing and is a refused write. OPEN of a closed partition opens it under a new media key when it
has no record or its record was zeroised, under the record's when the owner key is the one that wrapped it, and otherwise leaves it closed,
drops the owner key and sets KEY_REFUSED; with no owner key it is a refused write. START puts the features at their start values
and works through the ring sets. CLOSE drops every key. DISABLE of a partition that is closed or open is a refused write. A partition
that the fabric manager has fenced takes none of them; in the fenced state of a partition reset each of the four is a refused write. -/
def Obligations.PartitionTransitions : Prop :=
  ∀ (s : State) (p : Nat), p < s.dev.parts.length →
    let x := s.dev.part p
    let rejected : Dev := s.dev.modPart p fun y => { y with regs := { y.regs with rejected := true } }
    let taken : Dev := s.dev.modPart p fun y => { y with regs := { y.regs with keyData := zeros 32 } }
    (x.life.st = .closed ∨ x.life.st = .opened →
      exec (.keyLoad p 1) s = Becomes s (taken.newTransport p (some x.regs.keyData))) ∧
    (x.life.st = .closed →
      exec (.keyLoad p 0) s = Becomes s (taken.modKeys p fun k => { k with owner := some x.regs.keyData })) ∧
    (∀ m r, x.life.st = .opened → x.keys.media = some m → x.keys.record = some r →
      exec (.keyLoad p 0) s =
        Becomes s ((taken.writeRecord s.clock p r.gen 1 (r.count + 1) x.regs.keyData m).modKeys p fun k => { k with owner := some x.regs.keyData })) ∧
    (∀ key, x.life.st = .closed → s.dev.mgmt.stage = 9 → s.dev.power.mode = .up → x.cfg.present = true → x.keys.owner = some key →
      exec (.openPart p) s = match x.keys.record with
        | none => Becomes s ((s.dev.newMediaKey s.clock p 1).opened s.clock p true)
        | some r =>
          if r.alg = 0 then Becomes s ((s.dev.newMediaKey s.clock p r.gen).opened s.clock p false)
          else if r.owner = key then Becomes s ((s.dev.modKeys p fun k => { k with media := some r.media }).opened s.clock p false)
          else Becomes s ((s.dev.modKeys p fun k => { k with owner := none }).modPart p fun y => { y with regs := { y.regs with keyRefused := true } })) ∧
    (∀ sel, x.barred = false → 2 ≤ sel ∨ (x.life.st ≠ .closed ∧ x.life.st ≠ .opened) →
      exec (.keyLoad p sel) s = Becomes s (taken.modPart p fun y => { y with regs := { y.regs with rejected := true } })) ∧
    (x.barred = false → x.keys.owner = none → exec (.openPart p) s = Becomes s rejected) ∧
    (x.barred = false → x.life.st ≠ .closed → exec (.openPart p) s = Becomes s rejected) ∧
    (x.barred = false → x.life.st ≠ .opened →
      exec (.startPart p) s = Becomes s rejected ∧ exec (.closePart p) s = Becomes s rejected) ∧
    (x.life.st = .opened → ∃ d, exec (.startPart p) s = Becomes s d ∧ (d.part p).life.st = .started ∧ (d.part p).life.busMaster = true ∧
      (d.part p).feat = Features.atStart x.cfg.repro) ∧
    (x.life.st = .opened → ∃ d, exec (.closePart p) s = Becomes s d ∧ (d.part p).life.st = .closed ∧ (d.part p).keys.owner = none ∧
      (d.part p).keys.media = none ∧ (d.part p).keys.transport = none) ∧
    (x.life.st = .started → ∃ d, exec (.disablePart p) s = Becomes s d ∧
      ((d.part p).life.st = .draining ∨ (d.part p).life.st = .opened)) ∧
    (x.life.st = .closed ∨ x.life.st = .opened → x.life.reset = none → exec (.disablePart p) s = Becomes s rejected) ∧
    (x.barred = true → (∀ sel, exec (.keyLoad p sel) s = Becomes s s.dev) ∧ exec (.openPart p) s = Becomes s s.dev ∧
      exec (.startPart p) s = Becomes s s.dev ∧ exec (.closePart p) s = Becomes s s.dev)

/-- What the commands that move one partition between its states leave alone (R397 to R404): no register, ring set, object, index,
key or memory of another partition changes, nor the composition, the supplies, the units or the firmware. The first group holds in every
state. For the second, whose commands also end work of the partition and apply what waited for its close, nothing is open in it: no
operation, no journaled update and no request that carries an operation, and no composition record waits anywhere. -/
def Obligations.OtherPartitionsStand : Prop :=
  ∀ (s t : State) (p k n sel : Nat) (i : Instr), k ≠ p → exec i s = .next t →
    i ∈ [.keyLoad p sel, .stopRing (.part p n), .restartRing (.part p n), .controlFirmwareHang p, .eccStorm p, .runawayProgram p,
      .epochTick p, .checkpointTimer p] ∨
    (i ∈ [.openPart p, .startPart p, .closePart p, .disablePart p, .functionLevelReset p, .drainComplete (.part p n),
        .drainBoundExpiry (.part p n)] ∧
      (s.dev.part p).ops = [] ∧ (s.dev.part p).journal.recs = [] ∧ (∀ x ∈ s.dev.parts, x.next = none) ∧
      (∀ r ∈ (s.dev.part p).rings, ∀ q ∈ r.inflight, s.dev.carried q = none)) →
    t.dev.part k = s.dev.part k ∧ t.dev.comp = s.dev.comp ∧ t.dev.power = s.dev.power ∧ t.dev.units = s.dev.units ∧ t.dev.fw = s.dev.fw

/-- Register accesses (R305, R307 to R309, R311, R314): a write of any size but 4 and 8, or not aligned, is ignored; a write of
MOD_COUNT and MOD_TIME takes both when they are in range; a write to the rejected bit of a set-up page clears it. A 4-byte read of
the low half of FABRIC_TIME gives it and latches the high half; the next read of the high half gives what was latched, whatever the
time is by then, and releases it; with no latch held it gives the present high half. A remote owner has one latch for each register, whether
it reads inside a session or not. -/
def Obligations.RegisterAccesses : Prop :=
  ∀ s : State,
    let mine := fun (fn : Fn) (base : Nat) (e : Fn × Nat × Nat) => e.1 == latchFn fn && e.2.1 == base
    (∀ fn off size v, size ≠ 4 ∧ size ≠ 8 ∨ off % size ≠ 0 → exec (.registerWrite fn off size v) s = Becomes s s.dev) ∧
    (∀ p n v, p < 64 → n < 16 → s.dev.power.mode = .up → (s.dev.part p).barred = false → 1 ≤ v % 256 → v / 2 ^ 32 ≤ 1000000 →
      exec (.registerWrite (.vf p) (0x100000 + 0x1000 * p + 0x430 + 128 * n) 8 v) s = Becomes s
        (s.dev.modRing (.part p n) fun r => { r with regs := { r.regs with modCount := v % 256, modTime := v / 2 ^ 32 } })) ∧
    (∀ p, p < 64 → s.dev.power.mode = .up → (s.dev.part p).barred = false →
      exec (.registerWrite (.vf p) (0x100000 + 0x1000 * p + 0x30) 4 1) s =
        Becomes s (s.dev.modPart p fun x => { x with regs := { x.regs with rejected := false } })) ∧
    (∀ fn base, s.dev.bar0Up = true → latched fn base = true → base % 8 = 0 →
      (∀ off, off / 8 * 8 = base → exec (.lowHalfRead fn off) s =
        let v := s.dev.reg64 s.clock fn base
        Becomes s (({ s.dev with latches := (latchFn fn, base, v / 2 ^ 32) :: s.dev.latches.filter fun e => !mine fn base e } : Dev).emit
          (.regRead fn base (v % 2 ^ 32)))) ∧
      (∀ off n, off / 8 * 8 = base → s.dev.latches.find? (mine fn base) = some (latchFn fn, base, n) →
        exec (.highHalfRead fn off) s =
          Becomes s (({ s.dev with latches := s.dev.latches.filter fun e => !mine fn base e } : Dev).emit
            (.regRead fn (base + 4) n))) ∧
      (∀ off, off / 8 * 8 = base → s.dev.latches.find? (mine fn base) = none →
        exec (.highHalfRead fn off) s = Becomes s (s.dev.emit (.regRead fn (base + 4) (s.dev.reg64 s.clock fn base / 2 ^ 32)))))

/-- Polls and nudges (R322 to R325): a poll is issued at its time and its read goes to the doorbell block; a return with a tail and a
head in range and nothing to do takes both, and the ring set waits its interval, doubled up to MAX_POLL after the fourth empty
poll; a failed read faults the ring set with cause 3; a nudge brings the next poll to within 250 ns.
The interval falls to MIN_POLL with work; without, it stands for three polls and then doubles, never above MAX_POLL; the next poll is
due that long after the last one was issued. -/
def Obligations.PollsAndNudges : Prop :=
  (∀ (s : State) (rs : RsId),
      let r := s.dev.ring rs
      let d0 := s.dev.modRun rs fun x => { x with pollOut := false }
      (r.run.st.live = true → r.run.pollOut = false → s.dev.ringServed rs = true → exec (.doorbellPoll rs) s =
        let c := s.clock.reach r.run.nextPoll
        BecomesAt s r.run.nextPoll ((s.dev.modRun rs fun x => { x with pollOut := true, pollStart := c.time }).readHost c rs 3 r.regs.doorbell 8)) ∧
      (r.run.pollOut = true → r.run.st.live = true → exec (.doorbellPollReturn rs none) s =
        Becomes s ((d0.ringFault s.clock rs 3 0 r.regs.doorbell).modRun rs fun x => { x with nextPoll := s.clock.time + r.regs.maxPoll })) ∧
      (∀ b, r.run.pollOut = true → r.run.st = .running → fld b 0 2 = r.run.sqFetch → fld b 4 2 = r.run.cqHead → r.run.sqFetch < r.sqSize →
        r.run.cqHead < r.cqSize → r.run.sqTail = r.run.sqFetch → r.inFlight = 0 → exec (.doorbellPollReturn rs (some b)) s =
          Becomes s ((((d0.modRun rs fun x => x.afterPoll r.regs.minPoll r.regs.maxPoll false).flushRing s.clock rs).closeDrain s.clock
            rs).settleRs s.clock rs)) ∧
      (∀ b, r.run.pollOut = true → r.run.st = .running → r.sqSize ≤ fld b 0 2 → exec (.doorbellPollReturn rs (some b)) s =
          Becomes s ((d0.ringFault s.clock rs 1 (fld b 0 2) 0).modRun rs fun x => x.afterPoll r.regs.minPoll r.regs.maxPoll true)) ∧
      (∀ fn off, nudgeTarget fn off = some rs → s.dev.heard rs = true → (r.run.st = .running ∨ r.run.st = .stopping) →
        exec (.localNudge fn off) s = Becomes s (s.dev.modRun rs fun x => { x with nextPoll := min x.nextPoll (s.clock.time + 250) }))) ∧
  (∀ (x : RingRun) (lo hi : Nat),
      (x.afterPoll lo hi true).interval = lo ∧ (x.afterPoll lo hi true).empty = 0 ∧
      (x.empty < 3 → (x.afterPoll lo hi false).interval = x.interval) ∧
      (3 ≤ x.empty → (x.afterPoll lo hi false).interval = min (2 * x.interval) hi) ∧
      (∀ work, (x.afterPoll lo hi work).nextPoll = x.pollStart + (x.afterPoll lo hi work).interval))

/-- A fetch (R317, R321, R332): a failed read faults the ring set with cause 4; otherwise the descriptors read, up to the first
ordered one, are taken in ring order, read in two pieces where they pass the ring's end. A descriptor that its fetch ends at once, and one that it does not, both take the next
SEQUENCE and the next place of the submission ring. -/
def Obligations.DescriptorsAreFetched : Prop :=
  (∀ (s : State) (rs : RsId),
    let r := s.dev.ring rs
    let a := r.regs.sqBase + 64 * r.run.sqFetch
    0 < s.dev.fetchable rs →
    exec (.descriptorFetch rs none) s = Becomes s ((s.dev.readHost s.clock rs 3 a 64).ringFault s.clock rs 4 0 a) ∧
    ∀ l, exec (.descriptorFetch rs (some l)) s =
      let t := upToOrdered (l.take (s.dev.fetchable rs))
      let n := min t.length (r.sqSize - r.run.sqFetch)
      let d := s.dev.readHost s.clock rs 3 a (64 * n)
      Becomes s (t.foldl (fun (d : Dev) b => d.fetchOne s.clock rs b)
        (if n < t.length then d.readHost s.clock rs 3 r.regs.sqBase (64 * (t.length - n)) else d))) ∧
  (∀ (d : Dev) (c : Clock) (p n : Nat) (b : Bytes), p < d.parts.length → n < (d.part p).rings.length →
    let r := (d.ring (.part p n)).run
    ((d.fetchOne c (.part p n) b).ring (.part p n)).run.fetched = r.fetched + 1 ∧
    ((d.fetchOne c (.part p n) b).ring (.part p n)).run.sqFetch = (r.sqFetch + 1) % (d.ring (.part p n)).sqSize)

/-- STOP, RESTART, drains, faults, moderation and unmasking (R326, R332 to R335), of a partition's ring set or a management one: a STOP
turns a running ring set to stopping, with its drain bound running, and does nothing in any other state; a RESTART of a stopped or faulted
one that is enabled, in a started partition, sets bus mastering and starts it, as it does a management ring set at stage 9 that is also
started from idle, and any other is a refused write. A ring set that starts runs from SEQUENCE 0 with nothing in flight and its first poll
due, unless it is remote and its partition holds no transport key: then it is idle, and the write refused. A drain ends when its last
request has ended, or at its bound; a faulting ring set with nothing in flight is faulted; a moderation timeout notifies at t0 + MOD_TIME,
with the MOD_TIME that the last entry took: by the MSI-X message where the vector is not masked, as pending where it is, and a remote ring
set by a NOTIFY on its connection; unmasking delivers the one pending message. -/
def Obligations.RingSetsStopAndStart : Prop :=
  (∀ (s : State) (rs : RsId),
    let r := s.dev.ring rs
    (s.dev.heard rs = true → r.run.st = .running → exec (.stopRing rs) s =
      Becomes s (s.dev.modRing rs fun k =>
        { k with run := { k.run with st := .stopping }, drain := some ⟨s.clock.time, s.dev.drainBound rs, 0, false⟩ })) ∧
    (s.dev.heard rs = false ∨ r.run.st ≠ .running → exec (.stopRing rs) s = Becomes s s.dev) ∧
    (∀ k, r.drain = some k →
      exec (.drainBoundExpiry rs) s = BecomesAt s (k.start + k.bound)
        ((s.dev.endDrain (s.clock.reach (k.start + k.bound)) rs k).settleRs (s.clock.reach (k.start + k.bound)) rs) ∧
      (r.inFlight = 0 → exec (.drainComplete rs) s = Becomes s ((s.dev.endDrain s.clock rs k).settleRs s.clock rs))) ∧
    (r.run.st = .faulting → r.inFlight = 0 → r.drain = none →
      exec (.ringFaulted rs none) s = Becomes s ((s.dev.becomeFaulted s.clock rs).settleRs s.clock rs)) ∧
    (0 < r.run.pend → exec (.moderationTimeout rs) s =
      let c := s.clock.reach (r.run.t0 + r.run.modTime)
      let d := s.dev.modRun rs fun x => { x with pend := 0 }
      BecomesAt s (r.run.t0 + r.run.modTime)
        (if r.regs.remote then d.sendPacketOn c rs.partNo 6 true 3 r.regs.peerId false r.regs.localQpn (.notice rs)
            (le 1 rs.num ++ zeros 1 ++ le 2 r.run.cqTail ++ zeros 4)
         else if (s.dev.msixVec rs.fn r.regs.vector).masked then d.modMsix rs.fn r.regs.vector fun m => { m with pending := true }
         else d.emit (.msix rs.fn r.regs.vector))) ∧
    (r.run.pend = 0 → exec (.moderationTimeout rs) s = Becomes s s.dev) ∧
    (∀ fn v, exec (.msixUnmask fn v) s =
      let d := s.dev.modMsix fn v fun x => { x with masked := false, pending := false }
      Becomes s (if (s.dev.msixVec fn v).masked && (s.dev.msixVec fn v).pending then d.emit (.msix fn v) else d))) ∧
  (∀ (s : State) (p n : Nat),
    let r := s.dev.ring (.part p n)
    s.dev.drainBound (.part p n) = (s.dev.part p).regs.drainBound * 1000000 ∧
    ((r.run.st = .stopped ∨ r.run.st = .faulted) → r.regs.enable = true → (s.dev.part p).life.st = .started →
      exec (.restartRing (.part p n)) s = Becomes s (((s.dev.modPart p fun x =>
        { x with life := { x.life with busMaster := true } }).startRing s.clock (.part p n)).flushRing s.clock (.part p n))) ∧
    ((r.run.st ≠ .stopped ∧ r.run.st ≠ .faulted) ∨ r.regs.enable = false ∨ (s.dev.part p).life.st ≠ .started →
      exec (.restartRing (.part p n)) s = Becomes s (s.dev.modPart p fun x => { x with regs := { x.regs with rejected := true } }))) ∧
  (∀ (s : State) (n : Nat),
    let r := s.dev.ring (.mgmt n)
    s.dev.drainBound (.mgmt n) = 10000000 ∧
    ((r.run.st = .idle ∨ r.run.st = .stopped ∨ r.run.st = .faulted) → r.regs.enable = true → s.dev.mgmt.stage = 9 →
      exec (.restartRing (.mgmt n)) s = Becomes s ((s.dev.startRing s.clock (.mgmt n)).flushRing s.clock (.mgmt n))) ∧
    ((r.run.st ≠ .idle ∧ r.run.st ≠ .stopped ∧ r.run.st ≠ .faulted) ∨ r.regs.enable = false ∨ s.dev.mgmt.stage ≠ 9 →
      exec (.restartRing (.mgmt n)) s = Becomes s { s.dev with mgmt := { s.dev.mgmt with rejected := true } })) ∧
  (∀ (d : Dev) (c : Clock) (rs : RsId),
    let keyed := (d.ring rs).regs.remote = false ∨ (∃ p n, rs = .part p n ∧ (d.part p).keys.transport ≠ none)
    (keyed → d.startRing c rs = d.modRing rs fun k =>
      { k with run := { RingRun.reset with st := .running, fault := k.run.fault, interval := k.regs.minPoll, nextPoll := c.time },
               inflight := [], entries := [], drain := none, roce := ⟨[], 0, 0, none, 0, false, []⟩ }) ∧
    (¬keyed → d.startRing c rs = (d.modRun rs fun x => { x with st := .idle }).rejectRs rs))

/-- Function Level Resets (R333, R398): of a function whose partition is closed, the owner and transport keys go and the fields that
such a reset resets take their reset values (the key's windows and kept answers go with it); of one that is open, the fields alone; of one
that is started, the partition drains with cause 2 and a pause of cause 8 begins, and with nothing to drain it is started again at once;
of one that drains already, the drain becomes that of the reset; of one in a partition reset, the reset is followed by this one; of one
that is fenced, the fields alone. That of the management function turns every running ring set of it to stopping with cause 2 and its
bound of 10 ms. -/
def Obligations.FunctionLevelResets : Prop :=
  ∀ (s : State) (p : Nat), p < s.dev.parts.length →
    let x := s.dev.part p
    (x.life.st = .closed →
      let d := ((s.dev.modKeys p fun k => { k with owner := none, transport := none }).modTransport p fun t =>
        { t with windows := [], answers := [] }).modPart p Part.flrRegs
      exec (.functionLevelReset p) s = Becomes s d ∧ (d.part p).keys.owner = none ∧
        (d.part p).keys.transport = none ∧ (d.part p).regs.eventEnable = 0x1F ∧ (d.part p).regs.keyData = zeros 32 ∧
        (d.part p).life.st = .closed ∧ (d.part p).keys.media = x.keys.media) ∧
    (x.life.st = .opened → exec (.functionLevelReset p) s = Becomes s (s.dev.modPart p Part.flrRegs)) ∧
    (x.life.st = .started →
      let d := s.dev.modPart p fun x => { x with life := { x.life with st := .draining, flr := true },
                                                 acct := { x.acct with running := x.acct.running ++ [⟨s.clock.time, 8, false⟩] } }
      let e := ((List.range 16).foldl (fun (d : Dev) n => d.startDrain s.clock (.part p n) 2) d).settlePart s.clock p
      exec (.functionLevelReset p) s = Becomes s e ∧ ((e.part p).life.st = .draining ∨ (e.part p).life.st = .started)) ∧
    (x.life.st = .draining → x.life.flr = true → exec (.functionLevelReset p) s = Becomes s s.dev) ∧
    (x.life.st = .fenced → x.life.reset = none → exec (.functionLevelReset p) s = Becomes s (s.dev.modPart p Part.flrRegs)) ∧
    (∀ r, x.life.st = .fenced → x.life.reset = some r → exec (.functionLevelReset p) s = Becomes s
      (s.dev.modPart p fun x => { x with life := { x.life with reset := some { r with after := 2 } } })) ∧
    (s.dev.mgmt.rings.length = 4 →
      let d := (List.range 4).foldl (fun (d : Dev) n => d.startDrain s.clock (.mgmt n) 2) s.dev
      exec .mgmtFunctionLevelReset s = Becomes s d ∧
        ∀ n, n < 4 → (d.ring (.mgmt n)) =
          (let r := s.dev.ring (.mgmt n)
           if r.run.st = .running then
             { r with run := { r.run with st := .stopping }, drain := some ⟨s.clock.time, 10000000, 2, false⟩ }
           else if r.run.st = .faulting ∧ r.drain = none then { r with drain := some ⟨s.clock.time, 10000000, 2, false⟩ }
           else r))

/-- DEADLINE_EXPIRY, ADMISSION and REQUEST_REPLAY (R125, R132, R135, R341, R342, R447, R473): at its deadline a request before its point
of no return ends with DEADLINE_EXPIRED, or with REPLAY_EXHAUSTED once it has been replayed (a FLUSH that ends so still begins to make durable what was accepted, R346); room that has freed goes to the first
waiting descriptor; a request lost to a failure is replayed, recorded and counted, until it has been replayed twice. The unit that the record
names is the last one retired (the model's choice when more than one has failed, log 116). -/
def Obligations.RequestsExpireWaitAndReplay : Prop :=
  ∀ (s : State) (r : ReqRef) (q : Req) (io : Io), s.dev.req? r = some q →
    let named := fun (type : Nat) =>
      s.dev.record s.clock type s.dev.lastFailed.1 s.dev.lastFailed.2 (some r.rs.partNo) (r.rs.num * 2 ^ 32 + r.seq) 0 0
    (0 < q.deadline → q.ponr = false → q.journaled = false → s.dev.barrierOp r q.opcode = false → exec (.deadlineExpiry r) s =
      BecomesAt s q.deadline (s.dev.cutShort (s.clock.reach q.deadline) r (if 0 < q.replays then statusEXHAUSTED else statusDEADLINE))) ∧
    (∀ p n, r = ⟨.part p n, q.seq⟩ → s.dev.orderedEnd s.clock p = none →
      (indexed (s.dev.part p).rings).flatMap (fun k => (k.2.inflight.filter (·.waiting)).map fun y => (k.1, y)) = [(n, q)] →
      (s.dev.part p).life.st = .started → (s.dev.part p).life.admitPaused = false → (s.dev.part p).exclusive = false →
      (deadlinePassed s.clock q && !s.dev.barrierOp r q.opcode) = false → ∀ f, s.dev.regrant s.clock p q = .go f →
      exec (.admission p) s = Becomes s (s.dev.enter s.clock r f)) ∧
    (q.pendingReplay = true → q.replays < 2 → deadlinePassed s.clock q = false →
      (q.work = .none ∨ ∃ m v l, q.work = .model m v l) →
      exec (.requestReplay r io) s =
        Becomes s ((named 0x0301).modReq r fun y => { y with pendingReplay := false, replays := y.replays + 1 })) ∧
    (q.pendingReplay = true → 2 ≤ q.replays → (q.work = .none ∨ ∃ m v l, q.work = .model m v l) → exec (.requestReplay r io) s =
        Ended s r (named 0x0302) ⟨statusEXHAUSTED, 0, 0, 0⟩)

/-- A request is admitted at the visibility epoch of its partition and at the fabric time of its admission, which nothing later
moves (R24, R118); nothing else of its partition but that epoch's use changes. Said of FLUSH, which with a checkpoint also needs room for
it. -/
def Obligations.AdmissionTakesEpochAndTime : Prop :=
  ∀ (s : State) (r : ReqRef) (io : Io) (q : Req), Fetched s r 0x34 q → s.dev.gate s.clock r q true true true = none →
    io.upto = .admitted →
    (fbits q.desc 28 5 5 = 0 ∨ s.dev.fits r.rs.partNo (s.dev.checkpointNew r.rs.partNo) true 0 = true ∧
      s.dev.mayWrite r.rs.partNo 16384 s.clock.time true 0 = true) →
    ∃ d, exec (.flush r io) s = Becomes s d ∧
      d.req? r = some { q with admitted := true, waiting := false, epoch := (s.dev.part r.rs.partNo).vis.cur, admitTime := s.clock.time,
                               ponr := q.ponr || ponrAtAdmission q.opcode } ∧
      (∀ k, (d.part k).mem = (s.dev.part k).mem ∧ (d.part k).idx = (s.dev.part k).idx ∧ (d.part k).objs = (s.dev.part k).objs ∧
        (d.part k).life = (s.dev.part k).life) ∧ d.flash = s.dev.flash

/-- R40: the sketch bit of a projection component is its sign bit, and a NaN gives bit 0 and is counted; bit j of a sketch is that of
component j, the FP32 accumulation of the elements against column j of the projection. -/
def Obligations.SketchBitIsTheSign : Prop :=
  (∀ f : F32,
    let nan := f.toNat / 2 ^ 23 % 256 = 255 ∧ f.toNat % 2 ^ 23 ≠ 0
    quantBit (f32num f) = if nan then (0, true) else (f.toNat / 2 ^ 31, false)) ∧
  (∀ (p : IndexParams) (v : List F32),
    let h := v.map fun x => quantise .b16 (f32num x)
    let nums := h.map fun c => Fmt.f16.decode c.1
    let comp := fun (j : Nat) => (indexed nums).foldl (fun acc q => accMul acc q.2 (f16num (p.projAt q.1 j))) f32zero
    (∀ j, bitAt (sketchOf p v).1 j = (decide (j < p.sketchBits) && (quantBit (f32num (comp j))).1 == 1)) ∧
    (sketchOf p v).2 = (h.filter (·.2)).length + ((List.range p.sketchBits).filter fun j => (quantBit (f32num (comp j))).2).length)

/-- What a search leaves on its way (R12, R83 to R92, R99, R100): of a request that is admitted and may run, WALK_COMPLETE, BENCH_SCAN_COMPLETE
and FLASH_READ_COMPLETE take a running search, sketched and seated, past its walk, its scan or one read; a search that this ends
leaves its request at once. A read that succeeds scores its candidate; one that fails goes once to the other copy, and then its candidate is
lost. -/
def Obligations.SearchStagesRun : Prop :=
  (∀ (s : State) (r : ReqRef) (i : Nat) (q : Req) (x : SearchRun), s.dev.req? r = some q → q.admitted = true →
    s.dev.canRun r q = true →
    let d := s.dev.sketchSearch s.clock r i
    let p := r.rs.partNo
    let set := fun (d : Dev) (y : SearchRun) => Becomes s ((d.setSearch r i fun _ => y).endSearches s.clock r true)
    d.running? r i = some x →
    exec (.walkComplete r i) s = set d ((d.part p).walkRun x) ∧
    (let y := (d.part p).benchRun x
     exec (.benchScanComplete r i) s = set d (if pathWalks y.path && y.walk.isNone then y else d.candsRun p y)) ∧
    (∀ h ok, exec (.flashReadComplete r i h ok) s = set (d.readReturn s.clock.time p h ok x).1 (d.readReturn s.clock.time p h ok x).2)) ∧
  (∀ (k : Cand) (single : Bool) (sc : F32), k.score = none → k.lost = false →
    k.read single true sc = { k with score := some sc } ∧
    (single = false → k.tries = 0 → k.read single false sc = { k with side := 1 - k.side, tries := 1 }) ∧
    (single = true ∨ 1 ≤ k.tries → k.read single false sc = { k with lost := true }))

/-- Messages of the fabric manager (R439, R440): one outside an SPDM session is answered with result 7 and changes nothing else, one
whose layout is not that of its type with result 1, and one that a sleeping module does not take with result 5. -/
def Obligations.ManagerMessagesAreJudged : Prop :=
  ∀ (s : State) (m : Bytes) (i : Bool → Bytes → Instr) (k : FmClass) (type : Nat),
    ((i = .compose ∧ k = .fabric ∧ type = 1) ∨ (i = .traffic ∧ k = .fabric ∧ type = 2) ∨ (i = .gates ∧ k = .fabric ∧ type = 3) ∨
     (i = .fabric ∧ k = .fabric ∧ type = 4) ∨ (i = .fence ∧ k = .fabric ∧ type = 5) ∨ (i = .release ∧ k = .fabric ∧ type = 6) ∨
     (i = .recorderFreeze ∧ k = .recorder ∧ type = 0x10) ∨ (i = .recorderThaw ∧ k = .recorder ∧ type = 0x11) ∨
     (i = .recorderRead ∧ k = .recorder ∧ type = 0x12)) →
    (∀ n, s.dev.fmGate k = some n → exec (i false m) s = Becomes s (s.dev.fmReply m 7 [])) ∧
    (s.dev.fmGate k = some 5 → exec (i true m) s = Becomes s (s.dev.fmReply m 5 [])) ∧
    (s.dev.fmGate k = some 0 → fmLayout type m = false → exec (i true m) s = Becomes s (s.dev.fmReply m 1 [])) ∧
    (s.dev.fmGate k = none → exec (i true m) s = Becomes s s.dev)

/-- What the messages of the fabric manager do when they are taken (R440, R443, R449, R453, R454, R475, R476): a COMPOSE ahead of its
time is held until then, and moves the fabric-time floor to now; one whose time has come takes effect; a COMPOSE at or below the
epoch in force or pending is refused with result 2; TRAFFIC, GATES and FABRIC take the values given, and FABRIC asks for the addresses of
peers that are not resolved; FENCE fences; RELEASE closes or
opens a fenced partition; the recorder is frozen, thawed and read; QUERY changes nothing. -/
def Obligations.ManagerMessagesComplete : Prop :=
  ∀ (s : State) (m : Bytes),
    let c := s.clock
    let b := m.drop 16
    let p := fbits m 12 5 0
    (FmHeard s .fabric 1 m → b.length = 8256 → zeroAt b 16 48 = true → (chunks 128 (b.drop 64)).all recordClean = true →
      s.dev.comp.pending = none →
      (fld b 0 4 ≤ s.dev.comp.epoch → exec (.compose true m) s = Becomes s (s.dev.fmReply m 2 [])) ∧
      (let recs := (chunks 128 (b.drop 64)).map PartCfg.ofBytes
       let grace := if fld b 4 4 = 0 then 5000 else fld b 4 4
       let d : Dev := { s.dev with power := { s.dev.power with floor := c.time } }
       s.dev.comp.epoch < fld b 0 4 → fld b 4 4 ≤ 100000 → recs.all s.dev.cfgInRange = true → s.dev.cfgConflict recs = false →
       (c.time < fld b 8 8 → exec (.compose true m) s = Becomes s
          (({ d with comp := { d.comp with pending := some (fld b 0 4, grace, fld b 8 8, recs) } } : Dev).fmReply m 0 [])) ∧
       (fld b 8 8 ≤ c.time → exec (.compose true m) s = Becomes s ((d.takeEpoch c (fld b 0 4) grace recs).fmReply m 0 [])))) ∧
    (FmHeard s .fabric 2 m → trafficClean b = true → trafficOk b = true →
      let subs := (chunks 64 (b.drop 32)).map fun r => Subscriber.ofBytes r c.time
      exec (.traffic true m) s = Becomes s
        (((s.dev.modFabric fun f => { f with overhead := (b.take 16).map (·.toNat), subs := subs }).kickAll c).fmReply m 0 [])) ∧
    (FmHeard s .fabric 3 m → gatesClean b = true →
      gatesOk b (s.dev.fabric.nsOf (s.dev.fabric.counted (fbits b 0 3 0) 9216)) = true →
      let base := fld b 8 8
      let start := if c.time ≤ base then base else base + roundUp (c.time - base) (fld b 4 4)
      exec (.gates true m) s = Becomes s (((s.dev.modPort (fbits b 0 3 0) fun x =>
          { x with sched := x.schedAt c.time, nextSched := some ⟨start, base, fld b 4 4, gateEntries b⟩ }).kick c (fbits b 0 3 0)).fmReply m 0 [])) ∧
    (FmHeard s .fabric 4 m → fabricClean b = true → fabricOk b = true →
      let f := FabricCfg.ofBytes b
      exec (.fabric true m) s = Becomes s (((List.range 16).foldl (fun (d : Dev) i => d.solicitAll c i) ((s.dev.modFabric fun x =>
        { x with cfg := f, storedPortConfig := fbits b 2 1 0,
                 ports := x.ports.map fun (y : Port) => { y with resolved := y.resolved.filter fun a => f.peers.any fun (k : Peer) => k.addr == a },
                 ptp := ({ x.ptp with masters := x.ptp.masters.filter fun (k : Master) => k.m.domain == f.ptpDomain } : Ptp).rebind }).peersGone c)).fmReply
          m 0 [])) ∧
    (FmHeard s .fabric 5 m → m.length = 16 →
      ((s.dev.part p).life.st ≠ .fenced → exec (.fence true m) s = Becomes s ((s.dev.fencePart c p 1).fmReply m 0 [])) ∧
      ((s.dev.part p).life.st = .fenced → (s.dev.part p).life.reset = none → exec (.fence true m) s = Becomes s (s.dev.fmReply m 5 []))) ∧
    (FmHeard s .fabric 6 m → m.length = 16 →
      ((s.dev.part p).life.st = .fenced → (s.dev.part p).life.reset = none →
        exec (.release true m) s = Becomes s ((s.dev.releasePart c p (fbits m 12 6 6 == 1)).fmReply m 0 [])) ∧
      ((s.dev.part p).life.st ≠ .fenced → exec (.release true m) s = Becomes s (s.dev.fmReply m 5 []))) ∧
    (∀ n, s.dev.fmGate .query = some n → exec (.query true m) s = Becomes s (s.dev.fmReply m 0 [])) ∧
    (FmHeard s .recorder 0x10 m → m.length = 16 → exec (.recorderFreeze true m) s =
      Becomes s (({ s.dev with recorder := { s.dev.recorder with
          frozen := some c.time, frozeAt := if s.dev.recorder.frozen.isSome then s.dev.recorder.frozeAt else c.time } } : Dev).fmReply m 0 [])) ∧
    (FmHeard s .recorder 0x11 m → m.length = 16 → exec (.recorderThaw true m) s = Becomes s ((s.dev.thaw c).fmReply m 0 [])) ∧
    (FmHeard s .recorder 0x12 m → b.length = 16 → zeroAt b 1 3 = true → zeroAt b 12 4 = true → fld b 0 1 = 2 → 0 < fld b 8 4 →
      fld b 8 4 ≤ 4096 → fld b 4 4 + fld b 8 4 ≤ 2097664 → exec (.recorderRead true m) s =
        Becomes s (s.dev.fmReply m 0 ((s.dev.recorder.boxLog.drop (fld b 4 4)).take (fld b 8 4))))

/-- A fenced partition (R400): a FENCE of one that is not in a reset leaves it fenced, and tells whether it then held its media key; a release with scrub closes it and drops its keys, and one without opens it exactly when it was
fenced with its media key held and holds it still. -/
def Obligations.FenceAndRelease : Prop :=
  ∀ (d : Dev) (c : Clock) (p cause : Nat), p < d.parts.length → (d.part p).life.reset = none →
    ((d.part p).life.st ≠ .fenced →
      ((d.fencePart c p cause).part p).life.st = .fenced ∧
      ((d.fencePart c p cause).part p).life.keyAtFence = (d.part p).keys.media.isSome) ∧
    ((d.part p).life.st = .fenced →
      ((d.releasePart c p true).part p).life.st = .closed ∧ ((d.releasePart c p true).part p).keys.owner = none ∧
      ((d.releasePart c p true).part p).keys.media = none ∧ ((d.releasePart c p true).part p).keys.transport = none) ∧
    ((d.part p).life.st = .fenced → (d.part p).next = none → ((d.releasePart c p false).part p).life.st =
        if (d.part p).life.keyAtFence && (d.part p).keys.media.isSome then .opened else .closed)

/-- Composition epochs (R443 to R445): the pending epoch takes effect at its time, when it is the epoch in force, the old one is the
previous, and its grace begins, while the epoch before that one has lost its grace at once; at the end of the grace the previous epoch is accepted no more. A packet or a request is judged by
that: the epoch in force is always accepted, the previous one until the grace ends, and no other. -/
def Obligations.CompositionEpochs : Prop :=
  (∀ (s : State) (e g t : Nat) (l : List PartCfg), s.dev.comp.pending = some (e, g, t, l) →
    ∃ d, exec .compositionEffective s = BecomesAt s t d ∧
      d.comp = ⟨e, s.dev.comp.epoch, (s.clock.reach t).time + 1000 * g, none⟩ ∧ d.power.storedMap = some l ∧ d.power.storedEpoch = e) ∧
  (∀ (d : Dev) (c : Clock) (e g : Nat) (l : List PartCfg),
    (d.takeEpoch c e g l).comp = ⟨e, d.comp.epoch, c.time + 1000 * g, none⟩ ∧
    ∀ (c' : Clock) (old : Nat), old = d.comp.prev → old ≠ d.comp.epoch → old ≠ e → (d.takeEpoch c e g l).epochOk c' old = false) ∧
  (∀ s : State, 0 < s.dev.comp.graceEnd → exec .gracePeriodEnd s =
    BecomesAt s s.dev.comp.graceEnd { s.dev with comp := { s.dev.comp with graceEnd := 0 } }) ∧
  (∀ (d : Dev) (c : Clock) (e : Nat), d.epochOk c e = true ↔ e = d.comp.epoch ∨ (e = d.comp.prev ∧ c.time < d.comp.graceEnd))

/-- Packets of the transport (R306, R325, R431, R433 to R437): a packet that is malformed, or comes in where the transport does not run, is a port error; a set-up read answers what the register
reads, a set-up write does what a write to the register does, but for one outside an SPDM session that comes before the transport key
is held or writes KEY_DATA, which is refused with status 2; both answer status 1 to an epoch that is not accepted; a nudge of the
ring set's peer brings its poll forward; an update is checked and applied, an acknowledged one is repeated no more; a repeated packet
is given its answer again and has no other effect; a dropped one has no effect but its count. -/
def Obligations.PacketsArrive : Prop :=
  ∀ (s : State) (k : Packet),
    let c := s.clock
    let p := pkPart k
    let x := s.dev.part p
    let w := s.dev.receive c k x.keys.transport.isSome (x.cfg.fromOwner k) true
    let u := s.dev.receive c k true (x.cfg.fromSource k) true
    let a := s.dev.receive c k true (x.cfg.fromSource k) false
    let n := s.dev.receive c k true (x.cfg.fromOwner k) true
    (s.dev.laidOut k = false → exec (.malformedTransportPacket k) s =
      Becomes s (s.dev.modPort k.port fun y => { y with errors := bump y.errors })) ∧
    (pkType k = 1 →
      (w.2 = .accepted → let r := w.1.regRead c (.remote p k.session) (fld k.payload 0 4) (fld k.payload 4 1)
        exec (.setupRead k) s = Becomes s (r.1.setupAnswer c k 0 (some r.2) false)) ∧
      (w.2 = .stale → exec (.setupRead k) s = Becomes s (w.1.setupAnswer c k 1 none false)) ∧
      (w.2 = .dropped → exec (.setupRead k) s = Becomes s w.1)) ∧
    (pkType k = 2 →
      (let clear := k.session = false ∧ (x.keys.transport = none ∨ (0x100 ≤ fld k.payload 0 4 ∧ fld k.payload 0 4 < 0x120))
       (w.2 = .accepted → ¬clear → exec (.setupWrite k) s = Becomes s
         ((w.1.regWrite c (.remote p k.session) (fld k.payload 0 4) (fld k.payload 4 1) (fld k.payload 8 8)).setupAnswer c k 0 none true)) ∧
       (w.2 = .accepted → clear → exec (.setupWrite k) s = Becomes s ((w.1.rejectPart p).setupAnswer c k 2 none true))) ∧
      (w.2 = .stale → exec (.setupWrite k) s = Becomes s (w.1.setupAnswer c k 1 none false)) ∧
      (∀ b, w.2 = .repeated (some b) → exec (.setupWrite k) s = Becomes s (w.1.answer c k 3 3 b)) ∧
      (w.2 = .dropped → exec (.setupWrite k) s = Becomes s w.1)) ∧
    (pkType k = 5 → n.2 = .accepted → fld k.payload 0 1 < 16 →
      let rs := RsId.part p (fld k.payload 0 1)
      (n.1.ring rs).regs.remote = true → (n.1.ring rs).regs.peerId = pkSource k → n.1.heard rs = true →
      exec (.fabricNudge k) s = Becomes s (n.1.nudge c rs)) ∧
    (pkType k = 8 →
      (u.2 = .accepted → x.life.st ≠ .closed → exec (.update k) s = Becomes s (u.1.runUpdate c k)) ∧
      (u.2 = .stale → exec (.update k) s = Becomes s (u.1.redirect c k)) ∧
      (∀ b, u.2 = .repeated (some b) → exec (.update k) s = Becomes s (u.1.sendAck c p (pkSource k) (pkService k) b)) ∧
      (u.2 = .dropped → exec (.update k) s = Becomes s u.1)) ∧
    (pkType k = 9 → a.2 = .accepted → exec (.updateAck k) s = Becomes s (a.1.modTransport p fun t =>
      { t with outs := t.outs.filter fun o => !(o.sequence == fld k.payload 0 8 && o.peer == pkSource k / 64) }))

/-- The checks of R435 in order, and the window of R434: a packet is accepted only when its port runs the transport, it is well formed, its partition is not
fenced, its source and its key are those its type requires, its SEQUENCE is new, its epoch is accepted; a SEQUENCE is recorded as
accepted only then. A SEQUENCE once recorded is not fresh again. -/
def Obligations.OnlyFreshPacketsAreAccepted : Prop :=
  (∀ (d : Dev) (c : Clock) (k : Packet) (keyed from_ epoch : Bool),
    (d.receive c k keyed from_ epoch).2 = .accepted →
    d.runsTransport k.port = true ∧ wellFormedPacket k = true ∧ (d.part (pkPart k)).life.st ≠ .fenced ∧ from_ = true ∧ pkKeyed k = keyed ∧
    (keyed = true → (d.part (pkPart k)).keys.transport.isSome = true ∧ k.tagOk = true ∧
      ((d.transport (pkPart k)).win (pkKind k) (pkSource k)).fresh (pkSeq k) = true)) ∧
  (∀ (w : RxWin) (n : Nat), (w.accept n).fresh n = false) ∧
  (∀ (w : RxWin) (n m h : Nat), w.highest = some h → w.fresh n = true → h < n → m ≤ h → m ∈ w.seen → (w.accept n).fresh m = false)

/-- Updates of remote modules at their times (R140, R433): an update that is not acknowledged is sent again, at an interval that
doubles up to 64 ms, while its destination is a peer and its partition neither closed nor fenced; at a barrier epoch the held updates
of a reproducible partition are applied in their order, up to a training step that waits for the working copy it writes; updates of
remote modules never wait. RoCEv2 connections (R338, R435, R438): a packet that fails its checks is counted and dropped, one for a fenced partition
as an authentication failure; a response completes the requests it acknowledges, and READs that waited behind 16 go out; a timeout sends them again until the seventh retry, and then the connection has failed and the ring set faults. -/
def Obligations.UpdatesAndConnections : Prop :=
  (∀ (s : State) (p n : Nat) (o : OutUpdate) (k : Peer), (s.dev.transport p).outs.find? (fun o => o.sequence == n) = some o →
    s.dev.fabric.peer? o.peer true = some k → (s.dev.part p).life.st ≠ .closed → (s.dev.part p).life.st ≠ .fenced →
    exec (.updateRepeatTimeout p n) s =
      let c := s.clock.reach o.next
      BecomesAt s o.next ((s.dev.modTransport p fun t => { t with outs := modIf (fun q => q.sequence == n) (fun q =>
          { q with interval := min (2 * q.interval) 64000000, next := c.time + min (2 * q.interval) 64000000 }) t.outs }).sendTo c p p .free
        (fbits o.hdr 1 2 1) k true o.payload.length fun port => .packet port o.peer o.hdr o.payload)) ∧
  (∀ (s : State) (p : Nat), (s.dev.part p).cfg.repro = true → (s.dev.part p).life.st ≠ .closed → (s.dev.part p).life.st ≠ .fenced →
    exec (.barrierEpochApply p) s = Becomes s (s.dev.applyDue s.clock p ((s.dev.part p).dueHeld p)) ∧
    (∀ h l, (s.dev.part p).dueHeld p = h :: l → h.waits (s.dev.part p) = false →
      exec (.barrierEpochApply p) s = Becomes s ((s.dev.applyHeld s.clock p h).applyDue s.clock p l)) ∧
    (∀ (d : Dev) (c : Clock) (l : List RemoteUpd),
      d.applyDue c p (l.map Held.remote) = l.foldl (fun (d : Dev) u => d.applyHeld c p (.remote u)) d)) ∧
  (∀ (s : State) (rs : RsId) (k : RoceIn), (s.dev.ring rs).regs.remote = true → pkType k.pkt = 7 → pkPart k.pkt = rs.partNo →
    let w := s.dev.receiveRdma s.clock rs k
    let d := w.1
    (s.dev.laidOut k.pkt = true → (s.dev.part rs.partNo).life.st = .fenced → exec (.rdmaPacket rs k) s =
      Becomes s (s.dev.modTransport rs.partNo fun t => { t with authFails := bump t.authFails })) ∧
    (w.2 ≠ .accepted → exec (.rdmaPacket rs k) s = Becomes s d) ∧
    (w.2 = .accepted → (d.ring rs).roce.failed = false →
      (k.kind = .response → k.ecn = false → 0 < k.completes → exec (.rdmaPacket rs k) s = Becomes s ((d.modRing rs fun x =>
        { x with roce := { x.roce with outstanding := x.roce.outstanding.drop k.completes, sentAt := s.clock.time, retries := 0 } }).issueHeld s.clock rs
          (d.ring rs).roce.held.length)) ∧
      (k.kind = .request → exec (.rdmaPacket rs k) s = Becomes s (d.modFabric fun f => { f with roceDrops := bump f.roceDrops })) ∧
      (k.kind = .nak → k.completes = 0 → exec (.rdmaPacket rs k) s = Becomes s (d.roceRetry s.clock rs)))) ∧
  (∀ (s : State) (rs : RsId), exec (.cnp rs) s = Becomes s (s.dev.modRing rs fun x =>
      if x.regs.remote then { x with roce := { x.roce with rate := x.roce.rate + 1 } } else x)) ∧
  (∀ (s : State) (rs : RsId), (s.dev.ring rs).roce.outstanding ≠ [] → (s.dev.ring rs).roce.failed = false →
    let r := (s.dev.ring rs).roce
    let c := s.clock.reach (r.sentAt + 4194304)
    exec (.roceAckTimeout rs) s = BecomesAt s (r.sentAt + 4194304)
      (if 7 ≤ r.retries then (s.dev.modRing rs fun x => { x with roce := { x.roce with outstanding := [], held := [], failed := true } }).ringFault c rs 6 0 0
       else (s.dev.modRing rs fun x => { x with roce := { x.roce with retries := x.roce.retries + 1 } }).roceResend c rs))

/-- Fabric ports (R420, R422, R424, R425, R448, R452 to R455, R484): a port whose lanes are in service comes up in a module that is up, and asks
for the addresses of its peers; LLDPDUs go out at their
times, four at 1 s and then one every 30 s; a neighbour is learnt, kept, and forgotten when its TTL passes; neighbour solicitations
and echo requests to the port's own address are answered; an advertisement of a peer on the port resolves it; at the end of a frame
and at a gate boundary the port sends what may then go. -/
def Obligations.PortsWork : Prop :=
  ∀ (s : State) (port : Nat),
    let x := s.dev.port port
    (port < s.dev.fabric.portCount → x.up = false → s.dev.lanesOk port = true → s.dev.power.mode = .up → exec (.portUp port) s =
      Becomes s (((s.dev.modPort port fun x => { x with up := true, busy := false, queue := [], lldpNext := s.clock.time, lldpSent := 0 }).record
        s.clock 0x0503 0x0C port none s.dev.fabric.lanesPerPort 0 0).solicitAll s.clock port)) ∧
    (x.up = true →
      (exec (.lldpTransmit port) s =
        let c := s.clock.reach x.lldpNext
        let d := s.dev.modPort port fun y =>
          { y with lldpSent := y.lldpSent + 1, lldpNext := c.time + (if y.lldpSent + 1 < 4 then 1000000000 else 30000000000) }
        BecomesAt s x.lldpNext (d.ownFrame c port true lldpAddr 0x88CC (d.lldpBytes port 120))) ∧
      (∀ k : Neighbour, 0 < k.ttl → x.neighbours.any (fun y => y.chassis == k.chassis && y.portId == k.portId) = false →
        x.neighbours.length < 8 → exec (.lldpdu port k) s = Becomes s ((s.dev.modPort port fun y =>
          { y with neighbours := y.neighbours ++ [⟨k.chassis, k.portId, s.clock.time + k.ttl * 1000000000⟩] }).record s.clock 0x0501 0x0C port
            none k.chassis k.portId 0)) ∧
      (∀ target, s.dev.fabric.cfg.peers.any (fun (k : Peer) => k.addr == target && bitAt k.ports port) = true →
        x.resolved.contains target = false →
        exec (.neighborAdvertisement port target) s = Becomes s (s.dev.modPort port fun y =>
          { y with resolved := if y.resolved.contains target then y.resolved else y.resolved ++ [target] }))) ∧
    (∀ i k, x.neighbours[i]? = some k → exec (.lldpTtlExpiry port i) s =
      BecomesAt s k.expires ((s.dev.modPort port fun y => { y with neighbours := y.neighbours.eraseIdx i }).neighbourGone
        (s.clock.reach k.expires) port k 1)) ∧
    (∀ dst src data, s.dev.ownAddr port dst = true →
      let mac := Config.freeNat s.dev.free 0 % 2 ^ 48
      exec (.echoRequest port dst src data) s = Becomes s (s.dev.fresh.ownFrame s.clock port false mac 0x86DD
        (icmp dst src (be 1 129 ++ be 3 0 ++ data))) ∧
      exec (.neighborSolicitation port dst src) s = Becomes s (s.dev.fresh.ownFrame s.clock port false mac 0x86DD
        (icmp dst src (be 1 136 ++ be 3 0 ++ be 4 0x60000000 ++ be 16 dst ++ be 1 2 ++ be 1 1 ++ be 6 (Config.macBase + port))))) ∧
    (x.busy = true → exec (.frameTransmissionEnd port) s = BecomesAt s (ceilDiv x.endsAt 200)
      ((s.dev.modPort port fun y => { y with busy := false }).kickAt (s.clock.reach (ceilDiv x.endsAt 200)) port x.endsAt)) ∧
    (∀ t, x.dueBoundary = some t → exec (.gateEntryBoundary port) s =
      let c := s.clock.reach t
      BecomesAt s t ((s.dev.modPort port fun y =>
        { y with fallback := y.fallback && c.timeLost, sched := y.schedAt c.time, gateDone := max y.gateDone c.time,
                 nextSched := match y.nextSched with
                   | some g => if g.start ≤ c.time then none else some g
                   | none => none }).kick c port))

/-- Fabric time over PTP (R426 to R429): an Announce in the domain is remembered, and the best master bound to; with no master left
the module is in the time-lost state; a one-step Sync of the bound master corrects the count by the measured offset and asks for the
path delay, a two-step one waits for its Follow_Up; a Delay_Resp gives the mean path delay. -/
def Obligations.TimeMessagesWork : Prop :=
  ∀ (s : State) (port : Nat) (m : PtpMsg),
    let f := s.dev.fabric
    ((s.dev.port port).up = true → m.domain = f.cfg.ptpDomain → -3 ≤ m.logInterval → m.logInterval ≤ 3 → m.stepsRemoved < 255 →
      exec (.announce port m) s = Becomes s (s.dev.modFabric fun f =>
        { f with ptp := ({ f.ptp with masters := (f.ptp.masters.filter fun (k : Master) => !(k.port == port && k.m.source == m.source)) ++
            [⟨port, s.clock.time, m⟩] } : Ptp).rebind })) ∧
    (∀ k : Master, f.ptp.masters = [k] → s.clock.timeLost = false →
      ∃ d, exec .announceTimeout s = .next { s with clock := { s.clock.reach k.expires with timeLost := true, ptpLocked := false }, dev := d } ∧
        d.fabric.ptp.masters = [] ∧ d.fabric.ptp.bound = none) ∧
    (s.dev.fromMaster port m = true → -7 ≤ m.logInterval → m.logInterval ≤ 0 →
      (m.twoStep = true → exec (.sync port m) s =
        Becomes s (s.dev.modFabric fun f => { f with ptp := { f.ptp with sync := some (m.seq, m.arrival, m.correction) } })) ∧
      (m.twoStep = false → exec (.sync port m) s =
        let w := wholeSync s.clock s.dev port (m.origin + m.correction) m.arrival
        .next { s with clock := w.1, dev := w.2 })) ∧
    (s.dev.fromMaster port m = true → ∀ t2 corr, f.ptp.sync = some (m.seq, t2, corr) → exec (.followUp port m) s =
        let w := wholeSync s.clock s.dev port (m.origin + corr + m.correction) t2
        .next { s with clock := w.1, dev := w.2 }) ∧
    (s.dev.fromMaster port m = true → m.forUs = true → ∀ t1 t2 t3, f.ptp.lastSync = some (t1, t2) → f.ptp.reqAt = some (m.seq, t3) →
      exec (.delayResp port m) s = Becomes s (s.dev.modFabric fun f =>
        { f with ptp := { f.ptp with delay := ((t2 : Int) - t1 + (m.origin - m.correction) - t3) / 2, reqAt := none } }))

/-- What a measured offset does to the count (R29, R428): a forward one of more than 10 µs steps the count forward by it; a smaller
forward one hastens the count; a backward one slows it and moves it nowhere; a backward one of more than 1 ms is not followed, and
the module is in the time-lost state. -/
def Obligations.OffsetsCorrectTheCount : Prop :=
  (∀ (c : Clock) (d : Dev) (port : Nat) (off : Int),
    (10000 < off → (steer c d port off).1.time = c.time + off.toNat) ∧
    (off ≤ 10000 → (steer c d port off).1.time = c.time)) ∧
  (∀ (c : Clock) (d : Dev) (port : Nat) (off : Int), off < -1000000 → c.timeLost = false →
    (follow c d port off).1 = { c with timeLost := true, ptpLocked := false })

/-- TILE_INVOCATION_START and PLAN_ENTRY_START (R146, R187, R188, R190 to R192, R222): a tile that is free starts the stream of the started
tile phase that it has not ended: the argument page is written, every token counter is zero, and its queues are empty. When no
invocation runs the oldest starts; a plan entry that is not started and whose predecessors are done is started: a tile phase changes
nothing else, and a bank phase's command group is queued for its engine, with its bound and its records. -/
def Obligations.TileInvocationStarts : Prop :=
  (∀ (s : State) (t p pos e : Nat) (i : Inv) (g : Pkg), s.dev.siteOf t = some (p, pos) → s.dev.siteAt p pos = t →
      (s.dev.part p).running = some i → (s.dev.part p).invPkg i = some g → i.tileEntry g pos = some e →
      (s.dev.tile t).running = false → pos < g.tiles →
      exec (.tileInvocationStart t p pos e) s = Becomes s (s.dev.modTile t fun y =>
        { y with sram := y.sram.writeN 0 (i.argPage g pos), tokens := List.replicate 64 0, running := true,
                 prog := (g.streams.getD e []).getD pos [], next := 0, entry := some e, queues := List.replicate 5 [], held := [] })) ∧
  (∀ (s : State) (p entry : Nat) (i : Inv) (g : Pkg) (e : Bytes),
      let d := s.dev.modPart p fun x => x.beginInv s.clock
      let x := d.part p
      let d1 := d.modPart p fun y => y.modRunning fun k => { k with started := k.started ++ [entry] }
      x.running = some i → x.invPkg i = some g → g.plan[entry]? = some e → i.started.contains entry = false →
      (∀ j, j < 4 → fld e (2 + 2 * j) 2 = 0xFFFF ∨ i.done.contains (fld e (2 + 2 * j) 2) = true) →
      (fbits e 0 0 0 = 0 → exec (.planEntryStart p entry) s = Becomes s d1) ∧
      (fbits e 0 0 0 = 1 → ∀ f k pos ch, g.phases[entry]? = some f → f.groups = [k] → f.chans[k.eng / 8]? = some pos →
        x.life.chans[pos]? = some ch →
        let cmds := k.cmds.map (g.relocate i.copy)
        exec (.planEntryStart p entry) s = Becomes s (d1.queueGroup ch
          ⟨k.eng % 8, p, ceilDiv (x.groupBound (8 * pos + k.eng % 8) cmds) 32, 0, d1.nextOrd, some entry, cmds, 0, []⟩)))

/-- The descriptors of a tile's program (R147): a descriptor that the tile takes is dispatched behind the ones it holds, enters its
class's queue when there is room, and the partition's tiles run whatever can start; an invocation whose plan this completes ends. One
statement for each class and operation. -/
def Obligations.DescriptorsAreDispatched : Prop :=
  ∀ (s : State) (t p cls op : Nat) (b : List Byte) (i : Nat → List Byte → Instr), TileTakes s t p cls op b →
    (cls = 0 ∧ op = 0 ∧ i = .matrixDense ∨ cls = 0 ∧ op = 1 ∧ i = .matrixSparse24 ∨ cls = 0 ∧ op = 2 ∧ i = .matrixBlock ∨
     cls = 1 ∧ op = 0 ∧ i = .mapVec ∨ cls = 1 ∧ op = 1 ∧ i = .zipVec ∨ cls = 1 ∧ op = 2 ∧ i = .reduceVec ∨
     cls = 2 ∧ op = 0 ∧ i = .quantiseVec ∨ cls = 2 ∧ op = 1 ∧ i = .dequantiseVec ∨
     cls = 3 ∧ op = 0 ∧ i = .argmax ∨ cls = 3 ∧ op = 1 ∧ i = .select ∨ cls = 3 ∧ op = 2 ∧ i = .merge ∨
     cls = 4 ∧ op = 0 ∧ i = .xferCopy ∨ cls = 4 ∧ op = 1 ∧ i = .xferGather ∨ cls = 4 ∧ op = 2 ∧ i = .xferScatter ∨
     cls = 4 ∧ op = 3 ∧ i = .multicast ∨ cls = 4 ∧ op = 4 ∧ i = .addFp32 ∨
     cls = 5 ∧ op = 0 ∧ i = .syncWait ∨ cls = 5 ∧ op = 1 ∧ i = .syncSignal ∨ cls = 5 ∧ op = 2 ∧ i = .syncFence ∨
     cls = 5 ∧ op = 3 ∧ i = .syncEnd) →
    let d := s.dev.modTile t fun y =>
      ({ y with next := y.next + 1, held := y.held ++ [⟨y.next, b, !Td.waitEn b, !(cls == 5 && op == 0)⟩] } : Tile).refill 1024
    exec (i t b) s = Becomes s ((Dev.runTiles s.clock (Dev.endServed s.clock) p (d.tileFuel p) d).invDone (Dev.endServed s.clock) p)

/-- A descriptor that can start does what its class says (R50, R148, R152, R161, R164, R166, R170, R176 to R179): the matrix, vector,
quantise and screen classes leave what their operation computes in the tile's SRAM, count what saturated, and give their rows'
requests their result flags; a transfer leaves what it moves; a SIGNAL adds to its destination's counter; an END stops the tile and
counts for its plan entry; and each leaves its queue when it completes, after which it signals if it is to. One that its operation faults
ends the invocation with that fault's code. -/
def Obligations.DescriptorsRun : Prop :=
  ∀ (d : Dev) (c : Clock) (fin : Ends) (p pos site : Nat) (x : TDesc),
    let t := d.tile site
    let res := if Td.cls x.d = 0 then runMatrix t.sram x.d else if Td.cls x.d = 1 then runVector t.sram x.d
      else if Td.cls x.d = 2 then runQuant t.sram x.d else runScreen t.sram x.d (d.part p).cfg.repro
    let put := fun (m : Memory) => d.modTile site fun y => { y with sram := m }
    let gone := fun (d : Dev) => d.modTile site fun y => y.complete x.idx
    (Td.cls x.d ≤ 3 → ∀ code detail m, res = .fault code detail m →
      d.runDesc c fin p pos site x = (put m).tileFault c fin p pos site x code detail) ∧
    (Td.cls x.d = 4 → ∀ e, d.runXfer c.time p pos site x.d = .error e →
      d.runDesc c fin p pos site x = d.tileFault c fin p pos site x e.1 e.2) ∧
    (Td.signalEn x.d = false →
      (Td.cls x.d ≤ 3 → ∀ m counter rows marks, res = .ok m counter rows marks →
        d.runDesc c fin p pos site x =
          gone (((put m).saturate c p counter (sumNat (·.sat) marks) site).markRows p rows marks)) ∧
      (Td.cls x.d = 4 → ∀ e, d.runXfer c.time p pos site x.d = .ok e → d.runDesc c fin p pos site x = gone e) ∧
      (Td.cls x.d = 5 → Td.op x.d = 0 ∨ Td.op x.d = 2 → d.runDesc c fin p pos site x = gone d) ∧
      (Td.cls x.d = 5 → Td.op x.d = 1 → fld x.d 12 2 = 0xFFFF → t.tokens.getD (fbits x.d 8 5 0) 0 + fld x.d 10 2 ≤ 65535 →
        d.runDesc c fin p pos site x = gone (d.signal [site] (fbits x.d 8 5 0) (fld x.d 10 2)).1) ∧
      (Td.cls x.d = 5 → Td.op x.d = 3 → ∀ e, t.entry = some e → d.runDesc c fin p pos site x =
        ((gone d).modTile site fun y => { y with running := false, entry := none }).modPart p fun y => y.entryEnded e pos)) ∧
    (Td.signalEn x.d = true → Td.cls x.d = 5 → Td.op x.d = 0 ∨ Td.op x.d = 2 → fld x.d 6 2 = 0xFFFF →
      ((gone d).tile site).tokens.getD (fbits x.d 4 5 0) 0 + fld x.d 5 1 ≤ 65535 →
      d.runDesc c fin p pos site x = ((gone d).signal [site] (fbits x.d 4 5 0) (fld x.d 5 1)).1)

/-- R177: a signal that would take a counter above 65,535 sets the counter to 65,535 and is a TOKEN_OVERFLOW fault: the SIGNAL
descriptor that sent it, or the descriptor that signals at its completion, faults with code 1. -/
def Obligations.SignalsSaturate : Prop :=
  (∀ (d : Dev) (site token n : Nat), site < d.tiles.length → token < (d.tile site).tokens.length →
    let v := (d.tile site).tokens.getD token 0
    (((d.signal [site] token n).1.tile site).tokens.getD token 0 = min 65535 (v + n)) ∧
    ((d.signal [site] token n).2 = true ↔ 65535 < v + n)) ∧
  (∀ (d : Dev) (c : Clock) (fin : Ends) (p pos site : Nat) (x : TDesc), Td.cls x.d = 5 → Td.op x.d = 1 → fld x.d 12 2 = 0xFFFF →
    65535 < (d.tile site).tokens.getD (fbits x.d 8 5 0) 0 + fld x.d 10 2 →
    d.runDesc c fin p pos site x = (d.signal [site] (fbits x.d 8 5 0) (fld x.d 10 2)).1.tileFault c fin p pos site x 1 0) ∧
  (∀ (d : Dev) (c : Clock) (fin : Ends) (p pos site : Nat) (x : TDesc), Td.cls x.d = 5 → Td.op x.d = 2 → Td.signalEn x.d = true →
    fld x.d 6 2 = 0xFFFF → 65535 < ((d.modTile site fun y => y.complete x.idx).tile site).tokens.getD (fbits x.d 4 5 0) 0 + fld x.d 5 1 →
    d.runDesc c fin p pos site x =
      ((d.modTile site fun y => y.complete x.idx).signal [site] (fbits x.d 4 5 0) (fld x.d 5 1)).1.tileFault c fin p pos site x 1 0)

/-- Bank-engine commands (R208, R209, R220, R223 to R228, R236, R240): an engine runs the next record of its running group. LOAD and
STORE move lines between memory or a tile's window and scratch, SCAN and MATVEC leave their results in scratch, FILL writes its pattern over
its lines, ROW_READ gives weighted rows, ROW_UPDATE applies a step to each row, for the requests that the group serves; and a poisoned line that
one of them reads stops its group, whose requests end with DATA_POISONED. A LOAD or STORE at a channel of another engine that is not in
memory mode waits there as an access, and its group with it (R212, R215). -/
def Obligations.BankCommandsComplete : Prop :=
  ∀ (s : State) (p eng ch : Nat) (cmd : List Byte) (g : Group),
    let d := s.dev.modChan ch fun x => { x with running := modIf (fun k => k.eng == eng % 8) (fun k => { k with next := k.next + 1 }) x.running }
    let x := s.dev.part p
    let n := 64 * Bc.count cmd
    let runs := fun (d : Dev) => Becomes s (d.modChan ch Channel.turn)
    let stops := fun (d : Dev) => runs
      ((d.bankPoison (Dev.endServed s.clock) ch { g with next := g.next + 1 }).startGroups s.clock.time ch false)
    (∀ op, op = 1 ∨ op = 2 → BankTakes s p eng op cmd ch g → s.dev.bankAway s.clock.time p ch cmd ≠ [] →
      (if op = 1 then exec (.load p eng cmd) s else exec (.store p eng cmd) s) =
        runs ((s.dev.bankAway s.clock.time p ch cmd).foldl (fun (d : Dev) k => d.accessWaits s.clock.time k) s.dev)) ∧
    (BankTakes s p eng 1 cmd ch g → s.dev.bankAway s.clock.time p ch cmd = [] → s.dev.tileWindow p (Bc.addr cmd) n = none → x.dramRange (Bc.addr cmd) n = true →
      exec (.load p eng cmd) s =
        let e := d.modPart p fun y => y.scratchWrite eng (Bc.sOut cmd) (x.mem.dram.readN (Bc.addr cmd) n) (x.mem.poisoned (Bc.addr cmd) n)
        if x.mem.poisoned (Bc.addr cmd) n then stops e else runs e) ∧
    (BankTakes s p eng 2 cmd ch g → s.dev.bankAway s.clock.time p ch cmd = [] → s.dev.tileWindow p (Bc.addr cmd) n = none → x.dramRange (Bc.addr cmd) n = true →
      x.mem.partialPoison (Bc.addr cmd) n = false → x.scratchBad = [] → exec (.store p eng cmd) s =
        runs (d.modPart p fun y => { y with mem := y.mem.put (Bc.addr cmd) (x.scratchRead eng (Bc.sIn cmd) n) })) ∧
    (BankTakes s p eng 2 cmd ch g → s.dev.bankAway s.clock.time p ch cmd = [] → ∀ t o, s.dev.tileWindow p (Bc.addr cmd) n = some (t, o) → exec (.store p eng cmd) s =
        runs (d.modTile t fun y => { y with sram := y.sram.writeN o (x.scratchRead eng (Bc.sIn cmd) n) })) ∧
    (BankTakes s p eng 3 cmd ch g → ∀ i range, x.rangeAt eng (Bc.loc cmd) = some (i, range) →
      let prm := x.scratchRead eng (Bc.sIn cmd) 256
      scanParamsOk i prm = true → x.scratchBad = [] → exec (.scan p eng i.num range cmd) s =
        let bad := (i.scanNodes range (fld prm 200 8)).any (·.sketchPoison)
        let e := d.modPart p fun y => y.scratchWrite eng (Bc.sOut cmd) (i.scanBytes range prm) bad
        if bad then stops e else runs e) ∧
    (BankTakes s p eng 4 cmd ch g → ∀ m b bad, MvShape.ofParam (Bc.p0 cmd) = some m →
      x.linesRead eng (Bc.loc cmd) (Bc.count cmd * m.rowBytes / 64) = some (b, bad) → x.scratchBad = [] →
      exec (.matvec p eng cmd) s =
        let e := d.modPart p fun y => y.scratchWrite eng (Bc.sOut cmd) ((List.range (Bc.count cmd)).flatMap fun j =>
          le 4 (m.row ((b.drop (j * m.rowBytes)).take m.rowBytes) (x.scratchRead eng (Bc.sIn cmd) (m.actBytes + 4))).toNat) bad
        if bad then stops e else runs e) ∧
    (BankTakes s p eng 5 cmd ch g → ∀ t o, x.tableAt eng (Bc.loc cmd) = some (t, o) →
      let k := Bc.count cmd
      let b := x.scratchRead eng (Bc.sIn cmd) (rowReq * k)
      let reqs := (List.range k).map fun i => (fld b (8 * i) 4, fld b (8 * i + 4) 4)
      (∀ r ∈ reqs, r.1 < t.rows ∧ some (r.1 % t.engines) = t.enginePos eng ∧ t.rowPoisoned x.mem.poison r.1 = false) → x.scratchBad = [] →
      exec (.rowRead p eng t.num k cmd) s = runs ((d.modPart p fun y => y.modTable t.num fun k' => { k' with stats := { k'.stats with
          lookups := satCap 64 (k'.stats.lookups + k), rowsRead := satCap 64 (k'.stats.rowsRead + (dedupNat (reqs.map (·.1))).length) } }).modPart p
        fun y => y.scratchWrite eng (Bc.sOut cmd) (reqs.flatMap fun r =>
          (t.part x.mem.dram r.1 0).flatMap fun v => le 4 (f32mul (BitVec.ofNat 32 r.2) v).toNat) false)) ∧
    (BankTakes s p eng 6 cmd ch g → ∀ t o, x.tableAt eng (Bc.loc cmd) = some (t, o) →
      let rows := (List.range (Bc.count cmd)).map fun i =>
        let r := x.scratchRead eng (Bc.sIn cmd + t.updReq * i) t.updReq
        (fld r 0 4, (u32s r 8 t.dim).map (BitVec.ofNat 32))
      let mode := Bc.p0 cmd
      mode ≤ 2 → (mode = 2 → t.opt ≠ 0) → (∀ r ∈ rows, r.1 < t.rows ∧ some (r.1 % t.engines) = t.enginePos eng) → x.scratchBad = [] →
      x.cfg.repro = false → g.entry = none → g.serves = [] →
      exec (.rowUpdate p eng t.num mode (Bc.p1 cmd) cmd) s = runs (d.applyRows s.clock p t mode (BitVec.ofNat 32 (Bc.p1 cmd)) [] rows).d) ∧
    (BankTakes s p eng 7 cmd ch g → exec (.fill p eng cmd) s = runs (d.modPart p fun y =>
      (List.range (Bc.count cmd)).foldl (fun (y : Part) i => match y.lineAddr eng (Bc.loc cmd + i) with
        | some a => { y with mem := y.mem.put a (List.replicate 8 (le 4 (Bc.p0 cmd) ++ le 4 (Bc.p1 cmd))).flatten }
        | none => y) y))

/-- Channels and power tokens (R211 to R219, R221): a group that arrives at a channel in memory mode, with no access waiting, sends it to
processor mode; one that arrives in processor mode takes a token of its partition and runs, and with no token left of its partition's, or none
in the stack's budget, it waits; when a group's commands
have run it ends, and with an access waiting the last one's end begins the switch to memory mode; the end of a switch opens the mode or the
window; the end of the window closes admission; the rebalancing point is at its time, the next follows 20 µs later, and there each stack's budget
is the lower of what was set and its cap, and at least 16. -/
def Obligations.ChannelsAndTokens : Prop :=
  ∀ (s : State) (ch : Nat), ch < s.dev.channels.length →
    let x := s.dev.chan ch
    (∀ p pos eng cmds serves, s.dev.chanOwner ch = some (p, pos) → eng < 8 → (s.dev.part p).groupOk (8 * pos + eng) cmds = true → x.queue = [] →
      let g : Group := ⟨eng, p, ceilDiv ((s.dev.part p).groupBound (8 * pos + eng) cmds) 32, 0, s.dev.nextOrd, none, cmds, 0, serves⟩
      (x.mode = .memory → x.oldest = none → ∃ d, exec (.commandGroupStart ch eng ⟨cmds, serves⟩ none) s = Becomes s d ∧
        d.chan ch = { x with queue := [g], mode := .toProcessor, windowEnd := none }) ∧
      (x.mode = .processor → x.oldest = none → x.lost = false → x.running = [] →
        (∀ k, k / 16 = ch / 16 → k ≠ ch → (s.dev.chan k).queue = []) →
        ((s.dev.share (ch / 16) p).held < (s.dev.share (ch / 16) p).grant → s.dev.heldTokens (ch / 16) < (s.dev.arb (ch / 16)).effective → ∃ d,
          exec (.commandGroupStart ch eng ⟨cmds, serves⟩ none) s = Becomes s d ∧ (d.chan ch).running = [{ g with start := s.clock.time }] ∧
          (d.chan ch).queue = [] ∧ d.parts = s.dev.parts) ∧
        ((s.dev.share (ch / 16) p).grant ≤ (s.dev.share (ch / 16) p).held ∨
          (s.dev.arb (ch / 16)).effective ≤ s.dev.heldTokens (ch / 16) → ∃ d,
          exec (.commandGroupStart ch eng ⟨cmds, serves⟩ none) s = Becomes s d ∧ (d.chan ch).running = [] ∧ (d.chan ch).queue = [g] ∧
          d.parts = s.dev.parts))) ∧
    (∀ eng g oldest, x.running = [g] → g.eng = eng → g.next = g.cmds.length → exec (.commandGroupEnd ch eng oldest) s =
      let e := (((s.dev.modChan ch fun y => y.waits oldest).endGroup ch eng).startGroups s.clock.time ch false).modChan ch Channel.turn
      Becomes s ((Dev.runTiles s.clock (Dev.endServed s.clock) g.part (e.tileFuel g.part) e).invDone (Dev.endServed s.clock) g.part)) ∧
    (∀ eng g, x.running = [g] → g.eng = eng → g.entry = none → ((s.dev.endGroup ch eng).chan ch).running = []) ∧
    (s.dev.chanOwner ch = none →
      (x.mode = .toMemory → x.queue = [] → ∀ oldest, exec (.channelModeSwitchComplete ch oldest) s = Becomes s (s.dev.modChan ch fun y =>
        { y with mode := .memory, oldest := oldest, closed := false, memSince := s.clock.time, windowEnd := none })) ∧
      (x.mode = .toProcessor → ∀ oldest, exec (.channelModeSwitchComplete ch oldest) s = Becomes s
        ((((s.dev.modChan ch fun y => ({ y with mode := .processor } : Channel).waits oldest).startGroups s.clock.time ch true).modChan ch
          Channel.turn).modChan ch Channel.turn))) ∧
    (∀ p pos oldest,
      let e := s.dev.switchDone s.clock.time ch oldest
      e.chanOwner ch = some (p, pos) → exec (.channelModeSwitchComplete ch oldest) s =
        Becomes s (((Dev.runTiles s.clock (Dev.endServed s.clock) p (e.tileFuel p) e).invDone
          (Dev.endServed s.clock) p).modChan ch Channel.turn)) ∧
    (∀ t, x.windowEnd = some t → x.mode = .memory → x.queue ≠ [] → ∃ d, exec (.memoryWindowExpiry ch) s = BecomesAt s t d ∧
      d.chan ch = { x with windowEnd := none, closed := true, oldest := none, mode := .toProcessor }) ∧
    (∃ d, exec .rebalancingPoint s = BecomesAt s s.dev.nextPoint d ∧
      d.nextPoint = ((s.clock.reach s.dev.nextPoint).time / 20000 + 1) * 20000 ∧
      ∀ k, k < 20 → k < s.dev.arbiters.length → (d.arb k).effective = max 16 (min (s.dev.arb k).set (s.dev.arb k).cap))

/-- Units that fail (R77, R99, R132, R144, R420, R457, R461, R463): a tile site, a traverse engine, a context-pool bank, a screen unit, a
flash-read engine or a fabric lane that fails is retired, and its generation is raised, up to its largest value; a mesh link that
fails changes timing alone. -/
def Obligations.FailedUnitsRetire : Prop :=
  ∀ (s : State) (k i n : Nat) (f : Nat → Instr),
    (k = 1 ∧ n = 160 ∧ f = .tileFailure ∨ k = 2 ∧ n = 264 ∧ f = .traverseEngineFailure ∨ k = 3 ∧ n = 32 ∧ f = .contextPoolBankFailure ∨
     k = 4 ∧ n = 32 ∧ f = .screenUnitFailure ∨ k = 10 ∧ n = 64 ∧ f = .ashlarEngineFailure ∨ k = 11 ∧ n = 32 ∧ f = .fabricLaneFailure) →
    i < n → s.dev.units.isRetired k i = false →
    (∃ d, exec (f i) s = Becomes s d ∧ d.units.isRetired k i = true ∧ d.units.gen k i = min 0xFFFF (s.dev.units.gen k i + 1)) ∧
    exec (.meshLinkFailure i) s = Becomes s s.dev

/-- Losses of memory (R208, R210, R220, R259 to R263, R457): a lost stack takes every channel of it, a lost channel is out of use; a
bank engine's first failure brings in its channel's spare and raises the engine's generation, its second loses the channel; a load
that is done frees its operation and is reported, and a map scan that is done gives back the lost map entries; a line of the partition range or of a neighbour list that a patrol scrub finds bad is poisoned and recorded. -/
def Obligations.MemoryIsLost : Prop :=
  ∀ s : State, s.dev.channels.length = 320 →
    (∀ st, st < 20 → s.dev.units.isRetired 5 st = false → ∃ d, exec (.stackLost st) s = Becomes s d ∧ d.units.isRetired 5 st = true ∧
      ∀ m, m < 16 → (d.chan (16 * st + m)).lost = true) ∧
    (∀ ch, ch < 320 → (s.dev.chan ch).lost = false →
      (∃ d, exec (.channelLost ch) s = Becomes s d ∧ (d.chan ch).lost = true) ∧
      (∀ g, g < 8 → (s.dev.chan ch).spareUsed = true → ∃ d, exec (.bankEngineFailure ch g) s = Becomes s d ∧ (d.chan ch).lost = true) ∧
      (∀ g, g < 8 → (s.dev.chan ch).spareUsed = false → ∃ d, exec (.bankEngineFailure ch g) s = Becomes s d ∧ (d.chan ch).spareUsed = true ∧
        (d.chan ch).lost = false ∧ d.units.gen 7 (8 * ch + g) = min 0xFFFF (s.dev.units.gen 7 (8 * ch + g) + 1) ∧
        ((d.chan ch).running.any fun r => r.eng == g) = false)) ∧
    (∀ p o stack mask mib channel, (s.dev.part p).ops.find? (fun o => o.opcode == opRemat && o.state == 1) = some o →
      o.work = .remat stack mask mib channel →
      let o' : LongOp := { o with done := mib }
      exec (.rematerialisationComplete p) s = Becomes s
        (((((s.dev.modPart p fun x => x.modOp o fun _ => o').opEnd s.clock p o' ⟨statusSUCCESS, 0, 0, 0⟩).postEvent s.clock p 3
          (tierBytes 1 stack mask 0 mib s.clock.time s.clock.timeLost))).record s.clock 0x0204 (if channel.isSome then 6 else 5) (channel.getD stack)
          (some p) mib ((s.clock.time - o.started) / 1000) 0)) ∧
    exec .mapScanComplete s = Becomes s
      { s.dev with power := { s.dev.power with scanPending := false }, flash := { s.dev.flash with entriesLost := [] } } ∧
    (∀ stack p line o, p < 64 → (s.dev.part p).objs.find? (fun o => o.kind != .stored && decide (o.first * windowBytes ≤ 64 * line) &&
        decide (64 * line < o.first * windowBytes + o.size)) = some o → (s.dev.part p).mem.poison.contains line = false →
      let ch := (s.dev.part p).chanOf ((s.dev.part p).posOfByte o (64 * line))
      ch / 16 = stack → exec (.patrolScrub stack [8 * p + 512 * line]) s = Becomes s
        (((s.dev.modPart p fun y => { y with mem := { y.mem with poison := line :: y.mem.poison } }).record s.clock 0x0201 6 ch (some p)
          (Config.freeNat s.dev.free 0) 0 0).fresh)) ∧
    (∀ stack p idx slot i n, p < 64 → idx < 16 → (s.dev.part p).index? idx = some i → i.graph.node? slot = some n →
      let ch := (s.dev.part p).chanOf (slot / 512 % max 1 (8 * (s.dev.part p).life.chans.length) / 8)
      ch / 16 = stack → exec (.patrolScrub stack [2 + 8 * p + 512 * (idx + 16 * slot)]) s = Becomes s
        (((s.dev.modIndex p idx fun i => i.modGraph fun g => g.modNode slot fun n => { n with listPoison := true }).record s.clock 0x0201 6 ch
          (some p) (Config.freeNat s.dev.free 0) 0 0).fresh))

/-- Flash events (R128, R265, R271, R283 to R286, R293, R296 to R298): an open stripe is closed at 2 ms, and a closed one becomes
durable; a side that runs short of free pages, whose next victim has lost a member of its stripes, or that has worn unevenly, relocates
that victim once its stale packs are dropped, in the background when the side has been idle for 5 ms; relocations complete; an image
rewrite drops the applied records and the structure records of its index, and the record packs that then hold no live record; a retired block, a lost channel and a lost storage die stay out of use, and the
second storage die lost is fatal; the hold-up store's energy sets the unflushed limit; a temperature change trains the die again. -/
def Obligations.FlashEventsHappen : Prop :=
  ∀ s : State,
    let f := s.dev.flash
    (∀ id k, f.stripes.find? (fun k => k.id == id && k.isOpen) = some k →
      exec (.stripeCloseTimeout id) s = BecomesAt s (k.openedAt + 2000000) { s.dev with flash := f.closeStripe id }) ∧
    (∀ id, f.stripes.any (fun k => k.id == id && !k.isOpen && !k.durable) = true →
      exec (.stripeDurable id) s = Becomes s { s.dev with flash := f.stripeDone id }) ∧
    (∀ p side v, side < 2 →
      let d := s.dev.dropStale p
      let g := d.flash
      let t := f.idleAt p side
      g.lost side = false → g.grooming p side = false → g.victim p side = some v →
      let free := g.freePerMille p side (if side = 0 then (s.dev.part p).cfg.flash0 else (s.dev.part p).cfg.flash1)
      (free < (s.dev.part p).feat.highWater ∨ g.hurt.contains v.id = true →
        exec (.groomerBackground p side) s = BecomesAt s t (d.relocate (s.clock.reach t) p v true)) ∧
      (free < (s.dev.part p).feat.lowWater ∨ g.hurt.contains v.id = true →
        exec (.groomerForeground p side) s = Becomes s (d.relocate s.clock p v false))) ∧
    (∀ p side v,
      let d := s.dev.dropStale p
      let g := d.flash
      let t := f.idleAt p side
      g.grooming p side = false →
      g.supers.filter (fun k => k.part == p && k.side == side &&
        decide (k.erases + 200 ≤ g.supers.foldl (fun (m : Nat) (k : Super) => if k.side = side then max m k.erases else m) 0) &&
        !(g.pages.any fun q => q.super == k.id && q.buffered)) = [v] →
      exec (.wearLevelling p side) s = BecomesAt s t (d.relocate (s.clock.reach t) p v true)) ∧
    (∀ i, exec (.relocationComplete i) s = Becomes s { s.dev with flash := f.relocDone s.clock.time i }) ∧
    (∀ p idx i, p < s.dev.parts.length → (s.dev.part p).index? idx = some i →
      ∃ d, exec (.imageSegmentRewrite p idx) s = Becomes s d ∧
        d.part p = ({ s.dev.part p with journal := { (s.dev.part p).journal with
          recs := (s.dev.part p).journal.recs.filter fun j => !(j.applied && j.index == idx),
          structs := (s.dev.part p).journal.structs.filter fun t => t.1 != idx,
          dirty := (s.dev.part p).journal.dirty.filter fun t => t.1 != idx } } : Part).modIndex idx fun i => { i with lag := 0 }) ∧
    (∀ p idx, exec (.imageSegmentRewrite p idx) s = Becomes s ((s.dev.rewriteImage s.clock p idx).dropStale p)) ∧
    (∀ ch die block, ch < 64 → die < f.geom.dies → f.badBlocks.contains (ch, die, block) = false →
      ∃ d, exec (.nandBlockFailure ch die block) s = Becomes s d ∧ d.flash.badBlocks = (ch, die, block) :: f.badBlocks) ∧
    (∀ n, n < 64 → f.lostCh.contains n = false → exec (.flashChannelLost n) s = Becomes s
      (({ s.dev with flash := s.dev.withoutChannel n, units := s.dev.units.retire 8 n } : Dev).record s.clock 0x0207 8 n none
        f.geom.dies 0 0)) ∧
    (∀ n, n < 2 → f.lost n = false →
      (f.lost (1 - n) = false → ∃ d, exec (.storageDieLost n) s = Becomes s d ∧ d.flash.lost n = true ∧ d.flash.lost (1 - n) = false ∧
        d.units.isRetired 13 (21 + n) = true) ∧
      (f.lost (1 - n) = true → s.dev.power.mode ≠ .fatal → ∃ d, exec (.storageDieLost n) s = Becomes s d ∧ d.power.mode = .fatal)) ∧
    (∀ j, 0 < unflushedLimit j → ∃ d, exec (.holdupMeasurement j) s = Becomes s d ∧ d.mgmt.unflushedLimit = unflushedLimit j ∧
      d.mgmt.holdupJ = j ∧ d.power.holdupAt = s.clock.opTime ∧ d.flash = f) ∧
    (∀ temp : Int,
      (100 ≤ (temp - f.temp0).natAbs → exec (.flashTrainingTemperatureDrift 0 temp) s =
        Becomes s { s.dev with flash := { f with temp0 := temp, trainings := f.trainings + 1,
                                                  rates := (indexed f.rates).map fun e => if e.1 / 32 = 0 then f.rateOf e.1 else e.2 } }) ∧
      (100 ≤ (temp - f.temp1).natAbs → exec (.flashTrainingTemperatureDrift 1 temp) s =
        Becomes s { s.dev with flash := { f with temp1 := temp, trainings := f.trainings + 1,
                                                  rates := (indexed f.rates).map fun e => if e.1 / 32 = 1 then f.rateOf e.1 else e.2 } }))

/-- Keepers, the recorder and the fatal state (R459, R462, R470, R474, R475, R477, R505 to R507): a failover and a handover make the
standby active; a window and a freeze end at their times; a stale speaker's packet is counted, and has no effect but its record and the replay of what it alone carried; a
link die that fails takes its lanes and its host port; a fatal event fences every partition, zeroises every key, and stops all but
the keepers; in that state another changes nothing. -/
def Obligations.KeepersAndFatalEvents : Prop :=
  ∀ s : State,
    let a := s.dev.recorder.active
    (a ≤ 1 → (s.dev.recorder.keeper (1 - a)).present = true → ∃ d, exec .keeperFailover s = Becomes s d ∧ d.recorder.active = 1 - a ∧
      (d.recorder.keeper a).present = false) ∧
    (s.dev.fw.keeperChanged = true → (s.dev.recorder.keeper (1 - a)).present = true → exec .keeperHandover s = Becomes s
      { s.dev with recorder := { s.dev.recorder with active := 1 - a }, fw := { s.dev.fw with keeperChanged := false } }) ∧
    exec .keeperLinkFailure s = Becomes s { s.dev with power := { s.dev.power with keeperLinkOk := false } } ∧
    (∀ i w, s.dev.recorder.windows[i]? = some w → exec (.coalesceWindowClose i) s = BecomesAt s w.closes
      (({ s.dev with recorder := { s.dev.recorder with windows := s.dev.recorder.windows.eraseIdx i } } : Dev).assignRecord
        (s.clock.reach w.closes) { w.first with d2 := w.count })) ∧
    (∀ t, s.dev.recorder.frozen = some t → exec .recorderFreezeTimeout s =
      BecomesAt s (t + 10000000000) (s.dev.thaw (s.clock.reach (t + 10000000000)))) ∧
    (∀ (u : UnitId) gen, kindHasGen u.kind = true → gen ≠ s.dev.units.gen u.kind u.num → ∃ d, exec (.staleSpeaker u gen) s = Becomes s d ∧
      d.units.stale = modAt (fun n => min (n + 1) 0xFFFFFFFF) u.kind s.dev.units.stale ∧ (∀ p, (d.part p).mem = (s.dev.part p).mem) ∧
      d.flash = s.dev.flash ∧ ((∀ p, (s.dev.part p).admittedReqs p = []) →
        d.parts = s.dev.parts ∧ d.channels = s.dev.channels ∧ d.tiles = s.dev.tiles)) ∧
    (∀ n, n < 2 → n < s.dev.power.hostLink.length → s.dev.units.isRetired 13 (23 + n) = false → s.dev.units.isRetired 13 (24 - n) = false →
      ∃ d, exec (.linkDieFailure n) s = Becomes s d ∧ d.units.isRetired 13 (23 + n) = true ∧ d.power.hostLink.getD n true = false ∧
        ∀ i, i < 16 → d.units.isRetired 11 (16 * n + i) = true) ∧
    (∀ cause u, s.dev.power.mode ≠ .fatal → s.dev.parts.length = 64 → ∃ d, exec (.moduleFatal cause u) s = Becomes s d ∧
      d.power.mode = .fatal ∧ d.mgmt.stage = 0 ∧ d.recorder.fatal = true ∧ d.recorder.frozen = none ∧
      ∀ p, p < 64 → ((s.dev.part p).life.reset = none → (d.part p).life.st = .fenced) ∧ (d.part p).keys.owner = none ∧ (d.part p).keys.media = none ∧
        (d.part p).keys.transport = none) ∧
    (∀ cause u, s.dev.power.mode = .fatal → exec (.moduleFatal cause u) s = Becomes s s.dev)

/-- Partition resets (R392 to R396): a trigger in a started partition holds it with its reset running, remembers the time, and
marks it to stay fenced at the third within 10 s; when the reset is complete, it is started again, or is fenced. -/
def Obligations.PartitionResets : Prop :=
  ∀ (s : State) (p : Nat), p < s.dev.parts.length →
    let x := s.dev.part p
    let recent := s.clock.time :: x.life.resets.filter fun t => decide (s.clock.time < t + 10000000000)
    (x.life.st = .started → x.life.reset = none → ∀ (f : Nat → Instr) (trigger : Nat),
      (f = .controlFirmwareHang ∧ trigger = 1 ∨ f = .eccStorm ∧ trigger = 2 ∨ f = .runawayProgram ∧ trigger = 3) →
      ∃ d, exec (f p) s = Becomes s d ∧ (d.part p).life.st = .fenced ∧ (d.part p).life.resets = recent ∧
        (d.part p).life.reset = some ⟨s.clock.time, trigger, decide (3 ≤ recent.length), 0, false⟩ ∧ (d.part p).keys = x.keys) ∧
    (∀ r, x.life.reset = some r → r.after = 0 →
      (r.stayFenced = false → ∃ d, exec (.partitionResetComplete p []) s = Becomes s d ∧ (d.part p).life.st = .started ∧
        (d.part p).life.reset = none) ∧
      (r.stayFenced = true → x.life.st = .fenced → ∃ d, exec (.partitionResetComplete p []) s = Becomes s d ∧
        (d.part p).life.st = .fenced ∧ (d.part p).life.reset = none))

/-- Supplies (R294, R406, R430, R480, R503, R509 to R512): with the auxiliary input there, the 48 V input starts a bring-up from stage 1
and counts a power cycle; its loss drops every key and leaves the module off; the loss of the auxiliary input changes nothing
else while the module runs, and without the 48 V input the keepers lose their count; a carrier that loses its supply or is removed
loses its storage die. -/
def Obligations.SuppliesComeAndGo : Prop :=
  ∀ s : State,
    let x := s.dev.power
    (x.inputOk = false → x.auxOk = true → x.mode = .off → ∃ c d, exec .powerOn s = .next { s with clock := c, dev := d } ∧
      d.power.mode = .bringup 1 ∧ d.power.warm = false ∧ d.power.inputOk = true ∧ c.powered = true ∧
      c.powerCycles = s.clock.powerCycles + 1 ∧ (x.kept = true → c.time = s.clock.time) ∧
      (x.kept = false → c.time = x.floor + 1000000000)) ∧
    (x.inputOk = true → x.mode ≠ .fatal → x.auxOk = true → s.dev.parts.length = 64 →
      (∃ c d, exec .lowerLimitTrip s = .next { s with clock := c, dev := d } ∧ d.power.mode = .off ∧ d.power.inputOk = false ∧
        c.powered = false ∧ d.mgmt.stage = 0 ∧ ∀ p, p < 64 → (d.part p).keys.owner = none ∧ (d.part p).keys.media = none) ∧
      (x.mode = .sleep → ∃ c d, exec .inputLostInSleep s = .next { s with clock := c, dev := d } ∧ d.power.mode = .off ∧
        d.power.inputOk = false ∧ c.powered = false)) ∧
    (x.inputOk = true → x.mode ≠ .off → exec .auxInputLost s = Becomes s { s.dev with power := { x with auxOk := false } }) ∧
    (x.inputOk = false → ∃ c d, exec .auxInputLost s = .next { s with clock := c, dev := d } ∧ d.power.kept = false ∧
      c.everLocked = false ∧ c.timeLost = true ∧ d.power.auxOk = false) ∧
    (x.auxOk = false → x.inputOk = true → x.mode = .off → ∃ c d, exec .auxInputRestored s = .next { s with clock := c, dev := d } ∧
      d.power.mode = .bringup 1 ∧ d.power.auxOk = true ∧ c.powered = true) ∧
    (∀ side, side < 2 → s.dev.flash.lost side = false → s.dev.flash.lost (1 - side) = false →
      (∃ d, exec (.carrierSupplyFault side) s = Becomes s d ∧ d.flash.lost side = true ∧ side ∈ d.flash.nandOff) ∧
      (∃ d, exec (.carrierRemoved side) s = Becomes s d ∧ d.flash.lost side = true ∧ side ∈ d.flash.nandOff))

/-- Resets, sleep and bring-up (R480 to R484, R488, R498 to R502, R518): a MODULE_RESET message of a running module is answered, and
starts a bring-up, warm when the message asks for it; SLEEP puts a module that may sleep to sleep with its wake sources, and WAKE,
the wake time and an enabled lane's pattern bring it up 40 ms later, its checks passing (the model's
choice, log 46); the reset input prepares the reset, takes it when it is
released, and holds the module cold when it stays; a bring-up stage that passes starts the next one, the ninth ends it, and one
that fails stops it. -/
def Obligations.ResetsSleepAndBringup : Prop :=
  ∀ s : State,
    let x := s.dev.power
    (∀ m, fmLayout 0x20 m = true → m.length = 32 → fld m 16 1 ≤ 1 → zeroAt m 17 15 = true → x.mode = .up →
      ∃ c d, exec (.moduleReset true m) s = .next { s with clock := c, dev := d } ∧ d.power.mode = .bringup 1 ∧
        d.power.warm = (fld m 16 1 == 0) ∧ c.time = s.clock.time ∧ ∀ p, p < s.dev.parts.length → (d.part p).life.st = .closed) ∧
    (∀ m, fmLayout 0x21 m = true → m.length = 32 → zeroAt m 17 7 = true → wakeSourcesOk (fld m 16 1) (fld m 24 8) = true →
      s.dev.maySleep = true → ∃ c d, exec (.sleep true m) s = .next { s with clock := c, dev := d } ∧ d.power.mode = .sleep ∧
        d.power.wakeSources = fld m 16 1 ∧ d.power.wakeAt = fld m 24 8 ∧ d.sleepN = false) ∧
    (x.mode = .sleep →
      (∀ m, fmLayout 0x22 m = true → m.length = 32 → zeroAt m 16 16 = true →
        ∃ c d, exec (.wake true m) s = .next { s with clock := c, dev := d } ∧ d.power.mode = .up ∧ c.time = s.clock.time + 40000000) ∧
      (0 < x.wakeAt → bitAt x.wakeSources 4 = true → ∃ c d, exec .wakeAtReached s = .next { s with clock := c, dev := d } ∧
        d.power.mode = .up ∧ c.time = max s.clock.time x.wakeAt + 40000000) ∧
      (bitAt x.wakeSources 1 = true → ∃ c d, exec (.fabricWakePattern 0) s = .next { s with clock := c, dev := d } ∧
        d.power.mode = .up ∧ c.time = s.clock.time + 40000000)) ∧
    (x.mode = .up → ∃ d, exec .moduleResetNAssert s = Becomes s d ∧ d.power.resetLow = true ∧ d.power.mode = .up ∧
      ∀ p, p < s.dev.parts.length → p < 64 → (d.part p).keys.owner = none ∧ (d.part p).keys.media = none) ∧
    (x.resetLow = true → x.mode = .up → ∃ c d, exec .moduleResetNRelease s = .next { s with clock := c, dev := d } ∧
      d.power.mode = .bringup 1 ∧ d.power.warm = true ∧ d.power.resetLow = false) ∧
    (x.resetLow = true → x.mode ≠ .held → ∃ c d, exec .moduleResetNColdHold s = .next { s with clock := c, dev := d } ∧
      d.power.mode = .held) ∧
    (∀ rep : StageReport, x.mode = .bringup rep.stage → 1 ≤ rep.stage → rep.stage ≤ 9 →
      (rep.stage = 9 → ∃ c d, exec (.bringupStage rep) s = .next { s with clock := c, dev := d } ∧ d.power.mode = .up ∧ d.mgmt.stage = 9) ∧
      (rep.stage < 9 → rep.ok = false → ∃ c d, exec (.bringupStage rep) s = .next { s with clock := c, dev := d } ∧ d.power.mode = .stopped) ∧
      (rep.stage < 9 → rep.ok = true → rep.stage ≠ 1 → rep.stage ≠ 2 → rep.stage ≠ 3 → rep.stage ≠ 5 → rep.stage ≠ 6 →
        ∃ c d, exec (.bringupStage rep) s = .next { s with clock := c, dev := d } ∧ d.power.mode = .bringup (rep.stage + 1) ∧
          d.mgmt.stage = rep.stage) ∧
      (rep.stage < 9 →
        (stageWork s.clock s.dev rep (x.warm && !(x.warm && decide (4 ≤ rep.stage) && decide (rep.stage ≤ 6) && rep.full))).2.2.1 = true →
        ∃ c d, exec (.bringupStage rep) s = .next { s with clock := c, dev := d } ∧ d.power.mode = .bringup (rep.stage + 1) ∧
          d.mgmt.stage = rep.stage))

/-- Pins, temperature and power (R218, R430, R516 to R518, R522 to R524): a host port's reset or lost clock takes its link down, and its
release trains it again; at 105 °C, or when the sensors say so, the module shuts down; between, the sample sets the thermal step that
its entry thresholds give at least; a power limit lowers every budget above the lowest,
to the lowest at once (the model's choice, log 44); a leak shows on its pin alone; the floor
takes the present time. -/
def Obligations.PinsAndThrottling : Prop :=
  ∀ s : State,
    let x := s.dev.power
    (∀ port, port < 2 → port < x.hostLink.length → port < x.perst.length →
      (∃ d, exec (.perstNAssert port) s = Becomes s d ∧ d.power.hostLink.getD port true = false ∧ d.power.perst.getD port false = true) ∧
      (s.dev.units.isRetired 13 (23 + port) = false → x.mode = .up → exec (.perstNRelease port) s = Becomes s { s.dev with power :=
        { x with perst := modAt (fun _ => false) port x.perst, hostLink := modAt (fun _ => true) port x.hostLink } }) ∧
      (x.perst.getD port true = true → ∃ d, exec (.refclkLoss port) s = Becomes s d ∧ d.power.hostLink.getD port true = false ∧
        d.power.refclk = modAt (fun _ => false) port x.refclk ∧ d.power.sris = modAt (fun _ => true) port x.sris)) ∧
    (∀ temp : Int, x.mode = .up →
      (1050 ≤ temp → ∃ c d, exec (.thermalSample temp) s = .next { s with clock := c, dev := d } ∧ d.power.mode = .shutdown ∧ d.thermN = false) ∧
      (temp < 1050 → ∃ d, exec (.thermalSample temp) s = Becomes s d ∧ d.power.temp = temp ∧
        (1020 ≤ temp → 3 ≤ d.power.thermalStep) ∧ (980 ≤ temp → 2 ≤ d.power.thermalStep) ∧ (940 ≤ temp → 1 ≤ d.power.thermalStep))) ∧
    (x.mode = .up → (∃ c d, exec .thermalShutdown s = .next { s with clock := c, dev := d } ∧ d.power.mode = .shutdown)) ∧
    (x.mode = .up → (∃ a ∈ s.dev.arbiters, 16 < a.effective) → ∃ d, exec .powerLimited s = Becomes s d ∧ d.power.powerCap = 16 ∧
      ∀ a ∈ d.arbiters, a.cap ≤ 16) ∧
    (x.mode = .shutdown → x.heldReset = false → exec .thermalShutdownExit s =
      Becomes s { s.dev with power := { x with temp := min x.temp 849 } }) ∧
    (∀ b, exec (.leakDetected b) s = Becomes s { s.dev with power := { x with leak := b } }) ∧
    exec .fabricTimeFloorWrite s = Becomes s
      { s.dev with power := { x with floor := s.clock.time, floorHour := s.clock.opTime / hourNs } }

/-- Firmware, test access and the management protocols (R408 to R411, R469, R495, R496, R519, R520): a staged image is given its
activation time, a whole multiple of 1 ms not before now; at that time it is active and the floor rises to its security version, or,
when a core does not resume, the old one stays and the slot is marked; the test port shifts a die's IDCODE out behind the TRST
selection; an SPDM request is answered; the event receiver is remembered. The instruction code of IDCODE and the bytes of the SPDM error
are the model's (logs 48 and 49). -/
def Obligations.FirmwareAndTestAccess : Prop :=
  ∀ s : State,
    let f := s.dev.fw
    (∀ r slot t q, f.staging = some (r, slot, t) → s.dev.req? r = some q →
      let a := roundUp (max t s.clock.time) 1000000
      let slots := modAt (fun (k : FwSlot) => { k with state := 3, activateAt := a }) slot f.slots
      exec .fwStagingComplete s = Ended s r (s.dev.modFw fun f => { f with staging := none, target := slot, slots := slots }) ⟨statusSUCCESS, 0, slot, a⟩) ∧
    (∀ slot k, f.scheduled = some (slot, k) →
      (∃ d, exec .fwActivation s = BecomesAt s k.activateAt d ∧ d.fw.active = slot ∧ d.fw.floor = max f.floor k.security ∧
        d.fw.keeperChanged = true) ∧
      (∃ c d, exec .fwActivationRollback s = .next { s with clock := c, dev := d } ∧ d.fw.active = f.active ∧ d.fw.floor = f.floor ∧
        d.fw.slots = modAt (fun (x : FwSlot) => { x with state := 6, activateAt := 0 }) slot f.slots ∧
        c.time = max s.clock.time k.activateAt + 4000000)) ∧
    exec (.testAccessPortCycle .trst) s = Becomes s { s.dev with power := { s.dev.power with tapIr := List.replicate 25 tapIDCODE } } ∧
    (∀ die bits, die < 25 → s.dev.tapActs die = tapIDCODE → exec (.testAccessPortCycle (.shiftDr die bits)) s = Becomes s
      (s.dev.emit (.tdo ((((List.range 32).map fun k => bitAt (idcode die) k) ++ bits).take bits.length))).fresh) ∧
    (s.dev.keepersAnswer = true →
      (∀ q, (∀ k, q.source ≠ .remoteOwner k) → exec (.spdmRequest q) s = Becomes s (s.dev.emit (.spdm (s.dev.spdmAnswer q)))) ∧
      (∀ q k, q.source = .remoteOwner k → pkType k = 4 →
        let w := s.dev.receive s.clock k false ((s.dev.part (pkPart k)).cfg.fromOwner k) false
        (w.2 = .accepted → exec (.spdmRequest q) s = Becomes s (w.1.answer s.clock k 4 3 (w.1.spdmAnswer q))) ∧
        (w.2 ≠ .accepted → exec (.spdmRequest q) s = Becomes s w.1)) ∧
      (∀ q : SpdmReq, q.code ∉ spdmSupported → s.dev.spdmAnswer q = le 1 0x12 ++ le 1 0x7F ++ le 1 7 ++ le 1 q.code) ∧
      (∀ eid tag, exec (.setEventReceiver eid tag) s =
        Becomes s { s.dev with power := { s.dev.power with receiver := some (eid, tag) } }))

/-- Epochs, batches and checkpoints (R111 to R113, R138, R255): at its tick a partition that is not closed begins the next epoch, when
fabric time has come to it; a reproducible partition applies the oldest batch whose epoch has ended; the checkpoint timer runs
CHECKPOINT_S seconds after the last checkpoint, or after the partition opened. -/
def Obligations.EpochsAndBatches : Prop :=
  ∀ (s : State) (p : Nat), p < s.dev.parts.length →
    let x := s.dev.part p
    (x.life.st ≠ .closed → x.vis.nextTick ≤ max s.clock.time (x.vis.tickDue s.clock.time) →
      ∃ d, exec (.epochTick p) s = BecomesAt s (x.vis.tickDue s.clock.time) d ∧ (d.part p).vis.cur = x.vis.cur + 1 ∧
        ∀ k, k ≠ p → d.part k = s.dev.part k) ∧
    (x.life.st = .closed → exec (.epochTick p) s = Becomes s s.dev) ∧
    (x.cfg.repro = true → x.life.st ≠ .closed → ∀ e l, sortBy id (x.batchEpochs p) = e :: l → e < x.vis.cur →
      exec (.reproducibleBatchApply p) s =
        let w := s.dev.batchRun s.clock p e
        Becomes s (if w.2 then w.1.batchCommit s.clock p e else w.1)) ∧
    (x.life.st = .started → 0 < x.feat.place.checkpointS → exec (.checkpointTimer p) s =
      let t := x.mem.ckptFrom + x.feat.place.checkpointS * 1000000000
      BecomesAt s t (s.dev.checkpoint (s.clock.reach t) p))

/-- After reset (R305, R310 to R315, R397, R419, R480): every partition is closed and holds no key, every ring set is idle, no request
is in flight and no command waits, STAGE reads 0 with the module still off (the model's choice, log 58), memory lists nothing, and the set-up registers that the
register maps give reset values read them; the invariant of the clock holds. -/
def Obligations.ResetState : Prop :=
  let d := State.reset.dev
  State.reset.pending = [] ∧ d.power.mode = .off ∧ d.mgmt.stage = 0 ∧ d.parts.length = 64 ∧
  (∀ p, p < 64 → (d.part p).life.st = .closed ∧ (d.part p).keys.owner = none ∧ (d.part p).keys.transport = none ∧
    (d.part p).regs.drainBound = 10 ∧ (d.part p).regs.eventEnable = 0x1F ∧ (d.part p).rings.length = 16) ∧
  (∀ p n, p < 64 → n < 16 → (d.ring (.part p n)).run.st = .idle ∧ (d.ring (.part p n)).inflight = [] ∧
    (d.ring (.part p n)).regs.modCount = 16 ∧ (d.ring (.part p n)).regs.modTime = 1000 ∧ (d.ring (.part p n)).regs.minPoll = 250 ∧
    (d.ring (.part p n)).regs.maxPoll = 100000) ∧
  (∀ a, a < 20 → (d.arb a).set = 64) ∧ ClockOk State.reset.clock
end

