-- ==== Sys2Proof/Laws/State.lean ====
section
/-! SUPPORT. One lemma per field per update of the device, and how the outcomes of commands read. -/

namespace Sys2Proof.Machine

open Sys2Proof

@[simp] theorem Dev.emit_parts (d : Dev) (o : Output) : (d.emit o).parts = d.parts := rfl
@[simp] theorem Dev.emit_mgmt (d : Dev) (o : Output) : (d.emit o).mgmt = d.mgmt := rfl
@[simp] theorem Dev.emit_comp (d : Dev) (o : Output) : (d.emit o).comp = d.comp := rfl
@[simp] theorem Dev.emit_flash (d : Dev) (o : Output) : (d.emit o).flash = d.flash := rfl
@[simp] theorem Dev.emit_channels (d : Dev) (o : Output) : (d.emit o).channels = d.channels := rfl
@[simp] theorem Dev.emit_modChans (d : Dev) (o : Output) : (d.emit o).modChans = d.modChans := rfl
@[simp] theorem Dev.emit_modSide1 (d : Dev) (o : Output) : (d.emit o).modSide1 = d.modSide1 := rfl
@[simp] theorem Dev.emit_reserve (d : Dev) (o : Output) : (d.emit o).reserve = d.reserve := rfl
@[simp] theorem Dev.emit_arbiters (d : Dev) (o : Output) : (d.emit o).arbiters = d.arbiters := rfl
@[simp] theorem Dev.emit_nextPoint (d : Dev) (o : Output) : (d.emit o).nextPoint = d.nextPoint := rfl
@[simp] theorem Dev.emit_tiles (d : Dev) (o : Output) : (d.emit o).tiles = d.tiles := rfl
@[simp] theorem Dev.emit_recorder (d : Dev) (o : Output) : (d.emit o).recorder = d.recorder := rfl
@[simp] theorem Dev.emit_units (d : Dev) (o : Output) : (d.emit o).units = d.units := rfl
@[simp] theorem Dev.emit_fabric (d : Dev) (o : Output) : (d.emit o).fabric = d.fabric := rfl
@[simp] theorem Dev.emit_power (d : Dev) (o : Output) : (d.emit o).power = d.power := rfl
@[simp] theorem Dev.emit_fw (d : Dev) (o : Output) : (d.emit o).fw = d.fw := rfl
@[simp] theorem Dev.emit_latches (d : Dev) (o : Output) : (d.emit o).latches = d.latches := rfl
@[simp] theorem Dev.emit_free (d : Dev) (o : Output) : (d.emit o).free = d.free := rfl

@[simp] theorem Dev.fresh_parts (d : Dev) : (d.fresh).parts = d.parts := rfl
@[simp] theorem Dev.fresh_mgmt (d : Dev) : (d.fresh).mgmt = d.mgmt := rfl
@[simp] theorem Dev.fresh_comp (d : Dev) : (d.fresh).comp = d.comp := rfl
@[simp] theorem Dev.fresh_flash (d : Dev) : (d.fresh).flash = d.flash := rfl
@[simp] theorem Dev.fresh_channels (d : Dev) : (d.fresh).channels = d.channels := rfl
@[simp] theorem Dev.fresh_modChans (d : Dev) : (d.fresh).modChans = d.modChans := rfl
@[simp] theorem Dev.fresh_modSide1 (d : Dev) : (d.fresh).modSide1 = d.modSide1 := rfl
@[simp] theorem Dev.fresh_reserve (d : Dev) : (d.fresh).reserve = d.reserve := rfl
@[simp] theorem Dev.fresh_arbiters (d : Dev) : (d.fresh).arbiters = d.arbiters := rfl
@[simp] theorem Dev.fresh_nextPoint (d : Dev) : (d.fresh).nextPoint = d.nextPoint := rfl
@[simp] theorem Dev.fresh_tiles (d : Dev) : (d.fresh).tiles = d.tiles := rfl
@[simp] theorem Dev.fresh_recorder (d : Dev) : (d.fresh).recorder = d.recorder := rfl
@[simp] theorem Dev.fresh_units (d : Dev) : (d.fresh).units = d.units := rfl
@[simp] theorem Dev.fresh_fabric (d : Dev) : (d.fresh).fabric = d.fabric := rfl
@[simp] theorem Dev.fresh_power (d : Dev) : (d.fresh).power = d.power := rfl
@[simp] theorem Dev.fresh_fw (d : Dev) : (d.fresh).fw = d.fw := rfl
@[simp] theorem Dev.fresh_latches (d : Dev) : (d.fresh).latches = d.latches := rfl
@[simp] theorem Dev.fresh_out (d : Dev) : (d.fresh).out = d.out := rfl

@[simp] theorem Dev.modPart_mgmt (d : Dev) (p : Nat) (f : Part → Part) : (d.modPart p f).mgmt = d.mgmt := rfl
@[simp] theorem Dev.modPart_comp (d : Dev) (p : Nat) (f : Part → Part) : (d.modPart p f).comp = d.comp := rfl
@[simp] theorem Dev.modPart_flash (d : Dev) (p : Nat) (f : Part → Part) : (d.modPart p f).flash = d.flash := rfl
@[simp] theorem Dev.modPart_channels (d : Dev) (p : Nat) (f : Part → Part) : (d.modPart p f).channels = d.channels := rfl
@[simp] theorem Dev.modPart_modChans (d : Dev) (p : Nat) (f : Part → Part) : (d.modPart p f).modChans = d.modChans := rfl
@[simp] theorem Dev.modPart_modSide1 (d : Dev) (p : Nat) (f : Part → Part) : (d.modPart p f).modSide1 = d.modSide1 := rfl
@[simp] theorem Dev.modPart_reserve (d : Dev) (p : Nat) (f : Part → Part) : (d.modPart p f).reserve = d.reserve := rfl
@[simp] theorem Dev.modPart_arbiters (d : Dev) (p : Nat) (f : Part → Part) : (d.modPart p f).arbiters = d.arbiters := rfl
@[simp] theorem Dev.modPart_nextPoint (d : Dev) (p : Nat) (f : Part → Part) : (d.modPart p f).nextPoint = d.nextPoint := rfl
@[simp] theorem Dev.modPart_tiles (d : Dev) (p : Nat) (f : Part → Part) : (d.modPart p f).tiles = d.tiles := rfl
@[simp] theorem Dev.modPart_recorder (d : Dev) (p : Nat) (f : Part → Part) : (d.modPart p f).recorder = d.recorder := rfl
@[simp] theorem Dev.modPart_units (d : Dev) (p : Nat) (f : Part → Part) : (d.modPart p f).units = d.units := rfl
@[simp] theorem Dev.modPart_fabric (d : Dev) (p : Nat) (f : Part → Part) : (d.modPart p f).fabric = d.fabric := rfl
@[simp] theorem Dev.modPart_power (d : Dev) (p : Nat) (f : Part → Part) : (d.modPart p f).power = d.power := rfl
@[simp] theorem Dev.modPart_fw (d : Dev) (p : Nat) (f : Part → Part) : (d.modPart p f).fw = d.fw := rfl
@[simp] theorem Dev.modPart_latches (d : Dev) (p : Nat) (f : Part → Part) : (d.modPart p f).latches = d.latches := rfl
@[simp] theorem Dev.modPart_free (d : Dev) (p : Nat) (f : Part → Part) : (d.modPart p f).free = d.free := rfl
@[simp] theorem Dev.modPart_out (d : Dev) (p : Nat) (f : Part → Part) : (d.modPart p f).out = d.out := rfl

@[simp] theorem Dev.modFabric_parts (d : Dev) (f : Fabric → Fabric) : (d.modFabric f).parts = d.parts := rfl
@[simp] theorem Dev.modFabric_mgmt (d : Dev) (f : Fabric → Fabric) : (d.modFabric f).mgmt = d.mgmt := rfl
@[simp] theorem Dev.modFabric_comp (d : Dev) (f : Fabric → Fabric) : (d.modFabric f).comp = d.comp := rfl
@[simp] theorem Dev.modFabric_flash (d : Dev) (f : Fabric → Fabric) : (d.modFabric f).flash = d.flash := rfl
@[simp] theorem Dev.modFabric_channels (d : Dev) (f : Fabric → Fabric) : (d.modFabric f).channels = d.channels := rfl
@[simp] theorem Dev.modFabric_modChans (d : Dev) (f : Fabric → Fabric) : (d.modFabric f).modChans = d.modChans := rfl
@[simp] theorem Dev.modFabric_modSide1 (d : Dev) (f : Fabric → Fabric) : (d.modFabric f).modSide1 = d.modSide1 := rfl
@[simp] theorem Dev.modFabric_reserve (d : Dev) (f : Fabric → Fabric) : (d.modFabric f).reserve = d.reserve := rfl
@[simp] theorem Dev.modFabric_arbiters (d : Dev) (f : Fabric → Fabric) : (d.modFabric f).arbiters = d.arbiters := rfl
@[simp] theorem Dev.modFabric_nextPoint (d : Dev) (f : Fabric → Fabric) : (d.modFabric f).nextPoint = d.nextPoint := rfl
@[simp] theorem Dev.modFabric_tiles (d : Dev) (f : Fabric → Fabric) : (d.modFabric f).tiles = d.tiles := rfl
@[simp] theorem Dev.modFabric_recorder (d : Dev) (f : Fabric → Fabric) : (d.modFabric f).recorder = d.recorder := rfl
@[simp] theorem Dev.modFabric_units (d : Dev) (f : Fabric → Fabric) : (d.modFabric f).units = d.units := rfl
@[simp] theorem Dev.modFabric_power (d : Dev) (f : Fabric → Fabric) : (d.modFabric f).power = d.power := rfl
@[simp] theorem Dev.modFabric_fw (d : Dev) (f : Fabric → Fabric) : (d.modFabric f).fw = d.fw := rfl
@[simp] theorem Dev.modFabric_latches (d : Dev) (f : Fabric → Fabric) : (d.modFabric f).latches = d.latches := rfl
@[simp] theorem Dev.modFabric_free (d : Dev) (f : Fabric → Fabric) : (d.modFabric f).free = d.free := rfl
@[simp] theorem Dev.modFabric_out (d : Dev) (f : Fabric → Fabric) : (d.modFabric f).out = d.out := rfl

@[simp] theorem Dev.modPort_parts (d : Dev) (n : Nat) (f : Port → Port) : (d.modPort n f).parts = d.parts := rfl
@[simp] theorem Dev.modPort_mgmt (d : Dev) (n : Nat) (f : Port → Port) : (d.modPort n f).mgmt = d.mgmt := rfl
@[simp] theorem Dev.modPort_comp (d : Dev) (n : Nat) (f : Port → Port) : (d.modPort n f).comp = d.comp := rfl
@[simp] theorem Dev.modPort_flash (d : Dev) (n : Nat) (f : Port → Port) : (d.modPort n f).flash = d.flash := rfl
@[simp] theorem Dev.modPort_channels (d : Dev) (n : Nat) (f : Port → Port) : (d.modPort n f).channels = d.channels := rfl
@[simp] theorem Dev.modPort_modChans (d : Dev) (n : Nat) (f : Port → Port) : (d.modPort n f).modChans = d.modChans := rfl
@[simp] theorem Dev.modPort_modSide1 (d : Dev) (n : Nat) (f : Port → Port) : (d.modPort n f).modSide1 = d.modSide1 := rfl
@[simp] theorem Dev.modPort_reserve (d : Dev) (n : Nat) (f : Port → Port) : (d.modPort n f).reserve = d.reserve := rfl
@[simp] theorem Dev.modPort_arbiters (d : Dev) (n : Nat) (f : Port → Port) : (d.modPort n f).arbiters = d.arbiters := rfl
@[simp] theorem Dev.modPort_nextPoint (d : Dev) (n : Nat) (f : Port → Port) : (d.modPort n f).nextPoint = d.nextPoint := rfl
@[simp] theorem Dev.modPort_tiles (d : Dev) (n : Nat) (f : Port → Port) : (d.modPort n f).tiles = d.tiles := rfl
@[simp] theorem Dev.modPort_recorder (d : Dev) (n : Nat) (f : Port → Port) : (d.modPort n f).recorder = d.recorder := rfl
@[simp] theorem Dev.modPort_units (d : Dev) (n : Nat) (f : Port → Port) : (d.modPort n f).units = d.units := rfl
@[simp] theorem Dev.modPort_power (d : Dev) (n : Nat) (f : Port → Port) : (d.modPort n f).power = d.power := rfl
@[simp] theorem Dev.modPort_fw (d : Dev) (n : Nat) (f : Port → Port) : (d.modPort n f).fw = d.fw := rfl
@[simp] theorem Dev.modPort_latches (d : Dev) (n : Nat) (f : Port → Port) : (d.modPort n f).latches = d.latches := rfl
@[simp] theorem Dev.modPort_free (d : Dev) (n : Nat) (f : Port → Port) : (d.modPort n f).free = d.free := rfl
@[simp] theorem Dev.modPort_out (d : Dev) (n : Nat) (f : Port → Port) : (d.modPort n f).out = d.out := rfl

@[simp] theorem Dev.modTransport_parts (d : Dev) (p : Nat) (f : TransportPart → TransportPart) : (d.modTransport p f).parts = d.parts := rfl
@[simp] theorem Dev.modTransport_mgmt (d : Dev) (p : Nat) (f : TransportPart → TransportPart) : (d.modTransport p f).mgmt = d.mgmt := rfl
@[simp] theorem Dev.modTransport_comp (d : Dev) (p : Nat) (f : TransportPart → TransportPart) : (d.modTransport p f).comp = d.comp := rfl
@[simp] theorem Dev.modTransport_flash (d : Dev) (p : Nat) (f : TransportPart → TransportPart) : (d.modTransport p f).flash = d.flash := rfl
@[simp] theorem Dev.modTransport_channels (d : Dev) (p : Nat) (f : TransportPart → TransportPart) : (d.modTransport p f).channels = d.channels := rfl
@[simp] theorem Dev.modTransport_modChans (d : Dev) (p : Nat) (f : TransportPart → TransportPart) : (d.modTransport p f).modChans = d.modChans := rfl
@[simp] theorem Dev.modTransport_modSide1 (d : Dev) (p : Nat) (f : TransportPart → TransportPart) : (d.modTransport p f).modSide1 = d.modSide1 := rfl
@[simp] theorem Dev.modTransport_reserve (d : Dev) (p : Nat) (f : TransportPart → TransportPart) : (d.modTransport p f).reserve = d.reserve := rfl
@[simp] theorem Dev.modTransport_arbiters (d : Dev) (p : Nat) (f : TransportPart → TransportPart) : (d.modTransport p f).arbiters = d.arbiters := rfl
@[simp] theorem Dev.modTransport_nextPoint (d : Dev) (p : Nat) (f : TransportPart → TransportPart) : (d.modTransport p f).nextPoint = d.nextPoint := rfl
@[simp] theorem Dev.modTransport_tiles (d : Dev) (p : Nat) (f : TransportPart → TransportPart) : (d.modTransport p f).tiles = d.tiles := rfl
@[simp] theorem Dev.modTransport_recorder (d : Dev) (p : Nat) (f : TransportPart → TransportPart) : (d.modTransport p f).recorder = d.recorder := rfl
@[simp] theorem Dev.modTransport_units (d : Dev) (p : Nat) (f : TransportPart → TransportPart) : (d.modTransport p f).units = d.units := rfl
@[simp] theorem Dev.modTransport_power (d : Dev) (p : Nat) (f : TransportPart → TransportPart) : (d.modTransport p f).power = d.power := rfl
@[simp] theorem Dev.modTransport_fw (d : Dev) (p : Nat) (f : TransportPart → TransportPart) : (d.modTransport p f).fw = d.fw := rfl
@[simp] theorem Dev.modTransport_latches (d : Dev) (p : Nat) (f : TransportPart → TransportPart) : (d.modTransport p f).latches = d.latches := rfl
@[simp] theorem Dev.modTransport_free (d : Dev) (p : Nat) (f : TransportPart → TransportPart) : (d.modTransport p f).free = d.free := rfl
@[simp] theorem Dev.modTransport_out (d : Dev) (p : Nat) (f : TransportPart → TransportPart) : (d.modTransport p f).out = d.out := rfl

@[simp] theorem Dev.modSub_parts (d : Dev) (n : Nat) (f : Subscriber → Subscriber) : (d.modSub n f).parts = d.parts := rfl
@[simp] theorem Dev.modSub_mgmt (d : Dev) (n : Nat) (f : Subscriber → Subscriber) : (d.modSub n f).mgmt = d.mgmt := rfl
@[simp] theorem Dev.modSub_comp (d : Dev) (n : Nat) (f : Subscriber → Subscriber) : (d.modSub n f).comp = d.comp := rfl
@[simp] theorem Dev.modSub_flash (d : Dev) (n : Nat) (f : Subscriber → Subscriber) : (d.modSub n f).flash = d.flash := rfl
@[simp] theorem Dev.modSub_channels (d : Dev) (n : Nat) (f : Subscriber → Subscriber) : (d.modSub n f).channels = d.channels := rfl
@[simp] theorem Dev.modSub_modChans (d : Dev) (n : Nat) (f : Subscriber → Subscriber) : (d.modSub n f).modChans = d.modChans := rfl
@[simp] theorem Dev.modSub_modSide1 (d : Dev) (n : Nat) (f : Subscriber → Subscriber) : (d.modSub n f).modSide1 = d.modSide1 := rfl
@[simp] theorem Dev.modSub_reserve (d : Dev) (n : Nat) (f : Subscriber → Subscriber) : (d.modSub n f).reserve = d.reserve := rfl
@[simp] theorem Dev.modSub_arbiters (d : Dev) (n : Nat) (f : Subscriber → Subscriber) : (d.modSub n f).arbiters = d.arbiters := rfl
@[simp] theorem Dev.modSub_nextPoint (d : Dev) (n : Nat) (f : Subscriber → Subscriber) : (d.modSub n f).nextPoint = d.nextPoint := rfl
@[simp] theorem Dev.modSub_tiles (d : Dev) (n : Nat) (f : Subscriber → Subscriber) : (d.modSub n f).tiles = d.tiles := rfl
@[simp] theorem Dev.modSub_recorder (d : Dev) (n : Nat) (f : Subscriber → Subscriber) : (d.modSub n f).recorder = d.recorder := rfl
@[simp] theorem Dev.modSub_units (d : Dev) (n : Nat) (f : Subscriber → Subscriber) : (d.modSub n f).units = d.units := rfl
@[simp] theorem Dev.modSub_power (d : Dev) (n : Nat) (f : Subscriber → Subscriber) : (d.modSub n f).power = d.power := rfl
@[simp] theorem Dev.modSub_fw (d : Dev) (n : Nat) (f : Subscriber → Subscriber) : (d.modSub n f).fw = d.fw := rfl
@[simp] theorem Dev.modSub_latches (d : Dev) (n : Nat) (f : Subscriber → Subscriber) : (d.modSub n f).latches = d.latches := rfl
@[simp] theorem Dev.modSub_free (d : Dev) (n : Nat) (f : Subscriber → Subscriber) : (d.modSub n f).free = d.free := rfl
@[simp] theorem Dev.modSub_out (d : Dev) (n : Nat) (f : Subscriber → Subscriber) : (d.modSub n f).out = d.out := rfl

@[simp] theorem Dev.modPower_parts (d : Dev) (f : Power → Power) : (d.modPower f).parts = d.parts := rfl
@[simp] theorem Dev.modPower_mgmt (d : Dev) (f : Power → Power) : (d.modPower f).mgmt = d.mgmt := rfl
@[simp] theorem Dev.modPower_comp (d : Dev) (f : Power → Power) : (d.modPower f).comp = d.comp := rfl
@[simp] theorem Dev.modPower_flash (d : Dev) (f : Power → Power) : (d.modPower f).flash = d.flash := rfl
@[simp] theorem Dev.modPower_channels (d : Dev) (f : Power → Power) : (d.modPower f).channels = d.channels := rfl
@[simp] theorem Dev.modPower_modChans (d : Dev) (f : Power → Power) : (d.modPower f).modChans = d.modChans := rfl
@[simp] theorem Dev.modPower_modSide1 (d : Dev) (f : Power → Power) : (d.modPower f).modSide1 = d.modSide1 := rfl
@[simp] theorem Dev.modPower_reserve (d : Dev) (f : Power → Power) : (d.modPower f).reserve = d.reserve := rfl
@[simp] theorem Dev.modPower_arbiters (d : Dev) (f : Power → Power) : (d.modPower f).arbiters = d.arbiters := rfl
@[simp] theorem Dev.modPower_nextPoint (d : Dev) (f : Power → Power) : (d.modPower f).nextPoint = d.nextPoint := rfl
@[simp] theorem Dev.modPower_tiles (d : Dev) (f : Power → Power) : (d.modPower f).tiles = d.tiles := rfl
@[simp] theorem Dev.modPower_recorder (d : Dev) (f : Power → Power) : (d.modPower f).recorder = d.recorder := rfl
@[simp] theorem Dev.modPower_units (d : Dev) (f : Power → Power) : (d.modPower f).units = d.units := rfl
@[simp] theorem Dev.modPower_fabric (d : Dev) (f : Power → Power) : (d.modPower f).fabric = d.fabric := rfl
@[simp] theorem Dev.modPower_fw (d : Dev) (f : Power → Power) : (d.modPower f).fw = d.fw := rfl
@[simp] theorem Dev.modPower_latches (d : Dev) (f : Power → Power) : (d.modPower f).latches = d.latches := rfl
@[simp] theorem Dev.modPower_free (d : Dev) (f : Power → Power) : (d.modPower f).free = d.free := rfl
@[simp] theorem Dev.modPower_out (d : Dev) (f : Power → Power) : (d.modPower f).out = d.out := rfl

@[simp] theorem Dev.modFw_parts (d : Dev) (f : Firmware → Firmware) : (d.modFw f).parts = d.parts := rfl
@[simp] theorem Dev.modFw_mgmt (d : Dev) (f : Firmware → Firmware) : (d.modFw f).mgmt = d.mgmt := rfl
@[simp] theorem Dev.modFw_comp (d : Dev) (f : Firmware → Firmware) : (d.modFw f).comp = d.comp := rfl
@[simp] theorem Dev.modFw_flash (d : Dev) (f : Firmware → Firmware) : (d.modFw f).flash = d.flash := rfl
@[simp] theorem Dev.modFw_channels (d : Dev) (f : Firmware → Firmware) : (d.modFw f).channels = d.channels := rfl
@[simp] theorem Dev.modFw_modChans (d : Dev) (f : Firmware → Firmware) : (d.modFw f).modChans = d.modChans := rfl
@[simp] theorem Dev.modFw_modSide1 (d : Dev) (f : Firmware → Firmware) : (d.modFw f).modSide1 = d.modSide1 := rfl
@[simp] theorem Dev.modFw_reserve (d : Dev) (f : Firmware → Firmware) : (d.modFw f).reserve = d.reserve := rfl
@[simp] theorem Dev.modFw_arbiters (d : Dev) (f : Firmware → Firmware) : (d.modFw f).arbiters = d.arbiters := rfl
@[simp] theorem Dev.modFw_nextPoint (d : Dev) (f : Firmware → Firmware) : (d.modFw f).nextPoint = d.nextPoint := rfl
@[simp] theorem Dev.modFw_tiles (d : Dev) (f : Firmware → Firmware) : (d.modFw f).tiles = d.tiles := rfl
@[simp] theorem Dev.modFw_recorder (d : Dev) (f : Firmware → Firmware) : (d.modFw f).recorder = d.recorder := rfl
@[simp] theorem Dev.modFw_units (d : Dev) (f : Firmware → Firmware) : (d.modFw f).units = d.units := rfl
@[simp] theorem Dev.modFw_fabric (d : Dev) (f : Firmware → Firmware) : (d.modFw f).fabric = d.fabric := rfl
@[simp] theorem Dev.modFw_power (d : Dev) (f : Firmware → Firmware) : (d.modFw f).power = d.power := rfl
@[simp] theorem Dev.modFw_latches (d : Dev) (f : Firmware → Firmware) : (d.modFw f).latches = d.latches := rfl
@[simp] theorem Dev.modFw_free (d : Dev) (f : Firmware → Firmware) : (d.modFw f).free = d.free := rfl
@[simp] theorem Dev.modFw_out (d : Dev) (f : Firmware → Firmware) : (d.modFw f).out = d.out := rfl

@[simp] theorem Dev.modTile_parts (d : Dev) (t : Nat) (f : Tile → Tile) : (d.modTile t f).parts = d.parts := rfl
@[simp] theorem Dev.modTile_mgmt (d : Dev) (t : Nat) (f : Tile → Tile) : (d.modTile t f).mgmt = d.mgmt := rfl
@[simp] theorem Dev.modTile_comp (d : Dev) (t : Nat) (f : Tile → Tile) : (d.modTile t f).comp = d.comp := rfl
@[simp] theorem Dev.modTile_flash (d : Dev) (t : Nat) (f : Tile → Tile) : (d.modTile t f).flash = d.flash := rfl
@[simp] theorem Dev.modTile_channels (d : Dev) (t : Nat) (f : Tile → Tile) : (d.modTile t f).channels = d.channels := rfl
@[simp] theorem Dev.modTile_modChans (d : Dev) (t : Nat) (f : Tile → Tile) : (d.modTile t f).modChans = d.modChans := rfl
@[simp] theorem Dev.modTile_modSide1 (d : Dev) (t : Nat) (f : Tile → Tile) : (d.modTile t f).modSide1 = d.modSide1 := rfl
@[simp] theorem Dev.modTile_reserve (d : Dev) (t : Nat) (f : Tile → Tile) : (d.modTile t f).reserve = d.reserve := rfl
@[simp] theorem Dev.modTile_arbiters (d : Dev) (t : Nat) (f : Tile → Tile) : (d.modTile t f).arbiters = d.arbiters := rfl
@[simp] theorem Dev.modTile_nextPoint (d : Dev) (t : Nat) (f : Tile → Tile) : (d.modTile t f).nextPoint = d.nextPoint := rfl
@[simp] theorem Dev.modTile_recorder (d : Dev) (t : Nat) (f : Tile → Tile) : (d.modTile t f).recorder = d.recorder := rfl
@[simp] theorem Dev.modTile_units (d : Dev) (t : Nat) (f : Tile → Tile) : (d.modTile t f).units = d.units := rfl
@[simp] theorem Dev.modTile_fabric (d : Dev) (t : Nat) (f : Tile → Tile) : (d.modTile t f).fabric = d.fabric := rfl
@[simp] theorem Dev.modTile_power (d : Dev) (t : Nat) (f : Tile → Tile) : (d.modTile t f).power = d.power := rfl
@[simp] theorem Dev.modTile_fw (d : Dev) (t : Nat) (f : Tile → Tile) : (d.modTile t f).fw = d.fw := rfl
@[simp] theorem Dev.modTile_latches (d : Dev) (t : Nat) (f : Tile → Tile) : (d.modTile t f).latches = d.latches := rfl
@[simp] theorem Dev.modTile_free (d : Dev) (t : Nat) (f : Tile → Tile) : (d.modTile t f).free = d.free := rfl
@[simp] theorem Dev.modTile_out (d : Dev) (t : Nat) (f : Tile → Tile) : (d.modTile t f).out = d.out := rfl

@[simp] theorem Dev.modChan_parts (d : Dev) (ch : Nat) (f : Channel → Channel) : (d.modChan ch f).parts = d.parts := rfl
@[simp] theorem Dev.modChan_mgmt (d : Dev) (ch : Nat) (f : Channel → Channel) : (d.modChan ch f).mgmt = d.mgmt := rfl
@[simp] theorem Dev.modChan_comp (d : Dev) (ch : Nat) (f : Channel → Channel) : (d.modChan ch f).comp = d.comp := rfl
@[simp] theorem Dev.modChan_flash (d : Dev) (ch : Nat) (f : Channel → Channel) : (d.modChan ch f).flash = d.flash := rfl
@[simp] theorem Dev.modChan_modChans (d : Dev) (ch : Nat) (f : Channel → Channel) : (d.modChan ch f).modChans = d.modChans := rfl
@[simp] theorem Dev.modChan_modSide1 (d : Dev) (ch : Nat) (f : Channel → Channel) : (d.modChan ch f).modSide1 = d.modSide1 := rfl
@[simp] theorem Dev.modChan_reserve (d : Dev) (ch : Nat) (f : Channel → Channel) : (d.modChan ch f).reserve = d.reserve := rfl
@[simp] theorem Dev.modChan_arbiters (d : Dev) (ch : Nat) (f : Channel → Channel) : (d.modChan ch f).arbiters = d.arbiters := rfl
@[simp] theorem Dev.modChan_nextPoint (d : Dev) (ch : Nat) (f : Channel → Channel) : (d.modChan ch f).nextPoint = d.nextPoint := rfl
@[simp] theorem Dev.modChan_tiles (d : Dev) (ch : Nat) (f : Channel → Channel) : (d.modChan ch f).tiles = d.tiles := rfl
@[simp] theorem Dev.modChan_recorder (d : Dev) (ch : Nat) (f : Channel → Channel) : (d.modChan ch f).recorder = d.recorder := rfl
@[simp] theorem Dev.modChan_units (d : Dev) (ch : Nat) (f : Channel → Channel) : (d.modChan ch f).units = d.units := rfl
@[simp] theorem Dev.modChan_fabric (d : Dev) (ch : Nat) (f : Channel → Channel) : (d.modChan ch f).fabric = d.fabric := rfl
@[simp] theorem Dev.modChan_power (d : Dev) (ch : Nat) (f : Channel → Channel) : (d.modChan ch f).power = d.power := rfl
@[simp] theorem Dev.modChan_fw (d : Dev) (ch : Nat) (f : Channel → Channel) : (d.modChan ch f).fw = d.fw := rfl
@[simp] theorem Dev.modChan_latches (d : Dev) (ch : Nat) (f : Channel → Channel) : (d.modChan ch f).latches = d.latches := rfl
@[simp] theorem Dev.modChan_free (d : Dev) (ch : Nat) (f : Channel → Channel) : (d.modChan ch f).free = d.free := rfl
@[simp] theorem Dev.modChan_out (d : Dev) (ch : Nat) (f : Channel → Channel) : (d.modChan ch f).out = d.out := rfl

@[simp] theorem Dev.modArb_parts (d : Dev) (st : Nat) (f : Arbiter → Arbiter) : (d.modArb st f).parts = d.parts := rfl
@[simp] theorem Dev.modArb_mgmt (d : Dev) (st : Nat) (f : Arbiter → Arbiter) : (d.modArb st f).mgmt = d.mgmt := rfl
@[simp] theorem Dev.modArb_comp (d : Dev) (st : Nat) (f : Arbiter → Arbiter) : (d.modArb st f).comp = d.comp := rfl
@[simp] theorem Dev.modArb_flash (d : Dev) (st : Nat) (f : Arbiter → Arbiter) : (d.modArb st f).flash = d.flash := rfl
@[simp] theorem Dev.modArb_channels (d : Dev) (st : Nat) (f : Arbiter → Arbiter) : (d.modArb st f).channels = d.channels := rfl
@[simp] theorem Dev.modArb_modChans (d : Dev) (st : Nat) (f : Arbiter → Arbiter) : (d.modArb st f).modChans = d.modChans := rfl
@[simp] theorem Dev.modArb_modSide1 (d : Dev) (st : Nat) (f : Arbiter → Arbiter) : (d.modArb st f).modSide1 = d.modSide1 := rfl
@[simp] theorem Dev.modArb_reserve (d : Dev) (st : Nat) (f : Arbiter → Arbiter) : (d.modArb st f).reserve = d.reserve := rfl
@[simp] theorem Dev.modArb_nextPoint (d : Dev) (st : Nat) (f : Arbiter → Arbiter) : (d.modArb st f).nextPoint = d.nextPoint := rfl
@[simp] theorem Dev.modArb_tiles (d : Dev) (st : Nat) (f : Arbiter → Arbiter) : (d.modArb st f).tiles = d.tiles := rfl
@[simp] theorem Dev.modArb_recorder (d : Dev) (st : Nat) (f : Arbiter → Arbiter) : (d.modArb st f).recorder = d.recorder := rfl
@[simp] theorem Dev.modArb_units (d : Dev) (st : Nat) (f : Arbiter → Arbiter) : (d.modArb st f).units = d.units := rfl
@[simp] theorem Dev.modArb_fabric (d : Dev) (st : Nat) (f : Arbiter → Arbiter) : (d.modArb st f).fabric = d.fabric := rfl
@[simp] theorem Dev.modArb_power (d : Dev) (st : Nat) (f : Arbiter → Arbiter) : (d.modArb st f).power = d.power := rfl
@[simp] theorem Dev.modArb_fw (d : Dev) (st : Nat) (f : Arbiter → Arbiter) : (d.modArb st f).fw = d.fw := rfl
@[simp] theorem Dev.modArb_latches (d : Dev) (st : Nat) (f : Arbiter → Arbiter) : (d.modArb st f).latches = d.latches := rfl
@[simp] theorem Dev.modArb_free (d : Dev) (st : Nat) (f : Arbiter → Arbiter) : (d.modArb st f).free = d.free := rfl
@[simp] theorem Dev.modArb_out (d : Dev) (st : Nat) (f : Arbiter → Arbiter) : (d.modArb st f).out = d.out := rfl

/-! A ring set lives in its partition, or in the management function. -/

@[simp] theorem Dev.modRing_comp (d : Dev) (rs : RsId) (f : RingSet → RingSet) : (d.modRing rs f).comp = d.comp := by
  cases rs <;> rfl
@[simp] theorem Dev.modRun_comp (d : Dev) (rs : RsId) (f : RingRun → RingRun) : (d.modRun rs f).comp = d.comp := by
  cases rs <;> rfl
@[simp] theorem Dev.modRing_flash (d : Dev) (rs : RsId) (f : RingSet → RingSet) : (d.modRing rs f).flash = d.flash := by
  cases rs <;> rfl
@[simp] theorem Dev.modRun_flash (d : Dev) (rs : RsId) (f : RingRun → RingRun) : (d.modRun rs f).flash = d.flash := by
  cases rs <;> rfl
@[simp] theorem Dev.modRing_channels (d : Dev) (rs : RsId) (f : RingSet → RingSet) : (d.modRing rs f).channels = d.channels := by
  cases rs <;> rfl
@[simp] theorem Dev.modRun_channels (d : Dev) (rs : RsId) (f : RingRun → RingRun) : (d.modRun rs f).channels = d.channels := by
  cases rs <;> rfl
@[simp] theorem Dev.modRing_modChans (d : Dev) (rs : RsId) (f : RingSet → RingSet) : (d.modRing rs f).modChans = d.modChans := by
  cases rs <;> rfl
@[simp] theorem Dev.modRing_modSide1 (d : Dev) (rs : RsId) (f : RingSet → RingSet) : (d.modRing rs f).modSide1 = d.modSide1 := by
  cases rs <;> rfl
@[simp] theorem Dev.modRun_modChans (d : Dev) (rs : RsId) (f : RingRun → RingRun) : (d.modRun rs f).modChans = d.modChans := by
  cases rs <;> rfl
@[simp] theorem Dev.modRun_modSide1 (d : Dev) (rs : RsId) (f : RingRun → RingRun) : (d.modRun rs f).modSide1 = d.modSide1 := by
  cases rs <;> rfl
@[simp] theorem Dev.modRing_reserve (d : Dev) (rs : RsId) (f : RingSet → RingSet) : (d.modRing rs f).reserve = d.reserve := by
  cases rs <;> rfl
@[simp] theorem Dev.modRun_reserve (d : Dev) (rs : RsId) (f : RingRun → RingRun) : (d.modRun rs f).reserve = d.reserve := by
  cases rs <;> rfl
@[simp] theorem Dev.modRing_arbiters (d : Dev) (rs : RsId) (f : RingSet → RingSet) : (d.modRing rs f).arbiters = d.arbiters := by
  cases rs <;> rfl
@[simp] theorem Dev.modRing_nextPoint (d : Dev) (rs : RsId) (f : RingSet → RingSet) : (d.modRing rs f).nextPoint = d.nextPoint := by
  cases rs <;> rfl
@[simp] theorem Dev.modRun_arbiters (d : Dev) (rs : RsId) (f : RingRun → RingRun) : (d.modRun rs f).arbiters = d.arbiters := by
  cases rs <;> rfl
@[simp] theorem Dev.modRun_nextPoint (d : Dev) (rs : RsId) (f : RingRun → RingRun) : (d.modRun rs f).nextPoint = d.nextPoint := by
  cases rs <;> rfl
@[simp] theorem Dev.modRing_tiles (d : Dev) (rs : RsId) (f : RingSet → RingSet) : (d.modRing rs f).tiles = d.tiles := by
  cases rs <;> rfl
@[simp] theorem Dev.modRun_tiles (d : Dev) (rs : RsId) (f : RingRun → RingRun) : (d.modRun rs f).tiles = d.tiles := by
  cases rs <;> rfl
@[simp] theorem Dev.modRing_recorder (d : Dev) (rs : RsId) (f : RingSet → RingSet) : (d.modRing rs f).recorder = d.recorder := by
  cases rs <;> rfl
@[simp] theorem Dev.modRun_recorder (d : Dev) (rs : RsId) (f : RingRun → RingRun) : (d.modRun rs f).recorder = d.recorder := by
  cases rs <;> rfl
@[simp] theorem Dev.modRing_units (d : Dev) (rs : RsId) (f : RingSet → RingSet) : (d.modRing rs f).units = d.units := by
  cases rs <;> rfl
@[simp] theorem Dev.modRun_units (d : Dev) (rs : RsId) (f : RingRun → RingRun) : (d.modRun rs f).units = d.units := by
  cases rs <;> rfl
@[simp] theorem Dev.modRing_fabric (d : Dev) (rs : RsId) (f : RingSet → RingSet) : (d.modRing rs f).fabric = d.fabric := by
  cases rs <;> rfl
@[simp] theorem Dev.modRun_fabric (d : Dev) (rs : RsId) (f : RingRun → RingRun) : (d.modRun rs f).fabric = d.fabric := by
  cases rs <;> rfl
@[simp] theorem Dev.modRing_power (d : Dev) (rs : RsId) (f : RingSet → RingSet) : (d.modRing rs f).power = d.power := by
  cases rs <;> rfl
@[simp] theorem Dev.modRun_power (d : Dev) (rs : RsId) (f : RingRun → RingRun) : (d.modRun rs f).power = d.power := by
  cases rs <;> rfl
@[simp] theorem Dev.modRing_fw (d : Dev) (rs : RsId) (f : RingSet → RingSet) : (d.modRing rs f).fw = d.fw := by
  cases rs <;> rfl
@[simp] theorem Dev.modRun_fw (d : Dev) (rs : RsId) (f : RingRun → RingRun) : (d.modRun rs f).fw = d.fw := by
  cases rs <;> rfl
@[simp] theorem Dev.modRing_latches (d : Dev) (rs : RsId) (f : RingSet → RingSet) : (d.modRing rs f).latches = d.latches := by
  cases rs <;> rfl
@[simp] theorem Dev.modRun_latches (d : Dev) (rs : RsId) (f : RingRun → RingRun) : (d.modRun rs f).latches = d.latches := by
  cases rs <;> rfl
@[simp] theorem Dev.modRing_free (d : Dev) (rs : RsId) (f : RingSet → RingSet) : (d.modRing rs f).free = d.free := by
  cases rs <;> rfl
@[simp] theorem Dev.modRun_free (d : Dev) (rs : RsId) (f : RingRun → RingRun) : (d.modRun rs f).free = d.free := by
  cases rs <;> rfl
@[simp] theorem Dev.modRing_out (d : Dev) (rs : RsId) (f : RingSet → RingSet) : (d.modRing rs f).out = d.out := by
  cases rs <;> rfl
@[simp] theorem Dev.modRun_out (d : Dev) (rs : RsId) (f : RingRun → RingRun) : (d.modRun rs f).out = d.out := by
  cases rs <;> rfl

/-! ### Outcomes -/

theorem State.onDev_eq (s : State) (f : Clock → Dev → Dev) : s.onDev f = .next { s with dev := f s.clock s.dev } := rfl

theorem State.atTime_eq (s : State) (t : Nat) (f : Clock → Dev → Dev) :
    s.atTime t f = .next { s with clock := s.clock.reach t, dev := f (s.clock.reach t) s.dev } := rfl

theorem State.onBoth_eq (s : State) (f : Clock → Dev → Clock × Dev) :
    s.onBoth f = .next { s with clock := (f s.clock s.dev).1, dev := (f s.clock s.dev).2 } := rfl

/-! ### Lists -/

@[simp] theorem modAt_length {α : Type} (f : α → α) : ∀ (n : Nat) (l : List α), (modAt f n l).length = l.length
  | _, [] => by simp [modAt]
  | 0, _ :: _ => by simp [modAt]
  | n + 1, _ :: l => by simp [modAt, modAt_length f n l]

@[simp] theorem modIf_length {α : Type} (p : α → Bool) (f : α → α) (l : List α) : (modIf p f l).length = l.length := by
  simp [modIf]

theorem modAt_getD_ne {α : Type} (f : α → α) (x : α) : ∀ {n m : Nat} {l : List α}, n ≠ m → (modAt f n l).getD m x = l.getD m x
  | _, _, [], _ => by simp [modAt]
  | 0, 0, _ :: _, h => absurd rfl h
  | 0, _ + 1, _ :: _, _ => by simp [modAt]
  | _ + 1, 0, _ :: _, _ => by simp [modAt]
  | n + 1, m + 1, _ :: l, h => by
    have := modAt_getD_ne f x (n := n) (m := m) (l := l) (fun e => h (congrArg (· + 1) e))
    simpa [modAt] using this

theorem modAt_getD_eq {α : Type} (f : α → α) (x : α) : ∀ {n : Nat} {l : List α}, n < l.length → (modAt f n l).getD n x = f (l.getD n x)
  | _, [], h => absurd h (Nat.not_lt_zero _)
  | 0, _ :: _, _ => by simp [modAt]
  | n + 1, _ :: l, h => by
    have := modAt_getD_eq f x (n := n) (l := l) (by simpa using h)
    simpa [modAt] using this

/-! ### Partitions, ring sets and requests through updates -/

@[simp] theorem Dev.modPart_length (d : Dev) (p : Nat) (f : Part → Part) : (d.modPart p f).parts.length = d.parts.length := by
  simp [Dev.modPart]

theorem Dev.part_modPart_ne (d : Dev) {p q : Nat} (f : Part → Part) (h : p ≠ q) : (d.modPart p f).part q = d.part q :=
  modAt_getD_ne f _ h

theorem Dev.part_modPart_self (d : Dev) {p : Nat} (f : Part → Part) (h : p < d.parts.length) :
    (d.modPart p f).part p = f (d.part p) := modAt_getD_eq f _ h

theorem Dev.tile_modTile_self (d : Dev) {t : Nat} (f : Tile → Tile) (h : t < d.tiles.length) :
    (d.modTile t f).tile t = f (d.tile t) := modAt_getD_eq f _ h

theorem Dev.tile_modTile_ne (d : Dev) {t u : Nat} (f : Tile → Tile) (h : t ≠ u) : (d.modTile t f).tile u = d.tile u :=
  modAt_getD_ne f _ h

theorem Dev.chan_modChan_self (d : Dev) {ch : Nat} (f : Channel → Channel) (h : ch < d.channels.length) :
    (d.modChan ch f).chan ch = f (d.chan ch) := modAt_getD_eq f _ h

theorem Dev.chan_modChan_ne (d : Dev) {ch k : Nat} (f : Channel → Channel) (h : ch ≠ k) : (d.modChan ch f).chan k = d.chan k :=
  modAt_getD_ne f _ h

theorem Dev.port_modPort_self (d : Dev) {n : Nat} (f : Port → Port) (h : n < d.fabric.ports.length) :
    (d.modPort n f).port n = f (d.port n) := modAt_getD_eq f _ h

end Sys2Proof.Machine
end

