-- ==== Sys2Proof/Laws/Commands.lean ====
section
/-! SUPPORT. What the shared operations of commands do, once for each: a fetched command before and after its admission, a
message of the fabric manager, a bank-engine command. -/

namespace Sys2Proof.Machine

open Sys2Proof

/-- A request that may run is handed to the run of its opcode. -/
theorem Dev.withReq_run {d : Dev} {r : ReqRef} {op : Nat} {q : Req} (f : Req → Dev) (h : d.req? r = some q)
    (ho : q.opcode = op) (hc : d.canRun r q = true) : d.withReq r op f = f q := by
  simp [Dev.withReq, h, ho, hc]

/-- A reference to no request, or to one of another opcode, or to one that may not run, changes nothing. -/
theorem Dev.withReq_none {d : Dev} {r : ReqRef} {op : Nat} (f : Req → Dev) (h : d.req? r = none) : d.withReq r op f = d := by
  simp [Dev.withReq, h]

/-- The rest of a run: the work of an admitted request, and its end when the work has one. -/
def Dev.runWork (d : Dev) (c : Clock) (r : ReqRef) (work : Dev → Req → Dev × Option Ending) : Dev :=
  match d.req? r with
  | none => d
  | some q =>
    match (work d q).2 with
    | some e => (work d q).1.finish c r e
    | none => (work d q).1

/-- An admitted request whose deadline has not passed does its work (R342). -/
theorem Dev.command_admitted {d : Dev} {c : Clock} {r : ReqRef} {op : Nat} {q : Req} (upto : Upto)
    (perm fields handles : Req → Bool) (quota : Dev → Req → Grant) (work : Dev → Req → Dev × Option Ending)
    (h : d.req? r = some q) (ho : q.opcode = op) (hc : d.canRun r q = true) (ha : q.admitted = true)
    (he : expired c q (d.barrierOp r op) = false) :
    d.command c r op upto perm fields handles quota work = d.runWork c r work := by
  simp only [Dev.command, Dev.withReq_run _ h ho hc, ha, he, Dev.runWork]
  rfl

/-- An admitted request whose deadline has passed before its point of no return ends with DEADLINE_EXPIRED, or with
REPLAY_EXHAUSTED once it has been replayed (R125, R135, R342). -/
theorem Dev.command_expired {d : Dev} {c : Clock} {r : ReqRef} {op : Nat} {q : Req} (upto : Upto)
    (perm fields handles : Req → Bool) (quota : Dev → Req → Grant) (work : Dev → Req → Dev × Option Ending)
    (h : d.req? r = some q) (ho : q.opcode = op) (hc : d.canRun r q = true) (ha : q.admitted = true)
    (he : expired c q (d.barrierOp r op) = true) :
    d.command c r op upto perm fields handles quota work =
      d.finish c r ⟨if 0 < q.replays then statusEXHAUSTED else statusDEADLINE, 0, 0, 0⟩ := by
  simp only [Dev.command, Dev.withReq_run _ h ho hc, ha, he]
  rfl

/-- A request that fails a check of R341 ends with that check's status. -/
theorem Dev.command_refused {d : Dev} {c : Clock} {r : ReqRef} {op : Nat} {q : Req} (upto : Upto)
    (perm fields handles : Req → Bool) (quota : Dev → Req → Grant) (work : Dev → Req → Dev × Option Ending) {e : Ending}
    (h : d.req? r = some q) (ho : q.opcode = op) (hc : d.canRun r q = true) (ha : q.admitted = false) (hw : q.waiting = false)
    (hg : d.gate c r q (perm q) (fields q) (handles q) = some e) :
    d.command c r op upto perm fields handles quota work = d.finish c r e := by
  simp [Dev.command, Dev.withReq_run _ h ho hc, ha, hw, hg]

/-- A request that passes every check and is granted its resources is admitted, and does its work unless the run stops there. -/
theorem Dev.command_admits {d : Dev} {c : Clock} {r : ReqRef} {op : Nat} {q : Req} (upto : Upto)
    (perm fields handles : Req → Bool) (quota : Dev → Req → Grant) (work : Dev → Req → Dev × Option Ending) {f : Req → Req}
    (h : d.req? r = some q) (ho : q.opcode = op) (hc : d.canRun r q = true) (ha : q.admitted = false) (hw : q.waiting = false)
    (hg : d.gate c r q (perm q) (fields q) (handles q) = none) (hq : quota d q = .go f) :
    d.command c r op upto perm fields handles quota work =
      if upto = .admitted then d.enter c r f else (d.enter c r f).runWork c r work := by
  simp only [Dev.command, Dev.withReq_run _ h ho hc, ha, hw, hg, hq, Dev.runWork]
  rfl

/-- A message in a session, to a keeper that takes it, with a whole layout: its own effect, then its response (R439, R440). -/
theorem Dev.fm_runs {d : Dev} {k : FmClass} {type : Nat} {m : Bytes} (run : Dev → Nat × Dev × Bytes) (hg : d.fmGate k = some 0)
    (hl : fmLayout type m = true) : d.fm k type true m run = (run d).2.1.fmReply m (run d).1 (run d).2.2 := by
  simp [Dev.fm, hg, hl]

/-- A message outside a session is answered with result 7 and has no effect (R439). -/
theorem Dev.fm_unsecured {d : Dev} {k : FmClass} {type : Nat} {m : Bytes} (run : Dev → Nat × Dev × Bytes) {n : Nat}
    (hg : d.fmGate k = some n) : d.fm k type false m run = d.fmReply m 7 [] := by
  simp [Dev.fm, hg]

end Sys2Proof.Machine
end

