-- ==== Sys2Proof/Laws/Egress.lean ====
section
/-! SUPPORT. What sending changes: the ports, the fabric's counts and the block's output, and nothing else of the device; and what
a write to host memory, an entry and the end of a request leave of every ring set. -/

namespace Sys2Proof.Machine

open Sys2Proof

/-- `d'` is `d` but for the fabric and the output. -/
def Outward (d d' : Dev) : Prop := ∃ f o, d' = { d with fabric := f, out := o }

theorem Outward.refl (d : Dev) : Outward d d := ⟨d.fabric, d.out, rfl⟩

theorem Outward.trans {a b c : Dev} (h : Outward a b) (k : Outward b c) : Outward a c := by
  obtain ⟨f, o, rfl⟩ := h
  obtain ⟨g, p, rfl⟩ := k
  exact ⟨g, p, rfl⟩

theorem outward_modFabric (d : Dev) (f : Fabric → Fabric) : Outward d (d.modFabric f) := ⟨_, _, rfl⟩
theorem outward_modPort (d : Dev) (n : Nat) (f : Port → Port) : Outward d (d.modPort n f) := ⟨_, _, rfl⟩
theorem outward_emit (d : Dev) (o : Output) : Outward d (d.emit o) := ⟨_, _, rfl⟩

theorem outward_startFrame (d : Dev) (c : Clock) (port a : Nat) (f : Frame) : Outward d (d.startFrame c port a f) := by
  unfold Dev.startFrame
  dsimp only
  split <;> exact ⟨_, _, rfl⟩

theorem outward_kickAt (d : Dev) (c : Clock) (port a : Nat) : Outward d (d.kickAt c port a) := by
  unfold Dev.kickAt
  dsimp only
  split
  · exact .refl d
  · split
    · exact outward_startFrame d c port a _
    · split
      · exact outward_modPort d port _
      · split
        · exact outward_modPort d port _
        · exact ((outward_modPort d port _).trans (outward_modPort _ port _)).trans (outward_startFrame _ c port a _)

theorem outward_kick (d : Dev) (c : Clock) (port : Nat) : Outward d (d.kick c port) := outward_kickAt d c port _

theorem outward_sendFrame (d : Dev) (c : Clock) (port : Nat) (f : Frame) : Outward d (d.sendFrame c port f) := by
  unfold Dev.sendFrame
  split
  · exact (outward_modPort d port _).trans (outward_kick _ c port)
  · exact .refl d

theorem outward_sendTo (d : Dev) (c : Clock) (sub flow : Nat) (tie : Tie) (svc : Nat) (k : Peer) (keyed : Bool) (len : Nat)
    (out : Nat → Output) : Outward d (d.sendTo c sub flow tie svc k keyed len out) := by
  unfold Dev.sendTo
  split
  · exact .refl d
  · exact outward_sendFrame d c _ _

theorem outward_nextSequence (d : Dev) (p : Nat) : Outward d (d.nextSequence p).1 := ⟨_, _, rfl⟩

theorem outward_sendPacketOn (d : Dev) (c : Clock) (p type : Nat) (keyed : Bool) (svc peer : Nat) (isModule : Bool) (flow : Nat) (tie : Tie)
    (payload : Bytes) : Outward d (d.sendPacketOn c p type keyed svc peer isModule flow tie payload) := by
  unfold Dev.sendPacketOn
  split
  · exact .refl d
  · exact (outward_nextSequence d p).trans (outward_sendTo _ c p flow tie svc _ keyed _ _)

theorem Outward.ring {d d' : Dev} (h : Outward d d') (rs : RsId) : d'.ring rs = d.ring rs := by
  obtain ⟨f, o, rfl⟩ := h
  cases rs <;> rfl

theorem Outward.part {d d' : Dev} (h : Outward d d') (p : Nat) : d'.part p = d.part p := by
  obtain ⟨f, o, rfl⟩ := h
  rfl

/-! ### Ring sets through an update of a ring set -/

/-- What every ring set keeps through an update of one of them that keeps it. -/
theorem Dev.ring_modRing {α : Type} (g : RingSet → α) (d : Dev) (rs rs' : RsId) (f : RingSet → RingSet)
    (hf : ∀ r, g (f r) = g r) : g ((d.modRing rs f).ring rs') = g (d.ring rs') := by
  have key : ∀ (l : List RingSet) (n m : Nat) (x : RingSet), g ((modAt f n l).getD m x) = g (l.getD m x) := by
    intro l n m x
    by_cases hnm : n = m
    · subst hnm
      by_cases hl : n < l.length
      · rw [modAt_getD_eq f x hl, hf]
      · have h1 : (modAt f n l).length ≤ n := by rw [modAt_length]; omega
        have h2 : l.length ≤ n := by omega
        simp [List.getD_eq_getElem?_getD, List.getElem?_eq_none h1, List.getElem?_eq_none h2]
    · rw [modAt_getD_ne f x hnm]
  cases rs with
  | part p n =>
    cases rs' with
    | part p' n' =>
      by_cases hp : p = p'
      · subst hp
        by_cases hl : p < d.parts.length
        · have : (d.modRing (.part p n) f).part p = { d.part p with rings := modAt f n (d.part p).rings } :=
            Dev.part_modPart_self d _ hl
          simp only [Dev.ring, this]
          exact key _ _ _ _
        · have : d.modRing (.part p n) f = d := by
            have hm : ∀ (h : Part → Part) (k : Nat) (l : List Part), l.length ≤ k → modAt h k l = l := by
              intro h k l
              induction l generalizing k with
              | nil => intro _; cases k <;> rfl
              | cons a l ih =>
                intro hk
                cases k with
                | zero => simp at hk
                | succ k => simp [modAt, ih k (by simpa using hk)]
            simp [Dev.modRing, Dev.modPart, hm _ _ _ (Nat.le_of_not_lt hl)]
          rw [this]
      · have : (d.modRing (.part p n) f).part p' = d.part p' := Dev.part_modPart_ne d _ hp
        simp only [Dev.ring, this]
    | mgmt n' => rfl
  | mgmt n =>
    cases rs' with
    | part p' n' => rfl
    | mgmt n' => exact key _ _ _ _

theorem Dev.ring_modRun {α : Type} (g : RingSet → α) (d : Dev) (rs rs' : RsId) (f : RingRun → RingRun)
    (hf : ∀ (r : RingSet) (x : RingRun), g { r with run := x } = g r) : g ((d.modRun rs f).ring rs') = g (d.ring rs') :=
  Dev.ring_modRing g d rs rs' _ fun r => hf r _

/-- A request packet of a connection leaves of every ring set all but that connection. -/
theorem Dev.ring_sendRdma {α : Type} (g : RingSet → α) (hg : ∀ (r : RingSet) (x : Roce), g { r with roce := x } = g r)
    (d : Dev) (c : Clock) (rs rs' : RsId) (o : RoceOut) : g ((d.sendRdma c rs o).ring rs') = g (d.ring rs') := by
  unfold Dev.sendRdma
  split
  · rfl
  · split
    · unfold Dev.issueRdma
      dsimp only
      rw [(outward_sendTo _ c _ _ o.tie o.svc _ true o.len _).ring rs', Dev.ring_modRing g _ rs rs' _ (fun r => hg r _),
        (outward_nextSequence d rs.partNo).ring rs']
    · exact Dev.ring_modRing g d rs rs' _ (fun r => hg r _)

/-- A write to host memory leaves of every ring set all but its RDMA connection. -/
theorem Dev.ring_writeHost {α : Type} (g : RingSet → α) (hg : ∀ (r : RingSet) (x : Roce), g { r with roce := x } = g r)
    (d : Dev) (c : Clock) (rs rs' : RsId) (tie : Tie) (svc addr : Nat) (b : Bytes) : g ((d.writeHost c rs tie svc addr b).ring rs') = g (d.ring rs') := by
  unfold Dev.writeHost
  dsimp only
  split
  · rename_i hr
    clear hr
    generalize indexed (chunks 4096 b) = l
    generalize (d.ring rs).regs.peerQpn = qpn
    generalize (d.ring rs).regs.rkey = rkey
    induction l generalizing d with
    | nil => rfl
    | cons k l ih => rw [List.foldl_cons, ih, Dev.ring_sendRdma g hg]
  · rw [(outward_emit d _).ring rs']

/-- So does a read of host memory, and the reads of a body's input buffers. -/
theorem Dev.ring_readHost {α : Type} (g : RingSet → α) (hg : ∀ (r : RingSet) (x : Roce), g { r with roce := x } = g r)
    (d : Dev) (c : Clock) (rs rs' : RsId) (svc addr n : Nat) : g ((d.readHost c rs svc addr n).ring rs') = g (d.ring rs') := by
  unfold Dev.readHost
  dsimp only
  split
  · exact Dev.ring_sendRdma g hg d c rs rs' _
  · rw [(outward_emit d _).ring rs']

theorem Dev.ring_askHost {α : Type} (g : RingSet → α) (hg : ∀ (r : RingSet) (x : Roce), g { r with roce := x } = g r)
    (d : Dev) (c : Clock) (r : ReqRef) (rs : RsId) (addr n : Nat) : g ((d.askHost c r addr n).ring rs) = g (d.ring rs) := by
  unfold Dev.askHost
  split
  · exact Dev.ring_readHost g hg d c r.rs rs _ addr n
  · rfl

theorem Dev.ring_readInputs {α : Type} (g : RingSet → α) (hg : ∀ (r : RingSet) (x : Roce), g { r with roce := x } = g r)
    (d : Dev) (c : Clock) (r : ReqRef) (rs : RsId) : g ((d.readInputs c r).ring rs) = g (d.ring rs) := by
  unfold Dev.readInputs
  generalize ((d.req? r).map (d.inputs r)).getD [] = l
  induction l generalizing d with
  | nil => rfl
  | cons e l ih => rw [List.foldl_cons, ih, Dev.ring_askHost g hg]

/-- A command of a local ring set reads its buffers with no RDMA READ. -/
theorem Dev.readInputs_local (d : Dev) (c : Clock) (r : ReqRef) (h : (d.ring r.rs).regs.remote = false) : d.readInputs c r = d := by
  unfold Dev.readInputs
  generalize ((d.req? r).map (d.inputs r)).getD [] = l
  induction l with
  | nil => rfl
  | cons e l ih =>
    have he : d.askHost c r e.1 e.2 = d := by simp [Dev.askHost, h]
    rw [List.foldl_cons, he, ih]

/-- A notification leaves of every ring set all but its running state. -/
theorem Dev.ring_notify {α : Type} (g : RingSet → α) (hg : ∀ (r : RingSet) (x : RingRun), g { r with run := x } = g r)
    (d : Dev) (c : Clock) (rs rs' : RsId) : g ((d.notify c rs).ring rs') = g (d.ring rs') := by
  have h1 := Dev.ring_modRun g d rs rs' (fun x => { x with pend := 0 }) hg
  have hm : ∀ (d : Dev) (fn : Fn) (v : Nat) (f : MsixVec → MsixVec), (d.modMsix fn v f).ring rs' = d.ring rs' := by
    intro d fn v f
    have hp : ∀ n, (d.modPart n fun x => { x with msix := modAt f v x.msix }).ring rs' = d.ring rs' := by
      intro n
      cases rs' with
      | mgmt m => rfl
      | part p m =>
        by_cases h : n = p
        · subst h
          by_cases hl : n < d.parts.length
          · simp only [Dev.ring, Dev.part_modPart_self d _ hl]
          · have : d.parts.length ≤ n := Nat.le_of_not_lt hl
            have h2 : (modAt (fun x : Part => { x with msix := modAt f v x.msix }) n d.parts).length ≤ n := by simpa using this
            simp only [Dev.ring, Dev.part, Dev.modPart, List.getD_eq_getElem?_getD, List.getElem?_eq_none this,
              List.getElem?_eq_none h2]
        · simp only [Dev.ring, Dev.part_modPart_ne d _ h]
    cases fn with
    | pf => cases rs' <;> rfl
    | vf n => exact hp n
    | remote n s => exact hp n
  unfold Dev.notify
  dsimp only
  split
  · rw [(outward_sendPacketOn _ c _ _ _ _ _ _ _ _ _).ring rs', h1]
  · split
    · rw [hm, h1]
    · rw [(outward_emit _ _).ring rs', h1]

/-- An entry leaves of every ring set all but its slots, its connection and the entries that wait. -/
theorem Dev.ring_putEntry {α : Type} (g : RingSet → α) (h1 : ∀ (r : RingSet) (x : RingRun), g { r with run := x } = g r)
    (h2 : ∀ (r : RingSet) (x : Roce), g { r with roce := x } = g r) (h3 : ∀ (r : RingSet) (x : List WaitEntry), g { r with entries := x } = g r)
    (h4 : ∀ (r : RingSet) (n : Nat), g { r with dropped := n } = g r)
    (d : Dev) (c : Clock) (rs rs' : RsId) (e : WaitEntry) : g ((d.putEntry c rs e).ring rs') = g (d.ring rs') := by
  unfold Dev.putEntry
  dsimp only
  split
  · exact Dev.ring_modRing g d rs rs' _ fun r => h4 r _
  · split
    · unfold Dev.writeSlot
      dsimp only
      split
      · rw [Dev.ring_notify g h1, Dev.ring_modRun g _ _ _ _ h1]
        split
        · rw [Dev.ring_modRun g _ _ _ _ h1, Dev.ring_writeHost g h2]
        · rw [Dev.ring_writeHost g h2]
      · rw [Dev.ring_modRun g _ _ _ _ h1]
        split
        · rw [Dev.ring_modRun g _ _ _ _ h1, Dev.ring_writeHost g h2]
        · rw [Dev.ring_writeHost g h2]
    · exact Dev.ring_modRing g d rs rs' _ fun r => h3 r _

/-- The requests in flight stand through an entry. -/
theorem Dev.req?_putEntry (d : Dev) (c : Clock) (rs : RsId) (e : WaitEntry) (r : ReqRef) :
    (d.putEntry c rs e).req? r = d.req? r := by
  have := Dev.ring_putEntry (fun x => x.inflight) (fun _ _ => rfl) (fun _ _ => rfl) (fun _ _ => rfl) (fun _ _ => rfl) d c rs r.rs e
  simp only [Dev.req?, RingSet.req?, this]

end Sys2Proof.Machine
end

