-- ==== Sys2Proof/Laws/Memory.lean ====
section
/-! SUPPORT. The laws of addressed memory: the canonical form that every operation keeps, and what a read after a write
gives. -/

namespace Sys2Proof.Machine

theorem Memory.wfFrom_mono {lo lo' : Nat} (h : lo' ≤ lo) :
    ∀ {m : Memory}, Memory.wfFrom lo m = true → Memory.wfFrom lo' m = true
  | [], _ => rfl
  | (a, b) :: m, hm => by
    simp only [Memory.wfFrom, Bool.and_eq_true, decide_eq_true_eq] at hm ⊢
    exact ⟨⟨by omega, hm.1.2⟩, hm.2⟩

/-- An address below every listed one reads as zero. -/
theorem Memory.read_below {lo a : Nat} : ∀ {m : Memory}, Memory.wfFrom lo m = true → a < lo → m.read a = 0#8
  | [], _, _ => rfl
  | (k, b) :: m, hm, ha => by
    simp only [Memory.wfFrom, Bool.and_eq_true, decide_eq_true_eq] at hm
    have h1 : k ≠ a := by omega
    have h2 : a < k := by omega
    simp [Memory.read, h1, h2]

theorem Memory.wfFrom_write {v : Byte} {a : Nat} :
    ∀ {m : Memory} {lo : Nat}, Memory.wfFrom lo m = true → lo ≤ a → Memory.wfFrom lo (m.write a v) = true
  | [], lo, _, ha => by
    by_cases hv : v = 0#8 <;> simp [Memory.write, hv, Memory.wfFrom, ha]
  | (k, b) :: m, lo, hm, ha => by
    have hm' := hm
    simp only [Memory.wfFrom, Bool.and_eq_true, decide_eq_true_eq] at hm
    obtain ⟨⟨hk, hb⟩, hr⟩ := hm
    unfold Memory.write
    by_cases h1 : a = k
    · subst h1
      by_cases hv : v = 0#8
      · simpa [hv] using Memory.wfFrom_mono (by omega) hr
      · simp [hv, Memory.wfFrom, ha, hr]
    · by_cases h2 : a < k
      · by_cases hv : v = 0#8
        · simpa [h1, h2, hv] using hm'
        · have h3 : a + 1 ≤ k := by omega
          simp [h1, h2, hv, Memory.wfFrom, ha, h3]
          exact ⟨by simpa using hb, hr⟩
      · have h3 : k + 1 ≤ a := by omega
        simp [h1, h2, Memory.wfFrom, hk]
        exact ⟨by simpa using hb, Memory.wfFrom_write hr h3⟩

/-- A write keeps the canonical form. -/
theorem Memory.wf_write {m : Memory} (h : m.wf = true) (a : Nat) (v : Byte) : (m.write a v).wf = true :=
  Memory.wfFrom_write h (Nat.zero_le a)

theorem Memory.wf_writeN : ∀ {b : Bytes} {m : Memory} {a : Nat}, m.wf = true → (m.writeN a b).wf = true
  | [], _, _, h => h
  | v :: bs, m, a, h => by
    have := Memory.wf_writeN (b := bs) (a := a + 1) (Memory.wf_write h a v)
    simpa [Memory.writeN] using this

theorem Memory.wfFrom_filter {p : Host.Cell → Bool} :
    ∀ {m : Memory} {lo : Nat}, Memory.wfFrom lo m = true → Memory.wfFrom lo (m.filter p) = true
  | [], _, _ => rfl
  | (a, b) :: m, lo, hm => by
    simp only [Memory.wfFrom, Bool.and_eq_true, decide_eq_true_eq] at hm
    obtain ⟨⟨ha, hb⟩, hr⟩ := hm
    have ih := Memory.wfFrom_filter (p := p) hr
    by_cases hp : p (a, b) = true
    · simp [List.filter, hp, Memory.wfFrom, ha, ih]
      simpa using hb
    · simp only [List.filter, hp]
      exact Memory.wfFrom_mono (by omega) ih

theorem Memory.wf_zero {m : Memory} (h : m.wf = true) (a n : Nat) : (m.zero a n).wf = true :=
  Memory.wfFrom_filter h

theorem Memory.wf_foldl_write : ∀ (l : List Host.Cell) {m : Memory}, m.wf = true →
    (l.foldl (fun m c => Memory.write m c.1 c.2) m).wf = true
  | [], _, h => h
  | c :: l, _, h => Memory.wf_foldl_write l (Memory.wf_write h c.1 c.2)

theorem Memory.wf_overlay {dst : Memory} (h : dst.wf = true) (src : Memory) (p : Nat → Bool) :
    (dst.overlay src p).wf = true :=
  Memory.wf_foldl_write _ (Memory.wfFrom_filter h)

theorem Memory.wf_nil : Memory.wf [] = true := rfl

/-- A read of the written address gives the byte written. -/
theorem Memory.read_write_same {v : Byte} {a : Nat} :
    ∀ {m : Memory} {lo : Nat}, Memory.wfFrom lo m = true → (m.write a v).read a = v
  | [], _, _ => by by_cases hv : v = 0#8 <;> simp [Memory.write, hv, Memory.read]
  | (k, b) :: m, lo, hm => by
    simp only [Memory.wfFrom, Bool.and_eq_true, decide_eq_true_eq] at hm
    unfold Memory.write
    by_cases h1 : a = k
    · subst h1
      by_cases hv : v = 0#8
      · simpa [hv] using Memory.read_below hm.2 (Nat.lt_succ_self a)
      · simp [hv, Memory.read]
    · by_cases h2 : a < k
      · by_cases hv : v = 0#8
        · simp [h1, h2, hv, Memory.read, Ne.symm h1]
        · simp [h1, h2, hv, Memory.read]
      · simp [h1, h2, Memory.read, Ne.symm h1]
        exact Memory.read_write_same hm.2

/-- A write leaves every other address alone. -/
theorem Memory.read_write_other {v : Byte} {a c : Nat} (hc : c ≠ a) :
    ∀ {m : Memory} {lo : Nat}, Memory.wfFrom lo m = true → (m.write a v).read c = m.read c
  | [], _, _ => by by_cases hv : v = 0#8 <;> simp [Memory.write, hv, Memory.read, Ne.symm hc]
  | (k, b) :: m, lo, hm => by
    simp only [Memory.wfFrom, Bool.and_eq_true, decide_eq_true_eq] at hm
    unfold Memory.write
    by_cases h1 : a = k
    · subst h1
      by_cases hv : v = 0#8
      · simp only [if_true, hv, Memory.read, Ne.symm hc, if_false]
        by_cases h3 : c < a
        · simpa [h3] using Memory.read_below hm.2 (by omega : c < a + 1)
        · simp [h3]
      · simp [hv, Memory.read, Ne.symm hc]
    · by_cases h2 : a < k
      · by_cases hv : v = 0#8
        · simp [h1, h2, hv]
        · simp only [h1, h2, hv, if_false, if_true, Memory.read, Ne.symm hc]
          by_cases h3 : c < a
          · have : k ≠ c := by omega
            have : c < k := by omega
            simp [*]
          · simp [h3]
      · simp only [h1, h2, if_false, Memory.read]
        by_cases h3 : k = c
        · simp [h3]
        · by_cases h4 : c < k
          · simp [h3, h4]
          · simp only [h3, h4, if_false]
            exact Memory.read_write_other hc hm.2

/-- A write of a run leaves every address outside it alone. -/
theorem Memory.read_writeN_other {c : Nat} :
    ∀ {b : Bytes} {m : Memory} {a : Nat}, m.wf = true → (c < a ∨ a + b.length ≤ c) → (m.writeN a b).read c = m.read c
  | [], _, _, _, _ => rfl
  | v :: bs, m, a, hm, h => by
    have h' : c ≠ a := by
      rcases h with h | h
      · omega
      · simp only [List.length_cons] at h
        omega
    have h2 : c < a + 1 ∨ a + 1 + bs.length ≤ c := by
      rcases h with h | h
      · exact Or.inl (by omega)
      · simp only [List.length_cons] at h
        exact Or.inr (by omega)
    rw [Memory.writeN, Memory.read_writeN_other (Memory.wf_write hm a v) h2]
    exact Memory.read_write_other h' hm

/-- A read of a run that was just written gives the bytes written. -/
theorem Memory.readN_writeN :
    ∀ {b : Bytes} {m : Memory} {a : Nat}, m.wf = true → (m.writeN a b).readN a b.length = b
  | [], _, _, _ => rfl
  | v :: bs, m, a, hm => by
    have hw := Memory.wf_write hm a v
    have h1 : ((m.write a v).writeN (a + 1) bs).read a = v := by
      rw [Memory.read_writeN_other hw (Or.inl (Nat.lt_succ_self a))]
      exact Memory.read_write_same hm
    simp only [Memory.writeN, List.length_cons, Memory.readN, h1]
    exact congrArg _ (Memory.readN_writeN hw)

end Sys2Proof.Machine
end

