-- ==== Sys2Proof/Laws/Requests.lean ====
section
/-! SUPPORT. Ring sets and requests through updates: what an update of one of them leaves of the others, the end of a request,
admission, and the commands that start long operations. -/

namespace Sys2Proof.Machine

open Sys2Proof

theorem modAt_of_le {α : Type} (f : α → α) : ∀ {n : Nat} {l : List α}, l.length ≤ n → modAt f n l = l
  | _, [], _ => by simp [modAt]
  | 0, _ :: _, h => absurd h (by simp)
  | n + 1, _ :: l, h => by simp [modAt, modAt_of_le f (n := n) (l := l) (by simpa using h)]

/-- An updated ring set holds the update, or there is no such ring set and nothing has changed. -/
theorem Dev.ring_modRing_self (d : Dev) (rs : RsId) (f : RingSet → RingSet) :
    (d.modRing rs f).ring rs = f (d.ring rs) ∨ ((d.modRing rs f).ring rs = d.ring rs ∧ (d.ring rs).inflight = []) := by
  cases rs with
  | part p n =>
    by_cases hp : p < d.parts.length
    · have hs : (d.modRing (.part p n) f).part p = { d.part p with rings := modAt f n (d.part p).rings } :=
        Dev.part_modPart_self d _ hp
      by_cases hn : n < (d.part p).rings.length
      · left
        simp only [Dev.ring, hs]
        exact modAt_getD_eq f _ hn
      · right
        have hl : (d.part p).rings.length ≤ n := by omega
        simp only [Dev.ring, hs, modAt_of_le f hl, true_and]
        simp [List.getD_eq_getElem?_getD, List.getElem?_eq_none hl, RingSet.reset]
    · right
      have hl : d.parts.length ≤ p := by omega
      have : d.modRing (.part p n) f = d := by simp [Dev.modRing, Dev.modPart, modAt_of_le _ hl]
      have hd : d.part p = Part.reset p := by simp [Dev.part, List.getD_eq_getElem?_getD, List.getElem?_eq_none hl]
      refine ⟨by rw [this], ?_⟩
      simp only [Dev.ring, hd, Part.reset, List.getD_eq_getElem?_getD, List.getElem?_map]
      cases (List.range 16)[n]? <;> rfl
  | mgmt n =>
    by_cases hn : n < d.mgmt.rings.length
    · left
      simp only [Dev.ring, Dev.modRing]
      exact modAt_getD_eq f _ hn
    · right
      have hl : d.mgmt.rings.length ≤ n := by omega
      simp only [Dev.ring, Dev.modRing, modAt_of_le f hl, true_and]
      simp [List.getD_eq_getElem?_getD, List.getElem?_eq_none hl, RingSet.reset]

theorem Dev.ring_modRing_ne (d : Dev) {rs rs' : RsId} (f : RingSet → RingSet) (h : rs ≠ rs') :
    (d.modRing rs f).ring rs' = d.ring rs' := by
  cases rs with
  | part p n =>
    cases rs' with
    | part p' n' =>
      by_cases hp : p = p'
      · subst hp
        have hn : n ≠ n' := fun e => h (by rw [e])
        by_cases hl : p < d.parts.length
        · have : (d.modRing (.part p n) f).part p = { d.part p with rings := modAt f n (d.part p).rings } :=
            Dev.part_modPart_self d _ hl
          simp only [Dev.ring, this]
          exact modAt_getD_ne f _ hn
        · have : d.modRing (.part p n) f = d := by
            simp [Dev.modRing, Dev.modPart, modAt_of_le _ (Nat.le_of_not_lt hl)]
          rw [this]
      · have : (d.modRing (.part p n) f).part p' = d.part p' := Dev.part_modPart_ne d _ hp
        simp only [Dev.ring, this]
    | mgmt n' => rfl
  | mgmt n =>
    cases rs' with
    | part p' n' => rfl
    | mgmt n' => exact modAt_getD_ne f _ fun e => h (by rw [e])

/-! ### Requests -/

theorem find_modIf {f : Req → Req} (hf : ∀ q, (f q).seq = q.seq) (n m : Nat) : ∀ l : List Req,
    (modIf (fun q => q.seq == n) f l).find? (fun q => q.seq == m) =
      (l.find? fun q => q.seq == m).map fun q => if q.seq = n then f q else q
  | [] => rfl
  | q :: l => by
    have ih := find_modIf hf n m l
    have hq : ((if (q.seq == n) = true then f q else q).seq == m) = (q.seq == m) := by split <;> simp [hf]
    simp only [modIf, List.map_cons] at ih ⊢
    rw [List.find?_cons, List.find?_cons, hq, ih]
    cases q.seq == m <;> simp

theorem find_filter_self (n : Nat) : ∀ l : List Req, (l.filter fun q => q.seq != n).find? (fun q => q.seq == n) = none := by
  intro l; simp

theorem find_filter_ne {n m : Nat} (h : m ≠ n) : ∀ l : List Req,
    (l.filter fun q => q.seq != n).find? (fun q => q.seq == m) = l.find? fun q => q.seq == m
  | [] => rfl
  | q :: l => by
    have ih := find_filter_ne h l
    by_cases h1 : q.seq = n
    · have h2 : (q.seq == m) = false := by simpa [h1] using fun e => h e.symm
      rw [List.filter_cons_of_neg (by simp [h1]), List.find?_cons, h2, ih]
    · rw [List.filter_cons_of_pos (by simpa using h1), List.find?_cons, List.find?_cons, ih]

/-- A changed request is found changed. -/
theorem Dev.req?_modReq {d : Dev} {r : ReqRef} {f : Req → Req} (hf : ∀ q, (f q).seq = q.seq) :
    (d.modReq r f).req? r = (d.req? r).map f := by
  unfold Dev.req? Dev.modReq
  rcases Dev.ring_modRing_self d r.rs fun x => { x with inflight := modIf (fun q => q.seq == r.seq) f x.inflight } with h | ⟨h, h0⟩
  · rw [h]
    simp only [RingSet.req?, find_modIf hf]
    cases hq : (d.ring r.rs).inflight.find? fun q => q.seq == r.seq with
    | none => rfl
    | some q =>
      have := List.find?_some hq
      simp only [beq_iff_eq] at this
      simp [this]
  · rw [h]
    simp [RingSet.req?, h0]

/-- What every partition keeps through an update of one of them that keeps it. -/
theorem Dev.part_modPart_keep {α : Type} (g : Part → α) (d : Dev) (p k : Nat) (f : Part → Part) (hf : ∀ x, g (f x) = g x) :
    g ((d.modPart p f).part k) = g (d.part k) := by
  by_cases h : p = k
  · subst h
    by_cases hl : p < d.parts.length
    · rw [Dev.part_modPart_self d _ hl, hf]
    · simp [Dev.modPart, modAt_of_le _ (Nat.le_of_not_lt hl)]
  · rw [Dev.part_modPart_ne d _ h]

/-- An update of a partition that leaves its ring sets leaves every ring set. -/
theorem Dev.ring_modPart_keep (d : Dev) (p : Nat) (f : Part → Part) (hf : ∀ x, (f x).rings = x.rings) (rs : RsId) :
    (d.modPart p f).ring rs = d.ring rs := by
  cases rs with
  | mgmt n => rfl
  | part k n => exact congrArg (fun l => List.getD l n _) (Dev.part_modPart_keep (fun x => x.rings) d p k f hf)

/-- What an update leaves when each of its steps leaves it. -/
theorem foldl_keep {α β γ : Type} (g : β → γ) (f : β → α → β) (h : ∀ b a, g (f b a) = g b) : ∀ (l : List α) (b : β), g (l.foldl f b) = g b
  | [], _ => rfl
  | a :: l, b => by rw [List.foldl_cons, foldl_keep g f h l, h]

theorem Dev.ring_stopInv (d : Dev) (p : Nat) (rs : RsId) : (d.stopInv p).ring rs = d.ring rs := by
  unfold Dev.stopInv Dev.stopTiles
  dsimp only
  rw [foldl_keep (fun e : Dev => e.ring rs) _ (fun _ _ => by cases rs <;> rfl),
    foldl_keep (fun e : Dev => e.ring rs) _ (fun _ _ => by cases rs <;> rfl)]

theorem Dev.ring_leaveInvs (d : Dev) (r : ReqRef) (rs : RsId) : (d.leaveInvs r).ring rs = d.ring rs := by
  unfold Dev.leaveInvs
  split
  · rfl
  · dsimp only
    split
    · rw [Dev.ring_stopInv]; exact Dev.ring_modPart_keep d _ (fun x => x.leaveInvs r) (fun _ => rfl) rs
    · exact Dev.ring_modPart_keep d _ (fun x => x.leaveInvs r) (fun _ => rfl) rs

/-- A horizon that has risen leaves every ring set. -/
theorem Dev.ring_horizon (d e : Dev) (s rs : RsId) :
    (match s with
      | .mgmt _ => e
      | .part p _ => if (d.part p).horizon < (e.part p).horizon then e.modPart p Part.passHorizon else e).ring rs = e.ring rs := by
  cases s with
  | mgmt n => rfl
  | part p n =>
    dsimp only
    split
    · exact Dev.ring_modPart_keep e p Part.passHorizon (fun _ => rfl) rs
    · rfl

/-- Dropping a request takes it out of its ring set's in-flight table, and changes no other ring set's. -/
theorem Dev.ring_dropReq (d : Dev) (r : ReqRef) (rs : RsId) :
    ∃ e : Dev, (∀ k, e.ring k = d.ring k) ∧
      (d.dropReq r).ring rs = (e.modRing r.rs fun x => { x with inflight := x.inflight.filter fun q => q.seq != r.seq }).ring rs := by
  unfold Dev.dropReq
  refine ⟨(match d.req? r, r.rs with
    | some q, .part p _ => if fld q.desc 0 1 == 0x40 && q.admitted then d.modPart p fun x => x.endLoad (fld q.desc 24 2) else d
    | _, _ => d).leaveInvs r, fun k => ?_, Dev.ring_horizon _ _ _ _⟩
  rw [Dev.ring_leaveInvs]
  split
  · rename_i q p _ _ _
    split
    · exact Dev.ring_modPart_keep d p (fun x => x.endLoad (fld q.desc 24 2)) (fun _ => rfl) k
    · rfl
  · rfl

theorem Dev.req?_dropReq_self (d : Dev) (r : ReqRef) : (d.dropReq r).req? r = none := by
  unfold Dev.req?
  obtain ⟨e, -, h⟩ := Dev.ring_dropReq d r r.rs
  rw [h]
  rcases Dev.ring_modRing_self e r.rs fun x => { x with inflight := x.inflight.filter fun q => q.seq != r.seq } with h | ⟨h, h0⟩
  · rw [h]; simp [RingSet.req?]
  · rw [h]; simp [RingSet.req?, h0]

theorem Dev.req?_dropReq_ne (d : Dev) {r r' : ReqRef} (hr : r' ≠ r) : (d.dropReq r).req? r' = d.req? r' := by
  unfold Dev.req?
  obtain ⟨e, he, h⟩ := Dev.ring_dropReq d r r'.rs
  rw [h, ← he]
  by_cases hs : r.rs = r'.rs
  · have hn : r'.seq ≠ r.seq := fun e => hr (by cases r; cases r'; simp_all)
    rw [← hs]
    rcases Dev.ring_modRing_self e r.rs fun x => { x with inflight := x.inflight.filter fun q => q.seq != r.seq } with h | ⟨h, h0⟩
    · rw [h]; exact find_filter_ne hn _
    · rw [h]
  · rw [Dev.ring_modRing_ne e _ hs]

theorem Dev.req?_finish_self (d : Dev) (c : Clock) (r : ReqRef) (e : Ending) : (d.finish c r e).req? r = none := by
  unfold Dev.finish
  split
  · assumption
  · rw [Dev.req?_putEntry]; exact Dev.req?_dropReq_self d r

theorem Dev.req?_finish_ne (d : Dev) (c : Clock) {r r' : ReqRef} (e : Ending) (h : r' ≠ r) :
    (d.finish c r e).req? r' = d.req? r' := by
  unfold Dev.finish
  split
  · rfl
  · rw [Dev.req?_putEntry]; exact Dev.req?_dropReq_ne d h

/-- A request as admission leaves it, before what the command keeps of its own (R24, R118). -/
def Dev.entered (d : Dev) (c : Clock) (r : ReqRef) (q : Req) : Req :=
  { q with admitted := true, waiting := false, epoch := (d.part r.rs.partNo).vis.cur, admitTime := c.time,
           ponr := q.ponr || ponrAtAdmission q.opcode }

theorem Dev.req?_modVis (d : Dev) (p : Nat) (f : Vis → Vis) (r : ReqRef) :
    (d.modPart p fun x => { x with vis := f x.vis }).req? r = d.req? r := by
  unfold Dev.req?
  cases hr : r.rs with
  | mgmt n => rfl
  | part k n =>
    by_cases h : p = k
    · subst h
      by_cases hl : p < d.parts.length
      · simp [Dev.ring, Dev.part_modPart_self d _ hl]
      · simp [Dev.modPart, modAt_of_le _ (Nat.le_of_not_lt hl)]
    · simp [Dev.ring, Dev.part_modPart_ne d _ h]

/-- A request packet of a connection leaves of every partition all but its ring sets. -/
theorem Dev.part_sendRdma_keep {α : Type} (g : Part → α) (hg : ∀ (x : Part) l, g { x with rings := l } = g x)
    (d : Dev) (c : Clock) (rs : RsId) (o : RoceOut) (p : Nat) : g ((d.sendRdma c rs o).part p) = g (d.part p) := by
  unfold Dev.sendRdma
  split
  · rfl
  · split
    · unfold Dev.issueRdma
      dsimp only
      rw [(outward_sendTo _ c _ _ o.tie o.svc _ true o.len _).part p]
      cases rs with
      | mgmt n => rfl
      | part q n => exact Dev.part_modPart_keep g _ q p _ fun x => hg x _
    · cases rs with
      | mgmt n => rfl
      | part q n => exact Dev.part_modPart_keep g _ q p _ fun x => hg x _

theorem Dev.part_readInputs_keep {α : Type} (g : Part → α) (hg : ∀ (x : Part) l, g { x with rings := l } = g x)
    (d : Dev) (c : Clock) (r : ReqRef) (p : Nat) : g ((d.readInputs c r).part p) = g (d.part p) := by
  unfold Dev.readInputs
  generalize ((d.req? r).map (d.inputs r)).getD [] = l
  induction l generalizing d with
  | nil => rfl
  | cons e l ih =>
    rw [List.foldl_cons, ih]
    unfold Dev.askHost Dev.readHost
    dsimp only
    split
    · split
      · exact Dev.part_sendRdma_keep g hg d c r.rs _ p
      · rfl
    · rfl

/-- An admitted request holds its epoch and its time. -/
theorem Dev.req?_enter {d : Dev} {c : Clock} {r : ReqRef} {f : Req → Req} {q : Req} (h : d.req? r = some q)
    (hf : ∀ q, (f q).seq = q.seq) : (d.enter c r f).req? r = some (f (d.entered c r q)) := by
  have hi : (d.readInputs c r).req? r = d.req? r := by
    simp only [Dev.req?, RingSet.req?, Dev.ring_readInputs (fun x => x.inflight) (fun _ _ => rfl) d c r r.rs]
  have hv : ((d.readInputs c r).part r.rs.partNo).vis = (d.part r.rs.partNo).vis :=
    Dev.part_readInputs_keep (fun x => x.vis) (fun _ _ => rfl) d c r _
  unfold Dev.enter
  dsimp only
  rw [Dev.req?_modReq (by intro q; rw [hf]), Dev.req?_modVis _ r.rs.partNo Vis.take, hi, h, hv]
  rfl

theorem Dev.part_modRing_keep {α : Type} (g : Part → α) (d : Dev) (rs : RsId) (k : Nat) (f : RingSet → RingSet)
    (hg : ∀ (x : Part) l, g { x with rings := l } = g x) : g ((d.modRing rs f).part k) = g (d.part k) := by
  cases rs with
  | part p n => exact Dev.part_modPart_keep g d p k _ fun x => hg x _
  | mgmt n => rfl

/-- Admission leaves of every partition all but its ring sets and its epochs. -/
theorem Dev.part_enter_keep {α : Type} (g : Part → α) (d : Dev) (c : Clock) (r : ReqRef) (f : Req → Req) (k : Nat)
    (h1 : ∀ (x : Part) l, g { x with rings := l } = g x) (h2 : ∀ (x : Part) v, g { x with vis := v } = g x) :
    g ((d.enter c r f).part k) = g (d.part k) := by
  unfold Dev.enter Dev.modReq
  dsimp only
  rw [Dev.part_modRing_keep g _ _ _ _ h1, Dev.part_modPart_keep g _ _ k _ fun x => h2 x _]
  exact Dev.part_readInputs_keep g h1 d c r k

theorem Dev.opOf_congr {d e : Dev} (h : ∀ p, (e.part p).ops = (d.part p).ops) (rs : RsId) (seq : Nat) :
    e.opOf rs seq = d.opOf rs seq := by
  cases rs <;> simp [Dev.opOf, Part.op?, h]

theorem Dev.opOf_enter (d : Dev) (c : Clock) (r : ReqRef) (f : Req → Req) (rs : RsId) (seq : Nat) :
    (d.enter c r f).opOf rs seq = d.opOf rs seq :=
  Dev.opOf_congr (fun p => Dev.part_enter_keep (fun x => x.ops) d c r f p (fun _ _ => rfl) fun _ _ => rfl) rs seq

/-! ### Commands that start a long operation -/

/-- One that fails a check ends with that check's status. -/
theorem Dev.longCommand_refused {d : Dev} {c : Clock} {r : ReqRef} {io : Io} {op p base : Nat} {perm fields handles : Req → Bool}
    {space : Dev → Req → Option Nat} {mk : Dev → Req → LongOp} {before : Dev → Dev} {q : Req} {e : Ending}
    (h : d.req? r = some q) (ho : q.opcode = op) (hc : d.canRun r q = true) (ha : q.admitted = false) (hw : q.waiting = false)
    (hg : d.gate c r q (perm q) (fields q) (handles q) = some e) :
    d.longCommand c r io op p base perm fields handles space mk before = d.finish c r e := by
  unfold Dev.longCommand
  dsimp only
  rw [Dev.command_refused (e := e) _ _ _ _ _ _ h ho hc ha hw (by simpa [ha] using hg)]
  simp [Dev.beginOp, Dev.req?_finish_self]

/-- One that passes every check and finds room is admitted as the carrier of its operation. -/
theorem Dev.longCommand_begins {d : Dev} {c : Clock} {r : ReqRef} {io : Io} {op p base : Nat} {perm fields handles : Req → Bool}
    {space : Dev → Req → Option Nat} {mk : Dev → Req → LongOp} {before : Dev → Dev} {q : Req}
    (h : d.req? r = some q) (ho : q.opcode = op) (hc : d.canRun r q = true) (ha : q.admitted = false) (hw : q.waiting = false)
    (hu : io.upto = .admitted) (hg : d.gate c r q (perm q) (fields q) (handles q) = none)
    (hq : r.rs.isMgmt = false → (d.part p).ownOps < 8) (hs : space d q = none)
    (hn : ∀ e, d.opOf r.rs r.seq = some e → e.2.active = false) :
    d.longCommand c r io op p base perm fields handles space mk before =
      let e := before (d.enter c r fun y => { y with work := .carrier r.rs r.seq })
      e.modPart p fun y => { y with ops := y.ops ++ [mk e { d.entered c r q with work := .carrier r.rs r.seq }] } := by
  have h1 : (d.enter c r fun y => { y with work := .carrier r.rs r.seq }).req? r =
      some { d.entered c r q with work := .carrier r.rs r.seq } := Dev.req?_enter h fun _ => rfl
  have h2 : ((d.enter c r fun y => { y with work := .carrier r.rs r.seq }).carried
      { d.entered c r q with work := .carrier r.rs r.seq }).isSome = false := by
    simp only [Dev.carried, Dev.opOf_enter]
    cases ho : d.opOf r.rs r.seq with
    | none => rfl
    | some e => simp [hn e ho]
  unfold Dev.longCommand
  dsimp only
  rw [Dev.command_admits (f := fun y => { y with work := .carrier r.rs r.seq }) _ _ _ _ _ _ h ho hc ha hw (by simpa [ha] using hg)]
  · simp only [hu, if_true, Dev.beginOp, h1, h2]
    simp [Dev.entered]
  · have : ¬ (r.rs.isMgmt = false ∧ 8 ≤ (d.part p).ownOps) := fun ⟨a, b⟩ => absurd (hq a) (by omega)
    simp [this, hs]

end Sys2Proof.Machine
end

