-- ==== Sys2Proof/Laws/Runs.lean ====
section
/-! SUPPORT. A request in hand runs its work: what `command` answers is what the work answers (R342, R344). -/

namespace Sys2Proof.Machine

open Sys2Proof

/-- The work ends the request. -/
theorem Dev.command_ends {s : State} {r : ReqRef} {op : Nat} {q : Req} (h : Carries s r op q) (upto : Upto)
    (perm fields handles : Req → Bool) (quota : Dev → Req → Grant) (work : Dev → Req → Dev × Option Ending) {d : Dev} {e : Ending}
    (hw : work s.dev q = (d, some e)) :
    s.dev.command s.clock r op upto perm fields handles quota work = d.finish s.clock r e := by
  obtain ⟨h1, h2, h3, h4, h5⟩ := h
  rw [Dev.command_admitted upto perm fields handles quota work h1 h2 h3 h4 h5]
  simp [Dev.runWork, h1, hw]

/-- The work leaves the request in flight. -/
theorem Dev.command_goes_on {s : State} {r : ReqRef} {op : Nat} {q : Req} (h : Carries s r op q) (upto : Upto)
    (perm fields handles : Req → Bool) (quota : Dev → Req → Grant) (work : Dev → Req → Dev × Option Ending) {d : Dev}
    (hw : work s.dev q = (d, none)) :
    s.dev.command s.clock r op upto perm fields handles quota work = d := by
  obtain ⟨h1, h2, h3, h4, h5⟩ := h
  rw [Dev.command_admitted upto perm fields handles quota work h1 h2 h3 h4 h5]
  simp [Dev.runWork, h1, hw]

end Sys2Proof.Machine
end

