-- ==== Sys2Proof/Laws/Step.lean ====
section
/-! SUPPORT. What any command and any step can do to the whole state, said once: the queue stands, and fabric time stands or is
reached, but for the commands that set the clock. -/

namespace Sys2Proof.Machine

open Sys2Proof

/-- The commands that may change the keeper's counts otherwise than by letting fabric time pass: synchronisation, supplies,
resets, sleep, and the bring-up stages. -/
def setsClock : Instr → Bool
  | .moduleReset _ _ | .sleep _ _ | .wake _ _ | .wakeAtReached | .fabricWakePattern _ | .sync _ _ | .announceTimeout | .powerOn | .lowerLimitTrip | .inputLostInSleep | .auxInputLost | .auxInputRestored | .moduleResetNAssert | .moduleResetNRelease | .moduleResetNColdHold | .thermalSample _ | .thermalShutdown | .thermalShutdownExit | .bringupStage _ | .followUp _ _ => true
  | _ => false

/-- The outcome of a command: a next state with the same queue, whose clock has only been let pass unless the command sets it. -/
structure Goes (s : State) (sets : Bool) (o : Out) : Prop where
  out : ∃ c d, o = .next { s with clock := c, dev := d } ∧ (sets = false → ∃ n, c = s.clock.reach n)

theorem Clock.reach_zero (c : Clock) : c.reach 0 = c := by
  simp [Clock.reach]

theorem Clock.reach_reach (c : Clock) (m n : Nat) : (c.reach m).reach ((c.reach m).time + n) = c.reach (max c.time m + n) := by
  have h1 : max (max c.time m) (max c.time m + n) = max c.time (max c.time m + n) := by omega
  simp only [Clock.reach, h1]
  split
  · congr 1
    omega
  · rfl

theorem goes_onDev (s : State) (b : Bool) (f : Clock → Dev → Dev) : Goes s b (s.onDev f) :=
  ⟨⟨s.clock, f s.clock s.dev, rfl, fun _ => ⟨0, (Clock.reach_zero _).symm⟩⟩⟩

theorem goes_atTime (s : State) (b : Bool) (n : Nat) (f : Clock → Dev → Dev) : Goes s b (s.atTime n f) :=
  ⟨⟨_, _, rfl, fun _ => ⟨n, rfl⟩⟩⟩

theorem goes_onBoth (s : State) (f : Clock → Dev → Clock × Dev) : Goes s true (s.onBoth f) :=
  ⟨⟨_, _, rfl, fun h => Bool.noConfusion h⟩⟩

theorem goes_execDoorbellPoll (rs : RsId) (s : State) : Goes s false (execDoorbellPoll rs s) := by
  unfold execDoorbellPoll
  repeat' split
  all_goals first | exact goes_onDev _ _ _ | exact goes_atTime _ _ _ _

theorem goes_execModerationTimeout (rs : RsId) (s : State) : Goes s false (execModerationTimeout rs s) := by
  unfold execModerationTimeout
  dsimp only
  repeat' split
  all_goals first | exact goes_onDev _ _ _ | exact goes_atTime _ _ _ _

theorem goes_execDrainBoundExpiry (rs : RsId) (s : State) : Goes s false (execDrainBoundExpiry rs s) := by
  unfold execDrainBoundExpiry
  repeat' split
  all_goals first | exact goes_onDev _ _ _ | exact goes_atTime _ _ _ _

theorem goes_execRoceAckTimeout (rs : RsId) (s : State) : Goes s false (execRoceAckTimeout rs s) := by
  unfold execRoceAckTimeout
  dsimp only
  repeat' split
  all_goals first | exact goes_onDev _ _ _ | exact goes_atTime _ _ _ _

theorem goes_execUpdateRepeatTimeout (p sequence : Nat) (s : State) : Goes s false (execUpdateRepeatTimeout p sequence s) := by
  unfold execUpdateRepeatTimeout
  repeat' split
  all_goals first | exact goes_onDev _ _ _ | exact goes_atTime _ _ _ _

theorem goes_execRecorderFreezeTimeout (s : State) : Goes s false (execRecorderFreezeTimeout s) := by
  unfold execRecorderFreezeTimeout
  repeat' split
  all_goals first | exact goes_onDev _ _ _ | exact goes_atTime _ _ _ _

theorem goes_execCoalesceWindowClose (i : Nat) (s : State) : Goes s false (execCoalesceWindowClose i s) := by
  unfold execCoalesceWindowClose
  repeat' split
  all_goals first | exact goes_onDev _ _ _ | exact goes_atTime _ _ _ _

theorem goes_execCompositionEffective (s : State) : Goes s false (execCompositionEffective s) := by
  unfold execCompositionEffective
  repeat' split
  all_goals first | exact goes_onDev _ _ _ | exact goes_atTime _ _ _ _

theorem goes_execGracePeriodEnd (s : State) : Goes s false (execGracePeriodEnd s) := by
  unfold execGracePeriodEnd
  repeat' split
  all_goals first | exact goes_onDev _ _ _ | exact goes_atTime _ _ _ _

theorem goes_execLldpTtlExpiry (port i : Nat) (s : State) : Goes s false (execLldpTtlExpiry port i s) := by
  unfold execLldpTtlExpiry
  repeat' split
  all_goals first | exact goes_onDev _ _ _ | exact goes_atTime _ _ _ _

theorem goes_execLldpTransmit (port : Nat) (s : State) : Goes s false (execLldpTransmit port s) := by
  unfold execLldpTransmit
  dsimp only
  repeat' split
  all_goals first | exact goes_onDev _ _ _ | exact goes_atTime _ _ _ _

theorem goes_execGateEntryBoundary (port : Nat) (s : State) : Goes s false (execGateEntryBoundary port s) := by
  unfold execGateEntryBoundary
  repeat' split
  all_goals first | exact goes_onDev _ _ _ | exact goes_atTime _ _ _ _

theorem goes_execEpochTick (p : Nat) (s : State) : Goes s false (execEpochTick p s) := by
  unfold execEpochTick
  dsimp only
  repeat' split
  all_goals first | exact goes_onDev _ _ _ | exact goes_atTime _ _ _ _

theorem goes_execDeadlineExpiry (r : ReqRef) (s : State) : Goes s false (execDeadlineExpiry r s) := by
  unfold execDeadlineExpiry
  repeat' split
  all_goals first | exact goes_onDev _ _ _ | exact goes_atTime _ _ _ _

theorem goes_execCheckpointTimer (p : Nat) (s : State) : Goes s false (execCheckpointTimer p s) := by
  unfold execCheckpointTimer
  dsimp only
  repeat' split
  all_goals first | exact goes_onDev _ _ _ | exact goes_atTime _ _ _ _

theorem goes_execStripeCloseTimeout (id : Nat) (s : State) : Goes s false (execStripeCloseTimeout id s) := by
  unfold execStripeCloseTimeout
  repeat' split
  all_goals first | exact goes_onDev _ _ _ | exact goes_atTime _ _ _ _

theorem goes_execMemoryWindowExpiry (ch : Nat) (s : State) : Goes s false (execMemoryWindowExpiry ch s) := by
  unfold execMemoryWindowExpiry
  repeat' split
  all_goals first | exact goes_onDev _ _ _ | exact goes_atTime _ _ _ _

theorem goes_execFwActivation (s : State) : Goes s false (execFwActivation s) := by
  unfold execFwActivation
  repeat' split
  all_goals first | exact goes_onDev _ _ _ | exact goes_atTime _ _ _ _

theorem goes_execFwActivationRollback (s : State) : Goes s false (execFwActivationRollback s) := by
  unfold execFwActivationRollback
  split
  · exact goes_onDev _ _ _
  · exact ⟨⟨_, _, rfl, fun _ => ⟨_, Clock.reach_reach _ _ _⟩⟩⟩

theorem goes_execFrameTransmissionEnd (port : Nat) (s : State) : Goes s false (execFrameTransmissionEnd port s) := by
  unfold execFrameTransmissionEnd
  dsimp only
  repeat' split
  all_goals first | exact goes_onDev _ _ _ | exact goes_atTime _ _ _ _

/-- What a command can do. -/
theorem exec_goes (i : Instr) (s : State) : Goes s (setsClock i) (exec i s) := by
  cases i with
  | search _ _ => exact ⟨⟨_, _, rfl, fun _ => ⟨0, (Clock.reach_zero _).symm⟩⟩⟩
  | searchBatch _ _ => exact ⟨⟨_, _, rfl, fun _ => ⟨0, (Clock.reach_zero _).symm⟩⟩⟩
  | recallProbe _ _ => exact ⟨⟨_, _, rfl, fun _ => ⟨0, (Clock.reach_zero _).symm⟩⟩⟩
  | insert _ _ => exact ⟨⟨_, _, rfl, fun _ => ⟨0, (Clock.reach_zero _).symm⟩⟩⟩
  | delete _ _ => exact ⟨⟨_, _, rfl, fun _ => ⟨0, (Clock.reach_zero _).symm⟩⟩⟩
  | upsert _ _ => exact ⟨⟨_, _, rfl, fun _ => ⟨0, (Clock.reach_zero _).symm⟩⟩⟩
  | indexCreate _ _ => exact ⟨⟨_, _, rfl, fun _ => ⟨0, (Clock.reach_zero _).symm⟩⟩⟩
  | indexBuild _ _ => exact ⟨⟨_, _, rfl, fun _ => ⟨0, (Clock.reach_zero _).symm⟩⟩⟩
  | indexCompact _ _ => exact ⟨⟨_, _, rfl, fun _ => ⟨0, (Clock.reach_zero _).symm⟩⟩⟩
  | put _ _ => exact ⟨⟨_, _, rfl, fun _ => ⟨0, (Clock.reach_zero _).symm⟩⟩⟩
  | get _ _ => exact ⟨⟨_, _, rfl, fun _ => ⟨0, (Clock.reach_zero _).symm⟩⟩⟩
  | discard _ _ => exact ⟨⟨_, _, rfl, fun _ => ⟨0, (Clock.reach_zero _).symm⟩⟩⟩
  | secureDiscard _ _ => exact ⟨⟨_, _, rfl, fun _ => ⟨0, (Clock.reach_zero _).symm⟩⟩⟩
  | flush _ _ => exact ⟨⟨_, _, rfl, fun _ => ⟨0, (Clock.reach_zero _).symm⟩⟩⟩
  | modelLoad _ _ => exact ⟨⟨_, _, rfl, fun _ => ⟨0, (Clock.reach_zero _).symm⟩⟩⟩
  | modelUnload _ _ => exact ⟨⟨_, _, rfl, fun _ => ⟨0, (Clock.reach_zero _).symm⟩⟩⟩
  | embed _ _ => exact ⟨⟨_, _, rfl, fun _ => ⟨0, (Clock.reach_zero _).symm⟩⟩⟩
  | rerank _ _ => exact ⟨⟨_, _, rfl, fun _ => ⟨0, (Clock.reach_zero _).symm⟩⟩⟩
  | trainStep _ _ => exact ⟨⟨_, _, rfl, fun _ => ⟨0, (Clock.reach_zero _).symm⟩⟩⟩
  | tableCreate _ _ => exact ⟨⟨_, _, rfl, fun _ => ⟨0, (Clock.reach_zero _).symm⟩⟩⟩
  | gather _ _ => exact ⟨⟨_, _, rfl, fun _ => ⟨0, (Clock.reach_zero _).symm⟩⟩⟩
  | scatterUpdate _ _ => exact ⟨⟨_, _, rfl, fun _ => ⟨0, (Clock.reach_zero _).symm⟩⟩⟩
  | abort _ => exact ⟨⟨_, _, rfl, fun _ => ⟨0, (Clock.reach_zero _).symm⟩⟩⟩
  | opQuery _ => exact ⟨⟨_, _, rfl, fun _ => ⟨0, (Clock.reach_zero _).symm⟩⟩⟩
  | opSuspend _ => exact ⟨⟨_, _, rfl, fun _ => ⟨0, (Clock.reach_zero _).symm⟩⟩⟩
  | opResume _ _ => exact ⟨⟨_, _, rfl, fun _ => ⟨0, (Clock.reach_zero _).symm⟩⟩⟩
  | opCancel _ => exact ⟨⟨_, _, rfl, fun _ => ⟨0, (Clock.reach_zero _).symm⟩⟩⟩
  | identify _ _ => exact ⟨⟨_, _, rfl, fun _ => ⟨0, (Clock.reach_zero _).symm⟩⟩⟩
  | getLog _ _ => exact ⟨⟨_, _, rfl, fun _ => ⟨0, (Clock.reach_zero _).symm⟩⟩⟩
  | getFeature _ _ => exact ⟨⟨_, _, rfl, fun _ => ⟨0, (Clock.reach_zero _).symm⟩⟩⟩
  | setFeature _ _ => exact ⟨⟨_, _, rfl, fun _ => ⟨0, (Clock.reach_zero _).symm⟩⟩⟩
  | fwDownload _ _ => exact ⟨⟨_, _, rfl, fun _ => ⟨0, (Clock.reach_zero _).symm⟩⟩⟩
  | fwCommit _ _ _ _ _ => exact ⟨⟨_, _, rfl, fun _ => ⟨0, (Clock.reach_zero _).symm⟩⟩⟩
  | format _ _ => exact ⟨⟨_, _, rfl, fun _ => ⟨0, (Clock.reach_zero _).symm⟩⟩⟩
  | sanitise _ _ => exact ⟨⟨_, _, rfl, fun _ => ⟨0, (Clock.reach_zero _).symm⟩⟩⟩
  | openPart _ => exact ⟨⟨_, _, rfl, fun _ => ⟨0, (Clock.reach_zero _).symm⟩⟩⟩
  | startPart _ => exact ⟨⟨_, _, rfl, fun _ => ⟨0, (Clock.reach_zero _).symm⟩⟩⟩
  | disablePart _ => exact ⟨⟨_, _, rfl, fun _ => ⟨0, (Clock.reach_zero _).symm⟩⟩⟩
  | closePart _ => exact ⟨⟨_, _, rfl, fun _ => ⟨0, (Clock.reach_zero _).symm⟩⟩⟩
  | keyLoad _ _ => exact ⟨⟨_, _, rfl, fun _ => ⟨0, (Clock.reach_zero _).symm⟩⟩⟩
  | stopRing _ => exact ⟨⟨_, _, rfl, fun _ => ⟨0, (Clock.reach_zero _).symm⟩⟩⟩
  | restartRing _ => exact ⟨⟨_, _, rfl, fun _ => ⟨0, (Clock.reach_zero _).symm⟩⟩⟩
  | registerWrite _ _ _ _ => exact ⟨⟨_, _, rfl, fun _ => ⟨0, (Clock.reach_zero _).symm⟩⟩⟩
  | lowHalfRead _ _ => exact ⟨⟨_, _, rfl, fun _ => ⟨0, (Clock.reach_zero _).symm⟩⟩⟩
  | highHalfRead _ _ => exact ⟨⟨_, _, rfl, fun _ => ⟨0, (Clock.reach_zero _).symm⟩⟩⟩
  | localNudge _ _ => exact ⟨⟨_, _, rfl, fun _ => ⟨0, (Clock.reach_zero _).symm⟩⟩⟩
  | msixUnmask _ _ => exact ⟨⟨_, _, rfl, fun _ => ⟨0, (Clock.reach_zero _).symm⟩⟩⟩
  | doorbellPoll _ => exact goes_execDoorbellPoll _ s
  | doorbellPollReturn _ _ => exact ⟨⟨_, _, rfl, fun _ => ⟨0, (Clock.reach_zero _).symm⟩⟩⟩
  | descriptorFetch _ _ => exact ⟨⟨_, _, rfl, fun _ => ⟨0, (Clock.reach_zero _).symm⟩⟩⟩
  | admission _ => exact ⟨⟨_, _, rfl, fun _ => ⟨0, (Clock.reach_zero _).symm⟩⟩⟩
  | moderationTimeout _ => exact goes_execModerationTimeout _ s
  | drainBoundExpiry _ => exact goes_execDrainBoundExpiry _ s
  | drainComplete _ => exact ⟨⟨_, _, rfl, fun _ => ⟨0, (Clock.reach_zero _).symm⟩⟩⟩
  | ringFaulted _ _ => exact ⟨⟨_, _, rfl, fun _ => ⟨0, (Clock.reach_zero _).symm⟩⟩⟩
  | functionLevelReset _ => exact ⟨⟨_, _, rfl, fun _ => ⟨0, (Clock.reach_zero _).symm⟩⟩⟩
  | mgmtFunctionLevelReset => exact ⟨⟨_, _, rfl, fun _ => ⟨0, (Clock.reach_zero _).symm⟩⟩⟩
  | setupRead _ => exact ⟨⟨_, _, rfl, fun _ => ⟨0, (Clock.reach_zero _).symm⟩⟩⟩
  | setupWrite _ => exact ⟨⟨_, _, rfl, fun _ => ⟨0, (Clock.reach_zero _).symm⟩⟩⟩
  | spdmRequest _ => exact ⟨⟨_, _, rfl, fun _ => ⟨0, (Clock.reach_zero _).symm⟩⟩⟩
  | fabricNudge _ => exact ⟨⟨_, _, rfl, fun _ => ⟨0, (Clock.reach_zero _).symm⟩⟩⟩
  | rdmaPacket _ _ => exact ⟨⟨_, _, rfl, fun _ => ⟨0, (Clock.reach_zero _).symm⟩⟩⟩
  | cnp _ => exact ⟨⟨_, _, rfl, fun _ => ⟨0, (Clock.reach_zero _).symm⟩⟩⟩
  | roceAckTimeout _ => exact goes_execRoceAckTimeout _ s
  | update _ => exact ⟨⟨_, _, rfl, fun _ => ⟨0, (Clock.reach_zero _).symm⟩⟩⟩
  | updateAck _ => exact ⟨⟨_, _, rfl, fun _ => ⟨0, (Clock.reach_zero _).symm⟩⟩⟩
  | updateRepeatTimeout _ _ => exact goes_execUpdateRepeatTimeout _ _ s
  | compose _ _ => exact ⟨⟨_, _, rfl, fun _ => ⟨0, (Clock.reach_zero _).symm⟩⟩⟩
  | traffic _ _ => exact ⟨⟨_, _, rfl, fun _ => ⟨0, (Clock.reach_zero _).symm⟩⟩⟩
  | gates _ _ => exact ⟨⟨_, _, rfl, fun _ => ⟨0, (Clock.reach_zero _).symm⟩⟩⟩
  | fabric _ _ => exact ⟨⟨_, _, rfl, fun _ => ⟨0, (Clock.reach_zero _).symm⟩⟩⟩
  | fence _ _ => exact ⟨⟨_, _, rfl, fun _ => ⟨0, (Clock.reach_zero _).symm⟩⟩⟩
  | release _ _ => exact ⟨⟨_, _, rfl, fun _ => ⟨0, (Clock.reach_zero _).symm⟩⟩⟩
  | query _ _ => exact ⟨⟨_, _, rfl, fun _ => ⟨0, (Clock.reach_zero _).symm⟩⟩⟩
  | recorderFreeze _ _ => exact ⟨⟨_, _, rfl, fun _ => ⟨0, (Clock.reach_zero _).symm⟩⟩⟩
  | recorderThaw _ _ => exact ⟨⟨_, _, rfl, fun _ => ⟨0, (Clock.reach_zero _).symm⟩⟩⟩
  | recorderRead _ _ => exact ⟨⟨_, _, rfl, fun _ => ⟨0, (Clock.reach_zero _).symm⟩⟩⟩
  | recorderFreezeTimeout => exact goes_execRecorderFreezeTimeout s
  | coalesceWindowClose _ => exact goes_execCoalesceWindowClose _ s
  | moduleReset _ _ => exact ⟨⟨_, _, rfl, fun h => Bool.noConfusion h⟩⟩
  | sleep _ _ => exact ⟨⟨_, _, rfl, fun h => Bool.noConfusion h⟩⟩
  | wake _ _ => exact ⟨⟨_, _, rfl, fun h => Bool.noConfusion h⟩⟩
  | wakeAtReached =>
    simp only [exec, execWakeAtReached]
    split
    · exact ⟨⟨_, _, rfl, fun h => Bool.noConfusion h⟩⟩
    · exact ⟨⟨_, _, rfl, fun h => Bool.noConfusion h⟩⟩
  | fabricWakePattern _ => exact ⟨⟨_, _, rfl, fun h => Bool.noConfusion h⟩⟩
  | compositionEffective => exact goes_execCompositionEffective s
  | gracePeriodEnd => exact goes_execGracePeriodEnd s
  | announce _ _ => exact ⟨⟨_, _, rfl, fun _ => ⟨0, (Clock.reach_zero _).symm⟩⟩⟩
  | sync _ _ => exact ⟨⟨_, _, rfl, fun h => Bool.noConfusion h⟩⟩
  | delayResp _ _ => exact ⟨⟨_, _, rfl, fun _ => ⟨0, (Clock.reach_zero _).symm⟩⟩⟩
  | announceTimeout =>
    simp only [exec, execAnnounceTimeout]
    split
    · exact ⟨⟨_, _, rfl, fun h => Bool.noConfusion h⟩⟩
    · exact ⟨⟨_, _, rfl, fun h => Bool.noConfusion h⟩⟩
  | lldpdu _ _ => exact ⟨⟨_, _, rfl, fun _ => ⟨0, (Clock.reach_zero _).symm⟩⟩⟩
  | lldpTtlExpiry _ _ => exact goes_execLldpTtlExpiry _ _ s
  | lldpTransmit _ => exact goes_execLldpTransmit _ s
  | neighborSolicitation _ _ _ => exact ⟨⟨_, _, rfl, fun _ => ⟨0, (Clock.reach_zero _).symm⟩⟩⟩
  | echoRequest _ _ _ _ => exact ⟨⟨_, _, rfl, fun _ => ⟨0, (Clock.reach_zero _).symm⟩⟩⟩
  | gateEntryBoundary _ => exact goes_execGateEntryBoundary _ s
  | epochTick _ => exact goes_execEpochTick _ s
  | reproducibleBatchApply _ => exact ⟨⟨_, _, rfl, fun _ => ⟨0, (Clock.reach_zero _).symm⟩⟩⟩
  | barrierEpochApply _ => exact ⟨⟨_, _, rfl, fun _ => ⟨0, (Clock.reach_zero _).symm⟩⟩⟩
  | deadlineExpiry _ => exact goes_execDeadlineExpiry _ s
  | rebalancingPoint => exact ⟨⟨_, _, rfl, fun _ => ⟨_, rfl⟩⟩⟩
  | checkpointTimer _ => exact goes_execCheckpointTimer _ s
  | patrolScrub _ _ => exact ⟨⟨_, _, rfl, fun _ => ⟨0, (Clock.reach_zero _).symm⟩⟩⟩
  | holdupMeasurement _ => exact ⟨⟨_, _, rfl, fun _ => ⟨0, (Clock.reach_zero _).symm⟩⟩⟩
  | fabricTimeFloorWrite => exact ⟨⟨_, _, rfl, fun _ => ⟨0, (Clock.reach_zero _).symm⟩⟩⟩
  | stripeCloseTimeout _ => exact goes_execStripeCloseTimeout _ s
  | stripeDurable _ => exact ⟨⟨_, _, rfl, fun _ => ⟨0, (Clock.reach_zero _).symm⟩⟩⟩
  | imageSegmentRewrite _ _ => exact ⟨⟨_, _, rfl, fun _ => ⟨0, (Clock.reach_zero _).symm⟩⟩⟩
  | groomerBackground _ _ => exact ⟨⟨_, _, rfl, fun _ => ⟨_, rfl⟩⟩⟩
  | groomerForeground _ _ => exact ⟨⟨_, _, rfl, fun _ => ⟨0, (Clock.reach_zero _).symm⟩⟩⟩
  | wearLevelling _ _ => exact ⟨⟨_, _, rfl, fun _ => ⟨_, rfl⟩⟩⟩
  | relocationComplete _ => exact ⟨⟨_, _, rfl, fun _ => ⟨0, (Clock.reach_zero _).symm⟩⟩⟩
  | flashReadComplete _ _ _ _ => exact ⟨⟨_, _, rfl, fun _ => ⟨0, (Clock.reach_zero _).symm⟩⟩⟩
  | walkComplete _ _ => exact ⟨⟨_, _, rfl, fun _ => ⟨0, (Clock.reach_zero _).symm⟩⟩⟩
  | benchScanComplete _ _ => exact ⟨⟨_, _, rfl, fun _ => ⟨0, (Clock.reach_zero _).symm⟩⟩⟩
  | requestReplay _ _ => exact ⟨⟨_, _, rfl, fun _ => ⟨0, (Clock.reach_zero _).symm⟩⟩⟩
  | tileInvocationStart _ _ _ _ => exact ⟨⟨_, _, rfl, fun _ => ⟨0, (Clock.reach_zero _).symm⟩⟩⟩
  | planEntryStart _ _ => exact ⟨⟨_, _, rfl, fun _ => ⟨0, (Clock.reach_zero _).symm⟩⟩⟩
  | matrixDense _ _ => exact ⟨⟨_, _, rfl, fun _ => ⟨0, (Clock.reach_zero _).symm⟩⟩⟩
  | matrixSparse24 _ _ => exact ⟨⟨_, _, rfl, fun _ => ⟨0, (Clock.reach_zero _).symm⟩⟩⟩
  | matrixBlock _ _ => exact ⟨⟨_, _, rfl, fun _ => ⟨0, (Clock.reach_zero _).symm⟩⟩⟩
  | mapVec _ _ => exact ⟨⟨_, _, rfl, fun _ => ⟨0, (Clock.reach_zero _).symm⟩⟩⟩
  | zipVec _ _ => exact ⟨⟨_, _, rfl, fun _ => ⟨0, (Clock.reach_zero _).symm⟩⟩⟩
  | reduceVec _ _ => exact ⟨⟨_, _, rfl, fun _ => ⟨0, (Clock.reach_zero _).symm⟩⟩⟩
  | quantiseVec _ _ => exact ⟨⟨_, _, rfl, fun _ => ⟨0, (Clock.reach_zero _).symm⟩⟩⟩
  | dequantiseVec _ _ => exact ⟨⟨_, _, rfl, fun _ => ⟨0, (Clock.reach_zero _).symm⟩⟩⟩
  | argmax _ _ => exact ⟨⟨_, _, rfl, fun _ => ⟨0, (Clock.reach_zero _).symm⟩⟩⟩
  | select _ _ => exact ⟨⟨_, _, rfl, fun _ => ⟨0, (Clock.reach_zero _).symm⟩⟩⟩
  | merge _ _ => exact ⟨⟨_, _, rfl, fun _ => ⟨0, (Clock.reach_zero _).symm⟩⟩⟩
  | xferCopy _ _ => exact ⟨⟨_, _, rfl, fun _ => ⟨0, (Clock.reach_zero _).symm⟩⟩⟩
  | xferGather _ _ => exact ⟨⟨_, _, rfl, fun _ => ⟨0, (Clock.reach_zero _).symm⟩⟩⟩
  | xferScatter _ _ => exact ⟨⟨_, _, rfl, fun _ => ⟨0, (Clock.reach_zero _).symm⟩⟩⟩
  | multicast _ _ => exact ⟨⟨_, _, rfl, fun _ => ⟨0, (Clock.reach_zero _).symm⟩⟩⟩
  | addFp32 _ _ => exact ⟨⟨_, _, rfl, fun _ => ⟨0, (Clock.reach_zero _).symm⟩⟩⟩
  | syncWait _ _ => exact ⟨⟨_, _, rfl, fun _ => ⟨0, (Clock.reach_zero _).symm⟩⟩⟩
  | syncSignal _ _ => exact ⟨⟨_, _, rfl, fun _ => ⟨0, (Clock.reach_zero _).symm⟩⟩⟩
  | syncFence _ _ => exact ⟨⟨_, _, rfl, fun _ => ⟨0, (Clock.reach_zero _).symm⟩⟩⟩
  | syncEnd _ _ => exact ⟨⟨_, _, rfl, fun _ => ⟨0, (Clock.reach_zero _).symm⟩⟩⟩
  | commandGroupStart _ _ _ _ => exact ⟨⟨_, _, rfl, fun _ => ⟨0, (Clock.reach_zero _).symm⟩⟩⟩
  | commandGroupEnd _ _ _ => exact ⟨⟨_, _, rfl, fun _ => ⟨0, (Clock.reach_zero _).symm⟩⟩⟩
  | load _ _ _ => exact ⟨⟨_, _, rfl, fun _ => ⟨0, (Clock.reach_zero _).symm⟩⟩⟩
  | store _ _ _ => exact ⟨⟨_, _, rfl, fun _ => ⟨0, (Clock.reach_zero _).symm⟩⟩⟩
  | scan _ _ _ => exact ⟨⟨_, _, rfl, fun _ => ⟨0, (Clock.reach_zero _).symm⟩⟩⟩
  | matvec _ _ _ => exact ⟨⟨_, _, rfl, fun _ => ⟨0, (Clock.reach_zero _).symm⟩⟩⟩
  | rowRead _ _ _ => exact ⟨⟨_, _, rfl, fun _ => ⟨0, (Clock.reach_zero _).symm⟩⟩⟩
  | rowUpdate _ _ _ => exact ⟨⟨_, _, rfl, fun _ => ⟨0, (Clock.reach_zero _).symm⟩⟩⟩
  | fill _ _ _ => exact ⟨⟨_, _, rfl, fun _ => ⟨0, (Clock.reach_zero _).symm⟩⟩⟩
  | channelModeSwitchComplete _ _ => exact ⟨⟨_, _, rfl, fun _ => ⟨0, (Clock.reach_zero _).symm⟩⟩⟩
  | memoryWindowExpiry _ => exact goes_execMemoryWindowExpiry _ s
  | tileFailure _ => exact ⟨⟨_, _, rfl, fun _ => ⟨0, (Clock.reach_zero _).symm⟩⟩⟩
  | traverseEngineFailure _ => exact ⟨⟨_, _, rfl, fun _ => ⟨0, (Clock.reach_zero _).symm⟩⟩⟩
  | contextPoolBankFailure _ => exact ⟨⟨_, _, rfl, fun _ => ⟨0, (Clock.reach_zero _).symm⟩⟩⟩
  | screenUnitFailure _ => exact ⟨⟨_, _, rfl, fun _ => ⟨0, (Clock.reach_zero _).symm⟩⟩⟩
  | bankEngineFailure _ _ => exact ⟨⟨_, _, rfl, fun _ => ⟨0, (Clock.reach_zero _).symm⟩⟩⟩
  | channelLost _ => exact ⟨⟨_, _, rfl, fun _ => ⟨0, (Clock.reach_zero _).symm⟩⟩⟩
  | stackLost _ => exact ⟨⟨_, _, rfl, fun _ => ⟨0, (Clock.reach_zero _).symm⟩⟩⟩
  | rematerialisationComplete _ => exact ⟨⟨_, _, rfl, fun _ => ⟨0, (Clock.reach_zero _).symm⟩⟩⟩
  | mapScanComplete => exact ⟨⟨_, _, rfl, fun _ => ⟨0, (Clock.reach_zero _).symm⟩⟩⟩
  | meshLinkFailure _ => exact ⟨⟨_, _, rfl, fun _ => ⟨0, (Clock.reach_zero _).symm⟩⟩⟩
  | nandBlockFailure _ _ _ => exact ⟨⟨_, _, rfl, fun _ => ⟨0, (Clock.reach_zero _).symm⟩⟩⟩
  | flashChannelLost _ => exact ⟨⟨_, _, rfl, fun _ => ⟨0, (Clock.reach_zero _).symm⟩⟩⟩
  | ashlarEngineFailure _ => exact ⟨⟨_, _, rfl, fun _ => ⟨0, (Clock.reach_zero _).symm⟩⟩⟩
  | storageDieLost _ => exact ⟨⟨_, _, rfl, fun _ => ⟨0, (Clock.reach_zero _).symm⟩⟩⟩
  | fabricLaneFailure _ => exact ⟨⟨_, _, rfl, fun _ => ⟨0, (Clock.reach_zero _).symm⟩⟩⟩
  | linkDieFailure _ => exact ⟨⟨_, _, rfl, fun _ => ⟨0, (Clock.reach_zero _).symm⟩⟩⟩
  | staleSpeaker _ _ => exact ⟨⟨_, _, rfl, fun _ => ⟨0, (Clock.reach_zero _).symm⟩⟩⟩
  | moduleFatal _ _ => exact ⟨⟨_, _, rfl, fun _ => ⟨0, (Clock.reach_zero _).symm⟩⟩⟩
  | controlFirmwareHang _ => exact ⟨⟨_, _, rfl, fun _ => ⟨0, (Clock.reach_zero _).symm⟩⟩⟩
  | eccStorm _ => exact ⟨⟨_, _, rfl, fun _ => ⟨0, (Clock.reach_zero _).symm⟩⟩⟩
  | runawayProgram _ => exact ⟨⟨_, _, rfl, fun _ => ⟨0, (Clock.reach_zero _).symm⟩⟩⟩
  | partitionResetComplete _ _ => exact ⟨⟨_, _, rfl, fun _ => ⟨0, (Clock.reach_zero _).symm⟩⟩⟩
  | keeperFailover => exact ⟨⟨_, _, rfl, fun _ => ⟨0, (Clock.reach_zero _).symm⟩⟩⟩
  | keeperLinkFailure => exact ⟨⟨_, _, rfl, fun _ => ⟨0, (Clock.reach_zero _).symm⟩⟩⟩
  | keeperHandover => exact ⟨⟨_, _, rfl, fun _ => ⟨0, (Clock.reach_zero _).symm⟩⟩⟩
  | powerOn => exact ⟨⟨_, _, rfl, fun h => Bool.noConfusion h⟩⟩
  | lowerLimitTrip => exact ⟨⟨_, _, rfl, fun h => Bool.noConfusion h⟩⟩
  | inputLostInSleep => exact ⟨⟨_, _, rfl, fun h => Bool.noConfusion h⟩⟩
  | auxInputLost => exact ⟨⟨_, _, rfl, fun h => Bool.noConfusion h⟩⟩
  | auxInputRestored => exact ⟨⟨_, _, rfl, fun h => Bool.noConfusion h⟩⟩
  | carrierSupplyFault _ => exact ⟨⟨_, _, rfl, fun _ => ⟨0, (Clock.reach_zero _).symm⟩⟩⟩
  | carrierRemoved _ => exact ⟨⟨_, _, rfl, fun _ => ⟨0, (Clock.reach_zero _).symm⟩⟩⟩
  | moduleResetNAssert => exact ⟨⟨_, _, rfl, fun h => Bool.noConfusion h⟩⟩
  | moduleResetNRelease => exact ⟨⟨_, _, rfl, fun h => Bool.noConfusion h⟩⟩
  | moduleResetNColdHold => exact ⟨⟨_, _, rfl, fun h => Bool.noConfusion h⟩⟩
  | perstNAssert _ => exact ⟨⟨_, _, rfl, fun _ => ⟨0, (Clock.reach_zero _).symm⟩⟩⟩
  | perstNRelease _ => exact ⟨⟨_, _, rfl, fun _ => ⟨0, (Clock.reach_zero _).symm⟩⟩⟩
  | refclkLoss _ => exact ⟨⟨_, _, rfl, fun _ => ⟨0, (Clock.reach_zero _).symm⟩⟩⟩
  | thermalSample _ => exact ⟨⟨_, _, rfl, fun h => Bool.noConfusion h⟩⟩
  | powerLimited => exact ⟨⟨_, _, rfl, fun _ => ⟨0, (Clock.reach_zero _).symm⟩⟩⟩
  | thermalShutdown => exact ⟨⟨_, _, rfl, fun h => Bool.noConfusion h⟩⟩
  | thermalShutdownExit => exact ⟨⟨_, _, rfl, fun h => Bool.noConfusion h⟩⟩
  | leakDetected _ => exact ⟨⟨_, _, rfl, fun _ => ⟨0, (Clock.reach_zero _).symm⟩⟩⟩
  | bringupStage _ => exact ⟨⟨_, _, rfl, fun h => Bool.noConfusion h⟩⟩
  | fwStagingComplete => exact ⟨⟨_, _, rfl, fun _ => ⟨0, (Clock.reach_zero _).symm⟩⟩⟩
  | fwActivation => exact goes_execFwActivation s
  | fwActivationRollback => exact goes_execFwActivationRollback s
  | followUp _ _ => exact ⟨⟨_, _, rfl, fun h => Bool.noConfusion h⟩⟩
  | neighborAdvertisement _ _ => exact ⟨⟨_, _, rfl, fun _ => ⟨0, (Clock.reach_zero _).symm⟩⟩⟩
  | portUp _ => exact ⟨⟨_, _, rfl, fun _ => ⟨0, (Clock.reach_zero _).symm⟩⟩⟩
  | flashTrainingTemperatureDrift _ _ => exact ⟨⟨_, _, rfl, fun _ => ⟨0, (Clock.reach_zero _).symm⟩⟩⟩
  | testAccessPortCycle _ => exact ⟨⟨_, _, rfl, fun _ => ⟨0, (Clock.reach_zero _).symm⟩⟩⟩
  | setEventReceiver _ _ => exact ⟨⟨_, _, rfl, fun _ => ⟨0, (Clock.reach_zero _).symm⟩⟩⟩
  | frameTransmissionEnd _ => exact goes_execFrameTransmissionEnd _ s
  | malformedTransportPacket _ => exact ⟨⟨_, _, rfl, fun _ => ⟨0, (Clock.reach_zero _).symm⟩⟩⟩

end Sys2Proof.Machine
end

