-- ==== Sys2Proof/WellFormed.lean ====
section
/-! DEFINITION. Which commands the outside world can send at all: lengths and numbers in their ranges. -/

namespace Sys2Proof

/-- Partitions 0 to 63 with ring sets 0 to 15; four management ring sets (R8, R310, R311). -/
def wfRs : RsId → Bool
  | .part p n => decide (p < 64) && decide (n < 16)
  | .mgmt n => decide (n < 4)

def wfPart (p : Nat) : Bool := decide (p < 64)

/-- A fetched command: SEQUENCE has 32 bits (R317). -/
def wfReq (r : ReqRef) : Bool := wfRs r.rs && decide (r.seq < 2 ^ 32)

def wfFn : Fn → Bool
  | .pf => true
  | .vf n => decide (n < 64)
  | .remote n _ => decide (n < 64)

/-- An offset in BAR 0 of a function (R305, R310, R311). -/
def wfOff (fn : Fn) (off : Nat) : Bool := wfFn fn && decide (off < 2 ^ 22)

/-- A packet has a 32-byte header and at most 9,098 bytes of payload on one of 16 ports (R431). -/
def wfPacket (k : Packet) : Bool := k.hdr.length == 32 && decide (k.payload.length ≤ 9098) && decide (k.port < 16)

/-- A fabric-manager message has a 16-byte header (R439). -/
def wfMsg (m : List Byte) : Bool := decide (16 ≤ m.length)

/-- A tile descriptor of 64 bytes on a site of the die (R8, R151). -/
def wfTile (t : Nat) (d : List Byte) : Bool := decide (t < 160) && d.length == 64

/-- A bank-engine command of 32 bytes (R223), for an engine of a partition. -/
def wfBank (p eng : Nat) (c : List Byte) : Bool := wfPart p && decide (eng < 2560) && c.length == 32

def wfPort (port : Nat) : Bool := decide (port < 16)
def wfSide (d : Nat) : Bool := decide (d < 2)
def wfChannel (ch : Nat) : Bool := decide (ch < 320)

/-- A unit kind of R465 with a number that fits its record field. -/
def wfUnit (u : UnitId) : Bool := decide (u.kind < 256) && decide (u.num < 2 ^ 16)

/-- Well-formed commands. -/
def WellFormed : Instr → Bool
  -- fetched commands (R316, R317)
  | .search r _ | .searchBatch r _ | .recallProbe r _ | .insert r _ | .delete r _ | .upsert r _ | .indexCreate r _
  | .indexBuild r _ | .indexCompact r _ | .put r _ | .get r _ | .discard r _ | .secureDiscard r _ | .flush r _
  | .modelLoad r _ | .modelUnload r _ | .embed r _ | .rerank r _ | .trainStep r _ | .tableCreate r _ | .gather r _
  | .scatterUpdate r _ | .opResume r _ | .identify r _ | .getLog r _ | .getFeature r _ | .setFeature r _
  | .fwDownload r _ | .format r _ | .sanitise r _ | .requestReplay r _ => wfReq r
  | .abort r | .opQuery r | .opSuspend r | .opCancel r | .deadlineExpiry r => wfReq r
  | .fwCommit r _ version security minLive =>
      wfReq r && decide (version < 2 ^ 64) && decide (security < 2 ^ 32) && decide (minLive < 2 ^ 64)
  | .flashReadComplete r _ _ _ | .walkComplete r _ | .benchScanComplete r _ => wfReq r
  -- partitions
  | .openPart p | .startPart p | .disablePart p | .closePart p | .keyLoad p _ | .admission p | .functionLevelReset p
  | .epochTick p | .reproducibleBatchApply p | .barrierEpochApply p | .checkpointTimer p | .updateRepeatTimeout p _
  | .planEntryStart p _ | .rematerialisationComplete p | .controlFirmwareHang p | .eccStorm p | .runawayProgram p
  | .partitionResetComplete p _ => wfPart p
  | .imageSegmentRewrite p idx => wfPart p && decide (idx < 16)
  | .groomerBackground p side | .groomerForeground p side | .wearLevelling p side => wfPart p && wfSide side
  -- ring sets
  | .stopRing rs | .restartRing rs | .doorbellPoll rs | .moderationTimeout rs | .drainBoundExpiry rs | .drainComplete rs
  | .ringFaulted rs _ | .cnp rs | .roceAckTimeout rs => wfRs rs
  | .doorbellPollReturn rs w => wfRs rs && (match w with
      | some b => b.length == 8
      | none => true)
  | .descriptorFetch rs data => wfRs rs && (match data with
      | some l => decide (l.length ≤ 16) && l.all fun b => b.length == 64
      | none => true)
  -- registers
  | .registerWrite fn off size val => wfOff fn off && decide (val < 2 ^ (8 * size))
  | .lowHalfRead fn off | .highHalfRead fn off | .localNudge fn off => wfOff fn off
  | .msixUnmask fn v => wfFn fn && decide (v < 32)
  | .mgmtFunctionLevelReset => true
  -- the transport
  | .setupRead k | .setupWrite k | .fabricNudge k | .update k | .updateAck k => wfPacket k
  | .malformedTransportPacket k => wfPort k.port
  | .rdmaPacket rs k => wfRs rs && wfPacket k.pkt
  | .spdmRequest q => decide (q.code < 256) && decide (q.param1 < 256) && decide (q.param2 < 256) && (match q.source with
      | .remoteOwner k => wfPacket k
      | .management => true
      | .localOwner p => wfPart p)
  -- the fabric manager
  | .compose _ m | .traffic _ m | .gates _ m | .fabric _ m | .fence _ m | .release _ m | .query _ m | .recorderFreeze _ m
  | .recorderThaw _ m | .recorderRead _ m | .moduleReset _ m | .sleep _ m | .wake _ m => wfMsg m
  | .recorderFreezeTimeout | .coalesceWindowClose _ | .wakeAtReached | .compositionEffective | .gracePeriodEnd => true
  | .fabricWakePattern lane => lane == 0 || lane == 16
  -- ports
  | .announce port _ | .sync port _ | .followUp port _ | .delayResp port _ | .lldpTtlExpiry port _ | .lldpTransmit port
  | .gateEntryBoundary port | .portUp port | .frameTransmissionEnd port => wfPort port
  | .announceTimeout => true
  | .lldpdu port n => wfPort port && decide (n.ttl < 2 ^ 16)
  | .neighborSolicitation port target src => wfPort port && decide (target < 2 ^ 128) && decide (src < 2 ^ 128)
  | .neighborAdvertisement port target => wfPort port && decide (target < 2 ^ 128)
  | .echoRequest port dst src _ => wfPort port && decide (dst < 2 ^ 128) && decide (src < 2 ^ 128)
  | .fabricLaneFailure lane => decide (lane < 32)
  | .linkDieFailure d => wfSide d
  -- banks, memory tiers and flash
  | .rebalancingPoint | .mapScanComplete | .holdupMeasurement _ | .fabricTimeFloorWrite | .stripeCloseTimeout _
  | .stripeDurable _ | .relocationComplete _ => true
  | .patrolScrub stack _ | .stackLost stack => decide (stack < 20)
  | .commandGroupStart ch eng g _ =>
      wfChannel ch && decide (eng < 8) && decide (g.cmds.length ≤ 64) && g.cmds.all fun c => c.length == 32
  | .commandGroupEnd ch eng _ | .bankEngineFailure ch eng => wfChannel ch && decide (eng < 8)
  | .channelModeSwitchComplete ch _ | .memoryWindowExpiry ch | .channelLost ch => wfChannel ch
  | .load p eng c | .store p eng c | .matvec p eng c | .fill p eng c => wfBank p eng c
  | .scan p eng index _ c => wfBank p eng c && decide (index < 16)
  | .rowRead p eng table count c => wfBank p eng c && decide (table < 256) && decide (count < 2 ^ 16)
  | .rowUpdate p eng table mode eta c => wfBank p eng c && decide (table < 256) && decide (mode < 2 ^ 32) && decide (eta < 2 ^ 32)
  | .nandBlockFailure ch die _ => decide (ch < 64) && decide (die < 16)
  | .flashChannelLost f => decide (f < 64)
  | .ashlarEngineFailure ae => decide (ae < 64)
  | .storageDieLost d | .carrierSupplyFault d | .carrierRemoved d | .flashTrainingTemperatureDrift d _ => wfSide d
  -- tiles
  | .matrixDense t d | .matrixSparse24 t d | .matrixBlock t d | .mapVec t d | .zipVec t d | .reduceVec t d
  | .quantiseVec t d | .dequantiseVec t d | .argmax t d | .select t d | .merge t d | .xferCopy t d | .xferGather t d
  | .xferScatter t d | .multicast t d | .addFp32 t d | .syncWait t d | .syncSignal t d | .syncFence t d
  | .syncEnd t d => wfTile t d
  -- failures
  | .tileInvocationStart t p pos _ => decide (t < 160) && wfPart p && decide (pos < 160)
  | .tileFailure t => decide (t < 160)
  | .traverseEngineFailure te => decide (te < 264)
  | .contextPoolBankFailure b => decide (b < 32)
  | .screenUnitFailure su => decide (su < 32)
  | .meshLinkFailure _ => true
  | .staleSpeaker u gen => wfUnit u && decide (gen < 2 ^ 16)
  | .moduleFatal cause u => decide (cause < 256) && wfUnit u
  | .keeperFailover | .keeperLinkFailure | .keeperHandover => true
  -- supplies, pins, temperature
  | .powerOn | .lowerLimitTrip | .inputLostInSleep | .auxInputLost | .auxInputRestored | .moduleResetNAssert
  | .moduleResetNRelease | .moduleResetNColdHold | .powerLimited | .thermalShutdown | .thermalShutdownExit => true
  | .perstNAssert port | .perstNRelease port | .refclkLoss port => wfSide port
  | .thermalSample _ | .leakDetected _ => true
  -- bring-up and firmware
  | .bringupStage rep => decide (1 ≤ rep.stage) && decide (rep.stage ≤ 9) && rep.failed.all wfUnit &&
      rep.nand.all fun (k : NandReport) => decide (k.die < 1024)
  | .fwStagingComplete | .fwActivation | .fwActivationRollback => true
  | .testAccessPortCycle k => (match k with
      | .trst => true
      | .shiftIr die instr => decide (die < 25) && decide (instr < 256)
      | .shiftDr die _ => decide (die < 25))
  | .setEventReceiver eid tag => decide (eid < 256) && decide (tag < 8)

end Sys2Proof
end

