-- ==== Sys2Proof/Tests/Slice0.lean ====
section
/-! SUPPORT. The model's own tests: an ill-formed command for each check of WellFormed, worked values of the spec, and for every
statement with hypotheses a state and operands that meet them. -/

namespace Sys2Proof.Tests

open Sys2Proof Sys2Proof.Machine

-- One thread for the tests: each that waits for the kernel would else hold one of its own, with its stack.
set_option Elab.async false

/-! ### Ill-formed commands -/

def r0 : ReqRef := ⟨.part 0 0, 0⟩
def noIo : Io := ⟨[], true, [], .done, 0, false⟩
def ptp0 : PtpMsg := ⟨0, 1, 0, 128, 0, 128, 1, 0, 0, false, 0, 0, 0, false⟩
def stageOf (n : Nat) (failed : List UnitId) : StageReport :=
  { stage := n, ok := true, cause := 0, failed := failed, slots := [], full := false, duration := 0, scan := 0 }
def bare (h p : Nat) : Packet := ⟨0, zeros h, zeros p, true, false⟩

theorem ill_formed_requests :
    [WellFormed (.search ⟨.part 64 0, 0⟩ noIo), WellFormed (.flush ⟨.part 0 16, 0⟩ noIo), WellFormed (.abort ⟨.mgmt 4, 0⟩),
     WellFormed (.opQuery ⟨.part 0 0, 2 ^ 32⟩), WellFormed (.fwCommit r0 true (2 ^ 64) 0 0), WellFormed (.fwCommit r0 true 0 (2 ^ 32) 0),
     WellFormed (.fwCommit r0 true 0 0 (2 ^ 64)), WellFormed (.walkComplete ⟨.part 64 0, 0⟩ 0)].all (· == false) = true := by decide

theorem ill_formed_partitions :
    [WellFormed (.openPart 64), WellFormed (.imageSegmentRewrite 0 16), WellFormed (.groomerBackground 0 2), WellFormed (.stopRing (.part 0 16)),
     WellFormed (.doorbellPollReturn (.part 0 0) (some (zeros 7))), WellFormed (.descriptorFetch (.part 0 0) (some [zeros 63])),
     WellFormed (.descriptorFetch (.part 0 0) (some (List.replicate 17 (zeros 64))))].all (· == false) = true := by decide

theorem ill_formed_registers :
    [WellFormed (.registerWrite .pf (2 ^ 22) 4 0), WellFormed (.registerWrite .pf 0 4 (2 ^ 32)), WellFormed (.lowHalfRead (.vf 64) 0),
     WellFormed (.localNudge (.remote 64 true) 0), WellFormed (.msixUnmask .pf 32)].all (· == false) = true := by decide

theorem ill_formed_messages :
    [WellFormed (.setupRead (bare 31 0)), WellFormed (.malformedTransportPacket { bare 32 0 with port := 16 }),
     WellFormed (.spdmRequest ⟨.management, true, 256, 0, 0, []⟩), WellFormed (.spdmRequest ⟨.management, true, 0, 256, 0, []⟩),
     WellFormed (.spdmRequest ⟨.management, true, 0, 0, 256, []⟩), WellFormed (.spdmRequest ⟨.localOwner 64, true, 0, 0, 0, []⟩),
     WellFormed (.spdmRequest ⟨.remoteOwner (bare 31 0), true, 0, 0, 0, []⟩), WellFormed (.rdmaPacket (.part 0 0) ⟨bare 31 0, .nak, 0, false⟩),
     WellFormed (.compose true (zeros 15)), WellFormed (.fabricWakePattern 1),
     WellFormed (.announce 16 ptp0), WellFormed (.lldpdu 0 ⟨0, 0, 2 ^ 16, []⟩), WellFormed (.neighborSolicitation 0 (2 ^ 128) 0),
     WellFormed (.neighborAdvertisement 0 (2 ^ 128)), WellFormed (.echoRequest 0 0 (2 ^ 128) [])].all (· == false) = true := by decide

theorem ill_formed_units :
    [WellFormed (.fabricLaneFailure 32), WellFormed (.linkDieFailure 2), WellFormed (.stackLost 20), WellFormed (.bankEngineFailure 320 0),
     WellFormed (.commandGroupEnd 0 8 none), WellFormed (.channelLost 320), WellFormed (.load 0 2560 (zeros 32)), WellFormed (.fill 0 0 (zeros 31)),
     WellFormed (.scan 0 0 16 0 (zeros 32)), WellFormed (.rowRead 0 0 256 0 (zeros 32)), WellFormed (.rowRead 0 0 0 (2 ^ 16) (zeros 32)),
     WellFormed (.rowUpdate 0 0 256 0 0 (zeros 32)), WellFormed (.rowUpdate 0 0 0 (2 ^ 32) 0 (zeros 32)), WellFormed (.rowUpdate 0 0 0 0 (2 ^ 32) (zeros 32)),
     WellFormed (.commandGroupStart 0 8 ⟨[zeros 32], []⟩ none), WellFormed (.commandGroupStart 0 0 ⟨[zeros 31], []⟩ none),
     WellFormed (.commandGroupStart 0 0 ⟨List.replicate 65 (zeros 32), []⟩ none), WellFormed (.nandBlockFailure 64 0 0), WellFormed (.nandBlockFailure 0 16 0),
     WellFormed (.flashChannelLost 64), WellFormed (.ashlarEngineFailure 64), WellFormed (.storageDieLost 2), WellFormed (.tileFailure 160),
     WellFormed (.traverseEngineFailure 264), WellFormed (.contextPoolBankFailure 32), WellFormed (.screenUnitFailure 32),
     WellFormed (.staleSpeaker ⟨256, 0⟩ 0), WellFormed (.staleSpeaker ⟨1, 2 ^ 16⟩ 0), WellFormed (.staleSpeaker ⟨1, 0⟩ (2 ^ 16)),
     WellFormed (.moduleFatal 256 ⟨1, 0⟩)].all (· == false) = true := by decide

theorem ill_formed_tiles_and_module :
    [WellFormed (.matrixDense 160 (zeros 64)), WellFormed (.syncEnd 0 (zeros 63)), WellFormed (.tileInvocationStart 160 0 0 0), WellFormed (.tileInvocationStart 0 64 0 0), WellFormed (.tileInvocationStart 0 0 160 0),
     WellFormed (.perstNAssert 2), WellFormed (.bringupStage (stageOf 0 [])),
     WellFormed (.bringupStage (stageOf 10 [])), WellFormed (.bringupStage (stageOf 4 [⟨256, 0⟩])),
     WellFormed (.bringupStage { stageOf 6 [] with nand := [⟨1024, true, 16384, 2048, 4, 3, true, true, 1024, 1152, 4800, true, 8⟩] }),
     WellFormed (.testAccessPortCycle (.shiftIr 25 0)), WellFormed (.testAccessPortCycle (.shiftIr 0 256)),
     WellFormed (.testAccessPortCycle (.shiftDr 25 [])), WellFormed (.setEventReceiver 256 0),
     WellFormed (.setEventReceiver 0 8)].all (· == false) = true := by decide

theorem no_word_spells_a_command : decodeTableWord 0 0 = none := rfl

/-! ### Worked examples of the spec -/

/-- The conversions of chapter 02, row by row: the encoding, and whether it is counted. -/
theorem worked_conversions :
    [(Elem.e4m3, 0x3E99999A#32), (.e4m3, 0x3F880000#32), (.e4m3, 0x43E60000#32), (.e4m3, 0x43E80000#32), (.e4m3, 0xBA800000#32),
     (.e4m3, 0x3A6BEDFA#32), (.e5m2, 0x43960000#32), (.b16, 0x477FF000#32), (.int8, 0x40200000#32), (.int8, 0xC0200000#32),
     (.int8, f32nan), (.b16, f32nan)].map (fun k => quantise k.1 (f32num k.2)) =
    [(0x2A, false), (0x39, false), (0x7E, false), (0x7E, true), (0x81, false), (0x00, false), (0x5D, false), (0x7BFF, true), (0x03, false),
     (0xFD, false), (0x00, true), (0x7FFF, false)] := by decide

theorem worked_conversion_scaled : quantise .int8 ((f32num 0x424D0000#32).mul (f32num 0x40200000#32)) = (0x7F, true) := by decide

def scores (l : List (Nat × F32)) : List Entry := l.map fun e => { Entry.empty with handle := e.1, score := e.2 }

/-- The tie at the third place of chapter 03. -/
theorem worked_tie :
    let o := selectOp true 3 64 (scores [(40, 0x3F666666#32), (12, 0x3F4CCCCD#32), (7, 0x3F4CCCCD#32), (30, 0x3F4CCCCD#32), (2, 0x3F000000#32)])
    o.1.map (·.handle) = [40, 7, 12] ∧ o.2.flags = flagTIE := by decide

/-- NaN, signed zeros and the sums of chapter 03. -/
theorem worked_nan :
    let l := scores [(5, f32nan), (8, 0x40000000#32), (11, 0x3F000000#32), (14, 0x80000000#32), (17, 0#32), (20, 0x40400000#32)]
    let lo := selectOp false 3 64 l
    let hi := selectOp true 3 64 l
    lo.1.map (·.handle) = [14, 17, 11] ∧ lo.2.flags = flagNAN ∧ lo.2.selectedSum = 0x3F000000#32 ∧ lo.2.leftOutSum = 0x40A00000#32 ∧
    hi.1.map (·.handle) = [5, 20, 8] ∧ hi.2.flags = flagNAN ∧ hi.2.selectedSum = 0x40A00000#32 ∧ hi.2.leftOutSum = 0x3F000000#32 := by decide

def table5 : Table :=
  ⟨5, 50000000, 8, 1, f32zero, f32zero, f32zero, f32zero, 0, 0, [0], 1, 1024, none, TabStats.reset⟩
def rows5 : Memory := (Memory.writeN [] (table5.rowAddr 3) (le 2 0x4000)).writeN (table5.rowAddr 7) (le 2 0x2E66)

/-- One repeated row in a gather, and in an update, of chapter 08. -/
theorem worked_gather :
    let pos := [(7, 0x3F000000#32), (3, f32one), (7, 0x3E800000#32), (7, 0x3E800000#32), (60000000, 0x40000000#32), (padIndex, 0x41100000#32)]
    let b := bagRows table5 pos
    b.2 = 5 ∧ (gatherBag table5 rows5 1 pos).headD f32zero = 0x40066600#32 := by decide

theorem worked_update :
    (table5.newRow rows5 2 0x3E000000#32 7 (0x3F742400#32 :: List.replicate 7 f32zero)).1.take 2 = le 2 0xA4ED := by decide

/-- The function mix of R353: the projection element of SEED 0, SKETCH_BITS 256, i = j = 0 is the sign of mix(0), whose top bit is set. -/
theorem worked_mix : mix 0 = 0xE220A8397B1DCDAF ∧ genProj 0 256 0 0 = 0xBC00#16 := by decide

/-! ### Small states -/

/-- Bytes with fields put in: offset, length, value. -/
def withFields (b : Bytes) (fs : List (Nat × Nat × Nat)) : Bytes := fs.foldl (fun b f => patch b f.1 (le f.2.1 f.2.2)) b

/-- A 64-byte descriptor. -/
def desc (op : Nat) (fs : List (Nat × Nat × Nat)) : Bytes := withFields (zeros 64) ((0, 1, op) :: fs)

/-- The state after reset with a change to its device. -/
def base (f : Dev → Dev) : State := { State.reset with dev := f State.reset.dev }

/-- The module up, partition 0 started with both profiles and changed by `f`, its ring set 0 running with requests in flight. -/
def started (qs : List Req) (f : Part → Part) : State :=
  base fun d =>
    let d : Dev := { d with power := { d.power with mode := .up }, mgmt := { d.mgmt with stage := 9 } }
    let up := fun (x : Part) =>
      f { x with life := { x.life with st := .started }, cfg := { x.cfg with present := true, info := true, maint := true } }
    ((d.modPart 0 up).modRun (.part 0 0) fun x => { x with st := .running }).modRing (.part 0 0) fun r => { r with inflight := qs }

/-- An admitted request of ring set 0 of partition 0, with SEQUENCE 0. -/
def adm (op : Nat) (fs : List (Nat × Nat × Nat)) : Req := { seq := 0, desc := desc op fs, admitted := true }

/-- A request that has only been fetched. -/
def got (op : Nat) (fs : List (Nat × Nat × Nat)) : Req := { seq := 0, desc := desc op fs }

/-! ### The step and the clock -/

/-- Meets StepRunsTheFront. -/
theorem met_step : ({ State.reset with pending := [Instr.powerOn] } : State).pending = [Instr.powerOn] ∧ State.reset.pending = [] := by decide

def kept : State := base fun d => { d with power := { d.power with kept := true } }

/-- Meets TimeNeverDecreases. -/
theorem met_time : kept.dev.power.kept = true ∧ ∃ t, step kept = .next t := ⟨rfl, _, rfl⟩

/-- Meets ClockStaysInOrder. -/
theorem met_clock : ClockOk State.reset.clock ∧ ∃ t, step State.reset = .next t := by
  refine ⟨?_, _, rfl⟩
  unfold ClockOk; decide

/-- Meets TickCounts. -/
theorem met_tick :
    (State.reset.clock.slew = 0 ∧ State.reset.clock.fast = 0) ∧
    0 < ({ State.reset.clock with slew := 1 } : Clock).slew ∧
    (({ State.reset.clock with fast := 1 } : Clock).slew = 0 ∧ 0 < ({ State.reset.clock with fast := 1 } : Clock).fast) := by decide

/-! ### Requests -/

/-- Meets EndRemovesOnlyItsRequest. -/
theorem met_end : (⟨.part 0 0, 1⟩ : ReqRef) ≠ r0 := by decide

/-- Meets CompletionEntryLayout. -/
theorem met_entry :
    (255 < 256 ∧ 65535 < 2 ^ 16 ∧ 2 ^ 64 - 1 < 2 ^ 64 ∧ ({ adm 0x10 [] with seq := 2 ^ 32 - 1 } : Req).seq < 2 ^ 32) ∧
    okStatus statusSUCCESS = true ∧
    (okStatus statusBADOP = false ∧ statusBADOP ≠ statusREDIRECT ∧ statusBADOP ≠ statusSUSPENDED ∧ statusBADOP ≠ statusNOTCANCEL) := by decide

/-- One waiting entry; the full and the empty ring. Meets EntriesTakeSlotsInOrder. -/
theorem met_slots :
    let d := (started [] id).dev
    let full := d.modRun (.part 0 0) fun x => { x with cqTail := 15 }
    let some_ := d.modRing (.part 0 0) fun r => { r with entries := [{ bytes := zeros 32, now := false }] }
    (0 < d.parts.length ∧ 0 < (d.part 0).rings.length ∧ (d.part 0).life.st ≠ .fenced ∧ unwritten (d.ring (.part 0 0)) = false) ∧
    ((d.ring (.part 0 0)).entries = [] ∧ (d.ring (.part 0 0)).cqFull = false) ∧
    (0 < full.parts.length ∧ 0 < (full.part 0).rings.length ∧ (full.part 0).life.st ≠ .fenced ∧ unwritten (full.ring (.part 0 0)) = false ∧
      (full.ring (.part 0 0)).cqFull = true) ∧
    (0 < some_.parts.length ∧ (some_.part 0).life.st ≠ .fenced ∧ unwritten (some_.ring (.part 0 0)) = false ∧
      (some_.ring (.part 0 0)).entries ≠ []) := by decide

/-- Meets AdmissionChecksInOrder. -/
theorem met_admission :
    let d := (started [got 0x34 []] id).dev
    let c := State.reset.clock
    (d.opcodeCheck (.part 0 0) 0x13 = some statusBADOP) ∧
    (d.opcodeCheck (.part 0 0) 0x34 = none ∧ d.comp.accepts c.time (got 0x34 [(8, 4, 7)]).compEpoch = false) ∧
    (d.opcodeCheck (.part 0 0) 0x34 = none ∧ d.comp.accepts c.time (got 0x34 []).compEpoch = true ∧
      (d.part 0).exclusive = false ∧ headerOk (got 0x34 [(3, 1, 1)]).desc = false ∧ bodyOk (got 0x34 [(29, 1, 1)]).desc = false) ∧
    (d.gate c r0 (got 0x34 []) true true true = none) ∧
    opInfo 0x13 = none ∧ (∃ i, opInfo 0x80 = some i ∧ i.mgmt = true ∧ i.part = 1) ∧
    (∃ i, opInfo 0x10 = some i ∧ i.mgmt = false ∧ i.part = 0) ∧ (∃ i, opInfo 0x88 = some i ∧ i.part = 2) ∧
    (State.reset.dev.part 0).cfg.info = false ∧ (State.reset.dev.part 0).cfg.maint = false := by
  dsimp only
  refine ⟨by decide, by decide, by decide, by decide, by decide, ⟨_, rfl, by decide, by decide⟩, ⟨_, rfl, by decide, by decide⟩,
    ⟨_, rfl, by decide⟩, by decide, by decide⟩

/-! ### Commands of the ring sets -/

def node1 : Node :=
  { slot := 0, handle := 1, sketch := 0, attrs := 0, body := [], scale := 0#16, rn := f32zero, doc := [1#8], docTokens := 1, commit := some 0,
    settled := true }
def prm1 : IndexParams := ⟨32, 4, 64, 16, 0, false, false, 0, [], 1⟩
def graph1 : Graph := { since := 0, nodes := [node1], eps := [0], nextSlot := 1, dir := Directory.empty.add 1 0 }
def withIndex (x : Part) : Part :=
  { x with idx := [{ num := 0, params := prm1, graphs := [graph1], reserved := 0, mib := 1 }],
           life := { x.life with chans := [0], sites := [0] } }

def run0 : SearchRun := { block := zeros 128, epoch := 0, timeLost := false, path := 1, sketch := 0, flags := 0, status := some 0 }

/-- A request whose searches have ended, and an index searched without a cross-encoder. Meets SearchesComplete. -/
theorem met_searches (op : Nat) (h : op = 0x10 ∨ op = 0x11) :
    let q : Req := { adm op [] with work := .searches [run0] }
    let s := started [q] id
    let d := (List.range 1).foldl (fun (d : Dev) i => d.runSearch s.clock r0 noIo (q.deadline != 0) i) s.dev
    Carries s r0 op q ∧ (∃ w, d.req? r0 = some w ∧ w.opcode = q.opcode ∧ w.work = .searches [run0]) ∧ run0.status.isSome = true := by
  rcases h with rfl | rfl <;> exact ⟨by unfold Carries; decide +kernel, ⟨_, rfl, rfl, rfl⟩, rfl⟩

/-- Meets SearchesComplete. -/
theorem met_search_record :
    let d := (started [adm 0x10 []] withIndex).dev
    let b := SBlock.ofBytes (zeros 128)
    ((d.part 0).index? b.index).isSome = true ∧ (b.d = 0 ∨ b.ce = false) ∧ noIo.writesOk = true := by decide

def upd0 (op : Nat) : UpdRun :=
  { opcode := op, index := 0, handle := 1, slot := some 0, attrs := 0, vec := [], haveVec := true, record := [], recordTokens := 0,
    journal := some 1, placed := true }

/-- Meets IndexUpdatesComplete. -/
theorem met_updates (op : Nat) (h : op = 0x20 ∨ op = 0x21 ∨ op = 0x22) :
    let q : Req := { adm op [] with work := .upd (upd0 op) }
    let s := started [q] withIndex
    Carries s r0 op q ∧ q.work = .upd (upd0 op) ∧ (upd0 op).journal = some 1 ∧ (s.dev.part 0).cfg.repro = false ∧ 0 < s.dev.parts.length ∧
    deadlinePassed s.clock q = false ∧ (upd0 op).haveVec = true ∧ (upd0 op).placed = true ∧ (s.dev.part 0).cannotApply (upd0 op) q.epoch = false ∧ (s.dev.part 0).updLost (upd0 op) = false ∧
    (s.dev.part 0).handleState (upd0 op).index (upd0 op).handle ≠ .pending ∧
    ((s.dev.part 0).handleState (upd0 op).index (upd0 op).handle).refuses 0x21 = none := by
  rcases h with rfl | rfl | rfl <;>
    exact ⟨by unfold Carries; decide +kernel, rfl, rfl, by decide, by decide, by decide, rfl, rfl, by decide +kernel, by decide +kernel, by decide +kernel, by decide +kernel⟩

def obj1 : Obj := ⟨1, 1, .stored, 16384, 64, false, 0⟩
def withObj (x : Part) : Part := { x with objs := [obj1] }

/-- PUT to an object that stands, and to a new one. Meets PutCompletes. -/
theorem met_put :
    (let q := adm 0x30 [(24, 4, 1), (40, 4, 16384)]
     let s := started [q] withObj
     Carries s r0 0x30 q ∧ oCreate q = false ∧ (s.dev.part 0).storedAt (oWin q) = some obj1 ∧ ioRead [some (zeros 16384)] 0 = some (zeros 16384)) ∧
    (let q := adm 0x30 [(28, 1, 1), (40, 4, 16384), (52, 4, 64)]
     let s := started [q] id
     Carries s r0 0x30 q ∧ oCreate q = true ∧ (s.dev.part 0).freeWindows (ceilDiv (fld q.desc 52 4) 64) = some 1) := by
  refine ⟨⟨by unfold Carries; decide, by decide, by decide, rfl⟩, by unfold Carries; decide, by decide, by decide +kernel⟩

/-- GET of an object, of a document and of a vector. Meets GetCompletes. -/
theorem met_get :
    (let q := adm 0x31 [(24, 4, 1), (40, 4, 16384)]
     let s := started [q] withObj
     Carries s r0 0x31 q ∧ oKind q = 0 ∧ (s.dev.part 0).storedAt (oWin q) = some obj1 ∧ s.dev.objReadable 0 obj1 (oOff q) 0 = true ∧
     s.dev.objWaits 0 obj1 (oOff q) (oLen q) = false ∧
     (let d : Dev := { s.dev with flash := s.dev.flash.acceptGroup 0 0 0 true 0 1 0 [(16384, [])] }
      d.objReadable 0 obj1 (oOff q) (oLen q) = true ∧ d.objWaits 0 obj1 (oOff q) (oLen q) = false)) ∧
    ([1, 2].all fun kind =>
      let q := adm 0x31 [(28, 1, 8 * kind), (44, 5, 1)]
      let s := started [q] withIndex
      oKind q == kind && (match (s.dev.part 0).item (fbits q.desc 29 3 0) (fld q.desc 44 5), (s.dev.part 0).index? (fbits q.desc 29 3 0) with
        | some (n, _, known), some i => (s.dev.docReadable i 0 n && !s.dev.docWaits i 0 n && !s.dev.docPoisoned i 0 n || kind == 2) && known &&
          !s.dev.flash.waits 0 (ownerVector i.num) (i.vecPage n.slot) (!i.params.single) (singleSide i.num 0) && !i.dirPoisoned 1 && (s.dev.vecReadable i 0 n 0 || kind == 1)
        | _, _ => false)) = true := by
  refine ⟨⟨by unfold Carries; decide, by decide, by decide, by decide, by decide, by decide +kernel⟩, by decide +kernel⟩

/-- Meets DiscardsAndFlushesComplete. -/
theorem met_discards (op : Nat) (h : op = 0x32 ∨ op = 0x33) :
    let q := adm op [(24, 4, 1), (28, 1, 4)]
    let s := started [q] withObj
    Carries s r0 op q ∧ (s.dev.part 0).storedAt (oWin q) = some obj1 := by
  rcases h with rfl | rfl <;> exact ⟨by unfold Carries; decide, by decide⟩

/-- One request in hand for the commands whose completion asks nothing more. Meets CreationsComplete, DiscardsAndFlushesComplete, TableCommandsComplete, InferenceCompletes, OperationControlsComplete, AdminCommandsComplete. -/
theorem met_plain (op : Nat) (h : op ∈ [0x28, 0x34, 0x51, 0x52, 0x41, 0x42, 0x60, 0x68, 0x69, 0x6A, 0x6B, 0x80, 0x81, 0x82, 0x83, 0x84, 0x85]) :
    Carries (started [adm op []] id) r0 op (adm op []) := by
  simp only [List.mem_cons, List.not_mem_nil, or_false] at h
  rcases h with rfl | rfl | rfl | rfl | rfl | rfl | rfl | rfl | rfl | rfl | rfl | rfl | rfl | rfl | rfl | rfl | rfl <;>
    (unfold Carries; decide)

/-- Meets CreationsComplete. -/
theorem met_table_create :
    let q := adm 0x50 [(24, 1, 5), (26, 2, 8), (28, 4, 16)]
    let s := started [q] withIndex
    Carries s r0 0x50 q ∧ ∃ y, (s.dev.part 0).newObj .table ((s.dev.part 0).tableAsked noIo q).bytes 5 = some y := by
  refine ⟨by unfold Carries; decide, Option.isSome_iff_exists.mp ?_⟩
  decide +kernel

def withTable (x : Part) : Part := { x with tables := [table5] }

/-- An update of row 7 of table 5, and one of a row that it has not, with values of zero. -/
def update2 : Bytes := withFields (zeros 24) [(0, 4, 2), (5, 1, 5), (16, 4, 7), (20, 4, 60000000)]
def batch1 : Bytes := withFields (zeros 32) [(0, 4, 1), (4, 4, 1), (9, 1, 5), (20, 4, 1), (24, 4, 7)]

/-- A gather of one bag that names row 7 of table 5, with the row sound and with it poisoned; a held update. Meets TableCommandsComplete. -/
theorem met_tables :
    (let q := adm 0x51 [(32, 4, 32)]
     let s := started [q] withTable
     let g := GBatch.ofBytes ((batchOf { noIo with reads := [some batch1] } q).getD [])
     Carries s r0 0x51 q ∧ (s.dev.part 0).table? g.table = some table5 ∧ (gatherAll table5 [] [] g).poisoned = false ∧
     (gatherAll table5 [] [table5.rowAddr 7 / 64] g).poisoned = true) ∧
    ((started [] withTable).dev.part 0).mem.poison = [] ∧
    (let q : Req := { adm 0x52 [] with work := .held update2 }
     let s := started [q] withTable
     let u := UBatch.ofBytes update2
     Carries s r0 0x52 q ∧ (s.dev.part 0).table? u.table = some table5 ∧ (s.dev.part 0).cfg.repro = false ∧
     (foldUpdates u.mode table5.rows ((indexed u.indices).map fun e => (e.2, UBatch.value update2 u table5.dim e.1))).length = 1) ∧
    (let q : Req := { adm 0x52 [] with work := .held update2 }
     let s := started [q] fun x => { withTable x with cfg := { x.cfg with repro := true } }
     Carries s r0 0x52 q ∧ (s.dev.part 0).cfg.repro = true) := by
  refine ⟨⟨by unfold Carries; decide, by decide, by decide, by decide⟩, by decide, ⟨by unfold Carries; decide, by decide, by decide, by decide⟩,
    by unfold Carries; decide, by decide⟩

def pkg0 : Pkg := ⟨1, zeros 64, [], [], [], [], none, none, 0, 0, [], [], []⟩
def model0 : Model := ⟨0, 1, 1, some pkg0, none, false, false, false, [], 0, 0, 0⟩
def withModel (x : Part) : Part := { x with models := [model0], objs := [obj1] }

/-- Meets ModelLoadsComplete. -/
theorem met_models :
    (let q := adm 0x40 [(28, 4, 1)]
     let s := started [q] withObj
     let x1 := (s.dev.modPart 0 fun x => x.markLoading 0).part 0
     Carries s r0 0x40 q ∧ fbits q.desc 26 0 0 = 0 ∧ (x1.modelUsers 0 0 r0 none).any (fun e => e.2.opcode == 0x43) = false ∧
     x1.storedAt (fld q.desc 28 4) = some obj1 ∧ (x1.placePkg obj1 (x1.readPkg obj1) 0).isSome = true) ∧
    (let q := adm 0x40 [(26, 1, 1)]
     let s := started [q] withModel
     Carries s r0 0x40 q ∧ fbits q.desc 26 0 0 = 1 ∧
     ((s.dev.modPart 0 fun x => x.modModel 0 fun k => { k with unloading := true }).part 0).modelUsers 0 0 r0 none = []) := by
  refine ⟨⟨by unfold Carries; decide, by decide, by decide, by decide, by decide⟩, by unfold Carries; decide, by decide, by decide⟩

def out0 : RowOut := ⟨r0, 0, 0, 1, zeros 8, [], []⟩
def withOut (x : Part) : Part := { withModel x with outs := [out0] }

/-- A request whose row has been served. Meets InferenceCompletes. -/
theorem met_inference (op : Nat) (h : op = 0x41 ∨ op = 0x42) :
    let q : Req := { adm op [] with work := .model 0 1 [1] }
    let s := started [q] withOut
    Carries s r0 op q ∧ q.work = .model (mdl q) 1 [1] ∧ (s.dev.part 0).rowsQueued r0 = true ∧
    (∃ d w outs, (s.dev.runRows s.clock (Dev.endServed s.clock) r0 0).takeRows r0 = some (d, w, outs) ∧ w.work = .model 0 1 [1]) := by
  rcases h with rfl | rfl <;> refine ⟨by unfold Carries; decide, by decide, by decide, _, _, _, rfl, rfl⟩

/-- Meets InferenceCompletes. -/
theorem met_train :
    let q : Req := { adm 0x43 [] with work := .train 0 1 out0 }
    let s := started [q] withModel
    Carries s r0 0x43 q ∧ q.work = .train 0 1 out0 ∧ (s.dev.part 0).cfg.repro = false ∧ (s.dev.part 0).trainBefore 0 (mdl q) r0 q = false ∧
    (s.dev.part 0).copyInUse (mdl q) = false ∧ 0 < s.dev.parts.length ∧ (s.dev.part 0).modelLive (fld q.desc 24 2) = some (model0, pkg0) ∧
    (s.dev.part 0).trainPoisoned pkg0 model0.copy = false := by
  exact ⟨by unfold Carries; decide, by decide, by decide, by decide, by decide, by decide, by decide, by decide⟩

/-! ### Long operations and the controls -/

def roomy (x : Part) : Part := { withIndex x with cfg := { x.cfg with dramQuota := 2 ^ 40, contextQuota := 2 ^ 24, info := true, maint := true } }
def block1 : Bytes := withFields (zeros 128) [(2, 2, 16), (4, 1, 1), (6, 2, 1), (12, 1, 1), (14, 2, 32)]
def probe1 : Bytes := withFields (zeros 32) [(0, 2, 1), (24, 4, 48)]

/-- Meets LongOperationsBegin. -/
theorem met_long (op : Nat) (fs : List (Nat × Nat × Nat))
    (h : (op, fs) ∈ [(0x12, [(32, 4, 128), (36, 2, 1), (56, 4, 32)]), (0x29, [(24, 1, 16)]), (0x2A, []), (0x88, []), (0x89, [])]) :
    let q := got op fs
    let s := started [q] roomy
    Fetched s r0 op q ∧ s.dev.gate s.clock r0 q true true true = none ∧ s.dev.opOf r0.rs r0.seq = none ∧ (s.dev.part 0).ownOps < 8 := by
  simp only [List.mem_cons, List.not_mem_nil, or_false, Prod.mk.injEq] at h
  rcases h with ⟨rfl, rfl⟩ | ⟨rfl, rfl⟩ | ⟨rfl, rfl⟩ | ⟨rfl, rfl⟩ | ⟨rfl, rfl⟩ <;> exact ⟨by unfold Fetched; decide +kernel, by decide +kernel, by decide +kernel, by decide +kernel⟩

/-- Meets LongOperationsBegin. -/
theorem met_probe_and_build :
    let x := (started [] roomy).dev.part 0
    x.blockOk block1 true = true ∧ probeOk probe1 = true ∧ x.blockNames block1 true = true ∧ (x.index? 0).isSome = true ∧
    x.indexOp 0 = false ∧ x.probeOn 0 = false ∧ x.blockCtx (probeBlock block1) ≤ x.cfg.contextQuota := by decide +kernel

/-- Meets LongOperationsBegin. -/
theorem met_build_room : (started [] roomy).dev.mibRefusal 0 1 = none := by decide +kernel

def op1 (opcode state : Nat) (cancellable : Bool) (carrier : Option ReqRef) : LongOp :=
  ⟨.part 0 0, 1, opcode, state, 0, cancellable, 0, 4, carrier, 0, 0, false, .probe 0 block1 probe1 0 0 0 0⟩
def withOp (o : LongOp) (x : Part) : Part := { withIndex x with ops := [o] }

/-- Meets BuildDuringProbeRefused. -/
theorem met_probe_on :
    let q := got 0x29 []
    let s := started [q] (withOp (op1 0x12 2 true none))
    Fetched s r0 0x29 q ∧ s.dev.opcodeCheck r0.rs 0x29 = none ∧ s.dev.comp.accepts s.clock.time q.compEpoch = true ∧
    (s.dev.part 0).probeOn (uIndex q) = true := by
  exact ⟨by unfold Fetched; decide +kernel, by decide +kernel, by decide +kernel, by decide +kernel⟩

/-- ABORT of nothing, of a command, and of a carrier. Meets OperationControlsComplete. -/
theorem met_abort :
    let q := adm 0x60 [(28, 4, 1)]
    let t : ReqRef := ⟨.part 0 0, 1⟩
    let other : Req := { adm 0x31 [] with seq := 1 }
    let carrier : Req := { adm 0x12 [] with seq := 1, work := .carrier (.part 0 0) 1 }
    (Carries (started [q] id) r0 0x60 q ∧ (started [q] id).dev.req? t = none) ∧
    (Carries (started [q, other] id) r0 0x60 q ∧ (started [q, other] id).dev.req? t = some other ∧ (started [q, other] id).dev.carried other = none) ∧
    (let s := started [q, carrier] (withOp (op1 0x12 1 true (some t)))
     Carries s r0 0x60 q ∧ s.dev.req? t = some carrier ∧ s.dev.carried carrier = some (0, op1 0x12 1 true (some t))) := by
  refine ⟨⟨by unfold Carries; decide, by decide⟩, ⟨by unfold Carries; decide, by decide, by decide⟩, by unfold Carries; decide, by decide, by decide +kernel⟩

/-- Meets OperationControlsComplete. -/
theorem met_controls (op : Nat) (o : LongOp)
    (h : (op, o) ∈ [(0x68, op1 0x12 1 true none), (0x69, op1 0x12 1 true none), (0x6B, op1 0x12 1 true none), (0x6B, op1 0x88 1 false none),
      (0x6A, op1 0x12 2 true none)]) :
    let q := adm op [(28, 4, 1)]
    Carries (started [q] (withOp o)) r0 op q ∧ (started [q] (withOp o)).dev.ctlTarget r0 q = some (0, o) ∧
    (started [q] id).dev.ctlTarget r0 q = none ∧ o.active = true := by
  simp only [List.mem_cons, List.not_mem_nil, or_false, Prod.mk.injEq] at h
  rcases h with ⟨rfl, rfl⟩ | ⟨rfl, rfl⟩ | ⟨rfl, rfl⟩ | ⟨rfl, rfl⟩ | ⟨rfl, rfl⟩ <;>
    exact ⟨by unfold Carries; decide, by decide +kernel, by decide, by decide⟩

/-- Meets AdminCommandsComplete. -/
theorem met_admin :
    (started [adm 0x80 []] id).dev.fw.staging = none ∧ ((started [adm 0x80 []] id).dev.identifyData 0 (adm 0x80 [(24, 1, 1)])).isSome = true ∧
    aSelect (adm 0x83 [(24, 1, 2)]) ≠ 1 ∧ (started [] id).dev.fw.floor ≤ 0 ∧
    (let s := started [adm 0x85 [(25, 1, 128)]] fun x => { x with fwBuf := [], fwLen := 1 }
     s.dev.fwImage (adm 0x85 [(25, 1, 128)]) ≠ []) := by decide

/-! ### Partitions, registers and ring sets -/

/-- Partition 0 in a state, the module up. -/
def inState (st : PartSt) (f : Part → Part) : State :=
  let s := started [] id
  { s with dev := s.dev.modPart 0 fun x => f { x with life := { x.life with st := st } } }

def wrap1 (key : Bytes) : WrapRec := ⟨1, 1, 0, 0, key, zeros 64⟩

/-- An opened partition with a media key and its record. -/
def keyed (x : Part) : Part :=
  { x with keys := { x.keys with owner := some (zeros 32), media := some (zeros 64), record := some (wrap1 (zeros 32)) } }

/-- Meets PartitionTransitions. -/
theorem met_transitions :
    ([PartSt.closed, .opened, .started, .fenced].all fun st => ((inState st id).dev.part 0).life.st == st) = true ∧
    (let s := inState .closed keyed
     0 < s.dev.parts.length ∧ s.dev.mgmt.stage = 9 ∧ s.dev.power.mode = .up ∧ (s.dev.part 0).cfg.present = true ∧
     (s.dev.part 0).keys.owner = some (zeros 32)) ∧
    (let x := (inState .opened keyed).dev.part 0
     x.life.st = .opened ∧ x.keys.media = some (zeros 64) ∧ x.keys.record = some (wrap1 (zeros 32))) ∧
    ((inState .closed id).dev.part 0).keys.owner = none ∧ ((inState .closed id).dev.part 0).life.reset = none := by decide

/-- The fenced state of a partition reset, and of the fabric manager's fence; KEY_LOAD where it is refused. Meets PartitionTransitions. -/
theorem met_refusals :
    let fencedBy := fun (r : Option PReset) => (inState .fenced fun x => { x with life := { x.life with reset := r } }).dev.part 0
    (fencedBy none).barred = true ∧ (fencedBy (some ⟨0, 1, false, 0, true⟩)).barred = true ∧
    (let x := fencedBy (some ⟨0, 1, false, 0, false⟩)
     x.barred = false ∧ x.life.st ≠ .closed ∧ x.life.st ≠ .opened ∧ x.keys.owner = none) ∧
    ([PartSt.closed, .opened, .started, .draining].all fun st => !((inState st id).dev.part 0).barred) = true ∧ 2 ≤ (3 : Nat) := by decide

/-- Meets OtherPartitionsStand. -/
theorem met_others :
    let s := inState .started id
    (1 : Nat) ≠ 0 ∧ (∃ t, exec (.eccStorm 0) s = .next t) ∧ (∃ t, exec (.closePart 0) s = .next t) ∧ (s.dev.part 0).ops = [] ∧
    (s.dev.part 0).journal.recs = [] ∧ (∀ x ∈ s.dev.parts, x.next = none) ∧
    (∀ r ∈ (s.dev.part 0).rings, ∀ q ∈ r.inflight, s.dev.carried q = none) :=
  ⟨by decide, ⟨_, rfl⟩, ⟨_, rfl⟩, by decide, by decide, by decide +kernel, by decide +kernel⟩

/-- Meets RegisterAccesses. -/
theorem met_registers :
    ((3 : Nat) ≠ 4 ∧ 3 ≠ 8 ∨ 2 % 4 ≠ 0) ∧ (let s := inState .started id; s.dev.power.mode = .up ∧ (s.dev.part 0).barred = false) ∧
    (1 ≤ (1000000 * 2 ^ 32 + 255) % 256 ∧ (1000000 * 2 ^ 32 + 255) / 2 ^ 32 ≤ 1000000) ∧
    ((inState .started id).dev.bar0Up = true ∧ latched .pf 0x10 = true ∧ 0x10 % 8 = 0 ∧ 0x14 / 8 * 8 = 0x10 ∧ 0x10 / 8 * 8 = 0x10) ∧
    (let d : Dev := { (inState .started id).dev with latches := [(.pf, 0x10, 5)] }
     d.latches.find? (fun e => e.1 == Fn.pf && e.2.1 == 0x10) = some (.pf, 0x10, 5)) ∧
    (inState .started id).dev.latches.find? (fun e => e.1 == Fn.pf && e.2.1 == 0x10) = none := by decide

/-- Ring set 0 of the started partition with its run changed. -/
def ringRun (f : RingRun → RingRun) : State :=
  let s := started [] fun x => { x with life := { x.life with busMaster := true } }
  { s with dev := s.dev.modRun (.part 0 0) f }

def polled : State := ringRun fun x => { x with pollOut := true }

/-- Meets PollsAndNudges. -/
theorem met_polls :
    (let r := (ringRun id).dev.ring (.part 0 0)
     r.run.st.live = true ∧ r.run.pollOut = false ∧ (ringRun id).dev.ringServed (.part 0 0) = true) ∧
    (let r := polled.dev.ring (.part 0 0)
     r.run.pollOut = true ∧ r.run.st = .running ∧ fld (zeros 8) 0 2 = r.run.sqFetch ∧ fld (zeros 8) 4 2 = r.run.cqHead ∧ r.run.sqFetch < r.sqSize ∧
     r.run.cqHead < r.cqSize ∧ r.run.sqTail = r.run.sqFetch ∧ r.inFlight = 0 ∧ r.sqSize ≤ fld (withFields (zeros 8) [(0, 2, 16)]) 0 2) ∧
    nudgeTarget (.vf 0) 0x200000 = some (.part 0 0) ∧ nudgeTarget (.vf 0) 0x20003C = some (.part 0 15) ∧
    (∃ x : RingRun, x.empty < 3) ∧ 3 ≤ ({ RingRun.reset with empty := 3 } : RingRun).empty := by
  refine ⟨by decide, by decide, by decide, by decide, ⟨RingRun.reset, by decide⟩, by decide⟩

/-- Meets DescriptorsAreFetched. -/
theorem met_fetch :
    0 < ((ringRun fun x => { x with sqTail := 1 }).dev.modPart 0 fun x => { x with regs := { x.regs with eventRing := 1 } }).fetchable (.part 0 0) ∧ 0 < (ringRun id).dev.parts.length ∧
    0 < ((ringRun id).dev.part 0).rings.length := by decide

/-- Ring set 0 in a state, enabled, with a drain. -/
def ringIn (st : RingSt) (drain : Option Drain) : State :=
  let s := started [] id
  let f := fun (r : RingSet) => ({ r with regs := { r.regs with enable := true }, run := { r.run with st := st, pend := 1 }, drain := drain } : RingSet)
  { s with dev := s.dev.modRing (.part 0 0) f }

/-- Meets RingSetsStopAndStart. -/
theorem met_rings :
    ([RingSt.running, .stopped, .faulted, .faulting].all fun st =>
      let r := (ringIn st none).dev.ring (.part 0 0)
      r.run.st == st && r.regs.enable && r.inFlight == 0 && r.drain.isNone && decide (0 < r.run.pend)) = true ∧
    ((ringIn .running none).dev.heard (.part 0 0) = true ∧ (ringIn .idle none).dev.heard (.part 0 0) = true ∧
      (inState .fenced id).dev.heard (.part 0 0) = false ∧ (ringIn .idle none).dev.heard (.part 0 0) = true ∧ ((started [] id).dev.part 0).life.st = .started) ∧
    ((started [] id).dev.ring (.part 0 1)).regs.enable = false ∧
    ((ringIn .stopping (some ⟨0, 10000000, 0, false⟩)).dev.ring (.part 0 0)).drain = some ⟨0, 10000000, 0, false⟩ ∧
    ([RingSt.idle, .stopped, .faulted].all fun st =>
      let d : Dev := (started [] id).dev.modRing (.mgmt 3) fun r => { r with regs := { r.regs with enable := true }, run := { r.run with st := st } }
      (d.ring (.mgmt 3)).run.st == st && (d.ring (.mgmt 3)).regs.enable && d.mgmt.stage == 9) = true := by decide

/-- A management ring set that takes no RESTART; ring sets that hold a transport key and that hold none. Meets RingSetsStopAndStart. -/
theorem met_starts :
    ((started [] id).dev.ring (.mgmt 0)).regs.enable = false ∧ State.reset.dev.mgmt.stage ≠ 9 ∧
    ((started [] id).dev.ring (.part 0 0)).regs.remote = false ∧
    (let d := (inState .opened fun x => { x with keys := { x.keys with transport := some (zeros 32) } }).dev
     (d.part 0).keys.transport ≠ none) ∧
    (let d := (inState .opened id).dev.modRing (.part 0 0) fun r => { r with regs := { r.regs with remote := true } }
     (d.ring (.part 0 0)).regs.remote ≠ false ∧ (d.part 0).keys.transport = none) := by decide

/-- Meets FunctionLevelResets. -/
theorem met_flr :
    ([PartSt.closed, .opened, .started, .fenced].all fun st =>
      let x := (inState st id).dev.part 0
      x.life.st == st && x.life.reset.isNone) = true ∧
    (let x := (inState .draining fun x => { x with life := { x.life with flr := true } }).dev.part 0
     x.life.st = .draining ∧ x.life.flr = true) ∧
    (let x := (inState .fenced fun x => { x with life := { x.life with reset := some ⟨0, 1, false, 0, false⟩ } }).dev.part 0
     x.life.st = .fenced ∧ x.life.reset = some ⟨0, 1, false, 0, false⟩) ∧
    (inState .closed id).dev.mgmt.rings.length = 4 ∧
    (let d : Dev := (List.range 4).foldl (fun (d : Dev) n => d.modRun (.mgmt n) fun x => { x with st := .running }) State.reset.dev
     d.mgmt.rings.length = 4 ∧ (List.range 4).all (fun n => (d.ring (.mgmt n)).run.st == .running) = true) := by decide

/-- Meets RequestsExpireWaitAndReplay. -/
theorem met_requests :
    (let q := adm 0x31 [(16, 8, 5)]
     let s := started [q] id
     s.dev.req? r0 = some q ∧ 0 < q.deadline ∧ q.ponr = false ∧ q.journaled = false ∧ s.dev.barrierOp r0 q.opcode = false) ∧
    (let q : Req := { got 0x34 [] with waiting := true }
     let s := started [q] id
     s.dev.req? r0 = some q ∧ s.dev.orderedEnd s.clock 0 = none ∧
     (indexed (s.dev.part 0).rings).flatMap (fun k => (k.2.inflight.filter (·.waiting)).map fun y => (k.1, y)) = [(0, q)] ∧
     (s.dev.part 0).life.st = .started ∧ (s.dev.part 0).life.admitPaused = false ∧ (s.dev.part 0).exclusive = false ∧
     (deadlinePassed s.clock q && !s.dev.barrierOp r0 q.opcode) = false ∧ ∃ f, s.dev.regrant s.clock 0 q = .go f) ∧
    ([Work.none, .model 0 1 []].all fun w =>
      [1, 2].all fun n =>
        let q : Req := { adm 0x31 [] with pendingReplay := true, replays := n, work := w }
        (started [q] id).dev.req? r0 == some q && q.pendingReplay && !deadlinePassed State.reset.clock q) = true := by
  exact ⟨by decide, ⟨by decide, by decide, by decide, by decide, by decide, by decide, by decide, _, rfl⟩, by decide⟩

/-- Meets AdmissionTakesEpochAndTime. -/
theorem met_admission_flush :
    let q := got 0x34 []
    let s := started [q] id
    Fetched s r0 0x34 q ∧ s.dev.gate s.clock r0 q true true true = none := by
  exact ⟨by unfold Fetched; decide, by decide⟩

/-- A FLUSH with a checkpoint for which there is room, and a GET_LOG of a partition and of the module. Meets AdmissionTakesEpochAndTime,
AdminCommandsComplete. -/
theorem met_admission_checkpoint_and_log :
    (let q := got 0x34 [(28, 1, 32)]
     let s := started [q] fun x => { x with cfg := { x.cfg with wbMib := 1 } }
     Fetched s r0 0x34 q ∧ s.dev.gate s.clock r0 q true true true = none ∧ s.dev.fits 0 (s.dev.checkpointNew 0) true 0 = true ∧
     s.dev.mayWrite 0 16384 s.clock.time true 0 = true) ∧
    (let q := got 0x81 [(24, 1, 1), (40, 4, 64)]
     let s := started [q] id
     Fetched s r0 0x81 q ∧ s.dev.gate s.clock r0 q true true true = none ∧ aSelect q ∈ [1, 2, 3, 4]) ∧
    (let q := got 0x81 [(24, 1, 0x83), (40, 4, 64)]
     let d := (started [] id).dev.modRing (.mgmt 0) fun k => { k with inflight := [q], run := { k.run with st := .running } }
     let s : State := { started [] id with dev := d }
     let r : ReqRef := ⟨.mgmt 0, 0⟩
     Fetched s r 0x81 q ∧ s.dev.gate s.clock r q true true true = none ∧ r.rs.isMgmt = true ∧ aSelect q ∈ [0x80, 0x81, 0x82, 0x83] ∧
     fbits q.desc 25 5 0 = 0) := by
  exact ⟨⟨by unfold Fetched; decide, by decide, by decide, by decide⟩, ⟨by unfold Fetched; decide, by decide, by decide⟩,
    by unfold Fetched; decide, by decide, by decide, by decide, by decide⟩

/-- A search of an index that has not walked; candidates unread. Meets SearchStagesRun. -/
theorem met_stages :
    let q : Req := { adm 0x10 [] with work := .searches [{ run0 with status := none, sketched := true, seat := some ⟨0, 0, true, 0⟩ }] }
    let s := started [q] withIndex
    s.dev.req? r0 = some q ∧ q.admitted = true ∧ s.dev.canRun r0 q = true ∧
    ((s.dev.sketchSearch s.clock r0 0).running? r0 0).isSome = true ∧
    ([0, 1].all fun n =>
      let k : Cand := { slot := 0, handle := 1, ham := 0, viaWalk := true, viaBench := false, tries := n }
      k.score == none && !k.lost && k.tries == n) = true := by decide +kernel

/-! ### The fabric manager and the fabric -/

/-- A message of a type with a body: `head` bytes carry the fields, and zeros follow. -/
def msg (type len head : Nat) (fs : List (Nat × Nat × Nat)) : Bytes :=
  withFields (zeros (16 + head)) ((0, 1, type) :: (8, 4, len) :: fs) ++ zeros (len - head)

def up : State := inState .closed id

/-- Meets ManagerMessagesAreJudged. -/
theorem met_judged :
    up.dev.fmGate .fabric = some 0 ∧ up.dev.fmGate .recorder = some 0 ∧ fmLayout 1 (zeros 16) = false ∧
    (base fun d => { d with power := { d.power with mode := .sleep } }).dev.fmGate .fabric = some 5 ∧
    State.reset.dev.fmGate .fabric = none := by decide

/-- 64 records of zeros: no partition configured. -/
theorem empty_records :
    (List.replicate 64 (zeros 128)).all recordClean = true ∧
    ((List.replicate 64 (zeros 128)).map PartCfg.ofBytes).all up.dev.cfgInRange = true ∧
    up.dev.cfgConflict ((List.replicate 64 (zeros 128)).map PartCfg.ofBytes) = false := by decide +kernel

/-- Meets ManagerMessagesComplete. -/
theorem met_compose (e : Nat) (h : e = 0 ∨ e = 1) :
    let m := msg 1 8256 64 [(16, 4, e), (24, 8, 1)]
    let b := m.drop 16
    FmHeard up .fabric 1 m ∧ b.length = 8256 ∧ zeroAt b 16 48 = true ∧ (chunks 128 (b.drop 64)).all recordClean = true ∧
    up.dev.comp.pending = none ∧ fld b 4 4 ≤ 100000 ∧ ((chunks 128 (b.drop 64)).map PartCfg.ofBytes).all up.dev.cfgInRange = true ∧
    up.dev.cfgConflict ((chunks 128 (b.drop 64)).map PartCfg.ofBytes) = false ∧ up.clock.time < fld b 8 8 := by
  intro m b
  have hr : chunks 128 (b.drop 64) = List.replicate 64 (zeros 128) := by rcases h with rfl | rfl <;> decide +kernel
  have hz := empty_records
  rw [hr]
  refine ⟨?_, ?_, ?_, hz.1, by decide, ?_, hz.2.1, hz.2.2, ?_⟩ <;> rcases h with rfl | rfl
  all_goals first | decide +kernel | exact ⟨by decide, by decide +kernel⟩

/-- The body of a TRAFFIC with weights of one everywhere. -/
def traffic1 : Bytes := zeros 32 ++ (List.replicate 65 (List.replicate 4 1#8 ++ zeros 60)).flatten

/-- Meets ManagerMessagesComplete. -/
theorem met_traffic :
    let m := withFields (zeros 16) [(0, 1, 2), (8, 4, 4192)] ++ traffic1
    FmHeard up .fabric 2 m ∧ trafficClean (m.drop 16) = true ∧ trafficOk (m.drop 16) = true := by
  exact ⟨⟨by decide, by decide +kernel⟩, by decide +kernel, by decide +kernel⟩

/-- Meets ManagerMessagesComplete. -/
theorem met_gates :
    let m := msg 3 24 24 [(17, 1, 1), (20, 4, 10000), (36, 1, 15)]
    let b := m.drop 16
    FmHeard up .fabric 3 m ∧ gatesClean b = true ∧ gatesOk b (up.dev.fabric.nsOf (up.dev.fabric.counted (fbits b 0 3 0) 9216)) = true := by
  exact ⟨⟨by decide, by decide +kernel⟩, by decide +kernel, by decide +kernel⟩

/-- Meets ManagerMessagesComplete. -/
theorem met_fabric :
    let m := msg 4 272 32 [(20, 2, 4791)]
    FmHeard up .fabric 4 m ∧ fabricClean (m.drop 16) = true ∧ fabricOk (m.drop 16) = true := by
  exact ⟨⟨by decide, by decide +kernel⟩, by decide +kernel, by decide +kernel⟩

/-- Meets ManagerMessagesComplete. -/
theorem met_short_messages (k : FmClass) (type : Nat)
    (h : (k, type) ∈ [(FmClass.fabric, 5), (.fabric, 6), (.recorder, 0x10), (.recorder, 0x11)]) :
    FmHeard up k type (msg type 0 0 []) ∧ (msg type 0 0 []).length = 16 := by
  simp only [List.mem_cons, List.not_mem_nil, or_false, Prod.mk.injEq] at h
  rcases h with ⟨rfl, rfl⟩ | ⟨rfl, rfl⟩ | ⟨rfl, rfl⟩ | ⟨rfl, rfl⟩ <;> exact ⟨⟨by decide, by decide⟩, by decide⟩

/-- Meets ManagerMessagesComplete. -/
theorem met_read_and_query :
    (let m := msg 0x12 16 16 [(16, 1, 2), (24, 4, 4096)]
     let b := m.drop 16
     FmHeard up .recorder 0x12 m ∧ b.length = 16 ∧ zeroAt b 1 3 = true ∧ zeroAt b 12 4 = true ∧ fld b 0 1 = 2 ∧ 0 < fld b 8 4 ∧ fld b 8 4 ≤ 4096 ∧
     fld b 4 4 + fld b 8 4 ≤ 2097664) ∧ up.dev.fmGate .query = some 0 := by
  exact ⟨⟨⟨by decide, by decide⟩, by decide, by decide, by decide, by decide, by decide, by decide, by decide⟩, by decide⟩

/-- Meets FenceAndRelease. -/
theorem met_fence :
    (let d := (inState .started id).dev
     0 < d.parts.length ∧ (d.part 0).life.reset = none ∧ (d.part 0).life.st ≠ .fenced) ∧
    (let d := (inState .fenced id).dev
     0 < d.parts.length ∧ (d.part 0).life.reset = none ∧ (d.part 0).life.st = .fenced ∧ (d.part 0).next = none) := by decide

/-- Meets CompositionEpochs. -/
theorem met_composition :
    (base fun d => { d with comp := { d.comp with pending := some (1, 5000, 10, []) } }).dev.comp.pending = some (1, 5000, 10, []) ∧
    0 < (base fun d => { d with comp := { d.comp with graceEnd := 7 } }).dev.comp.graceEnd ∧
    (base fun d => { d with comp := ⟨5, 4, 7, none⟩ }).dev.comp.prev ≠ 5 := by decide

/-- A packet from source 0x1000 for partition 0. -/
def packet (type : Nat) (fs : List (Nat × Nat × Nat)) (payload : Bytes) (session : Bool) : Packet :=
  ⟨0, withFields (zeros 32) ([(0, 1, 1 + 16 * type), (4, 2, 0x1000), (6, 2, payload.length)] ++ fs), payload, true, session⟩

/-- Partition 0 belongs to a remote owner 0x1000 that may send, and has remote source 0x1000. -/
def fabricUp (st : PartSt) (key : Option Bytes) (f : Dev → Dev) : State :=
  let s := inState st fun x => { x with cfg := { x.cfg with ownerRemote := true, ownerPeer := 0x1000, sources := [0x1000, 0, 0, 0], sourcesUsed := 1 },
                                        keys := { x.keys with transport := key } }
  { s with dev := f (s.dev.modFabric fun f => { f with ports := { Port.reset with up := true } :: f.ports.drop 1,
                                                       cfg := { f.cfg with transportPort := 4791, peers := [⟨0x1000, false, 1, 7⟩, ⟨0x1000 / 64, true, 1, 7⟩] } }) }

def setupRead1 : Packet := packet 1 [(3, 1, 1)] (withFields (zeros 8) [(4, 1, 8)]) false
def setupWrite1 (session : Bool) : Packet := packet 2 [(3, 1, 1)] (withFields (zeros 16) [(4, 1, 8)]) session
def update1 (fs : List (Nat × Nat × Nat)) : Packet := packet 8 ((1, 1, 1) :: fs) (zeros 24) false

/-- What `receive` says of a packet: of the owner, of a source, and of a source whose type uses no epoch. -/
def fate (s : State) (k : Packet) : Fate :=
  (s.dev.receive s.clock k (s.dev.part (pkPart k)).keys.transport.isSome ((s.dev.part (pkPart k)).cfg.fromOwner k) true).2
def fateFrom (s : State) (k : Packet) (epoch : Bool) : Fate := (s.dev.receive s.clock k true ((s.dev.part (pkPart k)).cfg.fromSource k) epoch).2

/-- An answer already given to SEQUENCE 0 of source 0x1000. -/
def answered (kind type : Nat) (d : Dev) : Dev :=
  d.modTransport 0 fun t => { (t.record kind 0x1000 0) with answers := [⟨kind, 0x1000, 0, type, some (zeros 16), true⟩] }

def keyOn : Option Bytes := some (zeros 32)
def rdma1 : Packet := packet 7 [(1, 1, 1), (3, 1, 1)] (zeros 12) false

/-- Meets PacketsArrive. -/
theorem met_setup_packets :
    State.reset.dev.laidOut (bare 32 0) = false ∧
    pkType setupRead1 = 1 ∧ pkType (setupWrite1 true) = 2 ∧
    fate (fabricUp .closed none id) setupRead1 = .accepted ∧
    fate (fabricUp .closed none id) { setupRead1 with hdr := patch setupRead1.hdr 8 [9] } = .stale ∧
    fate (fabricUp .fenced none id) setupRead1 = .dropped ∧
    fate (fabricUp .closed none id) (setupWrite1 true) = .accepted ∧ (setupWrite1 true).session = true ∧
    fate (fabricUp .closed none id) (setupWrite1 false) = .accepted ∧ (setupWrite1 false).session = false ∧
    ((fabricUp .closed none id).dev.part 0).keys.transport = none ∧
    fate (fabricUp .closed none id) { setupWrite1 true with hdr := patch (setupWrite1 true).hdr 8 [9] } = .stale ∧
    fate (fabricUp .opened keyOn (answered 1 2)) { setupWrite1 false with hdr := patch (setupWrite1 true).hdr 1 [1] } = .repeated (some (zeros 16)) ∧
    fate (fabricUp .fenced none id) (setupWrite1 true) = .dropped := by decide +kernel

/-- Meets PacketsArrive. -/
theorem met_nudge :
    let s := fabricUp .started keyOn fun d => d.modRing (.part 0 0) fun r =>
      { r with run := { r.run with st := .running }, regs := { r.regs with remote := true, peerId := 0x1000 } }
    let k := packet 5 [(1, 1, 1), (3, 1, 1)] (zeros 8) false
    let n := s.dev.receive s.clock k true ((s.dev.part (pkPart k)).cfg.fromOwner k) true
    pkType k = 5 ∧ n.2 = .accepted ∧ fld k.payload 0 1 = 0 ∧ (n.1.ring (.part 0 0)).regs.remote = true ∧
    (n.1.ring (.part 0 0)).regs.peerId = pkSource k ∧ n.1.heard (.part 0 0) = true := by decide +kernel

/-- Meets PacketsArrive. -/
theorem met_fabric_updates :
    pkType (update1 []) = 8 ∧ fateFrom (fabricUp .opened keyOn id) (update1 []) true = .accepted ∧
    ((fabricUp .opened keyOn id).dev.part (pkPart (update1 []))).life.st ≠ .closed ∧
    fateFrom (fabricUp .opened keyOn id) (update1 [(8, 4, 9)]) true = .stale ∧
    fateFrom (fabricUp .opened keyOn (answered 0 8)) (update1 []) true = .repeated (some (zeros 16)) ∧
    fateFrom (fabricUp .fenced keyOn id) (update1 []) true = .dropped ∧
    (let a := packet 9 [(1, 1, 1)] (zeros 16) false
     pkType a = 9 ∧ fateFrom (fabricUp .opened keyOn id) a false = .accepted) := by decide +kernel

/-- Meets OnlyFreshPacketsAreAccepted. -/
theorem met_window :
    ((fabricUp .opened keyOn id).dev.receive State.reset.clock (update1 []) true
      (((fabricUp .opened keyOn id).dev.part 0).cfg.fromSource (update1 [])) true).2 = .accepted ∧
    (let w : RxWin := ⟨0, 0, some 5, [3]⟩
     w.highest = some 5 ∧ w.fresh 6 = true ∧ 5 < 6 ∧ 3 ≤ 5 ∧ 3 ∈ w.seen) := by decide +kernel

/-! ### Connections, ports and time -/

def out1 : OutUpdate := ⟨0, 64, zeros 32, zeros 24, 100, 1000⟩

/-- Meets UpdatesAndConnections. -/
theorem met_repeats :
    (let s := fabricUp .opened keyOn fun d => d.modTransport 0 fun t => { t with outs := [out1] }
     (s.dev.transport 0).outs.find? (fun o => o.sequence == 0) = some out1 ∧ s.dev.fabric.peer? out1.peer true = some ⟨64, true, 1, 7⟩ ∧
     (s.dev.part 0).life.st ≠ .closed ∧ (s.dev.part 0).life.st ≠ .fenced) ∧
    (let s := inState .opened fun x => { x with cfg := { x.cfg with repro := true } }
     (s.dev.part 0).cfg.repro = true ∧ (s.dev.part 0).life.st ≠ .closed ∧ (s.dev.part 0).life.st ≠ .fenced) ∧
    (let u : RemoteUpd := ⟨0x1000, 0, 0, 0, zeros 32⟩
     let s := inState .opened fun x => { x with cfg := { x.cfg with repro := true }, remoteHeld := [u] }
     (s.dev.part 0).dueHeld 0 = [.remote u] ∧ (Held.remote u).waits (s.dev.part 0) = false) := by decide +kernel

/-- Meets UpdatesAndConnections. -/
theorem met_connections :
    (pkType rdma1 = 7 ∧ pkPart rdma1 = (RsId.part 0 0).partNo) ∧
    ([(⟨rdma1, .response, 1, false⟩ : RoceIn), ⟨rdma1, .request, 0, false⟩, ⟨rdma1, .nak, 0, false⟩].all fun k =>
      let s := fabricUp .started keyOn fun d => d.modRing (.part 0 0) fun r => { r with regs := { r.regs with remote := true } }
      let w := s.dev.receiveRdma s.clock (.part 0 0) k
      (s.dev.ring (.part 0 0)).regs.remote && w.2 == .accepted && !(w.1.ring (.part 0 0)).roce.failed) = true ∧
    (let s := fabricUp .fenced keyOn fun d => d.modRing (.part 0 0) fun r => { r with regs := { r.regs with remote := true } }
     (s.dev.ring (.part 0 0)).regs.remote = true ∧ s.dev.laidOut rdma1 = true ∧ (s.dev.part (RsId.part 0 0).partNo).life.st = .fenced ∧
     (s.dev.receiveRdma s.clock (.part 0 0) ⟨rdma1, .nak, 0, false⟩).2 ≠ .accepted) ∧
    ([0, 7].all fun n =>
      let d := State.reset.dev.modRing (.part 0 0) fun r => { r with roce := { r.roce with outstanding := [⟨0, 64, .spdm [], .free⟩], retries := n } }
      let r := (d.ring (.part 0 0)).roce
      !r.outstanding.isEmpty && !r.failed && r.retries == n) = true := by decide +kernel

/-- Port 0 as given, with the module's peer 64 on it. -/
def portIn (x : Port) : State :=
  base fun d =>
    let cfg : FabricCfg := { d.fabric.cfg with addrs := 5 :: d.fabric.cfg.addrs.drop 1, peers := [⟨64, true, 1, 7⟩] }
    { d with fabric := { d.fabric with ports := x :: d.fabric.ports.drop 1, cfg := cfg } }

/-- Meets PortsWork. -/
theorem met_ports :
    (let s := base fun d => { d with power := { d.power with mode := .up } }
     0 < s.dev.fabric.portCount ∧ (s.dev.port 0).up = false ∧ s.dev.lanesOk 0 = true ∧ s.dev.power.mode = .up) ∧
    (let s := portIn { Port.reset with up := true }
     (s.dev.port 0).up = true ∧ 0 < (⟨1, 2, 120, []⟩ : Neighbour).ttl ∧ (s.dev.port 0).neighbours.length < 8 ∧
     s.dev.fabric.cfg.peers.any (fun (k : Peer) => k.addr == 7 && bitAt k.ports 0) = true ∧ (s.dev.port 0).resolved.contains 7 = false ∧
     s.dev.ownAddr 0 5 = true) ∧
    ((portIn { Port.reset with up := true, neighbours := [⟨1, 2, 9⟩] }).dev.port 0).neighbours[0]? = some ⟨1, 2, 9⟩ ∧
    ((portIn { Port.reset with up := true, busy := true }).dev.port 0).busy = true ∧
    (∃ t, ((portIn { Port.reset with up := true, nextSched := some ⟨50, 50, 10000, [(0, 15)]⟩ }).dev.port 0).dueBoundary = some t) :=
  ⟨by decide, by decide, by decide, by decide, _, rfl⟩

/-- Port 0 up and bound to the master with port identity 1. -/
def bound (f : Ptp → Ptp) : State :=
  let s := portIn { Port.reset with up := true }
  { s with dev := s.dev.modFabric fun g => { g with ptp := f { g.ptp with bound := some (0, 1) } } }

/-- Meets TimeMessagesWork. -/
theorem met_time_messages :
    (ptp0.domain = (bound id).dev.fabric.cfg.ptpDomain ∧ ((bound id).dev.port 0).up = true ∧ -3 ≤ ptp0.logInterval ∧ ptp0.logInterval ≤ 0 ∧
      ptp0.stepsRemoved < 255) ∧
    ((bound fun p => { p with masters := [⟨0, 0, ptp0⟩] }).dev.fabric.ptp.masters = [⟨0, 0, ptp0⟩] ∧
      ({ State.reset.clock with timeLost := false } : Clock).timeLost = false) ∧
    ((bound id).dev.fromMaster 0 { ptp0 with forUs := true } = true ∧ ptp0.twoStep = false ∧ ({ ptp0 with twoStep := true } : PtpMsg).twoStep = true) ∧
    (bound fun p => { p with sync := some (0, 5, 0) }).dev.fabric.ptp.sync = some (ptp0.seq, 5, 0) ∧
    (let s := bound fun p => { p with lastSync := some (3, 5), reqAt := some (0, 6) }
     s.dev.fabric.ptp.lastSync = some (3, 5) ∧ s.dev.fabric.ptp.reqAt = some (ptp0.seq, 6)) := by decide

/-- Meets OffsetsCorrectTheCount. -/
theorem met_offsets : (10000 : Int) < 10001 ∧ (10000 : Int) ≤ 10000 ∧ (-1000001 : Int) < -1000000 ∧
    ({ State.reset.clock with timeLost := false } : Clock).timeLost = false := by decide

/-! ### Tiles and banks -/

/-- Partition 0 with site 3, which has the stream `prog` and runs it or not. -/
def tileUp (prog : List Bytes) (running : Bool) : State :=
  let s := inState .started fun x => { x with life := { x.life with sites := [3] } }
  { s with dev := s.dev.modTile 3 fun y => { y with running := running, prog := prog } }

def tdesc (cls op : Nat) (fs : List (Nat × Nat × Nat)) : Bytes := desc (cls + 16 * op) fs

/-- A plan entry of a kind with no predecessor. -/
def planEntry (kind : Nat) : Bytes := withFields (zeros 64) [(0, 1, kind), (2, 2, 0xFFFF), (4, 2, 0xFFFF), (6, 2, 0xFFFF), (8, 2, 0xFFFF)]

def cmd1 : Bytes := withFields (zeros 32) [(0, 1, 7), (2, 2, 1)]

/-- A package of one tile whose plan is a tile phase and a bank phase, and its model. -/
def pkg1 : Pkg :=
  { pkg0 with hdr := withFields (zeros 64) [(6, 2, 1)], plan := [planEntry 0, planEntry 1], streams := [[[tdesc 5 3 []]]],
              phases := [⟨[], []⟩, ⟨[0], [⟨0, [cmd1]⟩]⟩] }
def planned (i : Inv) : State :=
  let s := tileUp [] false
  { s with dev := s.dev.modPart 0 fun x => { x with models := [{ model0 with cur := some pkg1 }], invs := [i], life := { x.life with chans := [0] } } }
def inv1 : Inv := { Inv.new 0 0 1 with going := true }

/-- Meets TileInvocationStarts. -/
theorem met_tile_start :
    (let s := planned { inv1 with started := [0] }
     s.dev.siteOf 3 = some (0, 0) ∧ s.dev.siteAt 0 0 = 3 ∧ (s.dev.part 0).running = some { inv1 with started := [0] } ∧
     (s.dev.part 0).invPkg { inv1 with started := [0] } = some pkg1 ∧ ({ inv1 with started := [0] } : Inv).tileEntry pkg1 0 = some 0 ∧
     (s.dev.tile 3).running = false ∧ 0 < pkg1.tiles) ∧
    (let s := planned inv1
     let x := (s.dev.modPart 0 fun x => x.beginInv s.clock).part 0
     x.running = some inv1 ∧ x.invPkg inv1 = some pkg1 ∧ pkg1.plan[0]? = some (planEntry 0) ∧ pkg1.plan[1]? = some (planEntry 1) ∧
     inv1.started.contains 0 = false ∧ inv1.started.contains 1 = false ∧
     (∀ j, j < 4 → fld (planEntry 0) (2 + 2 * j) 2 = 0xFFFF ∧ fld (planEntry 1) (2 + 2 * j) 2 = 0xFFFF) ∧ fbits (planEntry 0) 0 0 0 = 0 ∧
     fbits (planEntry 1) 0 0 0 = 1 ∧ pkg1.phases[1]? = some ⟨[0], [⟨0, [cmd1]⟩]⟩ ∧ x.life.chans[0]? = some 0) := by decide +kernel

/-- One descriptor of each class and operation. Meets DescriptorsAreDispatched. -/
theorem met_descriptors :
    [(0, 0, [(32, 2, 1), (34, 2, 1), (36, 2, 1)]), (0, 1, [(32, 2, 1), (34, 2, 1), (36, 2, 1)]), (0, 2, [(32, 2, 1), (34, 2, 1), (36, 2, 1)]),
     (1, 0, [(20, 2, 1), (22, 2, 1)]), (1, 1, [(20, 2, 1), (22, 2, 1)]), (1, 2, [(20, 2, 1), (22, 2, 1)]),
     (2, 0, [(20, 2, 1), (22, 2, 1), (24, 1, 6)]), (2, 1, [(20, 2, 1), (22, 2, 1), (24, 1, 48)]),
     (3, 0, [(20, 2, 1), (24, 4, 1), (28, 2, 1)]), (3, 1, [(20, 2, 1), (24, 4, 1), (28, 2, 1)]), (3, 2, [(20, 2, 1), (28, 2, 1), (44, 2, 1)]),
     (4, 0, [(32, 4, 16), (36, 2, 1)]), (4, 1, [(32, 4, 16), (36, 2, 1)]), (4, 2, [(32, 4, 16), (36, 2, 1)]),
     (4, 3, [(28, 2, 1), (32, 4, 16), (36, 2, 1)]), (4, 4, [(32, 4, 16), (36, 2, 1)]),
     (5, 0, [(10, 2, 1)]), (5, 1, [(10, 2, 1)]), (5, 2, []), (5, 3, [])].all (fun k =>
      let b := tdesc k.1 k.2.1 k.2.2
      let s := tileUp [b] true
      s.dev.siteOf 3 == some (0, 0) && (s.dev.tile 3).running && (s.dev.tile 3).prog[(s.dev.tile 3).next]? == some b && Td.cls b == k.1 &&
      Td.op b == k.2.1 && tileDescOk b 0 (s.dev.part 0).life.sites.length (s.dev.part 0).cfg.repro) = true := by decide +kernel

/-- Each class comes to an end, and each faults on a count that is out of range. Meets DescriptorsRun. -/
theorem met_runs :
    ([runMatrix [] (tdesc 0 0 [(32, 2, 1), (34, 2, 1), (36, 2, 1)]), runVector [] (tdesc 1 0 [(20, 2, 1), (22, 2, 1)]),
      runQuant [] (tdesc 2 0 [(20, 2, 1), (22, 2, 1), (24, 1, 6)]), runScreen [] (tdesc 3 0 [(20, 2, 1), (24, 4, 1), (28, 2, 1)]) false].all fun r =>
        match r with
        | .ok _ _ _ _ => true
        | .fault _ _ _ => false) = true ∧
    (let m := Memory.writeN [] 0 (le 4 9)
     [runMatrix m (tdesc 0 0 [(1, 1, 4), (32, 2, 1), (34, 2, 1), (36, 2, 1)]), runVector m (tdesc 1 0 [(1, 1, 4), (20, 2, 1), (22, 2, 1)]),
      runQuant m (tdesc 2 0 [(1, 1, 4), (20, 2, 1), (22, 2, 1), (24, 1, 6)]), runScreen m (tdesc 3 0 [(1, 1, 4), (20, 2, 1), (24, 4, 1), (28, 2, 1)]) false].all fun r =>
        match r with
        | .ok _ _ _ _ => false
        | .fault _ _ _ => true) = true ∧
    ((match (tileUp [] true).dev.runXfer 0 0 0 3 (tdesc 4 0 [(24, 2, 0xFFFF), (26, 2, 0xFFFF), (32, 4, 16), (36, 2, 1)]) with
      | .ok _ => true
      | .error _ => false) = true) ∧
    ((match (tileUp [] true).dev.runXfer 0 0 0 3 (tdesc 4 1 [(24, 2, 0xFFFF), (26, 2, 0xFFFF), (32, 4, 16), (36, 2, 1)]) with
      | .ok _ => false
      | .error _ => true) = true) ∧
    (let t := (tileUp [] true).dev.tile 3
     t.tokens.getD 0 0 + 1 ≤ 65535 ∧ Td.signalEn (tdesc 5 1 [(10, 2, 1), (12, 2, 0xFFFF)]) = false ∧
     ({ t with entry := some 0 } : Tile).entry = some 0) ∧
    (let d := (tileUp [] true).dev.modTile 3 fun y => y.complete 0
     (d.tile 3).tokens.getD 0 0 + 1 ≤ 65535 ∧ Td.signalEn (tdesc 5 2 [(1, 1, 2), (5, 1, 1), (6, 2, 0xFFFF)]) = true) ∧
    Td.signalEn (tdesc 5 2 []) = false := by decide +kernel

/-- Meets SignalsSaturate. -/
theorem met_signals :
    3 < (tileUp [] true).dev.tiles.length ∧ 0 < ((tileUp [] true).dev.tile 3).tokens.length ∧
    (let d := (tileUp [] true).dev.modTile 3 fun y => { y with tokens := 65535 :: y.tokens.drop 1 }
     let sig := tdesc 5 1 [(10, 2, 1), (12, 2, 0xFFFF)]
     let fence := tdesc 5 2 [(1, 1, 2), (5, 1, 1), (6, 2, 0xFFFF)]
     Td.cls sig = 5 ∧ Td.op sig = 1 ∧ fld sig 12 2 = 0xFFFF ∧ 65535 < (d.tile 3).tokens.getD (fbits sig 8 5 0) 0 + fld sig 10 2 ∧
     Td.cls fence = 5 ∧ Td.op fence = 2 ∧ Td.signalEn fence = true ∧ fld fence 6 2 = 0xFFFF ∧
     65535 < ((d.modTile 3 fun y => y.complete 0).tile 3).tokens.getD (fbits fence 4 5 0) 0 + fld fence 5 1) := by decide +kernel

/-- A command record with opcode, LOCAL, ADDR, S_IN, S_OUT and PARAM0, of one line, row or range. -/
def bankCmd (op loc addr sIn p0 : Nat) : Bytes :=
  withFields (zeros 32) [(0, 1, op), (2, 2, 1), (4, 4, loc), (8, 8, addr), (16, 2, sIn), (20, 4, p0)]

def groupOf (cmd : Bytes) (serves : List ReqRef) : Group := ⟨0, 0, 100, 0, 1, none, [cmd], 0, serves⟩

/-- Partition 0 owns channel 0, whose engine 0 runs a group of one command; it holds a table object, table 5 from bank-group line 0 and an
index from line 512; its scratch holds a row number and a weight, and from 1,024 on the parameter block of a SCAN. -/
def bankUp (cmd : Bytes) : State :=
  let obj : Obj := ⟨1, 1, .table, 2 ^ 20, 1, false, 5⟩
  let s := inState .started fun x =>
    { withIndex x with objs := [obj], tables := [table5], lines := [⟨1, 5, 0, 512⟩, ⟨2, 0, 512, 512⟩],
                       scratch := (Memory.writeN [] 0 (le 4 8)).writeN 1216 [0#8, 0#8, 64#8, 0#8, 1#8],
                       life := { x.life with chans := [0], sites := [3] } }
  { s with dev := s.dev.modChan 0 fun y => { y with mode := .processor, running := [groupOf cmd []] } }

/-- Each opcode as its engine takes it. Meets BankCommandsComplete. -/
theorem met_bank_commands :
    [bankCmd 1 0 (2 ^ 36) 0 0, bankCmd 2 0 (2 ^ 36) 0 0, bankCmd 2 0 0xF000000000000000 0 0, bankCmd 3 512 0 1024 0, bankCmd 4 0 0 0 128,
     bankCmd 5 0 0 0 0, bankCmd 6 0 0 0 0, bankCmd 7 0 0 0 0].all (fun b =>
      let d := (bankUp b).dev
      (d.part 0).life.chans[0]? == some 0 && d.chanOwner 0 == some (0, 0) && d.groupOn 0 0 == some (groupOf b []) && bankCmdOk b &&
      (d.part 0).scratchBad.isEmpty) = true := by decide +kernel

/-- Meets BankCommandsComplete. -/
theorem met_bank_memory :
    let d := (bankUp []).dev
    let x := d.part 0
    d.bankAway 0 0 0 (bankCmd 1 0 (2 ^ 36) 0 0) = [] ∧ d.bankAway 0 0 0 (bankCmd 2 0 0xF000000000000000 0 0) = [] ∧
    (let e := (d.modLife 0 fun l => { l with chans := [1, 0] }).modChan 1 fun y => { y with mode := .processor }
     e.bankAway 0 0 0 (bankCmd 1 0 (2 ^ 36) 0 0) = [1]) ∧
    d.tileWindow 0 (2 ^ 36) 64 = none ∧ x.dramRange (2 ^ 36) 64 = true ∧ x.mem.partialPoison (2 ^ 36) 64 = false ∧
    d.tileWindow 0 0xF000000000000000 64 = some (3, 0) ∧ (x.rangeAt 0 512).map (·.2) = some 0 ∧
    (match x.rangeAt 0 512 with
      | some (i, _) => scanParamsOk i (x.scratchRead 0 1024 256)
      | none => false) = true ∧
    MvShape.ofParam 128 = some ⟨128, .int8, .int8, 0, false⟩ ∧ (x.linesRead 0 0 3).isSome = true ∧ x.tableAt 0 0 = some (table5, 0) ∧
    8 < table5.rows ∧ some (8 % table5.engines) = table5.enginePos 0 ∧ table5.rowPoisoned x.mem.poison 8 = false ∧ x.cfg.repro = false := by
  decide +kernel

/-- Channel 0 of partition 0 as given. -/
def chanIn (y : Channel) : State := { bankUp [] with dev := (bankUp []).dev.modChan 0 fun _ => y }

/-- Meets ChannelsAndTokens. -/
theorem met_channels :
    (0 < (bankUp []).dev.channels.length ∧ (chanIn Channel.reset).dev.chanOwner 0 = some (0, 0) ∧
      ((chanIn Channel.reset).dev.part 0).groupOk 0 [bankCmd 7 0 0 0 0] = true ∧ ((chanIn Channel.reset).dev.chan 0).mode = .memory ∧
      ((chanIn Channel.reset).dev.chan 0).queue = [] ∧ ((chanIn Channel.reset).dev.chan 0).oldest = none) ∧
    (let d := (chanIn { Channel.reset with mode := .processor }).dev
     (d.chan 0).mode = .processor ∧ (d.chan 0).running = [] ∧ (d.chan 0).lost = false ∧
     (∀ k ∈ List.range 16, k ≠ 0 → (d.chan k).queue = []) ∧ (d.share 0 0).held < (d.share 0 0).grant ∧
     d.heldTokens 0 < (d.arb 0).effective ∧ (d.modArb 0 fun a => { a with effective := 0 }).heldTokens 0 ≥ ((d.modArb 0 fun a => { a with effective := 0 }).arb 0).effective ∧
     (let e := d.setShare 0 { d.share 0 0 with held := (d.share 0 0).grant }
      (e.share 0 0).grant ≤ (e.share 0 0).held)) ∧
    (let g : Group := { groupOf [] [] with next := 1 }
     ((chanIn { Channel.reset with mode := .processor, running := [g] }).dev.chan 0).running = [g] ∧ g.next = g.cmds.length ∧ g.entry = none) ∧
    (State.reset.dev.chanOwner 0 = none ∧
      ((base fun d => d.modChan 0 fun y => { y with mode := .toMemory }).dev.chan 0).mode = .toMemory ∧
      ((base fun d => d.modChan 0 fun y => { y with mode := .toProcessor }).dev.chan 0).mode = .toProcessor) ∧
    (let s := chanIn { Channel.reset with mode := .toProcessor }
     (s.dev.switchDone s.clock.time 0 none).chanOwner 0 = some (0, 0)) ∧
    (let s := chanIn { Channel.reset with windowEnd := some 5, queue := [groupOf [] []] }
     (s.dev.chan 0).windowEnd = some 5 ∧ (s.dev.chan 0).mode = .memory ∧ (s.dev.chan 0).queue ≠ []) ∧
    (19 < 20 ∧ 19 < State.reset.dev.arbiters.length) := by decide +kernel

/-! ### Failures, flash, keepers, resets, supplies -/

/-- Meets FailedUnitsRetire. -/
theorem met_units (k : Nat) (h : k ∈ [1, 2, 3, 4, 10, 11]) : State.reset.dev.units.isRetired k 31 = false := by
  simp only [List.mem_cons, List.not_mem_nil, or_false] at h
  rcases h with rfl | rfl | rfl | rfl | rfl | rfl <;> decide

def remat1 : LongOp := ⟨.part 0 0, 1, opRemat, 1, 0, false, 0, 4, none, 0, 0, false, .remat 0 1 4 none⟩

/-- Meets MemoryIsLost. -/
theorem met_losses :
    (State.reset.dev.channels.length = 320 ∧ State.reset.dev.units.isRetired 5 19 = false ∧ (State.reset.dev.chan 319).lost = false ∧
      (State.reset.dev.chan 319).spareUsed = false ∧ (({ Channel.reset with spareUsed := true } : Channel).spareUsed = true)) ∧
    ((inState .started (withOp remat1)).dev.part 0).ops.find? (fun o => o.opcode == opRemat && o.state == 1) = some remat1 ∧
    (let obj : Obj := ⟨1, 1, .table, 2 ^ 20, 1, false, 5⟩
     let x := (inState .started fun x => { withIndex x with objs := [obj], tables := [table5] }).dev.part 0
     let line := 2 ^ 30
     x.objs.find? (fun o => o.kind != .stored && decide (o.first * windowBytes ≤ 64 * line) && decide (64 * line < o.first * windowBytes + o.size)) =
       some obj ∧ x.mem.poison.contains line = false ∧ x.chanOf (x.posOfByte obj (64 * line)) / 16 = 0 ∧
     ((x.index? 0).bind fun i => i.graph.node? 0) = some node1 ∧
     x.chanOf (0 / 512 % max 1 (8 * x.life.chans.length) / 8) / 16 = 0) := by decide +kernel

def page1 : FPage := ⟨1, 0, false, .object, true, false, 0, 1, 0, 0, 0, false, 1, 1, 0, 0, false, true, 16384, .none⟩
def super1 : Super := ⟨1, 0, 0, 0, 0, 0, 0, []⟩
def stripe1 : Stripe := ⟨1, 0, 0, 1, 0, true, false, [], 0, false⟩

/-- The flash of reset, of small superblocks, with ten pages in superblock 1, which side 0 of partition 0 has alone. -/
def flashIn (f : Flash → Flash) : State :=
  let s := inState .started fun x => { x with cfg := { x.cfg with flash0 := 1 } }
  let fl : Flash := { s.dev.flash with geom := ⟨4, 0, 10⟩, pages := List.replicate 10 page1, supers := [super1],
                                       stripes := [{ stripe1 with isOpen := false, durable := true }] }
  { s with dev := { s.dev with flash := f fl } }

/-- Meets FlashEventsHappen. -/
theorem met_flash :
    ((flashIn fun f => { f with stripes := [stripe1] }).dev.flash.stripes.find? (fun k => k.id == 1 && k.isOpen)).isSome = true ∧
    ((flashIn fun f => { f with stripes := [{ stripe1 with isOpen := false }] }).dev.flash.stripes.any (fun k => k.id == 1 && !k.isOpen && !k.durable)) = true ∧
    (let f := (flashIn id).dev.flash
     ((flashIn id).dev.dropStale 0).flash = f ∧ f.lost 0 = false ∧ f.grooming 0 0 = false ∧ f.victim 0 0 = some super1 ∧
     f.freePerMille 0 0 ((flashIn id).dev.part 0).cfg.flash0 < ((flashIn id).dev.part 0).feat.lowWater ∧
     f.freePerMille 0 0 ((flashIn id).dev.part 0).cfg.flash0 < ((flashIn id).dev.part 0).feat.highWater ∧
     f.badBlocks.contains (63, 3, 0) = false ∧ 3 < f.geom.dies ∧ f.lostCh.contains 63 = false ∧ f.lost 1 = false) ∧
    (let f := ((flashIn fun f => { f with supers := [super1, { super1 with id := 2, part := 1, erases := 200 }] }).dev.dropStale 0).flash
     f.grooming 0 0 = false ∧ f.supers.filter (fun k => k.part == 0 && k.side == 0 &&
       decide (k.erases + 200 ≤ f.supers.foldl (fun (m : Nat) (k : Super) => if k.side = 0 then max m k.erases else m) 0) &&
       !(f.pages.any fun g => g.super == k.id && g.buffered)) = [super1]) ∧
    ((flashIn fun f => { f with lost1 := true }).dev.flash.lost 1 = true ∧ (flashIn id).dev.power.mode ≠ .fatal) ∧
    (((inState .started withIndex).dev.part 0).index? 0).isSome = true ∧
    (flashIn fun f => { f with hurt := [1] }).dev.flash.hurt.contains 1 = true ∧
    0 < unflushedLimit 40 ∧ 100 ≤ ((State.reset.dev.flash.temp0 - 100) - State.reset.dev.flash.temp0).natAbs ∧
    100 ≤ ((State.reset.dev.flash.temp1 - 100) - State.reset.dev.flash.temp1).natAbs := by decide +kernel

def rec0 : EvRec := ⟨0, 0, 0, 0, 0, 0, false, 1, 0x0201, 6, 0, 1, none, 0, 0, 0⟩

/-- Meets KeepersAndFatalEvents. -/
theorem met_keepers :
    (State.reset.dev.recorder.active ≤ 1 ∧ (State.reset.dev.recorder.keeper 1).present = true) ∧
    (base fun d => { d with fw := { d.fw with keeperChanged := true } }).dev.fw.keeperChanged = true ∧
    (base fun d => { d with recorder := { d.recorder with windows := [⟨rec0, 2, 9⟩] } }).dev.recorder.windows[0]? = some ⟨rec0, 2, 9⟩ ∧
    (base fun d => { d with recorder := { d.recorder with frozen := some 4 } }).dev.recorder.frozen = some 4 ∧
    (kindHasGen 11 = true ∧ 7 ≠ State.reset.dev.units.gen 11 0) ∧
    (1 < State.reset.dev.power.hostLink.length ∧ State.reset.dev.units.isRetired 13 24 = false ∧ State.reset.dev.units.isRetired 13 23 = false) ∧
    (State.reset.dev.power.mode ≠ .fatal ∧ State.reset.dev.parts.length = 64 ∧ (State.reset.dev.part 63).life.reset = none) ∧
    (base fun d => { d with power := { d.power with mode := .fatal } }).dev.power.mode = .fatal := by decide

/-- Meets PartitionResets. -/
theorem met_partition_resets :
    (0 < (inState .started id).dev.parts.length ∧ ((inState .started id).dev.part 0).life.st = .started ∧ ((inState .started id).dev.part 0).life.reset = none) ∧
    ([true, false].all fun b =>
      let x := (inState .fenced fun x => { x with life := { x.life with reset := some ⟨0, 1, b, 0, false⟩ } }).dev.part 0
      x.life.st == .fenced && x.life.reset == some ⟨0, 1, b, 0, false⟩) = true := by decide

/-- The power of reset, changed. -/
def powerIn (f : Power → Power) : State := base fun d => { d with power := f d.power }

/-- Meets SuppliesComeAndGo. -/
theorem met_supplies :
    (let x := (powerIn id).dev.power
     x.inputOk = false ∧ x.auxOk = true ∧ x.mode = .off ∧ x.kept = false) ∧
    (powerIn fun x => { x with kept := true }).dev.power.kept = true ∧
    (let x := (powerIn fun x => { x with inputOk := true, mode := .sleep }).dev.power
     x.inputOk = true ∧ x.mode ≠ .fatal ∧ x.auxOk = true ∧ x.mode = .sleep ∧ x.mode ≠ .off) ∧
    (let x := (powerIn fun x => { x with inputOk := true, auxOk := false }).dev.power
     x.auxOk = false ∧ x.inputOk = true ∧ x.mode = .off) ∧
    (State.reset.dev.parts.length = 64 ∧ State.reset.dev.flash.lost 1 = false ∧ State.reset.dev.flash.lost 0 = false) := by decide

/-- A message of 32 bytes of the platform class. -/
def platform (type : Nat) (fs : List (Nat × Nat × Nat)) : Bytes := msg type 16 16 fs

/-- Meets ResetsSleepAndBringup. -/
theorem met_resets :
    (let m := platform 0x20 [(16, 1, 1)]
     fmLayout 0x20 m = true ∧ m.length = 32 ∧ fld m 16 1 ≤ 1 ∧ zeroAt m 17 15 = true ∧ (powerIn fun x => { x with mode := .up }).dev.power.mode = .up) ∧
    (let m := platform 0x21 [(16, 1, 9)]
     fmLayout 0x21 m = true ∧ m.length = 32 ∧ zeroAt m 17 7 = true ∧ wakeSourcesOk (fld m 16 1) (fld m 24 8) = true ∧
     (base fun d => { d with power := { d.power with mode := .up }, mgmt := { d.mgmt with stage := 9 } }).dev.maySleep = true) ∧
    (let m := platform 0x22 []
     fmLayout 0x22 m = true ∧ m.length = 32 ∧ zeroAt m 16 16 = true) ∧
    (let x := (powerIn fun x => { x with mode := .sleep, wakeAt := 7, wakeSources := 27 }).dev.power
     x.mode = .sleep ∧ 0 < x.wakeAt ∧ bitAt x.wakeSources 4 = true ∧ bitAt x.wakeSources 1 = true) ∧
    (let x := (powerIn fun x => { x with mode := .up, resetLow := true }).dev.power
     x.resetLow = true ∧ x.mode = .up ∧ x.mode ≠ .held) ∧
    ([1, 2, 3, 4, 5, 6, 7, 8, 9].all fun n => (powerIn fun x => { x with mode := .bringup n }).dev.power.mode == .bringup n) = true := by decide

/-- The stages with tests of their own pass. Meets ResetsSleepAndBringup. -/
theorem met_stages_pass (n : Nat) (h : n = 1 ∨ n = 2 ∨ n = 3) :
    (stageWork State.reset.clock State.reset.dev (stageOf n []) false).2.2.1 = true := by
  rcases h with rfl | rfl | rfl <;> decide +kernel

/-- Meets PinsAndThrottling. -/
theorem met_pins :
    (let x := State.reset.dev.power
     1 < x.hostLink.length ∧ 1 < x.perst.length) ∧
    (let s := powerIn fun x => { x with mode := .up, perst := [true, true] }
     s.dev.units.isRetired 13 24 = false ∧ s.dev.power.mode = .up ∧ s.dev.power.perst.getD 1 true = true) ∧
    (∃ a ∈ State.reset.dev.arbiters, 16 < a.effective) ∧
    (let x := (powerIn fun x => { x with mode := .shutdown }).dev.power
     x.mode = .shutdown ∧ x.heldReset = false) := by
  exact ⟨by decide, by decide, ⟨Arbiter.reset, by decide, by decide⟩, by decide⟩

/-- Meets FirmwareAndTestAccess. -/
theorem met_firmware :
    (let q := adm 0x86 []
     let s := started [q] id
     let d : Dev := { s.dev with fw := { s.dev.fw with staging := some (r0, 1, 0) } }
     d.fw.staging = some (r0, 1, 0) ∧ d.req? r0 = some q) ∧
    (let k : FwSlot := { FwSlot.empty with state := 3, activateAt := 1000000 }
     (base fun d => { d with fw := { d.fw with slots := [{ FwSlot.empty with state := 2 }, k] } }).dev.fw.scheduled = some (1, k)) ∧
    (24 < 25 ∧ (powerIn fun x => { x with mode := .up, inputOk := true }).dev.tapActs 24 = tapIDCODE) ∧
    (State.reset.dev.keepersAnswer = true ∧ (⟨.management, false, 0, 0, 0, []⟩ : SpdmReq).code ∉ spdmSupported) := by decide

/-- Meets FirmwareAndTestAccess: an SPDM message of a remote owner, taken and not. -/
theorem met_remote_spdm :
    let k : Packet := packet 4 [(3, 1, 1)] (zeros 4) false
    pkType k = 4 ∧ ((fabricUp .opened keyOn id).dev.receive State.reset.clock k false
      (((fabricUp .opened keyOn id).dev.part (pkPart k)).cfg.fromOwner k) false).2 = .accepted ∧
    ((fabricUp .fenced keyOn id).dev.receive State.reset.clock k false
      (((fabricUp .fenced keyOn id).dev.part (pkPart k)).cfg.fromOwner k) false).2 ≠ .accepted ∧
    (fabricUp .opened keyOn id).dev.keepersAnswer = true := by decide +kernel

def jrec1 : JRec := ⟨1, 1, 0, 1, 0, .part 0 0, 0, 0, upd0 0x20, false, 0, 240⟩

/-- Meets EpochsAndBatches. -/
theorem met_epochs :
    (let s := inState .started id
     let x := s.dev.part 0
     0 < s.dev.parts.length ∧ x.life.st ≠ .closed ∧ x.vis.nextTick ≤ max s.clock.time (x.vis.tickDue s.clock.time) ∧ x.life.st = .started ∧
     0 < x.feat.place.checkpointS) ∧
    ((inState .closed id).dev.part 0).life.st = .closed ∧
    (let s := inState .started fun x =>
       { x with cfg := { x.cfg with repro := true }, vis := { x.vis with cur := 1 }, journal := { x.journal with recs := [jrec1] } }
     let x := s.dev.part 0
     x.cfg.repro = true ∧ x.life.st ≠ .closed ∧ sortBy id (x.batchEpochs 0) = [0] ∧ 0 < x.vis.cur) := by decide

end Sys2Proof.Tests
end

section
/-! PROOF. The scope family: every command answers a next state; what the stages of a search leave on its way. -/

namespace Sys2Proof.Machine

open Sys2Proof

/-! ### Every command goes on -/

/-- An outcome that `Goes` admits is a next state in which the same commands wait. -/
theorem Goes.next_pending {s : State} {b : Bool} {o : Out} (h : Goes s b o) : ∃ t, o = .next t ∧ t.pending = s.pending := by
  obtain ⟨c, d, ho, -⟩ := h.out
  exact ⟨{ s with clock := c, dev := d }, ho, rfl⟩

/-- Settles O2: what `exec_goes` says of every command leaves no fault and no refusal, and does not touch the queue. -/
theorem everyCommandGoesOn : Obligations.EveryCommandGoesOn := fun i s => (exec_goes i s).next_pending

/-! ### A phase of a running search (R12) -/

/-- A phase of a search that runs once it is seated and sketched: the search takes the phase's result, and its request closes over the
searches that have ended. -/
theorem Dev.phase_running {d : Dev} {c : Clock} {r : ReqRef} {i : Nat} {q : Req} {x : SearchRun}
    (f : Dev → SearchRun → Dev × SearchRun) (hq : d.req? r = some q) (ha : q.admitted = true) (hc : d.canRun r q = true)
    (hx : (d.sketchSearch c r i).running? r i = some x) :
    d.phase c r i f = ((f (d.sketchSearch c r i) x).1.setSearch r i fun _ => (f (d.sketchSearch c r i) x).2).endSearches c r true := by
  simp [Dev.phase, hq, ha, hc, hx]

/-- What a command answers that is a phase of a running search, whose work may read the clock. -/
theorem State.onDev_phase_running {s : State} {r : ReqRef} {i : Nat} {q : Req} {x : SearchRun}
    (f : Clock → Dev → SearchRun → Dev × SearchRun) (hq : s.dev.req? r = some q) (ha : q.admitted = true)
    (hc : s.dev.canRun r q = true) (hx : (s.dev.sketchSearch s.clock r i).running? r i = some x) :
    s.onDev (fun c d => d.phase c r i (f c)) =
      let w := f s.clock (s.dev.sketchSearch s.clock r i) x
      Becomes s ((w.1.setSearch r i fun _ => w.2).endSearches s.clock r true) := by
  rw [State.onDev_eq, Dev.phase_running (f s.clock) hq ha hc hx, Becomes]

/-! ### A read of a candidate's vector (R25, R99, R100) -/

/-- A read that succeeds scores a candidate that has no score yet. -/
theorem Cand.read_ok {k : Cand} (single : Bool) (sc : F32) (hs : k.score = none) (hl : k.lost = false) :
    k.read single true sc = { k with score := some sc } := by
  simp [Cand.read, hs, hl]

/-- The first read that fails of a vector with two copies goes to the other one. -/
theorem Cand.read_reissued {k : Cand} (sc : F32) (hs : k.score = none) (hl : k.lost = false) (ht : k.tries = 0) :
    k.read false false sc = { k with side := 1 - k.side, tries := 1 } := by
  simp [Cand.read, hs, hl, ht]

/-- A read that fails with no copy left to try loses its candidate. -/
theorem Cand.read_lost {k : Cand} {single : Bool} (sc : F32) (hs : k.score = none) (hl : k.lost = false)
    (ht : single = true ∨ 1 ≤ k.tries) : k.read single false sc = { k with lost := true } := by
  simp [Cand.read, hs, hl, ht]

/-- Settles O33: each of the three events is a phase with its own work, and a read is scored, reissued or lost. -/
theorem searchStagesRun : Obligations.SearchStagesRun := by
  refine ⟨fun s r i q x hq ha hc => ?stages, fun k single sc hs hl => ⟨?scored, ?reissued, ?lost⟩⟩
  case stages =>
    dsimp only
    intro hx
    refine ⟨?walk, ?bench, fun h ok => ?read⟩
    case walk => exact State.onDev_phase_running (fun _ d y => (d, (d.part r.rs.partNo).walkRun y)) hq ha hc hx
    case bench =>
      exact State.onDev_phase_running (fun _ d y =>
        let z := (d.part r.rs.partNo).benchRun y
        (d, if pathWalks z.path && z.walk.isNone then z else d.candsRun r.rs.partNo z)) hq ha hc hx
    case read => exact State.onDev_phase_running (fun c d y => d.readReturn c.time r.rs.partNo h ok y) hq ha hc hx
  case scored => exact Cand.read_ok single sc hs hl
  case reissued => rintro rfl ht; exact Cand.read_reissued sc hs hl ht
  case lost => exact Cand.read_lost sc hs hl

end Sys2Proof.Machine
end

section
/-! PROOF. Fabric time: what a tick counts, what any command and any step can do to the keeper's counts, and what a measured
offset does to them. -/

namespace Sys2Proof.Machine

open Sys2Proof

/-! ### A step and its queue -/

/-- Settles O1: a step is the match on the queue that its definition writes. -/
theorem stepRunsTheFront : Obligations.StepRunsTheFront := by
  refine ⟨fun i l s h => ?front, fun s h => ?empty⟩
  case front => rw [step, h]
  case empty => rw [step, h]

/-! ### One tick of the oscillator (R28, R29, R310) -/

/-- While a backward correction stands, a tick counts one nanosecond, or absorbs one of the correction at the end of a period. -/
theorem Clock.tick_slowed {c : Clock} (h : 0 < c.slew) :
    c.tick = { c with opTime := if c.powered then c.opTime + 1 else c.opTime,
                      time := if slewPeriod ≤ c.slewAcc + 1 then c.time else c.time + 1,
                      slew := if slewPeriod ≤ c.slewAcc + 1 then c.slew - 1 else c.slew,
                      slewAcc := if slewPeriod ≤ c.slewAcc + 1 then 0 else c.slewAcc + 1 } := by
  simp only [Clock.tick, h, if_true]
  split <;> rfl

/-- While a forward correction stands, a tick counts one nanosecond, or two and absorbs one of the correction. -/
theorem Clock.tick_hastened {c : Clock} (h0 : c.slew = 0) (h : 0 < c.fast) :
    c.tick = { c with opTime := if c.powered then c.opTime + 1 else c.opTime,
                      time := if slewPeriod ≤ c.slewAcc + 1 then c.time + 2 else c.time + 1,
                      fast := if slewPeriod ≤ c.slewAcc + 1 then c.fast - 1 else c.fast,
                      slewAcc := if slewPeriod ≤ c.slewAcc + 1 then 0 else c.slewAcc + 1 } := by
  simp only [Clock.tick, h0, h, Nat.lt_irrefl, if_false, if_true]
  split <;> rfl

/-- With no correction a tick counts one nanosecond. -/
theorem Clock.tick_steady {c : Clock} (h0 : c.slew = 0) (h : c.fast = 0) :
    c.tick = { c with opTime := if c.powered then c.opTime + 1 else c.opTime, time := c.time + 1, slewAcc := 0 } := by
  simp [Clock.tick, h0, h]

/-- The correction that stands, if any: the three ways in which a tick counts. -/
theorem Clock.correction (c : Clock) : 0 < c.slew ∨ (c.slew = 0 ∧ 0 < c.fast) ∨ (c.slew = 0 ∧ c.fast = 0) := by omega

theorem Clock.tick_time_bounds (c : Clock) : c.time ≤ c.tick.time ∧ c.tick.time ≤ c.time + 2 := by
  rcases c.correction with h | ⟨h0, h⟩ | ⟨h0, h⟩
  · rw [Clock.tick_slowed h]; dsimp only; split <;> omega
  · rw [Clock.tick_hastened h0 h]; dsimp only; split <;> omega
  · rw [Clock.tick_steady h0 h]; dsimp only; omega

/-- What a tick does to the other counts. -/
theorem Clock.tick_others (c : Clock) :
    c.tick.opTime = c.opTime + (if c.powered then 1 else 0) ∧ c.tick.timeLost = c.timeLost ∧ c.tick.ptpLocked = c.ptpLocked := by
  have hp : (if c.powered then c.opTime + 1 else c.opTime) = c.opTime + if c.powered then 1 else 0 := by split <;> rfl
  rcases c.correction with h | ⟨h0, h⟩ | ⟨h0, h⟩
  · rw [Clock.tick_slowed h]; exact ⟨hp, rfl, rfl⟩
  · rw [Clock.tick_hastened h0 h]; exact ⟨hp, rfl, rfl⟩
  · rw [Clock.tick_steady h0 h]; exact ⟨hp, rfl, rfl⟩

/-- Settles O5: the three ways in which a tick counts, each by its own equation. -/
theorem tickCounts : Obligations.TickCounts := by
  intro c
  obtain ⟨hlow, hhigh⟩ := c.tick_time_bounds
  refine ⟨hlow, hhigh, fun h0 h => ?steady, fun h => ?slowed, fun h0 h => ?hastened, c.tick_others⟩
  case steady => rw [Clock.tick_steady h0 h]
  case slowed =>
    rw [Clock.tick_slowed h]
    by_cases hp : slewPeriod ≤ c.slewAcc + 1
    · left; simp only [hp, if_true, true_and]; omega
    · right; simp only [hp, if_false, and_self]
  case hastened =>
    rw [Clock.tick_hastened h0 h]
    by_cases hp : slewPeriod ≤ c.slewAcc + 1
    · left; simp only [hp, if_true, true_and]; omega
    · right; simp only [hp, if_false, and_self]

/-! ### How commands move the keeper's counts (R29, R428 to R430) -/

/-- A move of the keeper's counts: fabric time does not fall as long as a keeper holds the count (`kept`), and counts that are in order
stay in order. -/
structure Moves (kept : Bool) (c c' : Clock) : Prop where
  time_le : kept = true → c.time ≤ c'.time
  inOrder : ClockOk c → ClockOk c'

theorem Moves.refl (b : Bool) (c : Clock) : Moves b c c := ⟨fun _ => Nat.le_refl _, id⟩

theorem Moves.trans {b : Bool} {x y z : Clock} (h : Moves b x y) (k : Moves b y z) : Moves b x z :=
  ⟨fun hb => Nat.le_trans (h.time_le hb) (k.time_le hb), fun hx => k.inOrder (h.inOrder hx)⟩

/-- Fabric time that is let pass moves nothing else that is kept in order. -/
theorem moves_reach (b : Bool) (c : Clock) (n : Nat) : Moves b c (c.reach n) := ⟨fun _ => Nat.le_max_left _ _, id⟩

theorem moves_tick (b : Bool) (c : Clock) : Moves b c c.tick := by
  refine ⟨fun _ => c.tick_time_bounds.1, fun ⟨hlock, hlost, hone, hacc⟩ => ?_⟩
  rcases c.correction with h | ⟨h0, h⟩ | ⟨h0, h⟩
  · rw [Clock.tick_slowed h]
    refine ⟨hlock, hlost, Or.inr (hone.resolve_left (by omega)), ?_⟩
    dsimp only
    split <;> simp only [slewPeriod] at * <;> omega
  · rw [Clock.tick_hastened h0 h]
    refine ⟨hlock, hlost, Or.inl h0, ?_⟩
    dsimp only
    split <;> simp only [slewPeriod] at * <;> omega
  · rw [Clock.tick_steady h0 h]
    exact ⟨hlock, hlost, Or.inl h0, Nat.succ_pos _⟩

theorem moves_jump (b : Bool) (c : Clock) (n : Nat) : Moves b c (c.jump n) :=
  ⟨fun _ => Nat.le_add_right _ _, fun ⟨hlock, hlost, _, hacc⟩ => ⟨hlock, hlost, Or.inl rfl, hacc⟩⟩

theorem moves_slowBy (b : Bool) (c : Clock) (n : Nat) : Moves b c (c.slowBy n) :=
  ⟨fun _ => Nat.le_refl _, fun ⟨hlock, hlost, _, hacc⟩ => ⟨hlock, hlost, Or.inr rfl, hacc⟩⟩

theorem moves_hastenBy (b : Bool) (c : Clock) (n : Nat) : Moves b c (c.hastenBy n) :=
  ⟨fun _ => Nat.le_refl _, fun ⟨hlock, hlost, _, hacc⟩ => ⟨hlock, hlost, Or.inl rfl, hacc⟩⟩

/-- PTP_LOCKED alone may be cleared at any time. -/
theorem moves_unlock (b : Bool) (c : Clock) : Moves b c { c with ptpLocked := false } :=
  ⟨fun _ => Nat.le_refl _, fun ⟨_, hlost, hone, hacc⟩ => ⟨fun h => Bool.noConfusion h, hlost, hone, hacc⟩⟩

/-- The clock that enters the time-lost state, from wherever it stands (R428, R429). -/
theorem loseTime_clock (c : Clock) (d : Dev) (cause : Nat) :
    (loseTime c d cause).1 = { c with timeLost := true, ptpLocked := false } := by
  unfold loseTime
  by_cases h : c.timeLost = true
  · rw [if_pos h, ← h]
  · rw [if_neg h]

theorem moves_loseTime (b : Bool) (c : Clock) (d : Dev) (cause : Nat) : Moves b c (loseTime c d cause).1 := by
  rw [loseTime_clock]
  exact ⟨fun _ => Nat.le_refl _, fun ⟨_, _, hone, hacc⟩ => ⟨fun h => Bool.noConfusion h, fun h => Bool.noConfusion h, hone, hacc⟩⟩

/-! ### Following a master (R428, R429) -/

/-- The clock that a measured offset leaves: stepped, slowed or hastened. -/
theorem steer_clock (c : Clock) (d : Dev) (port : Nat) (off : Int) :
    (steer c d port off).1 = if 10000 < off then c.jump off.toNat else if off < 0 then c.slowBy off.natAbs else c.hastenBy off.toNat := by
  unfold steer
  split
  · rfl
  · split <;> rfl

theorem moves_steer (b : Bool) (c : Clock) (d : Dev) (port : Nat) (off : Int) : Moves b c (steer c d port off).1 := by
  rw [steer_clock]
  split
  · exact moves_jump b c _
  · split
    · exact moves_slowBy b c _
    · exact moves_hastenBy b c _

theorem steer_everLocked (c : Clock) (d : Dev) (port : Nat) (off : Int) : (steer c d port off).1.everLocked = c.everLocked := by
  rw [steer_clock]
  split
  · rfl
  · split <;> rfl

/-- The time-lost state ends only for a count that has been locked. -/
theorem moves_regainTime (b : Bool) {c : Clock} (d : Dev) (port : Nat) (off : Int) (lost : Nat) (h : c.everLocked = true) :
    Moves b c (regainTime c d port off lost).1 :=
  ⟨fun _ => Nat.le_refl _, fun ⟨_, _, hone, hacc⟩ => ⟨fun _ => rfl, fun _ => h, hone, hacc⟩⟩

theorem moves_judgeLock (b : Bool) (c : Clock) (d : Dev) (port : Nat) (off : Int) (good gm : Nat) :
    Moves b c (judgeLock c d port off good gm).1 := by
  unfold judgeLock
  split
  · exact ⟨fun _ => Nat.le_refl _, fun ⟨_, _, hone, hacc⟩ => ⟨fun _ => rfl, fun _ => rfl, hone, hacc⟩⟩
  · split
    · exact moves_unlock b c
    · exact .refl b c

theorem moves_follow (b : Bool) (c : Clock) (d : Dev) (port : Nat) (off : Int) : Moves b c (follow c d port off).1 := by
  unfold follow
  dsimp only
  split
  · exact moves_loseTime b c _ 2
  · refine .trans ?_ (moves_judgeLock b _ _ port off _ _)
    split
    case isTrue h =>
      have he : c.everLocked = true := by simp only [Bool.and_eq_true] at h; exact h.2
      exact (moves_steer b c _ port off).trans (moves_regainTime b _ port off _ (by rw [steer_everLocked, he]))
    case isFalse => exact moves_steer b c _ port off

theorem moves_wholeSync (b : Bool) (c : Clock) (d : Dev) (port : Nat) (t1 : Int) (t2 : Nat) :
    Moves b c (wholeSync c d port t1 t2).1 := moves_follow b c _ port _

/-- Settles O43: a forward offset above 10 µs is a jump of the count, any other leaves the time, and one of more than 1 ms backward
takes the branch that loses the time. -/
theorem offsetsCorrectTheCount : Obligations.OffsetsCorrectTheCount := by
  refine ⟨fun c d port off => ⟨fun h => ?stepped, fun h => ?stands⟩, fun c d port off h hl => ?lost⟩
  case stepped => rw [steer_clock, if_pos h]; rfl
  case stands =>
    rw [steer_clock, if_neg (by omega)]
    split <;> rfl
  case lost =>
    unfold follow
    dsimp only
    rw [if_pos h, loseTime_clock]

/-- Either branch of an effect on the clock and the device moves the clock. -/
theorem Moves.ite {b : Bool} {c : Clock} {p : Prop} [Decidable p] {x y : Clock × Dev} (hx : p → Moves b c x.1)
    (hy : ¬p → Moves b c y.1) : Moves b c (if p then x else y).1 := by
  split
  case isTrue h => exact hx h
  case isFalse h => exact hy h

/-- An effect under a condition moves the clock; without it the clock stands. -/
theorem Moves.ite_else {b : Bool} {c : Clock} {p : Prop} [Decidable p] {d : Dev} {x : Clock × Dev} (hx : Moves b c x.1) :
    Moves b c (if p then x else (c, d)).1 := .ite (fun _ => hx) fun _ => .refl b c

/-- An effect that a condition bars moves the clock; while it is barred the clock stands. -/
theorem Moves.ite_then {b : Bool} {c : Clock} {p : Prop} [Decidable p] {d : Dev} {x : Clock × Dev} (hx : Moves b c x.1) :
    Moves b c (if p then (c, d) else x).1 := .ite (fun _ => .refl b c) fun _ => hx

/-! ### Resets, supplies, sleep and temperature (R430, R480 to R483, R498 to R503, R518, R524) -/

theorem moves_holdover (b : Bool) (c : Clock) (d : Dev) : Moves b c (holdover (c, d)).1 := moves_loseTime b c d 1

/-- What follows on the device moves the clock no further. -/
theorem Moves.overDev {b : Bool} {c : Clock} {r : Clock × Dev} (h : Moves b c r.1) (f : Clock → Dev → Dev) :
    Moves b c (overDev r f).1 := h

theorem moves_takeReset (b : Bool) (c : Clock) (d : Dev) (warm : Bool) : Moves b c (takeReset c d warm).1 := by
  unfold takeReset
  exact (moves_holdover b c _).overDev _

theorem moves_resetModule (b : Bool) (c : Clock) (d : Dev) (warm : Bool) : Moves b c (resetModule c d warm).1 := by
  unfold resetModule
  split
  · exact .ite_else (moves_takeReset b c d false)
  · exact .refl b c
  · exact .refl b c
  · exact .refl b c
  · exact moves_takeReset b c _ _

/-- A message that is not obeyed leaves the clock; one that is moves it as its work does. -/
theorem moves_powerMsg {b : Bool} {c : Clock} (type : Nat) (session : Bool) (m : Bytes) (d : Dev) (judge : Nat)
    {run : Clock → Dev → Clock × Dev} (h : ∀ d, Moves b c (run c d).1) : Moves b c (powerMsg type session m c d judge run).1 := by
  unfold powerMsg
  split
  · exact .refl b c
  · exact .ite_else (h _)

/-- Keepers that lose their power keep fabric time where it stands and forget that it was ever locked. -/
theorem moves_losePowerOfKeepers (b : Bool) (c : Clock) (d : Dev) : Moves b c (losePowerOfKeepers c d).1 :=
  ⟨fun _ => Nat.le_refl _, fun _ => ⟨fun h => Bool.noConfusion h, fun h => Bool.noConfusion h, Or.inl rfl, Nat.succ_pos _⟩⟩

/-- Operating time starts or stops: nothing that is kept in order moves. -/
theorem moves_powered (b : Bool) (c : Clock) (on : Bool) (n : Nat) : Moves b c { c with powered := on, powerCycles := n } :=
  ⟨fun _ => Nat.le_refl _, id⟩

/-- A power-on counts on from the time that a keeper has held; it starts from the floor only when none has. -/
theorem moves_powerUp (c : Clock) (d : Dev) : Moves d.power.kept c (powerUp c d).1 := by
  unfold powerUp
  have hon := moves_powered d.power.kept c true (c.powerCycles + 1)
  exact .ite (fun _ => hon) fun _ => .ite (fun _ => hon) fun hk => ⟨fun h => absurd h hk, id⟩

theorem moves_loseInput (b : Bool) (c : Clock) (d : Dev) : Moves b c (loseInput c d).1 := by
  have hoff : ∀ d : Dev, Moves b c { (holdover (c, d)).1 with powered := false } := fun d =>
    (moves_holdover b c d).trans (moves_powered b _ false _)
  unfold loseInput
  exact .ite_then (.ite (fun _ => hoff _) fun _ => (hoff _).trans (moves_losePowerOfKeepers b _ _))

theorem moves_enterSleep (b : Bool) (src at_ : Nat) (c : Clock) (d : Dev) : Moves b c (enterSleep src at_ c d).1 := by
  unfold enterSleep
  exact moves_holdover b c _

theorem moves_wake (b : Bool) (c : Clock) (d : Dev) : Moves b c (wake c d).1 := by
  unfold wake
  exact .ite_then (moves_reach b c _)

theorem moves_thermalOff (b : Bool) (c : Clock) (d : Dev) : Moves b c (thermalOff c d).1 := by
  unfold thermalOff
  exact (moves_holdover b c _).overDev _

/-! ### Bring-up (R430, R484) -/

theorem moves_stage8 (b : Bool) (c : Clock) (d : Dev) : Moves b c (stage8 c d).1 := by
  unfold stage8
  exact .ite_then (.ite_else (moves_jump b c _))

/-- Only stage 8 steps the count. -/
theorem moves_stageWork (b : Bool) (c : Clock) (d : Dev) (rep : StageReport) (fast : Bool) :
    Moves b c (stageWork c d rep fast).1 := by
  unfold stageWork
  dsimp only
  split
  case h_7 => exact moves_stage8 b c _
  all_goals exact .refl b c

theorem moves_finishStage (b : Bool) (c : Clock) (d : Dev) (rep : StageReport) : Moves b c (finishStage c d rep).1 := by
  have hw := moves_stageWork b c d rep
  unfold finishStage
  exact .ite (fun _ => hw _) fun _ => .ite (fun _ => hw _) fun _ => hw _

/-! ### Every command and every step -/

/-- The outcome of a command moves the clock `c`. -/
def OutMoves (b : Bool) (c : Clock) (o : Out) : Prop := ∀ t, o = .next t → Moves b c t.clock

theorem outMoves_next {b : Bool} {c : Clock} {t : State} (h : Moves b c t.clock) : OutMoves b c (.next t) := by
  intro u hu
  cases hu
  exact h

theorem outMoves_onBoth {b : Bool} {c : Clock} {s : State} (f : Clock → Dev → Clock × Dev) (h : Moves b c (f s.clock s.dev).1) :
    OutMoves b c (s.onBoth f) := outMoves_next h

theorem outMoves_of_goes {b : Bool} {s : State} {o : Out} (h : Goes s false o) : OutMoves b s.clock o := by
  obtain ⟨c, d, ho, hc⟩ := h.out
  obtain ⟨n, rfl⟩ := hc rfl
  rw [ho]
  exact outMoves_next (moves_reach b s.clock n)

theorem outMoves_sync (b : Bool) (port : Nat) (m : PtpMsg) (s : State) : OutMoves b s.clock (execSync port m s) :=
  outMoves_onBoth _ (.ite_then (.ite_then (moves_wholeSync b _ _ port _ _)))

theorem outMoves_followUp (b : Bool) (port : Nat) (m : PtpMsg) (s : State) : OutMoves b s.clock (execFollowUp port m s) := by
  refine outMoves_onBoth _ ?_
  split
  · exact .ite_else (moves_wholeSync b _ _ port _ _)
  · exact .refl b _

theorem outMoves_announceTimeout (b : Bool) (s : State) : OutMoves b s.clock (execAnnounceTimeout s) := by
  unfold execAnnounceTimeout
  dsimp only
  split
  · exact outMoves_onBoth _ (moves_loseTime b _ _ 1)
  case h_2 k _ =>
    refine outMoves_onBoth _ ((moves_reach b s.clock k.expires).trans ?_)
    exact .ite_else (moves_loseTime b _ _ 1)

theorem outMoves_moduleReset (b : Bool) (session : Bool) (m : Bytes) (s : State) : OutMoves b s.clock (execModuleReset session m s) :=
  outMoves_onBoth _ (moves_powerMsg _ _ _ _ _ fun d => moves_resetModule b _ d _)

theorem outMoves_sleep (b : Bool) (session : Bool) (m : Bytes) (s : State) : OutMoves b s.clock (execSleep session m s) :=
  outMoves_onBoth _ (moves_powerMsg _ _ _ _ _ fun d => moves_enterSleep b _ _ _ d)

theorem outMoves_wake (b : Bool) (session : Bool) (m : Bytes) (s : State) : OutMoves b s.clock (execWake session m s) :=
  outMoves_onBoth _ (moves_powerMsg _ _ _ _ _ fun d => moves_wake b _ d)

theorem outMoves_wakeAtReached (b : Bool) (s : State) : OutMoves b s.clock (execWakeAtReached s) := by
  unfold execWakeAtReached
  split
  · exact outMoves_onBoth _ ((moves_reach b s.clock s.dev.power.wakeAt).trans (moves_wake b _ _))
  · exact outMoves_next (.refl b _)

theorem outMoves_fabricWakePattern (b : Bool) (lane : Nat) (s : State) : OutMoves b s.clock (execFabricWakePattern lane s) :=
  outMoves_onBoth _ (.ite_else (moves_wake b _ _))

theorem outMoves_powerOn (s : State) : OutMoves s.dev.power.kept s.clock (execPowerOn s) :=
  outMoves_onBoth _ (.ite_then (.ite_else (moves_powerUp s.clock (s.dev.modPower fun x => { x with inputOk := true }))))

theorem outMoves_inputLostInSleep (b : Bool) (s : State) : OutMoves b s.clock (execInputLostInSleep s) :=
  outMoves_onBoth _ (.ite_else (moves_loseInput b _ _))

theorem outMoves_auxInputLost (b : Bool) (s : State) : OutMoves b s.clock (execAuxInputLost s) :=
  outMoves_onBoth _ (.ite_then (moves_losePowerOfKeepers b _ _))

theorem outMoves_auxInputRestored (s : State) : OutMoves s.dev.power.kept s.clock (execAuxInputRestored s) :=
  outMoves_onBoth _ (.ite_then (.ite_else (moves_powerUp s.clock (s.dev.modPower fun x => { x with auxOk := true }))))

theorem outMoves_moduleResetNAssert (b : Bool) (s : State) : OutMoves b s.clock (execModuleResetNAssert s) := by
  refine outMoves_onBoth _ ?_
  split
  · exact .refl b _
  · exact .refl b _
  · exact moves_resetModule b _ _ false
  · exact (moves_wake b _ _).overDev _
  · exact .refl b _

theorem outMoves_moduleResetNRelease (b : Bool) (s : State) : OutMoves b s.clock (execModuleResetNRelease s) :=
  outMoves_onBoth _ (.ite_then (.ite_then (moves_takeReset b _ _ _)))

theorem outMoves_moduleResetNColdHold (b : Bool) (s : State) : OutMoves b s.clock (execModuleResetNColdHold s) :=
  outMoves_onBoth _ (.ite_then ((moves_holdover b _ _).overDev _))

theorem outMoves_thermalSample (b : Bool) (temp : Int) (s : State) : OutMoves b s.clock (execThermalSample temp s) :=
  outMoves_onBoth _ (.ite_then (.ite_else (moves_thermalOff b _ _)))

theorem outMoves_thermalShutdown (b : Bool) (s : State) : OutMoves b s.clock (execThermalShutdown s) :=
  outMoves_onBoth _ (.ite_else (moves_thermalOff b _ _))

theorem outMoves_thermalShutdownExit (b : Bool) (s : State) : OutMoves b s.clock (execThermalShutdownExit s) :=
  outMoves_onBoth _ (.ite_then (.ite_else (moves_takeReset b _ _ false)))

theorem outMoves_bringupStage (b : Bool) (rep : StageReport) (s : State) : OutMoves b s.clock (execBringupStage rep s) := by
  refine outMoves_onBoth _ ?_
  split
  · exact .ite_else (moves_finishStage b _ _ rep)
  · exact .refl b _

/-- The commands that set the clock move it too: `exec_goes` leaves these open. -/
theorem exec_moves_of_setsClock (i : Instr) (s : State) (h : setsClock i = true) : OutMoves s.dev.power.kept s.clock (exec i s) := by
  cases i with
  | moduleReset session m => exact outMoves_moduleReset _ session m s
  | sleep session m => exact outMoves_sleep _ session m s
  | wake session m => exact outMoves_wake _ session m s
  | wakeAtReached => exact outMoves_wakeAtReached _ s
  | fabricWakePattern lane => exact outMoves_fabricWakePattern _ lane s
  | sync port m => exact outMoves_sync _ port m s
  | followUp port m => exact outMoves_followUp _ port m s
  | announceTimeout => exact outMoves_announceTimeout _ s
  | powerOn => exact outMoves_powerOn s
  | lowerLimitTrip => exact outMoves_onBoth (s := s) _ (moves_loseInput _ s.clock s.dev)
  | inputLostInSleep => exact outMoves_inputLostInSleep _ s
  | auxInputLost => exact outMoves_auxInputLost _ s
  | auxInputRestored => exact outMoves_auxInputRestored s
  | moduleResetNAssert => exact outMoves_moduleResetNAssert _ s
  | moduleResetNRelease => exact outMoves_moduleResetNRelease _ s
  | moduleResetNColdHold => exact outMoves_moduleResetNColdHold _ s
  | thermalSample temp => exact outMoves_thermalSample _ temp s
  | thermalShutdown => exact outMoves_thermalShutdown _ s
  | thermalShutdownExit => exact outMoves_thermalShutdownExit _ s
  | bringupStage rep => exact outMoves_bringupStage _ rep s
  | _ => exact Bool.noConfusion h

/-- Every command moves the clock, or lets fabric time pass, which is a move. -/
theorem exec_moves (i : Instr) (s : State) : OutMoves s.dev.power.kept s.clock (exec i s) := by
  have hg := exec_goes i s
  cases h : setsClock i with
  | true => exact exec_moves_of_setsClock i s h
  | false => rw [h] at hg; exact outMoves_of_goes hg

/-- Every step moves the clock: by the command at the front of the queue, or by a tick. -/
theorem step_moves {s t : State} (h : step s = .next t) : Moves s.dev.power.kept s.clock t.clock := by
  cases hq : s.pending with
  | nil =>
    rw [stepRunsTheFront.2 s hq] at h
    exact outMoves_next (moves_tick _ s.clock) t h
  | cons i l =>
    rw [stepRunsTheFront.1 i l s hq] at h
    exact exec_moves i { s with pending := l } t h

/-- Settles O3: the part of `step_moves` that speaks of fabric time. -/
theorem timeNeverDecreases : Obligations.TimeNeverDecreases := fun _ _ hk h => (step_moves h).time_le hk

/-- Settles O4: the part of `step_moves` that speaks of the order of the counts. -/
theorem clockStaysInOrder : Obligations.ClockStaysInOrder := fun _ _ hok h => (step_moves h).inOrder hok

end Sys2Proof.Machine
end

section
/-! PROOF. Admission: a FLUSH that passes its checks takes the partition's visibility epoch and the fabric time. -/

namespace Sys2Proof.Machine

open Sys2Proof

theorem Outward.flash {d d' : Dev} (h : Outward d d') : d'.flash = d.flash := by
  obtain ⟨f, o, rfl⟩ := h
  rfl

@[simp] theorem Dev.sendRdma_flash (d : Dev) (c : Clock) (rs : RsId) (o : RoceOut) : (d.sendRdma c rs o).flash = d.flash := by
  unfold Dev.sendRdma
  split
  · rfl
  · split
    · unfold Dev.issueRdma
      dsimp only
      rw [(outward_sendTo _ c _ _ o.tie o.svc _ true o.len _).flash, Dev.modRing_flash, (outward_nextSequence d rs.partNo).flash]
    · exact Dev.modRing_flash d rs _

@[simp] theorem Dev.askHost_flash (d : Dev) (c : Clock) (r : ReqRef) (addr n : Nat) : (d.askHost c r addr n).flash = d.flash := by
  unfold Dev.askHost Dev.readHost
  dsimp only
  split
  · split
    · exact Dev.sendRdma_flash d c r.rs _
    · rfl
  · rfl

@[simp] theorem Dev.readInputs_flash (d : Dev) (c : Clock) (r : ReqRef) : (d.readInputs c r).flash = d.flash := by
  unfold Dev.readInputs
  exact foldl_keep (fun e : Dev => e.flash) _ (fun e (k : Nat × Nat) => Dev.askHost_flash e c r k.1 k.2) _ d

/-- Admission reads input buffers, takes an epoch and marks a request: it writes no flash. -/
@[simp] theorem Dev.enter_flash (d : Dev) (c : Clock) (r : ReqRef) (f : Req → Req) : (d.enter c r f).flash = d.flash := by
  simp [Dev.enter, Dev.modReq]

/-- A fetched request that passes every check and is granted its resources, run no further than its admission, is admitted. -/
theorem Dev.command_only_admits {s : State} {r : ReqRef} {op : Nat} {q : Req} {perm fields handles : Req → Bool}
    {quota : Dev → Req → Grant} {work : Dev → Req → Dev × Option Ending} {f : Req → Req} (h : Fetched s r op q)
    (hg : s.dev.gate s.clock r q (perm q) (fields q) (handles q) = none) (hq : quota s.dev q = .go f) :
    s.dev.command s.clock r op .admitted perm fields handles quota work = s.dev.enter s.clock r f := by
  obtain ⟨hreq, hop, hrun, hadm, hwait⟩ := h
  rw [Dev.command_admits .admitted perm fields handles quota work hreq hop hrun hadm hwait hg hq, if_pos rfl]

/-- A FLUSH that passes its checks is admitted at once: without a checkpoint, or with room for the pages of one (R287, R292). -/
theorem execFlush_admits {s : State} {r : ReqRef} {io : Io} {q : Req} (h : Fetched s r 0x34 q)
    (hg : s.dev.gate s.clock r q true true true = none) (hu : io.upto = .admitted)
    (hroom : fbits q.desc 28 5 5 = 0 ∨ s.dev.fits r.rs.partNo (s.dev.checkpointNew r.rs.partNo) true 0 = true ∧
      s.dev.mayWrite r.rs.partNo 16384 s.clock.time true 0 = true) :
    execFlush r io s = Becomes s (s.dev.enter s.clock r id) := by
  unfold execFlush
  rw [State.onDev_eq, Becomes]
  dsimp only
  rw [hu, Dev.command_only_admits (f := id) h hg]
  rcases hroom with h0 | ⟨hfits, hwrite⟩
  · rw [if_pos h0]
  · simp [hfits, hwrite]

/-- Settles O31: the FLUSH is admitted, and what admission gives a request and leaves of the device is what the laws of
`Dev.enter` say. -/
theorem admissionTakesEpochAndTime : Obligations.AdmissionTakesEpochAndTime := by
  intro s r io q h hg hu hroom
  have keep : ∀ {α : Type} (g : Part → α) (k : Nat), (∀ x l, g { x with rings := l } = g x) → (∀ x v, g { x with vis := v } = g x) →
      g ((s.dev.enter s.clock r id).part k) = g (s.dev.part k) := fun g k => Dev.part_enter_keep g s.dev s.clock r id k
  refine ⟨s.dev.enter s.clock r id, execFlush_admits h hg hu hroom, Dev.req?_enter h.1 fun _ => rfl, fun k => ⟨?_, ?_, ?_, ?_⟩,
    Dev.enter_flash s.dev s.clock r id⟩
  · exact keep (fun x => x.mem) k (fun _ _ => rfl) fun _ _ => rfl
  · exact keep (fun x => x.idx) k (fun _ _ => rfl) fun _ _ => rfl
  · exact keep (fun x => x.objs) k (fun _ _ => rfl) fun _ _ => rfl
  · exact keep (fun x => x.life) k (fun _ _ => rfl) fun _ _ => rfl

end Sys2Proof.Machine
end

section
/-! PROOF. Updates of an index: what their structure records leave of the device, and how INSERT, UPSERT and DELETE end. -/

namespace Sys2Proof.Machine

open Sys2Proof

/-! ### Structure records (R258) -/

/-- `e` is `d` but for what records change: the flash, and the journals of partitions. -/
structure OnlyRecords (d e : Dev) : Prop where
  mgmt : e.mgmt = d.mgmt
  part : ∀ k, ∃ j, e.part k = { d.part k with journal := j }

theorem OnlyRecords.refl (d : Dev) : OnlyRecords d d := ⟨rfl, fun _ => ⟨_, rfl⟩⟩

theorem OnlyRecords.trans {a b c : Dev} (h : OnlyRecords a b) (k : OnlyRecords b c) : OnlyRecords a c := by
  refine ⟨k.mgmt.trans h.mgmt, fun n => ?_⟩
  obtain ⟨i, hi⟩ := h.part n
  obtain ⟨j, hj⟩ := k.part n
  exact ⟨j, by rw [hj, hi]⟩

theorem onlyRecords_flash (d : Dev) (f : Flash) : OnlyRecords d { d with flash := f } := ⟨rfl, fun _ => ⟨_, rfl⟩⟩

theorem onlyRecords_modJournal (d : Dev) (p : Nat) (f : Part → Journal) :
    OnlyRecords d (d.modPart p fun y => { y with journal := f y }) := by
  refine ⟨rfl, fun k => ?_⟩
  by_cases hp : p = k
  · subst hp
    by_cases hl : p < d.parts.length
    · exact ⟨_, Dev.part_modPart_self d _ hl⟩
    · exact ⟨(d.part p).journal, by simp [Dev.modPart, modAt_of_le _ (Nat.le_of_not_lt hl)]⟩
  · exact ⟨(d.part k).journal, Dev.part_modPart_ne d _ hp⟩

theorem onlyRecords_settleBuffer (d : Dev) (p : Nat) : OnlyRecords d (d.settleBuffer p) := by
  unfold Dev.settleBuffer
  split
  · exact onlyRecords_flash d _
  · exact .refl d

theorem onlyRecords_packAppend (d : Dev) (c : Clock) (p : Nat) (run : Bytes) : OnlyRecords d (d.packAppend c p run) :=
  (onlyRecords_flash d _).trans (onlyRecords_modJournal _ p _)

theorem onlyRecords_structRun (d : Dev) (c : Clock) (p tag : Nat) (body : Bytes) : OnlyRecords d (d.structRun c p tag body) := by
  unfold Dev.structRun
  dsimp only
  refine .trans (b := if d.bufferRoom p (recordRun 3 (d.part p).journal.next body).length then d
    else { d with flash := (d.flash.flushPart p).1 }) ?_ ?_
  · split
    · exact .refl d
    · exact onlyRecords_flash d _
  · exact ((onlyRecords_packAppend _ c p _).trans (onlyRecords_modJournal _ p _)).trans (onlyRecords_settleBuffer _ p)

/-- What every step of a fold leaves but for records, the fold leaves so. -/
theorem onlyRecords_foldl {α : Type} (f : Dev → α → Dev) (h : ∀ d a, OnlyRecords d (f d a)) :
    ∀ (l : List α) (d : Dev), OnlyRecords d (l.foldl f d)
  | [], d => .refl d
  | a :: l, d => (h d a).trans (onlyRecords_foldl f h l (f d a))

theorem onlyRecords_stateRecords (d : Dev) (c : Clock) (p : Nat) : OnlyRecords d (d.stateRecords c p) := by
  unfold Dev.stateRecords
  dsimp only
  split
  · exact .refl d
  · refine (onlyRecords_modJournal d p _).trans (onlyRecords_foldl _ (fun e i => ?_) _ _)
    split
    · exact .refl e
    · exact onlyRecords_structRun e c p i.num _

theorem onlyRecords_structAppend (d : Dev) (c : Clock) (p index handle lists : Nat) :
    OnlyRecords d (d.structAppend c p index handle lists) := by
  unfold Dev.structAppend
  dsimp only
  split
  · exact onlyRecords_stateRecords d c p
  · exact (onlyRecords_stateRecords d c p).trans (onlyRecords_structRun _ c p index _)

theorem OnlyRecords.vis {d e : Dev} (h : OnlyRecords d e) (k : Nat) : (e.part k).vis = (d.part k).vis := by
  obtain ⟨j, hj⟩ := h.part k
  rw [hj]

theorem OnlyRecords.req? {d e : Dev} (h : OnlyRecords d e) (r : ReqRef) : e.req? r = d.req? r := by
  unfold Dev.req?
  cases r.rs with
  | mgmt n => simp only [Dev.ring, h.mgmt]
  | part p n =>
    obtain ⟨j, hj⟩ := h.part p
    simp only [Dev.ring, hj]

/-! ### A partition put in the place of another -/

/-- A partition that takes the place of one with the same ring sets leaves every request in flight. -/
theorem Dev.req?_setPart (d : Dev) (p : Nat) {y : Part} (h : y.rings = (d.part p).rings) (r : ReqRef) :
    (d.modPart p fun _ => y).req? r = d.req? r := by
  unfold Dev.req?
  cases hr : r.rs with
  | mgmt n => rfl
  | part k n =>
    by_cases hp : p = k
    · subst hp
      by_cases hl : p < d.parts.length
      · simp only [Dev.ring, Dev.part_modPart_self d _ hl, h]
      · simp [Dev.modPart, modAt_of_le _ (Nat.le_of_not_lt hl)]
    · simp only [Dev.ring, Dev.part_modPart_ne d _ hp]

@[simp] theorem Part.modIndex_rings (x : Part) (n : Nat) (f : Index → Index) : (x.modIndex n f).rings = x.rings := rfl
@[simp] theorem Part.modIndex_vis (x : Part) (n : Nat) (f : Index → Index) : (x.modIndex n f).vis = x.vis := rfl
@[simp] theorem Part.applied_rings (x : Part) (j : Nat) : (x.applied j).rings = x.rings := rfl
@[simp] theorem Part.stale_rings (x : Part) (n : Nat) (l : List Nat) : (x.stale n l).rings = x.rings := rfl

@[simp] theorem Part.linkUpd_rings (x : Part) (u : UpdRun) (adm : Nat) : (x.linkUpd u adm).rings = x.rings := by
  unfold Part.linkUpd
  split <;> rfl

@[simp] theorem Part.linkUpd_vis (x : Part) (u : UpdRun) (adm : Nat) : (x.linkUpd u adm).vis = x.vis := by
  unfold Part.linkUpd
  split <;> rfl

@[simp] theorem Part.commitUpd_rings (x : Part) (u : UpdRun) (e : Nat) (order : Nat × Nat × Nat) :
    (x.commitUpd u e order).rings = x.rings := by
  unfold Part.commitUpd
  split <;> rfl

/-! ### INSERT and UPSERT (R27, R116) -/

/-- A request whose deadline has not passed is not late. -/
theorem Dev.lateUpd_none {d : Dev} {c : Clock} {r : ReqRef} {q : Req} (h : d.req? r = some q) (hd : deadlinePassed c q = false) :
    d.lateUpd c r = none := by
  unfold Dev.lateUpd
  rw [h]
  dsimp only
  split
  · simp [hd]
  · rfl

/-- A journaled update of a standard partition whose vector is at hand and whose node is placed has only its commit left. -/
theorem Dev.runInsert_commits {d : Dev} {c : Clock} {r : ReqRef} {io : Io} {q : Req} {u : UpdRun} {j : Nat} (hu : io.upto = .done)
    (hw : q.work = .upd u) (hj : u.journal = some j) (hr : (d.part r.rs.partNo).cfg.repro = false) (hv : u.haveVec = true)
    (hp : u.placed = true) : d.runInsert c r io q = d.commitInsert c r q u := by
  simp [Dev.runInsert, Dev.encodeUpd, hu, hw, hj, hr, hv, hp]

/-- The device once the links of a placed update are written and recorded (R27 step 3, R258). -/
def Dev.linked (d : Dev) (c : Clock) (p : Nat) (u : UpdRun) (adm : Nat) : Dev :=
  (d.modPart p fun _ => (d.part p).linkUpd u adm).structAppend c p u.index u.handle (((d.part p).linkUpd u adm).linksOf u)

/-- Linking assigns no epoch. -/
theorem Dev.linked_vis {d : Dev} (c : Clock) {p : Nat} (u : UpdRun) (adm : Nat) (hl : p < d.parts.length) :
    ((d.linked c p u adm).part p).vis = (d.part p).vis := by
  unfold Dev.linked
  rw [(onlyRecords_structAppend _ c p _ _ _).vis p, Dev.part_modPart_self d _ hl, Part.linkUpd_vis]

theorem Dev.linked_req? (d : Dev) (c : Clock) (p : Nat) (u : UpdRun) (adm : Nat) (r : ReqRef) :
    (d.linked c p u adm).req? r = d.req? r := by
  unfold Dev.linked
  rw [(onlyRecords_structAppend _ c p _ _ _).req? r, Dev.req?_setPart d p (Part.linkUpd_rings _ u adm)]

/-- The device once a linked update has its commit epoch `e`, which is recorded (R27 steps 4 and 5, R258). -/
def Dev.committed (d : Dev) (c : Clock) (p : Nat) (u : UpdRun) (e : Nat) (order : Nat × Nat × Nat) (j : Nat) : Dev :=
  (d.modPart p fun _ => (({ d.part p with vis := (d.part p).vis.assign.1 } : Part).commitUpd u e order).applied j).structAppend c p
    u.index u.handle 0

theorem Dev.committed_req? (d : Dev) (c : Clock) (p : Nat) (u : UpdRun) (e : Nat) (order : Nat × Nat × Nat) (j : Nat) (r : ReqRef) :
    (d.committed c p u e order j).req? r = d.req? r := by
  unfold Dev.committed
  rw [(onlyRecords_structAppend _ c p _ _ _).req? r, Dev.req?_setPart d p (by rw [Part.applied_rings, Part.commitUpd_rings])]

/-- The commit of an update that can be applied: its links, then its epoch, the first that begins after now (R27, R115). -/
theorem Dev.commitInsert_commits {d : Dev} {c : Clock} {r : ReqRef} {q : Req} {u : UpdRun} {j : Nat} (h : d.req? r = some q)
    (hl : r.rs.partNo < d.parts.length) (hj : u.journal = some j) (ha : (d.part r.rs.partNo).cannotApply u q.epoch = false) :
    d.commitInsert c r q u =
      ((d.linked c r.rs.partNo u q.epoch).committed c r.rs.partNo u ((d.part r.rs.partNo).vis.cur + 1) (orderKeyOf r q) j,
        some ⟨withReplays statusSUCCESS q.replays, q.flags, (d.part r.rs.partNo).vis.cur + 1, u.version⟩) := by
  have hcur : ((d.linked c r.rs.partNo u q.epoch).part r.rs.partNo).vis.assign.2 = (d.part r.rs.partNo).vis.cur + 1 := by
    rw [Vis.assign, Dev.linked_vis c u q.epoch hl]
  have hreq : ((d.linked c r.rs.partNo u q.epoch).committed c r.rs.partNo u ((d.part r.rs.partNo).vis.cur + 1) (orderKeyOf r q) j).req? r =
      some q := by rw [Dev.committed_req?, Dev.linked_req?, h]
  rw [← hcur] at hreq ⊢
  unfold Dev.commitInsert
  dsimp only
  rw [ha, if_neg (by decide), hj]
  simp only [Dev.committed, Dev.linked, Option.getD_some] at hreq ⊢
  rw [hreq]
  rfl

/-- An INSERT or UPSERT in hand, ready for its commit, commits and ends. -/
theorem Dev.insertCmd_ends {s : State} {r : ReqRef} {io : Io} {op : Nat} {q : Req} {u : UpdRun} {j : Nat} (h : Carries s r op q)
    (hu : io.upto = .done) (hw : q.work = .upd u) (hj : u.journal = some j) (hr : (s.dev.part r.rs.partNo).cfg.repro = false)
    (hl : r.rs.partNo < s.dev.parts.length) (hd : deadlinePassed s.clock q = false) (hv : u.haveVec = true) (hp : u.placed = true)
    (ha : (s.dev.part r.rs.partNo).cannotApply u q.epoch = false) :
    s.dev.insertCmd s.clock r io op =
      ((s.dev.linked s.clock r.rs.partNo u q.epoch).committed s.clock r.rs.partNo u ((s.dev.part r.rs.partNo).vis.cur + 1)
        (orderKeyOf r q) j).finish s.clock r
        ⟨withReplays statusSUCCESS q.replays, q.flags, (s.dev.part r.rs.partNo).vis.cur + 1, u.version⟩ := by
  unfold Dev.insertCmd
  dsimp only
  rw [Dev.lateUpd_none h.1 hd]
  exact Dev.command_ends h io.upto _ _ _ _ _
    ((Dev.runInsert_commits hu hw hj hr hv hp).trans (Dev.commitInsert_commits h.1 hl hj ha))

/-! ### DELETE (R115, R117, R126) -/

/-- A journaled DELETE of a standard partition, of a handle whose node stands, tombstones it and ends. -/
theorem Dev.runDelete_ends {d : Dev} {c : Clock} {r : ReqRef} {io : Io} {q : Req} {u : UpdRun} {j : Nat} (hu : io.upto = .done)
    (hj : u.journal = some j) (hr : (d.part r.rs.partNo).cfg.repro = false) (hlost : (d.part r.rs.partNo).updLost u = false)
    (hpend : (d.part r.rs.partNo).handleState u.index u.handle ≠ .pending)
    (href : ((d.part r.rs.partNo).handleState u.index u.handle).refuses 0x21 = none) :
    d.runDelete c r io q u =
      let x := d.part r.rs.partNo
      ((d.modPart r.rs.partNo fun _ =>
          (({ x with vis := x.vis.assign.1 } : Part).deleteUpd c.time u (x.vis.cur + 1) (orderKeyOf r q)).applied j).structAppend c
            r.rs.partNo u.index u.handle 0,
        some ⟨withReplays statusSUCCESS q.replays, 0, x.vis.cur + 1, 0⟩) := by
  simp [Dev.runDelete, hu, hj, hr, hlost, hpend, href, Vis.assign]

/-- Settles O11: a ready INSERT or UPSERT is linked and committed, a ready DELETE tombstones its node, and each ends with the epoch
that it took. -/
theorem indexUpdatesComplete : Obligations.IndexUpdatesComplete := by
  intro s r io q u j hu hw hj hr hl hd
  dsimp only
  refine ⟨fun op hop h hv hp ha => ?insert, fun h hlost hpend href => ?delete⟩
  case insert =>
    have hend := congrArg (Becomes s) (Dev.insertCmd_ends h hu hw hj hr hl hd hv hp ha)
    rcases hop with rfl | rfl
    · rw [if_pos rfl]; exact hend
    · rw [if_neg (by decide)]; exact hend
  case delete =>
    show execDelete r io s = _
    unfold execDelete
    rw [State.onDev_eq, Ended]
    dsimp only
    rw [Dev.lateUpd_none h.1 hd]
    dsimp only
    rw [Dev.command_ends h io.upto _ _ _ _ _ (by rw [hw]; exact Dev.runDelete_ends hu hj hr hlost hpend href)]

end Sys2Proof.Machine
end

section
/-! PROOF. The ends of searches: what SEARCH and SEARCH_BATCH answer once every search of the request has ended, and the record with
which a search without a cross-encoder closes. -/

namespace Sys2Proof.Machine

open Sys2Proof

/-- Every search of a list has ended, and there is one: none is left that a request still waits for. -/
theorem searches_ended {l : List SearchRun} (hne : l ≠ []) (h : ∀ k ∈ l, k.status.isSome = true) :
    (l.isEmpty || l.any fun s => s.status.isNone) = false := by
  have hany : (l.any fun s => s.status.isNone) = false := by
    rw [List.any_eq_false]
    intro k hk
    simpa using Option.isSome_iff_ne_none.mp (h k hk)
  simp [hne, hany]

/-- A request of ended searches that is no batch ends with the first of them (R12). -/
theorem Dev.endSearches_single {d : Dev} {c : Clock} {r : ReqRef} {ok : Bool} {w : Req} {x : SearchRun} {xs : List SearchRun}
    (hreq : d.req? r = some w) (hop : w.opcode ≠ 0x11) (hw : w.work = .searches (x :: xs))
    (h : ∀ k ∈ x :: xs, k.status.isSome = true) : d.endSearches c r ok = d.finish c r (x.ending w.epoch) := by
  have hend := searches_ended (List.cons_ne_nil x xs) h
  simp only [Dev.endSearches, hreq, hw, hend, hop, if_false, List.head?_cons, Option.map_some, Option.getD_some, Bool.false_eq_true]

/-- A batch whose searches have all ended writes their status bytes and ends with their counts (R349, R362). -/
theorem Dev.endSearches_batch {d : Dev} {c : Clock} {r : ReqRef} {w : Req} {l : List SearchRun} (hreq : d.req? r = some w)
    (hop : w.opcode = 0x11) (hw : w.work = .searches l) (hne : l ≠ []) (h : ∀ k ∈ l, k.status.isSome = true) :
    d.endSearches c r true =
      (d.hostOut c r (fld w.desc 40 8) (l.flatMap fun s => le 1 (s.status.getD 0))).finish c r (batchEnding l w.epoch) := by
  have hend := searches_ended hne h
  simp only [Dev.endSearches, hreq, hw, hend, hop, if_false, if_true, Bool.false_eq_true]

/-- A whole run of a request's searches is each of them in turn, then what their ends give the request. -/
theorem Dev.runSearches_whole {d : Dev} {c : Clock} {r : ReqRef} {q : Req} {l0 : List SearchRun} (io : Io) (hreq : d.req? r = some q)
    (hw : q.work = .searches l0) : d.runSearches c r io false =
      ((List.range l0.length).foldl (fun (d : Dev) i => d.runSearch c r io (q.deadline != 0) i) d).endSearches c r io.writesOk := by
  simp [Dev.runSearches, hreq, hw]

/-- A SEARCH or SEARCH_BATCH in hand that runs to its end is a whole run of its searches. -/
theorem Dev.command_runs_searches {s : State} {r : ReqRef} {op : Nat} {q : Req} {io : Io} {perm fields handles : Req → Bool}
    {quota : Dev → Req → Grant} (h : Carries s r op q) (hu : io.upto = .done) :
    s.dev.command s.clock r op io.upto perm fields handles quota
        (fun d _ => (d.runSearches s.clock r io (decide (io.upto = .halfway)), none)) = s.dev.runSearches s.clock r io false :=
  Dev.command_goes_on h io.upto perm fields handles quota _ (by rw [hu]; rfl)

theorem execSearch_runs {s : State} {r : ReqRef} {q : Req} {io : Io} (h : Carries s r 0x10 q) (hu : io.upto = .done) :
    execSearch r io s = Becomes s (s.dev.runSearches s.clock r io false) :=
  congrArg (Becomes s) (Dev.command_runs_searches h hu)

theorem execSearchBatch_runs {s : State} {r : ReqRef} {q : Req} {io : Io} (h : Carries s r 0x11 q) (hu : io.upto = .done) :
    execSearchBatch r io s = Becomes s (s.dev.runSearches s.clock r io false) :=
  congrArg (Becomes s) (Dev.command_runs_searches h hu)

/-- A search that needs no rerank closes with its own final list (R101). -/
theorem Dev.rerank_closes {d : Dev} {c : Clock} {r : ReqRef} {i : Nat} {io : Io} {late : Bool} {x : SearchRun} {ix : Index}
    (hix : (d.part r.rs.partNo).index? (SBlock.ofBytes x.block).index = some ix)
    (hb : (SBlock.ofBytes x.block).d = 0 ∨ (SBlock.ofBytes x.block).ce = false) :
    d.rerank c r i io late x = d.closeSearch c r i x false none io.writesOk := by
  have hb' : (decide ((SBlock.ofBytes x.block).d = 0) || !(SBlock.ofBytes x.block).ce) = true := by simpa using hb
  simp only [Dev.rerank, hix, hb', if_true]

/-- Settles O10: a run leaves the device of its searches, whose ended list decides the end of the request; and a search that needs no
rerank closes with its exact list. -/
theorem searchesComplete : Obligations.SearchesComplete := by
  refine ⟨fun s r io q w l0 l hu hl0 => ?ends, fun d c r i io late x ix => ?closes⟩
  case ends =>
    dsimp only
    intro hreq hop hw hall
    refine ⟨fun h x xs hl => ?search, fun h hok hne => ?batch⟩
    case search =>
      subst hl
      have hop' : w.opcode ≠ 0x11 := by rw [hop, h.2.1]; decide
      exact (execSearch_runs h hu).trans (congrArg (Becomes s)
        ((Dev.runSearches_whole io h.1 hl0).trans (Dev.endSearches_single hreq hop' hw hall)))
    case batch =>
      refine (execSearchBatch_runs h hu).trans (congrArg (Becomes s) ((Dev.runSearches_whole io h.1 hl0).trans ?_))
      rw [hok]
      exact Dev.endSearches_batch hreq (hop.trans h.2.1) hw hne hall
  case closes =>
    dsimp only
    intro hix hb hok
    rw [Dev.rerank_closes hix hb, hok]
    rfl

end Sys2Proof.Machine
end

section
/-! PROOF. Sketches (R40, R84): the sign bit that a sketch takes of a component, and the bits of a sketch. -/

namespace Sys2Proof.Machine

open Sys2Proof

/-! ### The sign bit of a component (R31, R40) -/

theorem quantBit_inf (neg : Bool) : quantBit (.inf neg) = (neg.toNat, false) := by cases neg <;> rfl

theorem quantBit_fin (neg : Bool) (m : Nat) (e : Int) : quantBit (.fin neg m e) = (neg.toNat, false) := by cases neg <;> rfl

/-- The sign bit of an FP32 pattern is its top bit. -/
theorem f32_sign_toNat (f : F32) : (decide (f.toNat / 2 ^ 31 % 2 = 1)).toNat = f.toNat / 2 ^ 31 := by
  have hlt : f.toNat / 2 ^ 31 < 2 := Nat.div_lt_of_lt_mul f.isLt
  generalize f.toNat / 2 ^ 31 = n at hlt ⊢
  interval_cases n <;> rfl

/-- What an FP32 pattern stands for, by its exponent field and its fraction (R31, R32). -/
theorem f32num_eq (f : F32) :
    f32num f =
      let neg := decide (f.toNat / 2 ^ 31 % 2 = 1)
      let ex : Nat := f.toNat / 2 ^ 23 % 256
      let fr := f.toNat % 2 ^ 23
      if ex = 255 then (if fr = 0 then .inf neg else .nan)
      else if ex = 0 then .fin neg fr (-149) else .fin neg (fr + 2 ^ 23) (-149 + ((ex : Int) - 1)) := by
  have hexp : Fmt.f32.eb = 8 := rfl
  have hfrac : Fmt.f32.fb = 23 := rfl
  have hinf : Fmt.f32.hasInf = true := rfl
  have hsign : Fmt.f32.signBit = 2 ^ 31 := rfl
  have hmin : Fmt.f32.minE = -149 := rfl
  simp [f32num, Fmt.decode, hexp, hfrac, hinf, hsign, hmin]

/-- The sketch bit of an FP32 pattern is its top bit, unless the pattern is a NaN (R40). -/
theorem quantBit_f32num (f : F32) :
    quantBit (f32num f) =
      if f.toNat / 2 ^ 23 % 256 = 255 ∧ f.toNat % 2 ^ 23 ≠ 0 then (0, true) else (f.toNat / 2 ^ 31, false) := by
  rw [← f32_sign_toNat f, f32num_eq]
  dsimp only
  by_cases hex : f.toNat / 2 ^ 23 % 256 = 255
  · by_cases hfr : f.toNat % 2 ^ 23 = 0
    · rw [if_pos hex, if_pos hfr, if_neg (fun h => h.2 hfr), quantBit_inf]
    · rw [if_pos hex, if_neg hfr, if_pos ⟨hex, hfr⟩, quantBit]
  · rw [if_neg hex, if_neg (c := _ ∧ _) fun h => hex h.1, apply_ite quantBit, quantBit_fin, quantBit_fin, ite_self]

theorem quantBit_le_one (x : Num) : (quantBit x).1 ≤ 1 := by
  cases x with
  | nan => exact Nat.zero_le 1
  | inf neg => rw [quantBit_inf]; exact neg.toNat_le
  | fin neg m e => rw [quantBit_fin]; exact neg.toNat_le

/-! ### The number that a column of bits spells -/

theorem bitAt_eq_testBit (v i : Nat) : bitAt v i = v.testBit i := by
  rw [bitAt, Nat.testBit_eq_decide_div_mod_eq, Bool.beq_eq_decide_eq]

theorem indexed_map_range {α : Type} (g : Nat → α) (n : Nat) :
    indexed ((List.range n).map g) = (List.range n).map fun j => (j, g j) := by
  simpa [indexed] using List.zip_map' (l := List.range n) (f := id) (g := g)

/-- The sum of the first `n` bits, bit `j` with the weight 2^j. -/
def bitSum (g : Nat → Nat) (n : Nat) : Nat := (List.range n).foldl (fun s j => s + g j * 2 ^ j) 0

theorem bitSum_succ (g : Nat → Nat) (n : Nat) : bitSum g (n + 1) = 2 ^ n * g n + bitSum g n := by
  simp only [bitSum, List.range_succ, List.foldl_append, List.foldl_cons, List.foldl_nil]
  rw [Nat.add_comm, Nat.mul_comm]

theorem bitSum_lt {g : Nat → Nat} (hg : ∀ j, g j ≤ 1) (n : Nat) : bitSum g n < 2 ^ n := by
  induction n with
  | zero => exact Nat.one_pos
  | succ n ih =>
    have hn : 2 ^ n * g n ≤ 2 ^ n * 1 := Nat.mul_le_mul_left _ (hg n)
    rw [bitSum_succ, Nat.pow_succ]
    omega

theorem bitAt_bitSum {g : Nat → Nat} (hg : ∀ j, g j ≤ 1) (n j : Nat) : bitAt (bitSum g n) j = (decide (j < n) && g j == 1) := by
  rw [bitAt_eq_testBit]
  induction n with
  | zero => simp [bitSum]
  | succ n ih =>
    rw [bitSum_succ, Nat.testBit_two_pow_mul_add _ (bitSum_lt hg n), ih]
    rcases Nat.lt_trichotomy j n with h | rfl | h
    · simp [h, Nat.lt_succ_of_lt h]
    · rcases Nat.le_one_iff_eq_zero_or_eq_one.mp (hg j) with h0 | h1
      · simp [h0]
      · simp [h1]
    · have hbit : (g n).testBit (j - n) = false :=
        Nat.testBit_lt_two_pow (Nat.lt_of_le_of_lt (hg n) (Nat.one_lt_two_pow (by omega)))
      simp [hbit, Nat.not_lt_of_gt h, Nat.not_lt_of_ge (Nat.succ_le_of_lt h)]

/-! ### A sketch (R84, R119) -/

/-- The elements of a vector in the binary16 format in which they meet the projection, each with whether it is saturated. -/
def halfElems (v : List F32) : List (Nat × Bool) := v.map fun x => quantise .b16 (f32num x)

/-- Component `j` of the projection of a vector. -/
def IndexParams.component (p : IndexParams) (v : List F32) (j : Nat) : F32 :=
  (indexed ((halfElems v).map fun c => Fmt.f16.decode c.1)).foldl (fun acc q => accMul acc q.2 (f16num (p.projAt q.1 j))) f32zero

/-- The sketch bit of component `j`, and whether it is counted. -/
def IndexParams.componentBit (p : IndexParams) (v : List F32) (j : Nat) : Nat × Bool := quantBit (f32num (p.component v j))

theorem sketchOf_bits (p : IndexParams) (v : List F32) : (sketchOf p v).1 = bitSum (fun j => (p.componentBit v j).1) p.sketchBits := by
  show (indexed ((List.range p.sketchBits).map (p.componentBit v))).foldl (fun s c => s + c.2.1 * 2 ^ c.1) 0 = _
  rw [indexed_map_range, List.foldl_map, bitSum]

theorem sketchOf_saturated (p : IndexParams) (v : List F32) :
    (sketchOf p v).2 =
      ((halfElems v).filter (·.2)).length + ((List.range p.sketchBits).filter fun j => (p.componentBit v j).2).length := by
  show ((halfElems v).filter (·.2)).length + (((List.range p.sketchBits).map (p.componentBit v)).filter (·.2)).length = _
  rw [List.filter_map (l := List.range p.sketchBits), List.length_map]
  rfl

/-- Settles O32: the sign by what FP32 decoding gives, bit `j` as a bit of a sum of weighted bits. -/
theorem sketchBitIsTheSign : Obligations.SketchBitIsTheSign := by
  refine ⟨quantBit_f32num, fun p v => ⟨fun j => ?bit, sketchOf_saturated p v⟩⟩
  case bit =>
    rw [sketchOf_bits]
    exact bitAt_bitSum (fun j => quantBit_le_one _) p.sketchBits j

end Sys2Proof.Machine
end

section
/-! PROOF. Tile descriptors that run (R147, R148, R176 to R179): what each class leaves, and what its completion adds. -/

namespace Sys2Proof.Machine

open Sys2Proof

/-! ### Signals and completions (R148, R177) -/

/-- A signal to one tile is a fault just when it takes the counter past its end. -/
theorem Dev.signal_one_past (d : Dev) (site token n : Nat) :
    (d.signal [site] token n).2 = decide (65535 < (d.tile site).tokens.getD token 0 + n) := rfl

theorem Dev.signal_one_fits {d : Dev} {site token n : Nat} (h : (d.tile site).tokens.getD token 0 + n ≤ 65535) :
    (d.signal [site] token n).2 = false := by
  rw [Dev.signal_one_past]
  exact decide_eq_false (Nat.not_lt_of_le h)

section OneDescriptor
variable {d : Dev} {c : Clock} {fin : Ends} {p pos site : Nat} {x : TDesc}

theorem Dev.descDone_silent (h : Td.signalEn x.d = false) :
    d.descDone c fin p pos site x = (d.modTile site fun y => y.complete x.idx, true) := by
  simp [Dev.descDone, h]

/-- A descriptor that signals its own tile does so once it has left its queue. -/
theorem Dev.descDone_signals (h : Td.signalEn x.d = true) (hself : fld x.d 6 2 = 0xFFFF)
    (hfits : ((d.modTile site fun y => y.complete x.idx).tile site).tokens.getD (fbits x.d 4 5 0) 0 + fld x.d 5 1 ≤ 65535) :
    d.descDone c fin p pos site x =
      (((d.modTile site fun y => y.complete x.idx).signal [site] (fbits x.d 4 5 0) (fld x.d 5 1)).1, true) := by
  simp [Dev.descDone, h, hself, Dev.signal_one_fits hfits]

/-! ### The classes that compute in SRAM (R152, R161, R164, R166) -/

/-- What the operation of a matrix, vector, quantise or screen descriptor gives. -/
def Dev.computes (d : Dev) (p site : Nat) (x : TDesc) : TileRes :=
  let t := d.tile site
  if Td.cls x.d = 0 then runMatrix t.sram x.d else if Td.cls x.d = 1 then runVector t.sram x.d
    else if Td.cls x.d = 2 then runQuant t.sram x.d else runScreen t.sram x.d (d.part p).cfg.repro

/-- What the result of such an operation leaves: a fault of the invocation, or its bytes, counts and flags and then its completion. -/
def Dev.takeResult (d : Dev) (c : Clock) (fin : Ends) (p pos site : Nat) (x : TDesc) : TileRes → Dev
  | .fault code detail m => (d.modTile site fun y => { y with sram := m }).tileFault c fin p pos site x code detail
  | .ok m counter rows marks =>
    ((((d.modTile site fun y => { y with sram := m }).saturate c p counter (sumNat (·.sat) marks) site).markRows p rows
      marks).descDone c fin p pos site x).1

theorem Dev.runDesc_computes (hc : Td.cls x.d ≤ 3) :
    d.runDesc c fin p pos site x = d.takeResult c fin p pos site x (d.computes p site x) := by
  unfold Dev.runDesc
  split
  case h_1 hxfer => omega
  case h_2 hsync => omega
  case h_3 => rfl

/-! ### Transfers (R170) -/

theorem Dev.runDesc_xfer_error (hc : Td.cls x.d = 4) {e : Nat × Nat} (h : d.runXfer c.time p pos site x.d = .error e) :
    d.runDesc c fin p pos site x = d.tileFault c fin p pos site x e.1 e.2 := by
  simp only [Dev.runDesc, hc, h]

theorem Dev.runDesc_xfer_ok (hc : Td.cls x.d = 4) {e : Dev} (h : d.runXfer c.time p pos site x.d = .ok e) :
    d.runDesc c fin p pos site x = (e.descDone c fin p pos site x).1 := by
  simp only [Dev.runDesc, hc, h]

/-! ### The SYNC class (R176 to R178) -/

/-- A WAIT and a FENCE that can start do nothing but complete. -/
theorem Dev.runDesc_waits (hc : Td.cls x.d = 5) (ho : Td.op x.d = 0 ∨ Td.op x.d = 2) :
    d.runDesc c fin p pos site x = (d.descDone c fin p pos site x).1 := by
  rcases ho with h | h <;> simp [Dev.runDesc, hc, h]

/-- A SIGNAL to its own tile whose counter has room for it adds to the counter, then completes. -/
theorem Dev.runDesc_signal (hc : Td.cls x.d = 5) (ho : Td.op x.d = 1) (hself : fld x.d 12 2 = 0xFFFF)
    (hfits : (d.tile site).tokens.getD (fbits x.d 8 5 0) 0 + fld x.d 10 2 ≤ 65535) :
    d.runDesc c fin p pos site x =
      ((d.signal [site] (fbits x.d 8 5 0) (fld x.d 10 2)).1.descDone c fin p pos site x).1 := by
  simp [Dev.runDesc, hc, ho, hself, Dev.signal_one_fits hfits]

/-- An END whose completion is no fault stops its tile and counts for the plan entry that the tile runs. -/
theorem Dev.runDesc_end (hc : Td.cls x.d = 5) (ho : Td.op x.d = 3) {e : Nat} (he : (d.tile site).entry = some e) {d' : Dev}
    (hdone : d.descDone c fin p pos site x = (d', true)) :
    d.runDesc c fin p pos site x =
      (d'.modTile site fun y => { y with running := false, entry := none }).modPart p fun y => y.entryEnded e pos := by
  simp [Dev.runDesc, hc, ho, he, hdone]

end OneDescriptor

/-- Settles O46: what its class does, then its completion. -/
theorem descriptorsRun : Obligations.DescriptorsRun := by
  intro d c fin p pos site x
  refine ⟨fun hc code detail m h => ?faulted, fun hc _ h => Dev.runDesc_xfer_error hc h,
    fun hs => ⟨fun hc m counter rows marks h => ?computed, fun hc e h => ?moved, fun hc ho => ?waited,
      fun hc ho hself hfits => ?signalled, fun hc ho e he => ?ended⟩, fun hs hc ho hself hfits => ?signals⟩
  case faulted =>
    have hres : d.computes p site x = .fault code detail m := h
    rw [Dev.runDesc_computes hc, hres, Dev.takeResult]
  case computed =>
    have hres : d.computes p site x = .ok m counter rows marks := h
    rw [Dev.runDesc_computes hc, hres, Dev.takeResult, Dev.descDone_silent hs]
  case moved => rw [Dev.runDesc_xfer_ok hc h, Dev.descDone_silent hs]
  case waited => rw [Dev.runDesc_waits hc ho, Dev.descDone_silent hs]
  case signalled => rw [Dev.runDesc_signal hc ho hself hfits, Dev.descDone_silent hs]
  case ended => exact Dev.runDesc_end hc ho he (Dev.descDone_silent hs)
  case signals => rw [Dev.runDesc_waits hc ho, Dev.descDone_signals hs hself hfits]

end Sys2Proof.Machine
end

section
/-! PROOF. Units that fail: what the device does to keep working leaves its units as they are, and the retirement of one raises its
generation. -/

namespace Sys2Proof.Machine

open Sys2Proof

/-! ### Updates in turn and under a condition -/

theorem Outward.units {d d' : Dev} (h : Outward d d') : d'.units = d.units := by
  obtain ⟨f, o, rfl⟩ := h
  rfl

@[simp] theorem Dev.units_ite (p : Prop) [Decidable p] (a b : Dev) : (if p then a else b).units = if p then a.units else b.units :=
  apply_ite Dev.units p a b

/-- An update that also answers a value, under a condition. -/
@[simp] theorem Dev.fst_ite_units {α : Type} (p : Prop) [Decidable p] (a b : Dev × α) :
    (if p then a else b).1.units = if p then a.1.units else b.1.units :=
  apply_ite (fun x : Dev × α => x.1.units) p a b

@[simp] theorem Dev.foldl_units {α : Type} (f : Dev → α → Dev) (h : ∀ d a, (f d a).units = d.units) (l : List α) (d : Dev) :
    (l.foldl f d).units = d.units := foldl_keep Dev.units f h l d

/-! ### Completions, events and records (R335, R467, R471) -/

@[simp] theorem Dev.stopTiles_units (d : Dev) (p : Nat) : (d.stopTiles p).units = d.units :=
  Dev.foldl_units _ (fun d t => d.modTile_units t _) _ d

@[simp] theorem Dev.stopInv_units (d : Dev) (p : Nat) : (d.stopInv p).units = d.units :=
  (Dev.foldl_units _ (fun d ch => d.modChan_units ch _) _ _).trans (d.stopTiles_units p)

@[simp] theorem Dev.leaveInvs_units (d : Dev) (r : ReqRef) : (d.leaveInvs r).units = d.units := by
  unfold Dev.leaveInvs
  split <;> simp

@[simp] theorem Dev.sendTo_units (d : Dev) (c : Clock) (sub flow : Nat) (tie : Tie) (svc : Nat) (k : Peer) (keyed : Bool) (len : Nat)
    (out : Nat → Output) : (d.sendTo c sub flow tie svc k keyed len out).units = d.units :=
  (outward_sendTo d c sub flow tie svc k keyed len out).units

@[simp] theorem Dev.sendPacketOn_units (d : Dev) (c : Clock) (p type : Nat) (keyed : Bool) (svc peer : Nat) (isModule : Bool)
    (flow : Nat) (tie : Tie) (payload : Bytes) :
    (d.sendPacketOn c p type keyed svc peer isModule flow tie payload).units = d.units :=
  (outward_sendPacketOn d c p type keyed svc peer isModule flow tie payload).units

@[simp] theorem Dev.sendRdma_units (d : Dev) (c : Clock) (rs : RsId) (o : RoceOut) : (d.sendRdma c rs o).units = d.units := by
  unfold Dev.sendRdma
  split
  · rfl
  · simp [Dev.issueRdma, (outward_nextSequence d rs.partNo).units]

@[simp] theorem Dev.writeHost_units (d : Dev) (c : Clock) (rs : RsId) (tie : Tie) (svc addr : Nat) (b : Bytes) :
    (d.writeHost c rs tie svc addr b).units = d.units := by simp [Dev.writeHost]

@[simp] theorem Dev.modReq_units (d : Dev) (r : ReqRef) (f : Req → Req) : (d.modReq r f).units = d.units := Dev.modRing_units d r.rs _

@[simp] theorem Dev.dropReq_units (d : Dev) (r : ReqRef) : (d.dropReq r).units = d.units := by
  unfold Dev.dropReq
  dsimp only
  split <;> split <;> simp

@[simp] theorem Dev.modMsix_units (d : Dev) (fn : Fn) (v : Nat) (f : MsixVec → MsixVec) : (d.modMsix fn v f).units = d.units := by
  cases fn <;> rfl

@[simp] theorem Dev.notify_units (d : Dev) (c : Clock) (rs : RsId) : (d.notify c rs).units = d.units := by simp [Dev.notify]

@[simp] theorem Dev.writeSlot_units (d : Dev) (c : Clock) (rs : RsId) (e : WaitEntry) : (d.writeSlot c rs e).units = d.units := by
  simp [Dev.writeSlot]

@[simp] theorem Dev.putEntry_units (d : Dev) (c : Clock) (rs : RsId) (e : WaitEntry) : (d.putEntry c rs e).units = d.units := by
  simp [Dev.putEntry]

@[simp] theorem Dev.finish_units (d : Dev) (c : Clock) (r : ReqRef) (e : Ending) : (d.finish c r e).units = d.units := by
  unfold Dev.finish
  split <;> simp

@[simp] theorem Dev.flushEvents_units (c : Clock) (p n : Nat) (d : Dev) : (d.flushEvents c p n).units = d.units := by
  induction n generalizing d with
  | zero => rfl
  | succ n ih =>
    unfold Dev.flushEvents
    dsimp only
    split <;> simp [ih]

@[simp] theorem Dev.postEvent_units (d : Dev) (c : Clock) (p type : Nat) (payload : Bytes) :
    (d.postEvent c p type payload).units = d.units := by simp [Dev.postEvent]

@[simp] theorem Dev.flushMgmtEvents_units (c : Clock) (n : Nat) (d : Dev) : (d.flushMgmtEvents c n).units = d.units := by
  induction n generalizing d with
  | zero => rfl
  | succ n ih =>
    unfold Dev.flushMgmtEvents
    dsimp only
    split <;> simp [ih]

@[simp] theorem Dev.postMgmt_units (d : Dev) (c : Clock) (e : EvRec) : (d.postMgmt c e).units = d.units := by simp [Dev.postMgmt]

@[simp] theorem Dev.record_units (d : Dev) (c : Clock) (code kind idx : Nat) (part : Option Nat) (d0 d1 d2 : Nat) :
    (d.record c code kind idx part d0 d1 d2).units = d.units := by
  simp [Dev.record, Dev.assignRecord, Dev.putRecord]

@[simp] theorem Dev.saturate_units (d : Dev) (c : Clock) (p counter n source : Nat) : (d.saturate c p counter n source).units = d.units := by
  simp [Dev.saturate, Dev.drift]

/-! ### The journal and its pages (R258, R275 to R277) -/

@[simp] theorem Dev.settleBuffer_units (d : Dev) (p : Nat) : (d.settleBuffer p).units = d.units := by simp [Dev.settleBuffer]

@[simp] theorem Dev.structRun_units (d : Dev) (c : Clock) (p tag : Nat) (body : Bytes) : (d.structRun c p tag body).units = d.units := by
  simp [Dev.structRun, Dev.packAppend]

@[simp] theorem Dev.journalAppend_units (d : Dev) (c : Clock) (p : Nat) (j : JRec) (src : Nat) :
    (d.journalAppend c p j src).units = d.units := by simp [Dev.journalAppend, Dev.packAppend]

@[simp] theorem Dev.structAppend_units (d : Dev) (c : Clock) (p index handle lists : Nat) :
    (d.structAppend c p index handle lists).units = d.units := by
  have hstate : (d.stateRecords c p).units = d.units := by simp [Dev.stateRecords]
  unfold Dev.structAppend
  dsimp only
  split <;> simp [hstate]

@[simp] theorem Dev.cancelUpd_units (d : Dev) (c : Clock) (p : Nat) (r : ReqRef) (u : UpdRun) : (d.cancelUpd c p r u).units = d.units := by
  unfold Dev.cancelUpd
  split <;> simp

/-! ### Requests that end or lose their state (R132, R349, R394) -/

@[simp] theorem Dev.setSearch_units (d : Dev) (r : ReqRef) (i : Nat) (f : SearchRun → SearchRun) : (d.setSearch r i f).units = d.units :=
  Dev.modReq_units d r _

@[simp] theorem Dev.dropRows_units (d : Dev) (r : ReqRef) (sub : Nat) : (d.dropRows r sub).units = d.units := by simp [Dev.dropRows]

@[simp] theorem Dev.endSearches_units (d : Dev) (c : Clock) (r : ReqRef) (ok : Bool) : (d.endSearches c r ok).units = d.units := by
  unfold Dev.endSearches
  split
  · rfl
  · split <;> simp [Dev.hostOut]

@[simp] theorem Dev.endServed_units (c : Clock) (d : Dev) (r : ReqRef) (sub : Nat) (tile : Bool) (status : Nat) :
    (Dev.endServed c d r sub tile status).units = d.units := by
  unfold Dev.endServed
  split
  · rfl
  · split <;> simp

@[simp] theorem Dev.loseSearches_units (d : Dev) (r : ReqRef) (f : SearchRun → Bool) : (d.loseSearches r f).units = d.units := by
  unfold Dev.loseSearches
  split
  · rfl
  · split <;> simp

@[simp] theorem Dev.loseState_units (d : Dev) (r : ReqRef) : (d.loseState r).units = d.units := by
  unfold Dev.loseState
  split
  · rfl
  · split <;> simp

@[simp] theorem Dev.reclassify_units (d : Dev) (r : ReqRef) (q : Req) : (d.reclassify r q).units = d.units := by
  unfold Dev.reclassify
  split <;> simp

@[simp] theorem Dev.loseSeats_units (d : Dev) (hit : Seat → Bool) (upd : Req → Bool) : (d.loseSeats hit upd).units = d.units := by
  simp [Dev.loseSeats]

/-! ### Tiles (R146 to R148, R170 to R180) -/

@[simp] theorem Dev.failInv_units (d : Dev) (c : Clock) (p : Nat) (tile : Bool) (status : Nat) :
    (d.failInv (Dev.endServed c) p tile status).units = d.units := by
  unfold Dev.failInv
  split <;> simp

@[simp] theorem Dev.tileFault_units (d : Dev) (c k : Clock) (p pos site : Nat) (x : TDesc) (code detail : Nat) :
    (d.tileFault c (Dev.endServed k) p pos site x code detail).units = d.units := by simp [Dev.tileFault]

@[simp] theorem Dev.flagRow_units (d : Dev) (f : Nat) (w : InvRow) : (d.flagRow f w).units = d.units := by simp [Dev.flagRow]

@[simp] theorem Dev.markRows_units (d : Dev) (p rows : Nat) (marks : List RowMark) : (d.markRows p rows marks).units = d.units := by
  unfold Dev.markRows
  split <;> simp

@[simp] theorem Dev.signal_units (d : Dev) (sites : List Nat) (token n : Nat) : (d.signal sites token n).1.units = d.units := by
  unfold Dev.signal
  refine foldl_keep (fun a : Dev × Bool => a.1.units) _ (fun a t => ?_) sites (d, false)
  exact a.1.modTile_units t _

@[simp] theorem Dev.stageRead_units (d : Dev) (now p a n : Nat) : (d.stageRead now p a n).units = d.units := by simp [Dev.stageRead]

/-- An attempt fails, or leaves a device with the units `u`. -/
def LeavesUnits {ε : Type} (u : Units) (a : Except ε Dev) : Prop := ∀ d, a = .ok d → d.units = u

theorem LeavesUnits.ok {ε : Type} {u : Units} {d : Dev} (h : d.units = u) : LeavesUnits (ε := ε) u (.ok d) := by
  rintro _ ⟨⟩
  exact h

theorem LeavesUnits.error {ε : Type} (u : Units) (e : ε) : LeavesUnits u (.error e) := by
  rintro _ ⟨⟩

theorem LeavesUnits.ite {ε : Type} {u : Units} {p : Prop} [Decidable p] {a b : Except ε Dev} (ha : LeavesUnits u a)
    (hb : LeavesUnits u b) : LeavesUnits u (if p then a else b) := by
  split
  · exact ha
  · exact hb

/-- Moves one after the other, each of which leaves the units or fails. -/
theorem LeavesUnits.foldl {ε α : Type} {u : Units} {f : Except ε Dev → α → Except ε Dev}
    (hf : ∀ a x, LeavesUnits u a → LeavesUnits u (f a x)) {a : Except ε Dev} (ha : LeavesUnits u a) (l : List α) :
    LeavesUnits u (l.foldl f a) := by
  induction l generalizing a with
  | nil => exact ha
  | cons x l ih => exact ih (hf a x ha)

theorem Dev.xferPut_units (d : Dev) (p : Nat) (dst : Option Nat) (a : Nat) (b : Bytes) (add : Bool) :
    LeavesUnits d.units (d.xferPut p dst a b add) := by
  cases dst with
  | some t => exact .ite (.error _ _) (.ok rfl)
  | none => exact .ite (.error _ _) (.ite (.error _ _) (.ok rfl))

theorem Dev.runXfer_units (d : Dev) (now p pos site : Nat) (b : Bytes) : LeavesUnits d.units (d.runXfer now p pos site b) := by
  unfold Dev.runXfer
  extract_lets _ _ _ _ _ _ _ src _ _ read _
  split
  · exact .error _ _
  extract_lets start
  refine .ite (.error _ _) ?_
  split
  · exact .error _ _
  have hstart : start.units = d.units := by
    cases hsrc : src <;> simp [start, hsrc]
  refine .foldl (fun a i ha => ?_) (.ok hstart) _
  cases a with
  | error e => exact .error _ _
  | ok e =>
    refine .ite ha ?_
    cases read i with
    | error e => exact .error _ _
    | ok row =>
      refine .foldl (fun a t ha => ?_) ha _
      cases a with
      | error e => exact .error _ _
      | ok e =>
        dsimp only
        split
        · exact .error _ _
        · next h => exact .ok ((e.xferPut_units _ _ _ _ _ _ h).trans (ha e rfl))

@[simp] theorem Dev.descDone_units (d : Dev) (c k : Clock) (p pos site : Nat) (x : TDesc) :
    (d.descDone c (Dev.endServed k) p pos site x).1.units = d.units := by simp [Dev.descDone]

@[simp] theorem Dev.runDesc_units (d : Dev) (c k : Clock) (p pos site : Nat) (x : TDesc) :
    (d.runDesc c (Dev.endServed k) p pos site x).units = d.units := by
  unfold Dev.runDesc
  dsimp only
  split
  case h_1 =>
    split
    · simp
    · next e h => rw [Dev.descDone_units, d.runXfer_units _ _ _ _ _ e h]
  case h_2 =>
    split
    · simp
    · split
      · simp only [Dev.units_ite, Dev.descDone_units]
        split
        · rfl
        · split <;> simp
      · simp
  case h_3 => split <;> simp

@[simp] theorem Dev.accessWaits_units (d : Dev) (now ch : Nat) : (d.accessWaits now ch).units = d.units := Dev.modChan_units d ch _

@[simp] theorem Dev.runTiles_units (c k : Clock) (p n : Nat) (d : Dev) : (Dev.runTiles c (Dev.endServed k) p n d).units = d.units := by
  induction n generalizing d with
  | zero => rfl
  | succ n ih =>
    have hwaits (l : List (Nat × Nat)) : (l.foldl (fun d s => d.modTile s.2 fun t => t.serveWaits.serveWaits) d).units = d.units :=
      Dev.foldl_units _ (fun d s => d.modTile_units s.2 _) l d
    unfold Dev.runTiles
    dsimp only
    split <;> simp [ih, hwaits]

@[simp] theorem Dev.dispatchAll_units (t n : Nat) (d : Dev) : (d.dispatchAll t n).units = d.units := by
  induction n generalizing d with
  | zero => rfl
  | succ n ih =>
    rw [Dev.dispatchAll, ih]
    unfold Dev.dispatch
    dsimp only
    split <;> simp

/-! ### Command groups on bank engines (R212 to R224) -/

@[simp] theorem Dev.dropToken_units (d : Dev) (stack p : Nat) : (d.dropToken stack p).units = d.units := Dev.modArb_units d stack _

@[simp] theorem Dev.takeToken_units (d : Dev) (stack p : Nat) : (d.takeToken stack p).1.units = d.units := by
  simp [Dev.takeToken, Dev.setShare]

@[simp] theorem Dev.startGroups_units (d : Dev) (now ch : Nat) (afterSwitch : Bool) : (d.startGroups now ch afterSwitch).units = d.units := by
  simp [Dev.startGroups, Dev.startGroup]

@[simp] theorem Dev.switchDone_units (d : Dev) (now ch : Nat) (oldest : Option Nat) : (d.switchDone now ch oldest).units = d.units := by
  simp [Dev.switchDone]

@[simp] theorem Dev.endGroup_units (d : Dev) (ch eng : Nat) : (d.endGroup ch eng).units = d.units := by
  unfold Dev.endGroup
  split
  · rfl
  · dsimp only
    split <;> simp [Dev.phaseDone]

@[simp] theorem Dev.rowsBack_units (d : Dev) (c : Clock) (p : Nat) (t : Table) (mem : Memory) (poison written : List Nat) (sat : Nat)
    (stats : TabStats → TabStats) : (d.rowsBack c p t mem poison written sat stats).units = d.units := by
  simp [Dev.rowsBack, Dev.backRecord]

@[simp] theorem BankOut.units_ite (p : Prop) [Decidable p] (a b : BankOut) :
    (if p then a else b).d.units = if p then a.d.units else b.d.units := apply_ite (fun o : BankOut => o.d.units) p a b

@[simp] theorem Dev.bankDo_units (d : Dev) (c : Clock) (p eng : Nat) (phase : Bool) (serves : List ReqRef) (b : Bytes) :
    (d.bankDo c p eng phase serves b).d.units = d.units := by
  unfold Dev.bankDo Dev.bankLoad Dev.bankStore Dev.bankScan Dev.bankMatvec Dev.bankRowRead Dev.bankRowUpdate Dev.bankFill
  dsimp only
  split
  case h_4 =>
    split
    · rfl
    · split <;> simp
  case h_7 => rfl
  all_goals split <;> simp [Dev.applyRows]

@[simp] theorem Dev.bankPoison_units (d : Dev) (c : Clock) (ch : Nat) (g : Group) :
    (d.bankPoison (Dev.endServed c) ch g).units = d.units := by simp [Dev.bankPoison]

@[simp] theorem Dev.markDropped_units (d : Dev) (c : Clock) (r : ReqRef × Nat) : (d.markDropped (Dev.endServed c) r).units = d.units := by
  unfold Dev.markDropped
  split <;> simp

@[simp] theorem Dev.bankStep_units (d : Dev) (c k : Clock) (ch eng : Nat) : (d.bankStep c (Dev.endServed k) ch eng).units = d.units := by
  unfold Dev.bankStep
  split
  · split
    · rfl
    · simp
  · rfl

@[simp] theorem Dev.bankSteps_units (c k : Clock) (ch eng n : Nat) (d : Dev) :
    (d.bankSteps c (Dev.endServed k) ch eng n).units = d.units := by
  induction n generalizing d with
  | zero => rfl
  | succ n ih => rw [Dev.bankSteps, ih, Dev.bankStep_units]

@[simp] theorem Dev.finishGroup_units (d : Dev) (c k : Clock) (ch eng : Nat) :
    (d.finishGroup c (Dev.endServed k) ch eng).units = d.units := by
  unfold Dev.finishGroup
  split <;> simp

/-! ### Invocations (R146, R187, R191) -/

@[simp] theorem Dev.startEntry_units (d : Dev) (p entry : Nat) : (d.startEntry p entry).units = d.units := by
  unfold Dev.startEntry
  dsimp only
  split
  · rfl
  · split
    · rfl
    · split
      · rfl
      · refine (Dev.foldl_units _ (fun d k => ?_) _ _).trans (d.modPart_units p _)
        split
        · rfl
        · split
          · rfl
          · exact d.modChan_units _ _

@[simp] theorem Dev.startTile_units (d : Dev) (p pos : Nat) : (d.startTile p pos).units = d.units := by
  unfold Dev.startTile
  dsimp only
  split <;> simp

@[simp] theorem Dev.invDone_units (d : Dev) (c : Clock) (p : Nat) : (d.invDone (Dev.endServed c) p).units = d.units := by
  unfold Dev.invDone
  dsimp only
  split <;> simp

@[simp] theorem Dev.driveChan_units (d : Dev) (c k : Clock) (p ch : Nat) : (d.driveChan c (Dev.endServed k) p ch).units = d.units := by
  simp [Dev.driveChan]

@[simp] theorem Dev.driveOnce_units (d : Dev) (c k : Clock) (p : Nat) : (d.driveOnce c (Dev.endServed k) p).units = d.units := by
  unfold Dev.driveOnce
  dsimp only
  split <;> simp

@[simp] theorem Dev.runRows_units (d : Dev) (c k : Clock) (r : ReqRef) (sub : Nat) :
    (d.runRows c (Dev.endServed k) r sub).units = d.units := by
  have hserve : ∀ (n : Nat) (d : Dev), (d.serveRows c (Dev.endServed k) r sub n).units = d.units := by
    intro n
    induction n with
    | zero => exact fun _ => rfl
    | succ n ih => intro d; simp [Dev.serveRows, ih]
  exact hserve _ d

/-! ### Updates applied after their request has gone (R120, R136) -/

@[simp] theorem Dev.vectorRecord_units (d : Dev) (c : Clock) (r : ReqRef) (epoch : Nat) (u : UpdRun) (v : List F32) (version : Nat) :
    (d.vectorRecord c r epoch u v version).1.units = d.units := by
  unfold Dev.vectorRecord
  dsimp only
  split <;> simp [Dev.setUpd, Dev.acceptVector]

@[simp] theorem Dev.encodeUpd_units (d : Dev) (c : Clock) (r : ReqRef) (epoch : Nat) (u : UpdRun) (run : Bool) :
    (d.encodeUpd c r epoch u run).1.units = d.units := by
  have htake (d : Dev) : (d.takeEncoded c r epoch u).1.units = d.units := by
    unfold Dev.takeEncoded
    dsimp only
    split <;> simp
  simp [Dev.encodeUpd, htake]

@[simp] theorem Dev.encodeGone_units (d : Dev) (c : Clock) (j : JRec) : (d.encodeGone c j).1.units = d.units := by simp [Dev.encodeGone]

@[simp] theorem Dev.placeUpd_units (d : Dev) (c : Clock) (r : ReqRef) (u : UpdRun) : (d.placeUpd c r u).1.units = d.units := by
  simp [Dev.placeUpd]

@[simp] theorem Dev.applyOne_units (d : Dev) (c : Clock) (p : Nat) (j : JRec) : (d.applyOne c p j).units = d.units := by
  simp [Dev.applyOne]

@[simp] theorem Dev.applyAborted_units (d : Dev) (c : Clock) (p : Nat) : (d.applyAborted c p).units = d.units := by
  simp [Dev.applyAborted]

/-! ### Pauses, the fence and ports (R391 to R394, R420, R466) -/

@[simp] theorem Dev.pauseStart_units (d : Dev) (c : Clock) (p cause : Nat) (counted : Bool) :
    (d.pauseStart c p cause counted).units = d.units := Dev.modPart_units d p _

@[simp] theorem Dev.pauseEnd_units (d : Dev) (c : Clock) (p cause : Nat) : (d.pauseEnd c p cause).units = d.units := by
  unfold Dev.pauseEnd
  split <;> simp

@[simp] theorem Dev.shortPause_units (d : Dev) (c : Clock) (p cause : Nat) : (d.shortPause c p cause).units = d.units := by
  simp [Dev.shortPause, Dev.pauseNow]

@[simp] theorem Dev.dropGroups_units (d : Dev) (p : Nat) : (d.dropGroups p).units = d.units := by simp [Dev.dropGroups]

@[simp] theorem Dev.fenceWork_units (d : Dev) (c : Clock) (p : Nat) (suspend : Bool) : (d.fenceWork c p suspend).units = d.units := by
  simp [Dev.fenceWork, Dev.cutSilent, Dev.silence]

@[simp] theorem Dev.fencePart_units (d : Dev) (c : Clock) (p cause : Nat) : (d.fencePart c p cause).units = d.units := by
  unfold Dev.fencePart
  dsimp only
  split <;> simp [Dev.modLife, Dev.setStarted]

@[simp] theorem Dev.portDown_units (d : Dev) (c : Clock) (port lane : Nat) : (d.portDown c port lane).units = d.units := by
  simp [Dev.portDown, Dev.neighbourGone]

/-! ### What a failure is declared for, and what is told of it (R388 to R390, R457, R469) -/

@[simp] theorem Dev.tagStops_units (d : Dev) (c : Clock) (kind index : Nat) : (d.tagStops c kind index).units = d.units := by
  unfold Dev.tagStops
  dsimp only
  split <;> simp

@[simp] theorem Dev.declared_units (d : Dev) (c : Clock) (k i : Nat) (causes : List Nat) : (d.declared c k i causes).1.units = d.units := by
  simp [Dev.declared, Dev.tagFailure]

@[simp] theorem Dev.sparesOut_units (d : Dev) (c : Clock) (k : Nat) : (d.sparesOut c k).units = d.units := Dev.record_units d c _ _ _ _ _ _ _

@[simp] theorem Dev.tellSpares_units (d old : Dev) : (d.tellSpares old).units = d.units := by simp [Dev.tellSpares, Dev.tellSensor]

/-! ### Retirement (R461, R463, R465) -/

theorem Units.isRetired_retire (u : Units) (k i : Nat) : (u.retire k i).isRetired k i = true := by
  unfold Units.retire
  split
  case isTrue h => exact h
  case isFalse => simp [Units.isRetired]

theorem Units.gen_raise {u : Units} {k i : Nat} (h : kindHasGen k = true) : (u.raise k i).gen k i = min 0xFFFF (u.gen k i + 1) := by
  rw [Units.raise, if_pos h]
  simp [Units.gen, h]

theorem Units.gen_retire {u : Units} {k i : Nat} (hk : kindHasGen k = true) (h : u.isRetired k i = false) :
    (u.retire k i).gen k i = min 0xFFFF (u.gen k i + 1) := by
  rw [← Units.gen_raise hk, Units.retire, h]
  rfl

/-- `v` are the units `u` once unit `i` of kind `k` has failed: it is retired, and its generation raised. -/
def Units.Failed (u : Units) (k i : Nat) (v : Units) : Prop :=
  v.isRetired k i = true ∧ v.gen k i = min 0xFFFF (u.gen k i + 1)

theorem Dev.retireUnit_failed {d : Dev} {u : Units} (c : Clock) {k i : Nat} (cause : Nat) (repl : Option (Nat × Nat)) (hu : d.units = u)
    (hk : kindHasGen k = true) (h : u.isRetired k i = false) : u.Failed k i (d.retireUnit c k i cause repl).units := by
  subst hu
  have hfailed : d.units.Failed k i (d.units.retire k i) := ⟨d.units.isRetired_retire k i, Units.gen_retire hk h⟩
  unfold Dev.retireUnit
  rw [h, if_neg Bool.false_ne_true, Dev.tellSpares_units, Dev.record_units]
  cases repl <;> exact hfailed

/-- The site of a partition that fails, whether or not another one takes its position (R144, R463). -/
theorem Dev.spareSite_failed {d : Dev} {u : Units} (c : Clock) (p : Nat) {t : Nat} (cause : Nat) (hu : d.units = u)
    (h : u.isRetired 1 t = false) : u.Failed 1 t (d.spareSite c p t cause).1.units := by
  unfold Dev.spareSite
  dsimp only
  split
  · exact Dev.retireUnit_failed c cause _ hu rfl h
  · rw [Dev.modPart_units, Dev.sparesOut_units]
    exact Dev.retireUnit_failed c cause _ hu rfl h

/-! ### The failures (R77, R99, R132, R144, R420, R457) -/

section InService
variable {s : State} {k n i : Nat}

/-- The effect of a failure comes about for a unit that the module has and that is in service. -/
theorem State.onDev_retires {f : Clock → Dev → Dev} (hi : i < n) (h : s.dev.units.isRetired k i = false)
    (hf : s.dev.units.Failed k i (f s.clock s.dev).units) :
    ∃ d, s.onDev (fun c d => if n ≤ i ∨ d.units.isRetired k i = true then d else f c d) = Becomes s d ∧
      s.dev.units.Failed k i d.units := by
  refine ⟨_, rfl, ?_⟩
  dsimp only
  rwa [if_neg (by simp [hi, h])]

theorem execTileFailure_retires (hi : i < 160) (h : s.dev.units.isRetired 1 i = false) :
    ∃ d, execTileFailure i s = Becomes s d ∧ s.dev.units.Failed 1 i d.units := by
  refine State.onDev_retires hi h ?_
  dsimp only
  split
  · exact Dev.retireUnit_failed _ _ _ (Dev.declared_units _ _ _ _ _) rfl h
  · simp only [Dev.units_ite, Dev.shortPause_units, Dev.fencePart_units, ite_self]
    refine Dev.spareSite_failed _ _ _ ((Dev.foldl_units _ (fun d r => ?served) _ _).trans ?stopped) h
    case served =>
      split
      · split <;> simp
      · rfl
    case stopped => simp

theorem execTraverseEngineFailure_retires (hi : i < 264) (h : s.dev.units.isRetired 2 i = false) :
    ∃ d, execTraverseEngineFailure i s = Becomes s d ∧ s.dev.units.Failed 2 i d.units := by
  refine State.onDev_retires hi h ?_
  simp only [Dev.foldl_units, Dev.units_ite, Dev.modReq_units, Dev.sparesOut_units, ite_self, implies_true]
  exact Dev.retireUnit_failed _ _ _ (by simp) rfl h

theorem execContextPoolBankFailure_retires (hi : i < 32) (h : s.dev.units.isRetired 3 i = false) :
    ∃ d, execContextPoolBankFailure i s = Becomes s d ∧ s.dev.units.Failed 3 i d.units :=
  State.onDev_retires hi h (Dev.retireUnit_failed _ _ _ (by simp) rfl h)

theorem execScreenUnitFailure_retires (hi : i < 32) (h : s.dev.units.isRetired 4 i = false) :
    ∃ d, execScreenUnitFailure i s = Becomes s d ∧ s.dev.units.Failed 4 i d.units := by
  refine State.onDev_retires hi h ?_
  simp only [Dev.units_ite, Dev.record_units, ite_self]
  exact Dev.retireUnit_failed _ _ _ (by simp) rfl h

theorem execAshlarEngineFailure_retires (hi : i < 64) (h : s.dev.units.isRetired 10 i = false) :
    ∃ d, execAshlarEngineFailure i s = Becomes s d ∧ s.dev.units.Failed 10 i d.units :=
  State.onDev_retires hi h (Dev.retireUnit_failed _ _ _ (by simp) rfl h)

/-- A lane that fails takes its port down, whether or not it was retired before. -/
theorem execFabricLaneFailure_retires (hi : i < 32) (h : s.dev.units.isRetired 11 i = false) :
    ∃ d, execFabricLaneFailure i s = Becomes s d ∧ s.dev.units.Failed 11 i d.units := by
  refine ⟨_, rfl, ?_⟩
  dsimp only
  rw [if_neg (Nat.not_le_of_lt hi), Dev.portDown_units]
  exact Dev.retireUnit_failed _ _ _ rfl rfl h

end InService

/-- Settles O50: each of the six failures retires its unit once, and whatever else it does leaves the units; the failure of a mesh link
does nothing. -/
theorem failedUnitsRetire : Obligations.FailedUnitsRetire := by
  intro s k i n f hkind hi h
  refine ⟨?_, rfl⟩
  rcases hkind with ⟨rfl, rfl, rfl⟩ | ⟨rfl, rfl, rfl⟩ | ⟨rfl, rfl, rfl⟩ | ⟨rfl, rfl, rfl⟩ | ⟨rfl, rfl, rfl⟩ | ⟨rfl, rfl, rfl⟩
  · exact execTileFailure_retires hi h
  · exact execTraverseEngineFailure_retires hi h
  · exact execContextPoolBankFailure_retires hi h
  · exact execScreenUnitFailure_retires hi h
  · exact execAshlarEngineFailure_retires hi h
  · exact execFabricLaneFailure_retires hi h

end Sys2Proof.Machine
end

section
/-! PROOF. INDEX_BUILD beside a probe: step 3 of admission refuses a command that its index does not permit. -/

namespace Sys2Proof.Machine

open Sys2Proof

/-- A command whose opcode and epoch pass, and which step 3 does not permit, is refused there, whatever its fields and handles
(R341). -/
theorem Dev.gate_of_not_permitted {d : Dev} {c : Clock} {r : ReqRef} {q : Req} (fields handles : Bool)
    (hop : d.opcodeCheck r.rs q.opcode = none) (hepoch : d.comp.accepts c.time q.compEpoch = true) :
    d.gate c r q false fields handles = some ⟨statusNOTPERM, 0, 0, 0⟩ := by
  simp [Dev.gate, hop, hepoch]

/-- A fetched INDEX_BUILD, beside a probe of its index, is not permitted (R110, R131). -/
theorem execIndexBuild_beside_probe {s : State} {r : ReqRef} {io : Io} {q : Req} (h : Fetched s r 0x29 q)
    (hop : s.dev.opcodeCheck r.rs 0x29 = none) (hepoch : s.dev.comp.accepts s.clock.time q.compEpoch = true)
    (hprobe : (s.dev.part r.rs.partNo).probeOn (uIndex q) = true) :
    execIndexBuild r io s = Ended s r s.dev ⟨statusNOTPERM, 0, 0, 0⟩ := by
  obtain ⟨hreq, hopcode, hrun, hadm, hwait⟩ := h
  unfold execIndexBuild
  rw [State.onDev_eq, Ended]
  dsimp only
  rw [Dev.longCommand_refused (e := ⟨statusNOTPERM, 0, 0, 0⟩) hreq hopcode hrun hadm hwait]
  simp only [hreq, hprobe, Bool.not_true, Bool.and_false]
  exact Dev.gate_of_not_permitted _ _ (hopcode.symm ▸ hop) hepoch

/-- Settles O20: `exec` of the instruction is `execIndexBuild`, which a probe of the index holds at step 3 of admission. -/
theorem buildDuringProbeRefused : Obligations.BuildDuringProbeRefused :=
  fun _ _ _ _ h hop hepoch hprobe => execIndexBuild_beside_probe h hop hepoch hprobe

end Sys2Proof.Machine
end

section
/-! PROOF. Long operations: what each of the five commands that start one leaves once it is admitted. -/

namespace Sys2Proof.Machine

open Sys2Proof

/-! ### What the making of an operation reads of its index -/

/-- Admission leaves the indexes of every partition. -/
theorem Dev.index?_enter (d : Dev) (c : Clock) (r : ReqRef) (f : Req → Req) (p idx : Nat) :
    ((d.enter c r f).part p).index? idx = (d.part p).index? idx :=
  Dev.part_enter_keep (fun x => x.index? idx) d c r f p (fun _ _ => rfl) fun _ _ => rfl

/-- An index under a changed index's number is the one that was there, changed. -/
theorem Part.index?_modIndex (x : Part) (n : Nat) {f : Index → Index} (hf : ∀ i, (f i).num = i.num) :
    (x.modIndex n f).index? n = (x.index? n).map f := by
  have hnum : ∀ i : Index, (if (i.num == n) = true then f i else i).num = i.num := fun i => by split <;> simp [hf]
  unfold Part.index? Part.modIndex modIf
  rw [List.find?_map]
  simp only [Function.comp_def, hnum]
  cases h : x.idx.find? fun i => i.num == n with
  | none => rfl
  | some i => simpa using fun hi => absurd (by simpa using List.find?_some h) hi

/-- A change that keeps every index's number and graphs keeps the current graph under a number. -/
theorem Dev.graph_modIndex (d : Dev) (p n : Nat) {f : Index → Index} (hn : ∀ i, (f i).num = i.num) (hg : ∀ i, (f i).graph = i.graph) :
    (((d.modIndex p n f).part p).index? n).map Index.graph = ((d.part p).index? n).map Index.graph :=
  Dev.part_modPart_keep (fun x => (x.index? n).map Index.graph) d p p _ fun x => by
    rw [Part.index?_modIndex x n hn]
    cases x.index? n <;> simp [hg]

/-! ### The five commands (R131, R350, R354, R365, R366, R380, R381) -/

/-- The request is admitted as the carrier of the operation that it starts. -/
def Dev.enterCarrier (d : Dev) (c : Clock) (r : ReqRef) : Dev := d.enter c r fun y => { y with work := .carrier r.rs r.seq }

theorem Dev.index?_enterCarrier (d : Dev) (c : Clock) (r : ReqRef) (p idx : Nat) :
    ((d.enterCarrier c r).part p).index? idx = (d.part p).index? idx := Dev.index?_enter d c r _ p idx

/-- The outcome in which a new operation of `r` stands in partition `p` of `d`, running and with nothing done. -/
def OperationStands (s : State) (r : ReqRef) (d : Dev) (p op total : Nat) (w : OpWork) : Out :=
  Becomes s (d.modPart p fun y => { y with ops := y.ops ++ [newOp s.clock r op total w] })

/-- The graph under a number, once the request has entered and a build of that index has begun. -/
theorem Dev.graph_beginBuild (d : Dev) (c : Clock) (r : ReqRef) (p n mib : Nat) :
    (((((d.enterCarrier c r).modIndex p n fun i => { i with building := true, recorded := [], buildMib := mib }).modPart p
      Part.trimHot).part p).index? n).map Index.graph = ((d.part p).index? n).map Index.graph := by
  rw [Dev.part_modPart_keep (fun x => (x.index? n).map Index.graph) _ p p Part.trimHot fun _ => rfl,
    Dev.graph_modIndex (f := fun i => { i with building := true, recorded := [], buildMib := mib }) _ p n (fun _ => rfl) fun _ => rfl,
    Dev.index?_enterCarrier]

section Starting

variable {s : State} {r : ReqRef} {io : Io} {q : Req} (hu : io.upto = .admitted)
  (hg : s.dev.gate s.clock r q true true true = none) (hn : ∀ e, s.dev.opOf r.rs r.seq = some e → e.2.active = false)
  (hroom : r.rs.isMgmt = false → (s.dev.part r.rs.partNo).ownOps < 8)

include hu hg hn

/-- What `longCommand` leaves of a fetched request whose own conditions hold. -/
theorem Dev.longCommand_starts {op p base : Nat} {perm fields handles : Req → Bool} {space : Dev → Req → Option Nat}
    {mk : Dev → Req → LongOp} {before : Dev → Dev} (h : Fetched s r op q) (hq : r.rs.isMgmt = false → (s.dev.part p).ownOps < 8)
    (hp : perm q = true) (hf : fields q = true) (hh : handles q = true) (hs : space s.dev q = none) :
    s.dev.longCommand s.clock r io op p base perm fields handles space mk before =
      let e := before (s.dev.enterCarrier s.clock r)
      e.modPart p fun y =>
        { y with ops := y.ops ++ [mk e { s.dev.entered s.clock r q with work := .carrier r.rs r.seq }] } := by
  obtain ⟨hreq, hop, hrun, hadm, hwait⟩ := h
  exact Dev.longCommand_begins hreq hop hrun hadm hwait hu (by rwa [hp, hf, hh]) hq hs hn

include hroom

/-- A RECALL_PROBE starts at the visibility epoch at which it is admitted. -/
theorem execRecallProbe_starts (h : Fetched s r 0x12 q) {blk prb : Bytes} (hblk : io.reads[0]? = some (some blk))
    (hprb : io.reads[1]? = some (some prb)) (hbok : (s.dev.part r.rs.partNo).blockOk blk true = true) (hpok : probeOk prb = true)
    (hnames : (s.dev.part r.rs.partNo).blockNames blk true = true)
    (hctx : (s.dev.part r.rs.partNo).blockCtx (probeBlock blk) ≤ (s.dev.part r.rs.partNo).cfg.contextQuota) :
    execRecallProbe r io s = OperationStands s r (s.dev.enterCarrier s.clock r) r.rs.partNo 0x12 (fld prb 0 2)
      (.probe (SBlock.ofBytes (probeBlock blk)).index (probeBlock blk) prb (s.dev.part r.rs.partNo).vis.cur 0 0 0) := by
  have h0 : ioRead io.reads 0 = some blk := by simp [ioRead, hblk]
  have h1 : ioRead io.reads 1 = some prb := by simp [ioRead, hprb]
  unfold execRecallProbe
  rw [State.onDev_eq]
  dsimp only
  rw [h0, h1, Dev.longCommand_starts hu hg hn h hroom rfl]
  · rfl
  · simp [hbok, hpok]
  · exact hnames
  · exact if_neg (Nat.not_lt.mpr hctx)

/-- An INDEX_BUILD marks its index, and counts what it reads in units of 4096. -/
theorem execIndexBuild_starts (h : Fetched s r 0x29 q) {i : Index} (hi : (s.dev.part r.rs.partNo).index? (uIndex q) = some i)
    (hop : (s.dev.part r.rs.partNo).indexOp (uIndex q) = false) (hprobe : (s.dev.part r.rs.partNo).probeOn (uIndex q) = false)
    (hsrc : fld q.desc 32 8 = 0 ∨ ((s.dev.part r.rs.partNo).storedAt (fld q.desc 28 4)).isSome = true)
    (hmib : s.dev.mibRefusal r.rs.partNo (i.params.slotsMib (fld q.desc 32 8 + i.graph.live.length)) = none) :
    execIndexBuild r io s =
      let p := r.rs.partNo
      let items := fld q.desc 32 8
      let live := if fbits q.desc 24 4 4 == 1 then i.graph.live.map (·.slot) else []
      let mib := i.params.slotsMib (items + i.graph.live.length)
      OperationStands s r (((s.dev.enterCarrier s.clock r).modIndex p (uIndex q) fun i =>
          { i with building := true, recorded := [], buildMib := mib }).modPart p Part.trimHot) p 0x29
        (ceilDiv (items + live.length) 4096) (.build (uIndex q) (fbits q.desc 24 5 5) (fld q.desc 28 4) items live) := by
  have hreq := h.1
  have hent := (Dev.index?_enterCarrier s.dev s.clock r r.rs.partNo (uIndex q)).trans hi
  have hgraph := Dev.graph_beginBuild s.dev s.clock r r.rs.partNo (uIndex q) (i.params.slotsMib (fld q.desc 32 8 + i.graph.live.length))
  obtain ⟨k, hk, hki⟩ := Option.map_eq_some_iff.mp (hgraph.trans (congrArg (Option.map Index.graph) hi))
  unfold execIndexBuild
  rw [State.onDev_eq]
  dsimp only
  rw [hreq, Dev.longCommand_starts hu hg hn h hroom]
  · simp only [Option.getD_some, hent, hk, hki]
    rfl
  · simp [hop, hprobe]
  · rfl
  · simpa [hi] using Or.inr hsrc
  · simpa [hi] using hmib

/-- An INDEX_COMPACT targets what is settled at the horizon as it is admitted. -/
theorem execIndexCompact_starts (h : Fetched s r 0x2A q) {i : Index} (hi : (s.dev.part r.rs.partNo).index? (uIndex q) = some i)
    (hop : (s.dev.part r.rs.partNo).indexOp (uIndex q) = false) :
    execIndexCompact r io s = OperationStands s r (s.dev.enterCarrier s.clock r) r.rs.partNo 0x2A i.graph.rangeCount
      (.compact (uIndex q) (i.graph.targets ((s.dev.enterCarrier s.clock r).part r.rs.partNo).horizon)) := by
  have hent := (Dev.index?_enterCarrier s.dev s.clock r r.rs.partNo (uIndex q)).trans hi
  unfold execIndexCompact
  rw [State.onDev_eq]
  dsimp only
  rw [h.1, Dev.longCommand_starts hu hg hn h hroom _ rfl _ rfl]
  · simp only [id, hent]
    rfl
  · simp [hop]
  · simp [hi]

/-- A FORMAT cancels the partition's probes, builds and compactions, and has three units. -/
theorem execFormat_starts (h : Fetched s r 0x88 q) :
    execFormat r io s = OperationStands s r ((s.dev.enterCarrier s.clock r).cancelIndexOps s.clock r.rs.partNo) r.rs.partNo 0x88 3
      (.format ((if fld q.desc 28 2 = 0 then 10 else fld q.desc 28 2) * 10000)) := by
  unfold execFormat
  rw [State.onDev_eq]
  dsimp only
  rw [Dev.longCommand_starts hu hg hn h hroom rfl rfl rfl rfl]
  rfl

/-- A SANITISE of the issuing partition cancels as a FORMAT does, and counts the partition's superblocks. -/
theorem execSanitise_starts (h : Fetched s r 0x89 q) (hm : r.rs.isMgmt = false) :
    execSanitise r io s =
      let d := (s.dev.enterCarrier s.clock r).cancelIndexOps s.clock r.rs.partNo
      OperationStands s r d r.rs.partNo 0x89 (d.flash.supersOf r.rs.partNo).length (.sanitise 0 false) := by
  unfold execSanitise
  rw [State.onDev_eq]
  dsimp only
  rw [hm, if_neg Bool.false_ne_true, Dev.longCommand_starts hu hg hn h hroom rfl rfl rfl rfl]
  rfl

end Starting

/-- Settles O19: each command is admitted as the carrier of its operation, after what it begins by. -/
theorem longOperationsBegin : Obligations.LongOperationsBegin := by
  intro s r io q hu hg hn p x e starts hp hroom
  refine ⟨fun h blk prb hblk hprb hbok hpok hnames hctx => ?probe, fun h i => ?build, fun h i hm hi hop => ?compact, fun h => ?format,
    fun h hm => ?sanitise⟩
  case probe => exact execRecallProbe_starts hu hg hn hroom h hblk hprb hbok hpok hnames hctx
  case build => exact fun hm hi hop hprobe hsrc hmib => execIndexBuild_starts hu hg hn hroom h hi hop hprobe hsrc hmib
  case compact => exact execIndexCompact_starts hu hg hn hroom h hi hop
  case format => exact execFormat_starts hu hg hn hroom h
  case sanitise => exact execSanitise_starts hu hg hn hroom h hm

end Sys2Proof.Machine
end

section
/-! PROOF. What the journal and the images of a partition write: its flash pages, and of the partition nothing but what is no epoch. -/

namespace Sys2Proof.Machine

open Sys2Proof

/-! ### The flash alone -/

/-- `e` is `d` but for the flash. -/
def OnlyFlash (d e : Dev) : Prop := ∃ f, e = { d with flash := f }

theorem OnlyFlash.refl (d : Dev) : OnlyFlash d d := ⟨d.flash, rfl⟩

theorem onlyFlash_set (d : Dev) (f : Flash) : OnlyFlash d { d with flash := f } := ⟨f, rfl⟩

theorem OnlyFlash.trans {a b c : Dev} (h : OnlyFlash a b) (k : OnlyFlash b c) : OnlyFlash a c := by
  obtain ⟨f, rfl⟩ := h
  obtain ⟨g, rfl⟩ := k
  exact ⟨g, rfl⟩

theorem OnlyFlash.ite {c : Prop} [Decidable c] {d a b : Dev} (ha : OnlyFlash d a) (hb : OnlyFlash d b) :
    OnlyFlash d (if c then a else b) := by
  split
  · exact ha
  · exact hb

theorem OnlyFlash.part {d e : Dev} (h : OnlyFlash d e) (p : Nat) : e.part p = d.part p := by
  obtain ⟨f, rfl⟩ := h
  rfl

theorem onlyFlash_foldl {α : Type} (f : Dev → α → Dev) (h : ∀ d a, OnlyFlash d (f d a)) :
    ∀ (l : List α) (d : Dev), OnlyFlash d (l.foldl f d)
  | [], d => .refl d
  | a :: l, d => (h d a).trans (onlyFlash_foldl f h l (f d a))

theorem onlyFlash_settleBuffer (d : Dev) (p : Nat) : OnlyFlash d (d.settleBuffer p) :=
  .ite (onlyFlash_set d _) (.refl d)

theorem onlyFlash_dropStale (d : Dev) (p : Nat) : OnlyFlash d (d.dropStale p) := by
  unfold Dev.dropStale
  dsimp only
  split
  · exact .refl d
  · refine onlyFlash_foldl _ (fun e g => ?_) _ d
    split
    · exact .ite (.refl e) (onlyFlash_set e _)
    · exact .refl e

/-! ### The flash and one partition (R258) -/

theorem modAt_modAt {α : Type} (f g : α → α) : ∀ (n : Nat) (l : List α), modAt f n (modAt g n l) = modAt (fun a => f (g a)) n l
  | _, [] => by simp [modAt]
  | 0, _ :: _ => by simp [modAt]
  | n + 1, _ :: l => by simp [modAt, modAt_modAt f g n l]

theorem modAt_id {α : Type} : ∀ (n : Nat) (l : List α), modAt (fun a => a) n l = l
  | _, [] => by simp [modAt]
  | 0, _ :: _ => by simp [modAt]
  | n + 1, _ :: l => by simp [modAt, modAt_id n l]

/-- `e` is `d` but for the flash and for what of partition `p` is none of its epochs. Of other partitions it says more than `OnlyRecords`:
they stand whole. -/
def KeepsEpochs (p : Nat) (d e : Dev) : Prop :=
  ∃ g f, (∀ x : Part, (g x).vis = x.vis) ∧ e = { d.modPart p g with flash := f }

theorem keepsEpochs_modPart (d : Dev) (p : Nat) {g : Part → Part} (hg : ∀ x, (g x).vis = x.vis) : KeepsEpochs p d (d.modPart p g) :=
  ⟨g, d.flash, hg, rfl⟩

theorem OnlyFlash.keepsEpochs {d e : Dev} (h : OnlyFlash d e) (p : Nat) : KeepsEpochs p d e := by
  obtain ⟨f, rfl⟩ := h
  exact ⟨fun x => x, f, fun _ => rfl, by simp [Dev.modPart, modAt_id]⟩

theorem KeepsEpochs.refl (p : Nat) (d : Dev) : KeepsEpochs p d d := (OnlyFlash.refl d).keepsEpochs p

theorem KeepsEpochs.trans {p : Nat} {a b c : Dev} (h : KeepsEpochs p a b) (k : KeepsEpochs p b c) : KeepsEpochs p a c := by
  obtain ⟨g, f, hg, rfl⟩ := h
  obtain ⟨g', f', hg', rfl⟩ := k
  exact ⟨fun x => g' (g x), f', fun x => (hg' _).trans (hg x), by simp [Dev.modPart, modAt_modAt]⟩

theorem keepsEpochs_foldl {α : Type} {p : Nat} (f : Dev → α → Dev) (h : ∀ d a, KeepsEpochs p d (f d a)) :
    ∀ (l : List α) (d : Dev), KeepsEpochs p d (l.foldl f d)
  | [], d => .refl p d
  | a :: l, d => (h d a).trans (keepsEpochs_foldl f h l (f d a))

theorem KeepsEpochs.vis {p : Nat} {d e : Dev} (h : KeepsEpochs p d e) : (e.part p).vis = (d.part p).vis := by
  obtain ⟨g, f, hg, rfl⟩ := h
  exact Dev.part_modPart_keep (fun x => x.vis) d p p g hg

theorem KeepsEpochs.part_ne {p k : Nat} {d e : Dev} (h : KeepsEpochs p d e) (hk : k ≠ p) : e.part k = d.part k := by
  obtain ⟨g, f, -, rfl⟩ := h
  exact Dev.part_modPart_ne d g hk.symm

theorem keepsEpochs_modJournal (d : Dev) (p : Nat) (f : Part → Journal) :
    KeepsEpochs p d (d.modPart p fun y => { y with journal := f y }) := keepsEpochs_modPart d p fun _ => rfl

theorem keepsEpochs_flash (d : Dev) (p : Nat) (f : Flash) : KeepsEpochs p d { d with flash := f } := (onlyFlash_set d f).keepsEpochs p

theorem keepsEpochs_packAppend (d : Dev) (c : Clock) (p : Nat) (run : Bytes) : KeepsEpochs p d (d.packAppend c p run) :=
  (keepsEpochs_flash d p _).trans (keepsEpochs_modJournal _ p _)

theorem keepsEpochs_structRun (d : Dev) (c : Clock) (p tag : Nat) (body : Bytes) : KeepsEpochs p d (d.structRun c p tag body) := by
  unfold Dev.structRun
  dsimp only
  generalize recordRun 3 (d.part p).journal.next body = run
  have hroom : OnlyFlash d (if d.bufferRoom p run.length then d else { d with flash := (d.flash.flushPart p).1 }) :=
    .ite (.refl d) (onlyFlash_set d _)
  exact (((hroom.keepsEpochs p).trans (keepsEpochs_packAppend _ c p run)).trans (keepsEpochs_modJournal _ p _)).trans
    ((onlyFlash_settleBuffer _ p).keepsEpochs p)

theorem keepsEpochs_stateRecords (d : Dev) (c : Clock) (p : Nat) : KeepsEpochs p d (d.stateRecords c p) := by
  unfold Dev.stateRecords
  dsimp only
  split
  · exact .refl p d
  · refine (keepsEpochs_modJournal d p _).trans (keepsEpochs_foldl _ (fun e i => ?_) _ _)
    split
    · exact .refl p e
    · exact keepsEpochs_structRun e c p i.num _

/-! ### An image brought current (R128, R258) -/

/-- A partition once the image of one of its indexes reflects the index: the records that the image makes needless have gone, and it
does not lag. -/
def Part.imaged (x : Part) (idx : Nat) : Part :=
  ({ x with journal := { x.journal with
      recs := x.journal.recs.filter fun j => !(j.applied && j.index == idx),
      structs := x.journal.structs.filter fun t => t.1 != idx,
      dirty := x.journal.dirty.filter fun t => t.1 != idx } } : Part).modIndex idx fun i => { i with lag := 0 }

theorem Dev.rewriteImage_of_index {d : Dev} {p idx : Nat} {i : Index} (c : Clock) (h : (d.part p).index? idx = some i) :
    OnlyFlash (d.modPart p fun x => x.imaged idx) (d.rewriteImage c p idx) := by
  unfold Dev.rewriteImage
  dsimp only
  rw [h]
  exact .trans ⟨_, rfl⟩ (onlyFlash_settleBuffer _ p)

theorem Dev.rewriteImage_of_none {d : Dev} {p idx : Nat} (c : Clock) (h : (d.part p).index? idx = none) : d.rewriteImage c p idx = d := by
  simp [Dev.rewriteImage, h]

theorem keepsEpochs_rewriteImage (d : Dev) (c : Clock) (p idx : Nat) : KeepsEpochs p d (d.rewriteImage c p idx) := by
  cases h : (d.part p).index? idx with
  | none => rw [Dev.rewriteImage_of_none c h]; exact .refl p d
  | some i => exact (keepsEpochs_modPart d p (g := fun x => x.imaged idx) fun _ => rfl).trans ((Dev.rewriteImage_of_index c h).keepsEpochs p)

theorem keepsEpochs_rewriteLagging (d : Dev) (c : Clock) (p : Nat) : KeepsEpochs p d (d.rewriteLagging c p) := by
  unfold Dev.rewriteLagging
  dsimp only
  split
  · exact .refl p d
  · refine keepsEpochs_foldl _ (fun e i => ?_) _ d
    exact (keepsEpochs_rewriteImage e c p i.num).trans ((onlyFlash_dropStale _ p).keepsEpochs p)

end Sys2Proof.Machine
end

section
/-! PROOF. Visibility epochs, the batches of a reproducible partition and the checkpoint timer. -/

namespace Sys2Proof.Machine

open Sys2Proof

/-! ### An epoch begins (R111 to R113) -/

@[simp] theorem Part.releaseOlds_vis (x : Part) (p : Nat) : (x.releaseOlds p).vis = x.vis := by
  refine foldl_keep (fun y : Part => y.vis) _ (fun y k => foldl_keep (fun y : Part => y.vis) _ (fun y o => ?_) _ _) _ _
  dsimp only
  split
  · rfl
  · split <;> rfl

/-- Of a partition's epochs, the beginning of one moves the current and the highest. -/
theorem Part.beginEpoch_vis (x : Part) (p : Nat) :
    (x.beginEpoch p).vis = { x.vis with cur := x.vis.cur + 1, highest := max x.vis.highest (x.vis.cur + 1) } := by
  simp [Part.beginEpoch, Part.switchModels, Part.settle, Part.dropGraphs]

theorem Dev.beginEpoch_cur (d : Dev) (c : Clock) {p : Nat} (hp : p < d.parts.length) :
    ((d.beginEpoch c p).part p).vis.cur = (d.part p).vis.cur + 1 := by
  unfold Dev.beginEpoch
  rw [(keepsEpochs_rewriteLagging _ c p).vis, (keepsEpochs_stateRecords _ c p).vis, Dev.part_modPart_self d _ hp, Part.beginEpoch_vis]

theorem Dev.beginEpoch_part_ne (d : Dev) (c : Clock) {p k : Nat} (h : k ≠ p) : (d.beginEpoch c p).part k = d.part k := by
  unfold Dev.beginEpoch
  rw [(keepsEpochs_rewriteLagging _ c p).part_ne h, (keepsEpochs_stateRecords _ c p).part_ne h, Dev.part_modPart_ne d _ h.symm]

theorem execEpochTick_open {s : State} {p : Nat} (h : (s.dev.part p).life.st ≠ .closed)
    (hn : (s.dev.part p).vis.nextTick ≤ max s.clock.time ((s.dev.part p).vis.tickDue s.clock.time)) :
    execEpochTick p s = BecomesAt s ((s.dev.part p).vis.tickDue s.clock.time)
      (s.dev.beginEpoch (s.clock.reach ((s.dev.part p).vis.tickDue s.clock.time)) p) := by
  unfold execEpochTick
  dsimp only
  rw [if_neg h, State.atTime_eq, if_pos (by exact hn), BecomesAt]

theorem execEpochTick_closed {s : State} {p : Nat} (h : (s.dev.part p).life.st = .closed) : execEpochTick p s = Becomes s s.dev := by
  unfold execEpochTick
  dsimp only
  rw [if_pos h, State.onDev_eq, Becomes]

/-! ### Batches and checkpoints (R138, R255) -/

theorem Dev.batchApply_oldest {d : Dev} {c : Clock} {p e : Nat} {l : List Nat} (h : sortBy id ((d.part p).batchEpochs p) = e :: l)
    (he : e < (d.part p).vis.cur) :
    d.batchApply c p = if (d.batchRun c p e).2 then (d.batchRun c p e).1.batchCommit c p e else (d.batchRun c p e).1 := by
  unfold Dev.batchApply
  dsimp only
  rw [h]
  exact if_neg (Nat.not_le.mpr he)

theorem execReproducibleBatchApply_oldest {s : State} {p e : Nat} {l : List Nat} (hr : (s.dev.part p).cfg.repro = true)
    (hc : (s.dev.part p).life.st ≠ .closed) (h : sortBy id ((s.dev.part p).batchEpochs p) = e :: l) (he : e < (s.dev.part p).vis.cur) :
    execReproducibleBatchApply p s =
      let w := s.dev.batchRun s.clock p e
      Becomes s (if w.2 then w.1.batchCommit s.clock p e else w.1) := by
  unfold execReproducibleBatchApply
  rw [State.onDev_eq]
  dsimp only
  rw [if_neg (by simp [hr, hc]), Dev.batchApply_oldest h he, Becomes]

theorem execCheckpointTimer_started {s : State} {p : Nat} (hst : (s.dev.part p).life.st = .started)
    (hn : 0 < (s.dev.part p).feat.place.checkpointS) :
    execCheckpointTimer p s =
      let t := (s.dev.part p).mem.ckptFrom + (s.dev.part p).feat.place.checkpointS * 1000000000
      BecomesAt s t (s.dev.checkpoint (s.clock.reach t) p) := by
  unfold execCheckpointTimer
  dsimp only
  rw [if_neg (by simp [hst, Nat.ne_of_gt hn]), State.atTime_eq, BecomesAt]

/-- Settles O59: the tick begins an epoch of its partition alone, the oldest batch that has ended is run, and the timer writes its
checkpoint when it is due. -/
theorem epochsAndBatches : Obligations.EpochsAndBatches := by
  intro s p hp x
  refine ⟨fun hst hn => ⟨_, execEpochTick_open hst hn, ?cur, ?others⟩, fun hst => ?closed, fun hr hst e l hl he => ?batch,
    fun hst hn => ?checkpoint⟩
  case cur => exact Dev.beginEpoch_cur s.dev _ hp
  case others => exact fun k hk => Dev.beginEpoch_part_ne s.dev _ hk
  case closed => exact execEpochTick_closed hst
  case batch => exact execReproducibleBatchApply_oldest hr hst hl he
  case checkpoint => exact execCheckpointTimer_started hst hn

end Sys2Proof.Machine
end

section
/-! PROOF. Events of the flash: what a record leaves of the device, and what stripes, the groomer, images, failed blocks, channels and
storage dies, the hold-up store and training do. -/

namespace Sys2Proof.Machine

open Sys2Proof

/-! ### What a record leaves (R467, R468, R470) -/

/-- `e` is `d` but for what reports change: the recorder, events and completion slots, and what is sent. -/
def OnlyReports (d e : Dev) : Prop :=
  ∃ ps rs ms ev r f o, e =
    { d with parts := ps, mgmt := { d.mgmt with rings := rs, msix := ms, ev := ev }, recorder := r, fabric := f, out := o }

theorem OnlyReports.refl (d : Dev) : OnlyReports d d := ⟨_, _, _, _, _, _, _, rfl⟩

theorem OnlyReports.trans {a b c : Dev} (h : OnlyReports a b) (k : OnlyReports b c) : OnlyReports a c := by
  obtain ⟨_, _, _, _, _, _, _, rfl⟩ := h
  obtain ⟨_, _, _, _, _, _, _, rfl⟩ := k
  exact ⟨_, _, _, _, _, _, _, rfl⟩

theorem OnlyReports.ite {c : Prop} [Decidable c] {d a b : Dev} (ha : OnlyReports d a) (hb : OnlyReports d b) :
    OnlyReports d (if c then a else b) := by
  split
  · exact ha
  · exact hb

theorem onlyReports_foldl {α : Type} (f : Dev → α → Dev) (h : ∀ d a, OnlyReports d (f d a)) :
    ∀ (l : List α) (d : Dev), OnlyReports d (l.foldl f d)
  | [], d => .refl d
  | a :: l, d => (h d a).trans (onlyReports_foldl f h l (f d a))

theorem Outward.onlyReports {d e : Dev} (h : Outward d e) : OnlyReports d e := by
  obtain ⟨f, o, rfl⟩ := h
  exact ⟨_, _, _, _, _, _, _, rfl⟩

theorem onlyReports_recorder (d : Dev) (r : Recorder) : OnlyReports d { d with recorder := r } := ⟨_, _, _, _, _, _, _, rfl⟩

theorem onlyReports_mgmtEvents (d : Dev) (ev : EventState) : OnlyReports d { d with mgmt := { d.mgmt with ev := ev } } :=
  ⟨_, _, _, _, _, _, _, rfl⟩

theorem onlyReports_modRing (d : Dev) (rs : RsId) (f : RingSet → RingSet) : OnlyReports d (d.modRing rs f) := by
  cases rs <;> exact ⟨_, _, _, _, _, _, _, rfl⟩

theorem onlyReports_modMsix (d : Dev) (fn : Fn) (v : Nat) (f : MsixVec → MsixVec) : OnlyReports d (d.modMsix fn v f) := by
  cases fn <;> exact ⟨_, _, _, _, _, _, _, rfl⟩

theorem onlyReports_sendRdma (d : Dev) (c : Clock) (rs : RsId) (o : RoceOut) : OnlyReports d (d.sendRdma c rs o) := by
  unfold Dev.sendRdma
  split
  · exact .refl d
  · refine .ite ?_ (onlyReports_modRing d rs _)
    exact ((outward_nextSequence d rs.partNo).onlyReports.trans (onlyReports_modRing _ rs _)).trans
      (outward_sendTo _ c _ _ _ _ _ _ _ _).onlyReports

theorem onlyReports_writeHost (d : Dev) (c : Clock) (rs : RsId) (tie : Tie) (svc addr : Nat) (b : Bytes) :
    OnlyReports d (d.writeHost c rs tie svc addr b) :=
  .ite (onlyReports_foldl _ (fun e _ => onlyReports_sendRdma e c rs _) _ d) (outward_emit d _).onlyReports

theorem onlyReports_notify (d : Dev) (c : Clock) (rs : RsId) : OnlyReports d (d.notify c rs) :=
  (onlyReports_modRing d rs _).trans
    (.ite (outward_sendPacketOn _ c _ _ _ _ _ _ _ _ _).onlyReports (.ite (onlyReports_modMsix _ _ _ _) (outward_emit _ _).onlyReports))

theorem onlyReports_writeSlot (d : Dev) (c : Clock) (rs : RsId) (e : WaitEntry) : OnlyReports d (d.writeSlot c rs e) := by
  unfold Dev.writeSlot
  dsimp only
  have hslot : ∀ (p : Prop) [Decidable p] tie addr b f g, OnlyReports d
      ((if p then (d.writeHost c rs tie 3 addr b).modRun rs f else d.writeHost c rs tie 3 addr b).modRun rs g) := fun p _ tie addr b f g =>
    have hw := onlyReports_writeHost d c rs tie 3 addr b
    (OnlyReports.ite (hw.trans (onlyReports_modRing _ rs _)) hw).trans (onlyReports_modRing _ rs _)
  exact .ite ((hslot _ _ _ _ _ _).trans (onlyReports_notify _ c rs)) (hslot _ _ _ _ _ _)

theorem onlyReports_flushMgmtEvents (c : Clock) (n : Nat) (d : Dev) : OnlyReports d (d.flushMgmtEvents c n) := by
  induction n generalizing d with
  | zero => exact .refl d
  | succ n ih =>
    unfold Dev.flushMgmtEvents
    dsimp only
    split
    · exact .refl d
    · exact .ite (((onlyReports_mgmtEvents d _).trans (onlyReports_writeSlot _ c _ _)).trans (ih _)) (.refl d)

theorem onlyReports_postMgmt (d : Dev) (c : Clock) (e : EvRec) : OnlyReports d (d.postMgmt c e) :=
  .ite (.refl d) (.ite (onlyReports_mgmtEvents d _) ((onlyReports_mgmtEvents d _).trans (onlyReports_flushMgmtEvents c 64 _)))

theorem onlyReports_assignRecord (d : Dev) (c : Clock) (e : EvRec) : OnlyReports d (d.assignRecord c e) := by
  unfold Dev.assignRecord
  refine .ite (.ite (onlyReports_recorder d _) (onlyReports_recorder d _)) ?_
  exact ((onlyReports_recorder d _).trans (onlyReports_recorder _ _)).trans (.ite (onlyReports_postMgmt _ c _) (.refl _))

theorem onlyReports_record (d : Dev) (c : Clock) (code kind idx : Nat) (part : Option Nat) (d0 d1 d2 : Nat) :
    OnlyReports d (d.record c code kind idx part d0 d1 d2) :=
  .ite (.ite (onlyReports_recorder d _) (onlyReports_recorder d _)) (onlyReports_assignRecord d c _)

section Record

variable (d : Dev) (c : Clock) (code kind idx : Nat) (part : Option Nat) (d0 d1 d2 : Nat)

@[simp] theorem Dev.record_flash : (d.record c code kind idx part d0 d1 d2).flash = d.flash := by
  obtain ⟨_, _, _, _, _, _, _, h⟩ := onlyReports_record d c code kind idx part d0 d1 d2
  rw [h]

@[simp] theorem Dev.record_power : (d.record c code kind idx part d0 d1 d2).power = d.power := by
  obtain ⟨_, _, _, _, _, _, _, h⟩ := onlyReports_record d c code kind idx part d0 d1 d2
  rw [h]

@[simp] theorem Dev.record_holdupJ : (d.record c code kind idx part d0 d1 d2).mgmt.holdupJ = d.mgmt.holdupJ := by
  obtain ⟨_, _, _, _, _, _, _, h⟩ := onlyReports_record d c code kind idx part d0 d1 d2
  rw [h]

@[simp] theorem Dev.record_unflushedLimit : (d.record c code kind idx part d0 d1 d2).mgmt.unflushedLimit = d.mgmt.unflushedLimit := by
  obtain ⟨_, _, _, _, _, _, _, h⟩ := onlyReports_record d c code kind idx part d0 d1 d2
  rw [h]

end Record

/-! ### Stripes, the groomer and wear (R265, R283, R284, R296, R298) -/

theorem execStripeCloseTimeout_open {s : State} {id : Nat} {k : Stripe}
    (h : s.dev.flash.stripes.find? (fun k => k.id == id && k.isOpen) = some k) :
    execStripeCloseTimeout id s = BecomesAt s (k.openedAt + 2000000) { s.dev with flash := s.dev.flash.closeStripe id } := by
  unfold execStripeCloseTimeout
  rw [h]
  rfl

theorem execStripeDurable_closed {s : State} {id : Nat}
    (h : s.dev.flash.stripes.any (fun k => k.id == id && !k.isOpen && !k.durable) = true) :
    execStripeDurable id s = Becomes s { s.dev with flash := s.dev.flash.stripeDone id } := by
  unfold execStripeDurable
  rw [State.onDev_eq, if_pos h, Becomes]

/-- What the groomer does to the next victim of a side that is short of free pages, or whose victim has lost a member. -/
theorem Dev.groom_victim {d : Dev} (c : Clock) {p side mark : Nat} (background : Bool) {v : Super} (hs : side < 2)
    (hlost : (d.dropStale p).flash.lost side = false) (hfree : (d.dropStale p).flash.grooming p side = false)
    (hv : (d.dropStale p).flash.victim p side = some v)
    (hmark : (d.dropStale p).flash.freePerMille p side (if side = 0 then (d.part p).cfg.flash0 else (d.part p).cfg.flash1) < mark ∨
      (d.dropStale p).flash.hurt.contains v.id = true) :
    d.groom c p side mark background = (d.dropStale p).relocate c p v background := by
  have hmust : (d.dropStale p).flash.mustMove p side = (d.dropStale p).flash.hurt.contains v.id := by
    unfold Flash.mustMove
    rw [hv]
  unfold Dev.groom
  dsimp only
  rw [if_neg, hv]
  rw [hmust, hlost, hfree]
  rintro (h | h | h | ⟨hle, hno⟩)
  · exact absurd h (Nat.not_le.mpr hs)
  · exact absurd h Bool.false_ne_true
  · exact absurd h Bool.false_ne_true
  · rcases hmark with h | h
    · exact absurd hle (Nat.not_le.mpr h)
    · exact absurd (h.symm.trans hno) (by decide)

theorem execWearLevelling_worn {s : State} {p side : Nat} {v : Super} (hfree : (s.dev.dropStale p).flash.grooming p side = false)
    (hv : (s.dev.dropStale p).flash.supers.filter (fun k => k.part == p && k.side == side &&
        decide (k.erases + 200 ≤
          (s.dev.dropStale p).flash.supers.foldl (fun (m : Nat) (k : Super) => if k.side = side then max m k.erases else m) 0) &&
        !((s.dev.dropStale p).flash.pages.any fun q => q.super == k.id && q.buffered)) = [v]) :
    execWearLevelling p side s =
      let t := s.dev.flash.idleAt p side
      BecomesAt s t ((s.dev.dropStale p).relocate (s.clock.reach t) p v true) := by
  unfold execWearLevelling
  rw [State.atTime_eq]
  dsimp only
  rw [hv, hfree]
  rfl

/-! ### Images (R128, R258, R279) -/

theorem execImageSegmentRewrite_part {s : State} {p idx : Nat} {i : Index} (hp : p < s.dev.parts.length)
    (h : (s.dev.part p).index? idx = some i) :
    ∃ d, execImageSegmentRewrite p idx s = Becomes s d ∧ d.part p = (s.dev.part p).imaged idx := by
  refine ⟨_, rfl, ?_⟩
  rw [(onlyFlash_dropStale _ p).part, (Dev.rewriteImage_of_index s.clock h).part, Dev.part_modPart_self _ _ hp]

/-! ### Blocks, channels and dies out of use (R271, R284, R286) -/

theorem Flash.dieLost_badBlocks (f : Flash) (ch die : Nat) : (f.dieLost ch die).badBlocks = f.badBlocks := by
  unfold Flash.dieLost
  dsimp only
  split
  · rfl
  · split <;> rfl

theorem execNandBlockFailure_retires {s : State} {ch die block : Nat} (hch : ch < 64) (hdie : die < s.dev.flash.geom.dies)
    (hb : s.dev.flash.badBlocks.contains (ch, die, block) = false) :
    ∃ d, execNandBlockFailure ch die block s = Becomes s d ∧ d.flash.badBlocks = (ch, die, block) :: s.dev.flash.badBlocks := by
  refine ⟨_, rfl, ?_⟩
  have hin : ¬ (64 ≤ ch ∨ s.dev.flash.geom.dies ≤ die ∨ s.dev.flash.badBlocks.contains (ch, die, block) = true) := by
    simp only [hb, Bool.false_eq_true, or_false]
    omega
  dsimp only
  rw [if_neg hin]
  split
  · simp [Flash.dieLost_badBlocks]
  · simp

theorem execFlashChannelLost_retires {s : State} {n : Nat} (hn : n < 64) (h : s.dev.flash.lostCh.contains n = false) :
    execFlashChannelLost n s = Becomes s
      (({ s.dev with flash := s.dev.withoutChannel n, units := s.dev.units.retire 8 n } : Dev).record s.clock 0x0207 8 n none
        s.dev.flash.geom.dies 0 0) := by
  have hin : ¬ (64 ≤ n ∨ s.dev.flash.lostCh.contains n = true) := by
    simp only [h, Bool.false_eq_true, or_false]
    omega
  unfold execFlashChannelLost Dev.flashChannelLost
  rw [State.onDev_eq, if_neg hin, Becomes]
  rfl

section StorageDie

variable {d : Dev} (c : Clock) {n : Nat} (forGood : Bool) (hn : n < 2) (h : d.flash.lost n = false)
include hn h

theorem Dev.storageDieLost_first (ho : d.flash.lost (1 - n) = false) : d.storageDieLost c n forGood = d.loseDie c n forGood := by
  unfold Dev.storageDieLost
  rw [if_neg (by simp [h, hn]), if_neg (by rw [ho]; decide)]

theorem Dev.storageDieLost_second (ho : d.flash.lost (1 - n) = true) : d.storageDieLost c n forGood = d.moduleFatal c 6 13 (21 + n) := by
  unfold Dev.storageDieLost
  rw [if_neg (by simp [h, hn]), if_pos ho]

omit h

/-- The die is lost, and its unit is out of use; the other die stands. -/
theorem Dev.loseDie_lost (ho : d.flash.lost (1 - n) = false) :
    (d.loseDie c n forGood).flash.lost n = true ∧ (d.loseDie c n forGood).flash.lost (1 - n) = false ∧
      (d.loseDie c n forGood).units.isRetired 13 (21 + n) = true := by
  unfold Dev.loseDie
  dsimp only
  rw [Dev.record_flash, Dev.record_units]
  obtain rfl | rfl : n = 0 ∨ n = 1 := by omega
  all_goals simpa [Flash.lost, Units.isRetired] using ho

end StorageDie

theorem Dev.moduleFatal_mode (d : Dev) (c : Clock) (cause kind idx : Nat) : (d.moduleFatal c cause kind idx).power.mode = .fatal := by
  unfold Dev.moduleFatal
  split
  · assumption
  · rw [Dev.record_power]
    rfl

/-! ### The hold-up store and training (R265, R293) -/

theorem Dev.measureHoldup_sets {d : Dev} (c : Clock) {j : Nat} (h : 0 < unflushedLimit j) :
    (d.measureHoldup c j).mgmt.unflushedLimit = unflushedLimit j ∧ (d.measureHoldup c j).mgmt.holdupJ = j ∧
      (d.measureHoldup c j).power.holdupAt = c.opTime ∧ (d.measureHoldup c j).flash = d.flash := by
  unfold Dev.measureHoldup
  dsimp only
  rw [if_neg (Nat.ne_of_gt h)]
  split
  · exact ⟨rfl, rfl, rfl, rfl⟩
  · simp

theorem execFlashTrainingTemperatureDrift_trains {s : State} {die : Nat} {temp : Int} (hd : die < 2)
    (h : 100 ≤ (temp - if die = 0 then s.dev.flash.temp0 else s.dev.flash.temp1).natAbs) :
    execFlashTrainingTemperatureDrift die temp s = Becomes s { s.dev with flash := s.dev.flash.train die temp } := by
  unfold execFlashTrainingTemperatureDrift
  rw [State.onDev_eq]
  dsimp only
  rw [if_neg (by omega), Becomes]

/-- Settles O52: each event is what its command's own lemma says. -/
theorem flashEventsHappen : Obligations.FlashEventsHappen := by
  intro s
  dsimp only
  refine ⟨fun id k hk => ?close, fun id hid => ?durable, fun p side v hs hlost hgroom hv => ?groomer,
    fun p side v hgroom hv => ?wear,
    fun i => rfl, fun p idx i hp hi => ?image, fun p idx => rfl, fun ch die block hch hdie hb => ?block, fun n hn hl => ?channel,
    fun n hn hl => ⟨fun ho => ?firstDie, fun ho _ => ?secondDie⟩, fun j hj => ?holdup, fun temp => ⟨fun ht => ?train0, fun ht => ?train1⟩⟩
  case close => exact execStripeCloseTimeout_open hk
  case durable => exact execStripeDurable_closed hid
  case groomer =>
    exact ⟨fun hm => congrArg (BecomesAt s (s.dev.flash.idleAt p side)) (Dev.groom_victim _ true hs hlost hgroom hv hm),
      fun hm => congrArg (Becomes s) (Dev.groom_victim _ false hs hlost hgroom hv hm)⟩
  case wear => exact execWearLevelling_worn hgroom hv
  case image => exact execImageSegmentRewrite_part hp hi
  case block => exact execNandBlockFailure_retires hch hdie hb
  case channel => exact execFlashChannelLost_retires hn hl
  case firstDie =>
    exact ⟨_, congrArg (Becomes s) (Dev.storageDieLost_first s.clock true hn hl ho), Dev.loseDie_lost s.clock true hn ho⟩
  case secondDie =>
    exact ⟨_, congrArg (Becomes s) (Dev.storageDieLost_second s.clock true hn hl ho), Dev.moduleFatal_mode _ _ _ _ _⟩
  case holdup => exact ⟨_, rfl, Dev.measureHoldup_sets s.clock hj⟩
  case train0 => exact execFlashTrainingTemperatureDrift_trains (by decide) ht
  case train1 => exact execFlashTrainingTemperatureDrift_trains (by decide) ht

end Sys2Proof.Machine
end

section
/-! PROOF. Updates of remote modules at their times, the held updates of a barrier epoch, and the RoCEv2 connections of remote ring
sets. -/

namespace Sys2Proof.Machine

open Sys2Proof

/-! ### Updates of remote modules (R433) -/

/-- An unacknowledged update goes out again, as it was, and waits twice as long for the next time, up to 64 ms. -/
theorem execUpdateRepeatTimeout_repeats {s : State} {p n : Nat} {o : OutUpdate} {k : Peer}
    (ho : (s.dev.transport p).outs.find? (fun o => o.sequence == n) = some o) (hk : s.dev.fabric.peer? o.peer true = some k)
    (hc : (s.dev.part p).life.st ≠ .closed) (hf : (s.dev.part p).life.st ≠ .fenced) :
    execUpdateRepeatTimeout p n s =
      let c := s.clock.reach o.next
      BecomesAt s o.next ((s.dev.modTransport p fun t => { t with outs := modIf (fun q => q.sequence == n) (fun q =>
          { q with interval := min (2 * q.interval) 64000000, next := c.time + min (2 * q.interval) 64000000 }) t.outs }).sendTo c p p .free
        (fbits o.hdr 1 2 1) k true o.payload.length fun port => .packet port o.peer o.hdr o.payload) := by
  unfold execUpdateRepeatTimeout
  rw [ho]
  dsimp only
  rw [State.atTime_eq, hk]
  dsimp only
  rw [if_neg (not_or.mpr ⟨hc, hf⟩), BecomesAt]

/-! ### The barrier epoch (R140) -/

theorem Dev.applyDue_cons {d : Dev} {c : Clock} {p : Nat} {h : Held} (l : List Held) (hw : h.waits (d.part p) = false) :
    d.applyDue c p (h :: l) = (d.applyHeld c p h).applyDue c p l := if_neg (by rw [hw]; exact Bool.false_ne_true)

/-- No update of a remote module waits, so all of them are applied, in their order. -/
theorem Dev.applyDue_remote (c : Clock) (p : Nat) : ∀ (l : List RemoteUpd) (d : Dev),
    d.applyDue c p (l.map Held.remote) = l.foldl (fun (d : Dev) u => d.applyHeld c p (.remote u)) d
  | [], _ => rfl
  | u :: l, d => (Dev.applyDue_cons _ rfl).trans (Dev.applyDue_remote c p l (d.applyHeld c p (.remote u)))

theorem execBarrierEpochApply_open {s : State} {p : Nat} (hr : (s.dev.part p).cfg.repro = true) (hc : (s.dev.part p).life.st ≠ .closed)
    (hf : (s.dev.part p).life.st ≠ .fenced) :
    execBarrierEpochApply p s = Becomes s (s.dev.applyDue s.clock p ((s.dev.part p).dueHeld p)) := by
  unfold execBarrierEpochApply
  rw [State.onDev_eq]
  dsimp only
  rw [if_neg (by simp [hr, hc, hf]), Becomes]

/-! ### A packet of a connection (R338, R435, R438) -/

/-- A packet that is whole, for a partition that is fenced, is an authentication failure. -/
theorem Dev.receiveIf_fenced {d : Dev} {c : Clock} {k : Packet} (keyed from_ epoch policed : Bool) (hl : d.laidOut k = true)
    (hf : (d.part (pkPart k)).life.st = .fenced) :
    d.receiveIf c k keyed from_ epoch policed = (d.modTransport (pkPart k) fun t => { t with authFails := bump t.authFails }, .dropped) := by
  unfold Dev.receiveIf
  dsimp only
  rw [if_neg (by simp [hl]), if_pos (by simp [hf])]

section Connection

variable {s : State} {rs : RsId} {k : RoceIn} (hremote : (s.dev.ring rs).regs.remote = true) (htype : pkType k.pkt = 7)
  (hpart : pkPart k.pkt = rs.partNo)

include hremote htype hpart

/-- One that fails its checks changes what the checks count, and nothing else. -/
theorem execRdmaPacket_dropped (hw : (s.dev.receiveRdma s.clock rs k).2 ≠ .accepted) :
    execRdmaPacket rs k s = Becomes s (s.dev.receiveRdma s.clock rs k).1 := by
  unfold execRdmaPacket
  rw [State.onDev_eq]
  dsimp only
  rw [if_neg (by simp [hremote, htype, hpart]), if_pos hw, Becomes]

theorem execRdmaPacket_fenced (hl : s.dev.laidOut k.pkt = true) (hf : (s.dev.part rs.partNo).life.st = .fenced) :
    execRdmaPacket rs k s = Becomes s (s.dev.modTransport rs.partNo fun t => { t with authFails := bump t.authFails }) := by
  have hw : s.dev.receiveRdma s.clock rs k =
      (s.dev.modTransport rs.partNo fun t => { t with authFails := bump t.authFails }, .dropped) :=
    (Dev.receiveIf_fenced _ _ _ _ hl (hpart ▸ hf)).trans (by rw [hpart])
  rw [execRdmaPacket_dropped hremote htype hpart (by simp [hw]), hw]

/-- The requests that a packet acknowledges are complete, and READs that waited behind them go out. -/
def Dev.roceComplete (d : Dev) (c : Clock) (rs : RsId) (n : Nat) : Dev :=
  if n = 0 then d else
    (d.modRing rs fun x => { x with roce := { x.roce with outstanding := x.roce.outstanding.drop n, sentAt := c.time, retries := 0 } }).issueHeld c rs
      (d.ring rs).roce.held.length

/-- What an accepted packet does on a connection that stands, by its kind. -/
theorem execRdmaPacket_accepted (hw : (s.dev.receiveRdma s.clock rs k).2 = .accepted)
    (hr : ((s.dev.receiveRdma s.clock rs k).1.ring rs).roce.failed = false) :
    execRdmaPacket rs k s =
      let d := (s.dev.receiveRdma s.clock rs k).1
      Becomes s (match k.kind with
        | .request => d.modFabric fun f => { f with roceDrops := bump f.roceDrops }
        | .response => if k.ecn then (d.roceComplete s.clock rs k.completes).sendCnp s.clock rs else d.roceComplete s.clock rs k.completes
        | .nak => (d.roceComplete s.clock rs k.completes).roceRetry s.clock rs) := by
  unfold execRdmaPacket
  rw [State.onDev_eq]
  dsimp only
  exact congrArg (Becomes s)
    ((if_neg (by simp [hremote, htype, hpart])).trans ((if_neg (not_not.mpr hw)).trans (if_neg (by simp [hr]))))

end Connection

theorem execRoceAckTimeout_outstanding {s : State} {rs : RsId} (ho : (s.dev.ring rs).roce.outstanding ≠ [])
    (hr : (s.dev.ring rs).roce.failed = false) :
    execRoceAckTimeout rs s =
      let t := (s.dev.ring rs).roce.sentAt + 4194304
      BecomesAt s t (s.dev.roceRetry (s.clock.reach t) rs) := by
  unfold execRoceAckTimeout
  dsimp only
  rw [if_neg (by simp [ho, hr]), State.atTime_eq, BecomesAt]

/-- Settles O40: an update goes out again at its time, held updates are applied up to one that waits, and a connection's packet or
timeout does what its kind or its retries say. -/
theorem updatesAndConnections : Obligations.UpdatesAndConnections := by
  refine ⟨fun s p n o k ho hk hc hf => ?repeats, fun s p hr hc hf => ⟨?due, fun h l hdue hw => ?head, fun d c l => ?remotes⟩,
    fun s rs k hremote htype hpart => ⟨fun hl hf => ?fenced, fun hw => ?dropped,
      fun hw hr => ⟨fun hk he hn => ?response, fun hk => ?request, fun hk hn => ?nak⟩⟩,
    fun _ _ => rfl, fun s rs ho hr => ?timeout⟩
  case repeats => exact execUpdateRepeatTimeout_repeats ho hk hc hf
  case due => exact execBarrierEpochApply_open hr hc hf
  case head => exact (execBarrierEpochApply_open hr hc hf).trans (congrArg (Becomes s) (by rw [hdue, Dev.applyDue_cons l hw]))
  case remotes => exact Dev.applyDue_remote c p l d
  case fenced => exact execRdmaPacket_fenced hremote htype hpart hl hf
  case dropped => exact execRdmaPacket_dropped hremote htype hpart hw
  case response =>
    refine (execRdmaPacket_accepted hremote htype hpart hw hr).trans ?_
    simp [hk, he, Dev.roceComplete, Nat.ne_of_gt hn]
  case request =>
    refine (execRdmaPacket_accepted hremote htype hpart hw hr).trans ?_
    simp [hk]
  case nak =>
    refine (execRdmaPacket_accepted hremote htype hpart hw hr).trans ?_
    simp [hk, hn, Dev.roceComplete]
  case timeout => exact execRoceAckTimeout_outstanding ho hr

end Sys2Proof.Machine
end

section
/-! PROOF. Requests that wait: the end of one at its deadline, the admission of the oldest when room has freed, and replays. -/

namespace Sys2Proof.Machine

open Sys2Proof

/-! ### Deadlines (R125, R135, R341, R342) -/

/-- The deadline of a request before its point of no return stands, unless it names a barrier epoch. -/
theorem Dev.deadlineOf_some {d : Dev} {r : ReqRef} {q : Req} (hd : 0 < q.deadline) (hp : q.ponr = false)
    (hb : d.barrierOp r q.opcode = false) : d.deadlineOf r q = some q.deadline := by
  simp [Dev.deadlineOf, hp, hb, Nat.ne_of_gt hd]

/-- Only a journaled update that has been replayed is late with a cancel record. -/
theorem Dev.lateUpd_of_not_journaled {d : Dev} {r : ReqRef} {q : Req} (c : Clock) (h : d.req? r = some q) (hj : q.journaled = false) :
    d.lateUpd c r = none := by
  unfold Dev.lateUpd
  rw [h]
  dsimp only
  split
  · simp [hj]
  · rfl

theorem Dev.expire_of_not_journaled {d : Dev} {r : ReqRef} {q : Req} (c : Clock) (h : d.req? r = some q) (hj : q.journaled = false) :
    d.expire c r = d.cutShort c r (if 0 < q.replays then statusEXHAUSTED else statusDEADLINE) := by
  simp [Dev.expire, Dev.lateUpd_of_not_journaled c h hj, h]

section InFlight

variable {s : State} {r : ReqRef} {q : Req} (h : s.dev.req? r = some q)

include h

theorem execDeadlineExpiry_ends (hd : 0 < q.deadline) (hp : q.ponr = false) (hj : q.journaled = false)
    (hb : s.dev.barrierOp r q.opcode = false) :
    execDeadlineExpiry r s =
      BecomesAt s q.deadline (s.dev.cutShort (s.clock.reach q.deadline) r (if 0 < q.replays then statusEXHAUSTED else statusDEADLINE)) := by
  unfold execDeadlineExpiry
  rw [h, Option.bind_some, Dev.deadlineOf_some hd hp hb]
  dsimp only
  rw [State.atTime_eq, Dev.expire_of_not_journaled _ h hj, BecomesAt]

/-! ### Replays (R132, R135, R447, R473) -/

/-- The device after the record of a replay, or of the end of one, which names the unit retired last. -/
def Dev.recordReplay (d : Dev) (c : Clock) (r : ReqRef) (type : Nat) : Dev :=
  d.record c type d.lastFailed.1 d.lastFailed.2 (some r.rs.partNo) (r.rs.num * 2 ^ 32 + r.seq) 0 0

/-- A replay of a request whose work is its descriptor alone (R134): it starts again from it, or ends once it has been replayed twice or is
late. -/
theorem execRequestReplay_of_descriptor (io : Io) (hr : q.pendingReplay = true) (hw : q.work = .none ∨ ∃ m v l, q.work = .model m v l) :
    execRequestReplay r io s =
      Becomes s (if 2 ≤ q.replays ∨ (deadlinePassed s.clock q && decide (0 < q.replays) && !s.dev.barrierOp r q.opcode) = true then
          (s.dev.recordReplay s.clock r 0x0302).finish s.clock r ⟨statusEXHAUSTED, 0, 0, 0⟩
        else (s.dev.recordReplay s.clock r 0x0301).modReq r fun y => { y with pendingReplay := false, replays := y.replays + 1 }) := by
  unfold execRequestReplay
  rw [State.onDev_eq]
  dsimp only
  rw [h]
  dsimp only
  obtain hw | ⟨m, v, l, hw⟩ := hw
  all_goals
    rw [hw]
    exact congrArg (Becomes s) (if_neg (by simp [hr]))

theorem execRequestReplay_again (io : Io) (hr : q.pendingReplay = true) (hn : q.replays < 2) (hl : deadlinePassed s.clock q = false)
    (hw : q.work = .none ∨ ∃ m v l, q.work = .model m v l) :
    execRequestReplay r io s =
      Becomes s ((s.dev.recordReplay s.clock r 0x0301).modReq r fun y => { y with pendingReplay := false, replays := y.replays + 1 }) := by
  rw [execRequestReplay_of_descriptor h io hr hw, if_neg]
  simpa [hl] using hn

theorem execRequestReplay_exhausted (io : Io) (hr : q.pendingReplay = true) (hn : 2 ≤ q.replays)
    (hw : q.work = .none ∨ ∃ m v l, q.work = .model m v l) :
    execRequestReplay r io s = Ended s r (s.dev.recordReplay s.clock r 0x0302) ⟨statusEXHAUSTED, 0, 0, 0⟩ := by
  rw [execRequestReplay_of_descriptor h io hr hw, if_pos (.inl hn), Becomes, Ended]

end InFlight

/-! ### The admission queue (R447) -/

/-- Of one waiting descriptor the queue is that descriptor, whatever its class. -/
theorem sort_waiting_single (n : Nat) (q : Req) :
    sortBy (fun (e : Nat × Req) => waitKey e.1 e.2)
      (if ([(n, q)].filter fun e => e.2.service != 2).isEmpty then [(n, q)] else [(n, q)].filter fun e => e.2.service != 2) = [(n, q)] := by
  cases hs : q.service != 2 <;> simp [hs, sortBy, sortBy.ins]

theorem execAdmission_admits {s : State} {p n : Nat} {q : Req} {f : Req → Req} (ho : s.dev.orderedEnd s.clock p = none)
    (hall : (indexed (s.dev.part p).rings).flatMap (fun k => (k.2.inflight.filter (·.waiting)).map fun y => (k.1, y)) = [(n, q)])
    (hst : (s.dev.part p).life.st = .started) (hpause : (s.dev.part p).life.admitPaused = false) (hx : (s.dev.part p).exclusive = false)
    (hd : (deadlinePassed s.clock q && !s.dev.barrierOp ⟨.part p n, q.seq⟩ q.opcode) = false) (hf : s.dev.regrant s.clock p q = .go f) :
    execAdmission p s = Becomes s (s.dev.enter s.clock ⟨.part p n, q.seq⟩ f) := by
  unfold execAdmission
  rw [State.onDev_eq]
  dsimp only
  rw [ho]
  dsimp only
  rw [hall, sort_waiting_single]
  dsimp only
  rw [if_neg (by simp [hst, hpause]), if_neg (by simp [hx]), if_neg (by simp [hd]), hf, Becomes]

/-- Settles O30: what each of the three events does with the request in hand. -/
theorem requestsExpireWaitAndReplay : Obligations.RequestsExpireWaitAndReplay := by
  intro s r q io h
  refine ⟨fun hd hp hj hb => ?expires, fun p n hr ho hall hst hpause hx hd f hf => ?admitted,
    fun hr hn hl hw => ?again, fun hr hn hw => ?exhausted⟩
  case expires => exact execDeadlineExpiry_ends h hd hp hj hb
  case admitted =>
    subst hr
    exact execAdmission_admits ho hall hst hpause hx hd hf
  case again => exact execRequestReplay_again h io hr hn hl hw
  case exhausted => exact execRequestReplay_exhausted h io hr hn hw

end Sys2Proof.Machine
end

section
/-! PROOF. Tiles and their programs: how a tile and a plan entry start, how a tile takes a descriptor of any class, and the fault of a
signal that takes a counter past its end. -/

namespace Sys2Proof.Machine

open Sys2Proof

/-! ### A tile starts its stream (R146, R188) -/

theorem Part.nextEntry_eq {x : Part} {i : Inv} {g : Pkg} (pos : Nat) (hi : x.running = some i) (hg : x.invPkg i = some g) :
    x.nextEntry pos = i.tileEntry g pos := by
  simp [Part.nextEntry, hi, hg]

theorem Dev.startTile_free {d : Dev} {p pos e : Nat} {i : Inv} {g : Pkg} (hi : (d.part p).running = some i)
    (hg : (d.part p).invPkg i = some g) (he : i.tileEntry g pos = some e) (hfree : (d.tile (d.siteAt p pos)).running = false)
    (hpos : pos < g.tiles) :
    d.startTile p pos = d.modTile (d.siteAt p pos) fun y =>
      { y with sram := y.sram.writeN 0 (i.argPage g pos), tokens := List.replicate 64 0, running := true,
               prog := (g.streams.getD e []).getD pos [], next := 0, entry := some e, queues := List.replicate 5 [], held := [] } := by
  simp [Dev.startTile, hi, hg, he, hfree, Nat.not_le_of_lt hpos]

theorem exec_tileInvocationStart_next {s : State} {t p pos e : Nat} (hsite : s.dev.siteOf t = some (p, pos))
    (hnext : (s.dev.part p).nextEntry pos = some e) :
    exec (.tileInvocationStart t p pos e) s = Becomes s (s.dev.startTile p pos) := by
  have hexec : exec (.tileInvocationStart t p pos e) s = Becomes s (if s.dev.siteOf t = some (p, pos) ∧
      (s.dev.part p).nextEntry pos = some e then s.dev.startTile p pos else s.dev) := rfl
  rw [hexec, if_pos ⟨hsite, hnext⟩]

/-! ### A plan entry starts (R191, R192, R222) -/

/-- The running invocation of a partition counts a plan entry as started. -/
def Dev.noteStarted (d : Dev) (p entry : Nat) : Dev :=
  d.modPart p fun y => y.modRunning fun k => { k with started := k.started ++ [entry] }

/-- Each of the four predecessors that a plan entry names is none, or is done. -/
def Inv.predsDone (i : Inv) (e : Bytes) : Prop :=
  ∀ j, j < 4 → fld e (2 + 2 * j) 2 = 0xFFFF ∨ i.done.contains (fld e (2 + 2 * j) 2) = true

theorem Inv.predsDone_all {i : Inv} {e : Bytes} (h : i.predsDone e) :
    ((List.range 4).all fun j => fld e (2 + 2 * j) 2 == 0xFFFF || i.done.contains (fld e (2 + 2 * j) 2)) = true := by
  simpa only [Inv.predsDone, List.all_eq_true, List.mem_range, Bool.or_eq_true, beq_iff_eq] using h

section PlanEntry
variable {d : Dev} {p entry : Nat} {i : Inv} {g : Pkg} {e : Bytes} (hi : (d.part p).running = some i)
  (hg : (d.part p).invPkg i = some g) (he : g.plan[entry]? = some e) (hnew : i.started.contains entry = false) (hpre : i.predsDone e)
include hi hg he hnew hpre

/-- A tile phase counts as started, and waits for the streams of its tiles. -/
theorem Dev.startEntry_tilePhase (hkind : fbits e 0 0 0 = 0) : d.startEntry p entry = d.noteStarted p entry := by
  simp only [Dev.startEntry, hi, hg, he, Option.bind_some, Option.map_some, Inv.predsDone_all hpre, hnew, hkind, Dev.noteStarted]
  simp

/-- A bank phase of one group counts as started and queues that group, with its bound and its records, at its engine's channel. -/
theorem Dev.startEntry_bankPhase (hkind : fbits e 0 0 0 = 1) {f : Phase} {k : PhaseGroup} {pos ch : Nat}
    (hf : g.phases[entry]? = some f) (hk : f.groups = [k]) (hpos : f.chans[k.eng / 8]? = some pos)
    (hch : (d.part p).life.chans[pos]? = some ch) :
    d.startEntry p entry = (d.noteStarted p entry).queueGroup ch
      ⟨k.eng % 8, p, ceilDiv ((d.part p).groupBound (8 * pos + k.eng % 8) (k.cmds.map (g.relocate i.copy))) 32, 0,
        (d.noteStarted p entry).nextOrd, some entry, k.cmds.map (g.relocate i.copy), 0, []⟩ := by
  have hphase : g.phases.getD entry ⟨[], []⟩ = f := by rw [List.getD_eq_getElem?_getD, hf, Option.getD_some]
  have hone : indexed [k] = [(0, k)] := rfl
  simp only [Dev.startEntry, hi, hg, he, Option.bind_some, Option.map_some, Inv.predsDone_all hpre, hnew, hkind, hphase, hk, hone,
    List.foldl_cons, List.foldl_nil, hpos, hch, Dev.noteStarted]
  simp

end PlanEntry

/-- Settles O44: a tile and a plan entry that the running invocation has next start. -/
theorem tileInvocationStarts : Obligations.TileInvocationStarts := by
  refine ⟨fun s t p pos e i g hsite hat hi hg he hfree hpos => ?tile, fun s p entry i g e => ?entry⟩
  case tile =>
    subst hat
    have hnext : (s.dev.part p).nextEntry pos = some e := (Part.nextEntry_eq pos hi hg).trans he
    rw [exec_tileInvocationStart_next hsite hnext, Dev.startTile_free hi hg he hfree hpos]
  case entry =>
    intro d x d1 hi hg he hnew hpre
    have hexec : exec (.planEntryStart p entry) s = Becomes s (d.startEntry p entry) := rfl
    refine ⟨fun htile => ?tilePhase, fun hbank f k pos ch hf hk hpos hch => ?bankPhase⟩
    case tilePhase =>
      rw [hexec, Dev.startEntry_tilePhase hi hg he hnew hpre htile]
      rfl
    case bankPhase =>
      rw [hexec, Dev.startEntry_bankPhase hi hg he hnew hpre hbank hf hk hpos hch]
      rfl

/-! ### A tile takes the next descriptor of its stream (R147) -/

/-- The next descriptor of a running tile goes behind those it holds, and what finds room enters its queue. -/
theorem Dev.dispatch_next {d : Dev} {t : Nat} {b : Bytes} (hrun : (d.tile t).running = true)
    (hb : (d.tile t).prog[(d.tile t).next]? = some b) :
    d.dispatch t = d.modTile t fun y =>
      ({ y with next := y.next + 1, held := y.held ++ [⟨y.next, b, !Td.waitEn b, !(Td.cls b == 5 && Td.op b == 0)⟩] } : Tile).refill
        1024 := by
  simp [Dev.dispatch, hrun, hb]

theorem Dev.takeDesc_next {s : State} {t p cls op : Nat} {b : List Byte} (h : TileTakes s t p cls op b) :
    s.dev.takeDesc s.clock t cls op b = (s.dev.dispatch t).invStep s.clock p := by
  obtain ⟨⟨pos, hsite⟩, hrun, hb, hcls, hop⟩ := h
  simp [Dev.takeDesc, hsite, hrun, hb, hcls, hop]

/-- Settles O45: each instruction of the tiles takes a descriptor of its own class and operation. -/
theorem descriptorsAreDispatched : Obligations.DescriptorsAreDispatched := by
  intro s t p cls op b i h hi
  have hexec : exec (i t b) s = s.onDev fun c d => d.takeDesc c t cls op b := by
    casesm* _ ∨ _ <;> obtain ⟨rfl, rfl, rfl⟩ := hi <;> rfl
  have htakes := h
  obtain ⟨-, hrun, hb, rfl, rfl⟩ := h
  rw [hexec, State.onDev_eq, Dev.takeDesc_next htakes, Dev.dispatch_next hrun hb]
  rfl

/-! ### A signal past the end of a counter (R177) -/

theorem Dev.tokens_signal_one {d : Dev} {site : Nat} (token n : Nat) (hs : site < d.tiles.length) :
    ((d.signal [site] token n).1.tile site).tokens = modAt (fun v => min 65535 (v + n)) token (d.tile site).tokens :=
  congrArg Tile.tokens (d.tile_modTile_self (fun x => { x with tokens := modAt (fun v => min 65535 (v + n)) token x.tokens }) hs)

theorem Dev.signal_one_overflows {d : Dev} {site token n : Nat} (h : 65535 < (d.tile site).tokens.getD token 0 + n) :
    (d.signal [site] token n).2 = true := by
  rw [Dev.signal_one_past, decide_eq_true h]

section Overflow
variable {d : Dev} {c : Clock} {fin : Ends} {p pos site : Nat} {x : TDesc}

/-- A SIGNAL to its own tile whose counter has no room for it faults, and does not complete. -/
theorem Dev.runDesc_signal_overflows (hc : Td.cls x.d = 5) (ho : Td.op x.d = 1) (hself : fld x.d 12 2 = 0xFFFF)
    (hpast : 65535 < (d.tile site).tokens.getD (fbits x.d 8 5 0) 0 + fld x.d 10 2) :
    d.runDesc c fin p pos site x = (d.signal [site] (fbits x.d 8 5 0) (fld x.d 10 2)).1.tileFault c fin p pos site x 1 0 := by
  simp [Dev.runDesc, hc, ho, hself, Dev.signal_one_overflows hpast]

/-- A descriptor whose signal at its completion takes a counter of its own tile past its end leaves its queue, then faults. -/
theorem Dev.descDone_overflows (h : Td.signalEn x.d = true) (hself : fld x.d 6 2 = 0xFFFF)
    (hpast : 65535 < ((d.modTile site fun y => y.complete x.idx).tile site).tokens.getD (fbits x.d 4 5 0) 0 + fld x.d 5 1) :
    d.descDone c fin p pos site x =
      (((d.modTile site fun y => y.complete x.idx).signal [site] (fbits x.d 4 5 0) (fld x.d 5 1)).1.tileFault c fin p pos site x 1 0,
        false) := by
  simp [Dev.descDone, h, hself, Dev.signal_one_overflows hpast]

end Overflow

/-- Settles O47: the counter stands at its end, and the descriptor whose signal it was faults. -/
theorem signalsSaturate : Obligations.SignalsSaturate := by
  refine ⟨fun d site token n hs ht => ?counter, fun d c fin p pos site x hc ho hself hpast => ?signal,
    fun d c fin p pos site x hc ho hen hself hpast => ?completion⟩
  case counter =>
    refine ⟨?_, by simp [Dev.signal_one_past]⟩
    rw [Dev.tokens_signal_one token n hs, modAt_getD_eq _ _ ht]
  case signal => exact Dev.runDesc_signal_overflows hc ho hself hpast
  case completion => rw [Dev.runDesc_waits hc (.inr ho), Dev.descDone_overflows hen hself hpast]

end Sys2Proof.Machine
end

section
/-! PROOF. Models: how MODEL_LOAD and its unload option end, how the commands that run a model end once its invocations have left their
rows, and what a computed training step leaves. -/

namespace Sys2Proof.Machine

open Sys2Proof

/-- A run of a command that ends its request. -/
theorem State.onDev_ends {s : State} {r : ReqRef} {f : Clock → Dev → Dev} {d : Dev} {e : Ending}
    (h : f s.clock s.dev = d.finish s.clock r e) : s.onDev f = Ended s r d e := by
  rw [State.onDev_eq, h, Ended]

/-! ### Loading and unloading (R185, R186, R358) -/

/-- The partition that a load leaves once its package is placed as `g` in `y`: the identifier holds the next version, from the epoch after
the current one on. -/
def Part.loaded (y : Part) (m v : Nat) (g : Pkg) : Part :=
  ({ y with vis := y.vis.assign.1 }.setHighest m v).modModel m fun k => { k with next := some (v, g, y.vis.cur + 1) }

section Loading
variable {s : State} {r : ReqRef} {io : Io} {q : Req} (h : Carries s r 0x40 q) (hu : io.upto = .done)
include h hu

theorem execModelLoad_ends {o : Obj} {y : Part} {g : Pkg} (hload : fbits q.desc 26 0 0 = 0) :
    let d := s.dev.modPart r.rs.partNo fun x => x.markLoading (mdl q)
    let x := d.part r.rs.partNo
    (x.modelUsers r.rs.partNo (mdl q) r none).any (fun e => e.2.opcode == 0x43) = false →
    x.storedAt (fld q.desc 28 4) = some o → x.placePkg o (x.readPkg o) (mdl q) = some (y, g) →
    execModelLoad r io s = Ended s r
      ((((d.readObj s.clock.time r.rs.partNo o 0 o.size).modPart r.rs.partNo fun _ => y.loaded (mdl q) (x.highest (mdl q) + 1) g).modReq r
        fun k => { k with work := .none }).modPart r.rs.partNo Part.trimHot)
      ⟨statusSUCCESS, 0, x.highest (mdl q) + 1, y.vis.cur + 1⟩ := by
  intro d x hidle hobj hplace
  refine State.onDev_ends ?_
  rw [h.1]
  refine (if_neg (by omega)).trans (Dev.command_ends h io.upto _ _ _ _ _ ?work)
  case work =>
    rw [if_neg (by simp [hu, d, x, hidle]), hobj]
    dsimp only
    rw [hplace]
    rfl

theorem execModelUnload_ends (hunload : fbits q.desc 26 0 0 = 1) :
    let d := s.dev.modPart r.rs.partNo fun x => x.modModel (mdl q) fun k => { k with unloading := true }
    (d.part r.rs.partNo).modelUsers r.rs.partNo (mdl q) r none = [] →
    execModelUnload r io s = Ended s r (d.modPart r.rs.partNo fun x => x.unloadModel (mdl q)) ⟨statusSUCCESS, 0, 0, 0⟩ := by
  intro d hidle
  refine State.onDev_ends ?_
  rw [h.1]
  refine (if_neg (by omega)).trans (Dev.command_ends h io.upto _ _ _ _ _ ?work)
  case work =>
    rw [if_neg (by simp [hu, d, hidle])]

end Loading

/-- Settles O17: a load whose package is placed ends with the next version, and an unload of an idle model frees it. -/
theorem modelLoadsComplete : Obligations.ModelLoadsComplete := by
  intro s r io q h hu
  dsimp only
  refine ⟨fun hload o y g hidle hobj hplace => ?load, fun hunload hidle => ?unload⟩
  case load => exact execModelLoad_ends h hu hload hidle hobj hplace
  case unload => exact execModelUnload_ends h hu hunload hidle

/-! ### Requests whose rows have been served (R187, R190, R198, R359, R360) -/

theorem Req.usesModel_model {q : Req} {m v : Nat} {l : List Nat} (h : q.work = .model m v l) : q.usesModel = some (m, v) := by
  simp only [Req.usesModel, h]

section Served
variable {s : State} {r : ReqRef} {io : Io} {q w : Req} {v : Nat} {l : List Nat} {d : Dev} {outs : List RowOut} (hu : io.upto = .done)
  (hwork : q.work = .model (mdl q) v l) (hqueued : (s.dev.part r.rs.partNo).rowsQueued r = true) (hok : io.writesOk = true)
  (hserved : (s.dev.runRows s.clock (Dev.endServed s.clock) r 0).takeRows r = some (d, w, outs))
include hu hwork hqueued hok hserved

theorem execEmbed_served (h : Carries s r 0x41 q) :
    execEmbed r io s = Ended s r (d.hostOut s.clock r (fld w.desc 56 8) (outs.flatMap (·.bytes)))
      ⟨statusSUCCESS, w.flags, lastVersion outs v + 2 ^ 32 * fld w.desc 28 4, 0⟩ := by
  refine State.onDev_ends (Dev.command_ends h io.upto _ _ _ _ _ ?work)
  case work =>
    dsimp only
    rw [if_pos hqueued, if_neg (by simp [hu]), hserved]
    dsimp only
    rw [if_pos hok, Req.usesModel_model hwork]
    rfl

theorem execRerank_served {m u : Nat} {items : List Nat} (h : Carries s r 0x42 q) (hitems : w.work = .model m u items) :
    let n := lastVersion outs v
    let k := fld w.desc 30 2
    let exits := (((d.part r.rs.partNo).pkgOf (mdl q) n).map Pkg.exits).getD 0
    let o := ceRank k exits (BitVec.ofNat 32 (fld w.desc 44 4)) (rerankItems items (outs.map rowScores))
    execRerank r io s = Ended s r (d.hostOut s.clock r (fld w.desc 56 8) (slotsBytes k (rerankSlots k exits o)))
      (rerankEnding w k items.length n o) := by
  intro n k exits o
  refine State.onDev_ends (Dev.command_ends h io.upto _ _ _ _ _ ?work)
  case work =>
    simp only [hqueued, Bool.not_true, Bool.false_and, Bool.false_eq_true, if_false]
    rw [if_neg (by simp [hu]), hserved]
    dsimp only
    rw [Dev.closeRerank, if_pos hok, hitems, Req.usesModel_model hwork, h.1]
    rfl

end Served

/-! ### Training steps (R199 to R201) -/

/-- A step whose pass is computed has nothing left to run. -/
theorem Dev.computeTrain_computed {q : Req} {m v : Nat} {o : RowOut} (h : q.work = .train m v o) (d : Dev) (c : Clock) (r : ReqRef)
    (m' v' : Nat) (batch : Bytes) (run : Bool) : d.computeTrain c r m' v' q batch run = d := by
  simp only [Dev.computeTrain, h]

theorem execTrainStep_applies {s : State} {r : ReqRef} {io : Io} {q : Req} {m v : Nat} {o : RowOut} (h : Carries s r 0x43 q)
    (hu : io.upto = .done) (hwork : q.work = .train m v o) (hstd : (s.dev.part r.rs.partNo).cfg.repro = false)
    (hfirst : (s.dev.part r.rs.partNo).trainBefore r.rs.partNo (mdl q) r q = false)
    (hfree : (s.dev.part r.rs.partNo).copyInUse (mdl q) = false) :
    execTrainStep r io s =
      Ended s r (s.dev.applyTrain s.clock r q.desc o).1 (s.dev.applyTrain s.clock r q.desc o).2 := by
  refine State.onDev_ends (Dev.command_ends h io.upto _ _ _ _ _ ?work)
  case work =>
    dsimp only
    rw [Dev.computeTrain_computed hwork, h.1, Option.map_some, hwork]
    exact if_neg (by simp [hstd, hu, hfirst, hfree])

section Training
variable {d : Dev} {r : ReqRef} {desc : Bytes} {k : Model} {g : Pkg} (hlive : (d.part r.rs.partNo).modelLive (fld desc 24 2) = some (k, g))
  (hclean : (d.part r.rs.partNo).trainPoisoned g k.copy = false)
include hlive hclean

/-- A step on sound lines updates the tensors, then the tables; then the other copy and the next version are the model's. -/
theorem Dev.applyTrain_device (c : Clock) (o : RowOut) :
    (d.applyTrain c r desc o).1 =
      (((d.trainTensors c r.rs.partNo g k.copy (BitVec.ofNat 32 (fld desc 44 4)) (fld desc 28 4) o.grads).1.trainTables c r.rs.partNo
        o.upds).1.modPart r.rs.partNo fun x =>
          (x.modModel (fld desc 24 2) fun y => { y with version := k.version + 1, copy := !k.copy }).setHighest (fld desc 24 2)
            (max (k.version + 1) (x.highest (fld desc 24 2)))) := by
  simp only [Dev.applyTrain, hlive, hclean, Bool.false_eq_true, if_false]

theorem Dev.applyTrain_results (c : Clock) (o : RowOut) :
    (d.applyTrain c r desc o).2.r0 = o.version + 2 ^ 32 * (k.version + 1) ∧ (d.applyTrain c r desc o).2.r1 = fld o.bytes 0 4 := by
  simp only [Dev.applyTrain, hlive, hclean, Bool.false_eq_true, if_false, and_self]

end Training

/-- Settles O18: served rows end an EMBED and a RERANK, a computed step is applied at once, and what it applies. -/
theorem inferenceCompletes : Obligations.InferenceCompletes := by
  refine ⟨fun s r io q v l hu => ?ends, fun d c r desc o k g hlive hclean => ?applied⟩
  case ends =>
    dsimp only
    refine ⟨fun hwork hqueued hok d w outs hserved => ⟨fun h => ?embed, fun h m u items hitems => ?rerank⟩,
      fun m o h hwork hstd hfirst hfree => ?train⟩
    case embed => exact execEmbed_served hu hwork hqueued hok hserved h
    case rerank => exact execRerank_served hu hwork hqueued hok hserved h hitems
    case train => exact execTrainStep_applies h hu hwork hstd hfirst hfree
  case applied =>
    obtain ⟨hversions, hloss⟩ := Dev.applyTrain_results hlive hclean c o
    exact ⟨hversions, hloss, Dev.applyTrain_device hlive hclean c o⟩

end Sys2Proof.Machine
end

section
/-! PROOF. Tables and indexes come to be, and the commands on tables: what TABLE_CREATE, INDEX_CREATE, GATHER and SCATTER_UPDATE leave, and
what a fold of updates keeps. -/

namespace Sys2Proof.Machine

open Sys2Proof

/-! ### Creations (R227, R231, R254, R352, R362) -/

/-- Whether the projection is kept changes neither the size of a vector nor that of its sketch. -/
theorem IndexParams.projectionBytes_keep (prm : IndexParams) :
    let prm' := if prm.projGiven then prm else { prm with proj := [] }
    2 * prm'.dim * prm'.sketchBits = 2 * prm.dim * prm.sketchBits := by
  dsimp only
  split <;> rfl

section Creation
variable {s : State} {r : ReqRef} {io : Io} {q : Req}

theorem execIndexCreate_ends (h : Carries s r 0x28 q) :
    let p := r.rs.partNo
    let prm := mkParams ((ioRead io.reads 0).getD []) ((ioRead io.reads 1).getD [])
    let prm' := if prm.projGiven then prm else { prm with proj := [] }
    let i : Index := { num := uIndex q, params := prm', graphs := [Graph.empty], reserved := 0, mib := prm.slotsMib prm.capacity }
    let n := prm'.lines (s.dev.part p).engineCount
    execIndexCreate r io s =
      Ended s r ((if fbits ((ioRead io.reads 0).getD []) 6 1 1 == 1 then
            s.dev.askHost s.clock r (fld ((ioRead io.reads 0).getD []) 16 8) (2 * prm.dim * prm.sketchBits) else s.dev).modPart p fun y =>
          (({ y with idx := insertBy (·.num) i y.idx } : Part).takeLines 2 i.num (y.freeLine n) n).trimHot)
        ⟨statusSUCCESS, 0, prm.slotsMib prm.capacity, 0⟩ := by
  intro p prm prm' i n
  refine State.onDev_ends (Dev.command_ends h .done _ _ _ _ _ ?work)
  case work => rw [← prm.projectionBytes_keep]

/-- The table stands where its object does, with the lines that its engines need. -/
theorem execTableCreate_ends (h : Carries s r 0x50 q) {y : Part} {w : Nat} {t : Table}
    (ht : (s.dev.part r.rs.partNo).tableAsked io q = t)
    (hobj : (s.dev.part r.rs.partNo).newObj .table t.bytes t.num = some (y, w)) :
    execTableCreate r io s =
      Ended s r (s.dev.modPart r.rs.partNo fun _ =>
          (({ y with tables := insertBy (·.num) { t with first := w } y.tables } : Part).takeLines 1 t.num (y.freeLine t.lines) t.lines).trimHot)
        ⟨statusSUCCESS, 0, w, t.mib⟩ := by
  refine State.onDev_ends (Dev.command_ends h .done _ _ _ _ _ ?work)
  case work => simp only [ht, hobj]

end Creation

/-- Settles O15: each command's work is its own lemma. -/
theorem creationsComplete : Obligations.CreationsComplete := by
  intro s r io q
  dsimp only
  refine ⟨fun h => ?index, fun h y w hobj => ?table⟩
  case index => exact execIndexCreate_ends h
  case table => exact execTableCreate_ends h rfl hobj

/-! ### Poisoned rows (R208, R237, R241) -/

theorem Table.rowPoisoned_nil (t : Table) (r : Nat) : t.rowPoisoned [] r = false := by simp [Table.rowPoisoned]

theorem gatherAll_poisoned_nil (t : Table) (m : Memory) (g : GBatch) : (gatherAll t m [] g).poisoned = false := by
  simp [gatherAll, Table.rowPoisoned_nil]

theorem gatherAll_out_length (t : Table) (m : Memory) (poison : List Nat) (g : GBatch) : (gatherAll t m poison g).out.length = g.bags := by
  simp [gatherAll]

theorem Dev.foldRows_anyPoison_nil {d : Dev} {p : Nat} (h : (d.part p).mem.poison = []) (c : Clock) (t : Table) (mode : Nat) (eta : F32)
    (bad : List Nat) (pos : List (Nat × List F32)) : (d.foldRows c p t mode eta bad pos).2.anyPoison = false := by
  simp [Dev.foldRows, scatterAll, h, Table.rowPoisoned_nil]

/-! ### One value for each row (R239, R241) -/

/-- The rows of `acc` are pairwise different, in range, and among `keys`. -/
def RowsOf (rows : Nat) (keys : List Nat) (acc : List (Nat × List F32)) : Prop :=
  (acc.map (·.1)).Nodup ∧ ∀ k ∈ acc.map (·.1), k < rows ∧ k ∈ keys

theorem map_fst_modIf {α : Type} (p : Nat × α → Bool) (f : Nat × α → α) (l : List (Nat × α)) :
    (modIf p (fun x => (x.1, f x)) l).map (·.1) = l.map (·.1) := by
  rw [modIf, List.map_map]
  refine List.map_congr_left fun x _ => ?_
  dsimp only [Function.comp]
  split <;> rfl

theorem rowsOf_nil (rows : Nat) (keys : List Nat) : RowsOf rows keys [] := by simp [RowsOf]

/-- A row of another number that is in range joins the rows. -/
theorem RowsOf.append {rows : Nat} {keys : List Nat} {acc : List (Nat × List F32)} {e : Nat × List F32} (h : RowsOf rows keys acc)
    (he : e.1 < rows) (hk : e.1 ∈ keys) (hnew : e.1 ∉ acc.map (·.1)) : RowsOf rows keys (acc ++ [e]) := by
  obtain ⟨hnodup, hkeys⟩ := h
  rw [RowsOf, List.map_append, List.map_singleton]
  refine ⟨List.concat_eq_append ▸ hnodup.concat hnew, fun k hmem => ?_⟩
  rcases List.mem_append.1 hmem with hold | hnew
  · exact hkeys k hold
  · obtain rfl := List.mem_singleton.1 hnew
    exact ⟨he, hk⟩

theorem foldUpdates_rowsOf (mode rows : Nat) (pos : List (Nat × List F32)) : RowsOf rows (pos.map (·.1)) (foldUpdates mode rows pos) := by
  refine List.foldlRecOn pos _ (rowsOf_nil rows _) fun acc h e he => ?_
  split
  case isTrue => exact h
  case isFalse hrange =>
    split
    case isTrue => rwa [RowsOf, map_fst_modIf]
    case isFalse hnew =>
      refine h.append (Nat.lt_of_not_le hrange) (List.mem_map_of_mem he) fun hmem => hnew ?_
      obtain ⟨x, hx, hxe⟩ := List.mem_map.1 hmem
      exact List.any_eq_true.2 ⟨x, hx, beq_iff_eq.2 hxe⟩

/-! ### GATHER and SCATTER_UPDATE (R215, R235 to R242, R362) -/

section TableCommands
variable {s : State} {r : ReqRef} {io : Io} {q : Req} (hu : io.upto = .done)
include hu

/-- A gather ends with its vectors written, or with none when it read a poisoned row. -/
theorem execGather_ends (h : Carries s r 0x51 q) {t0 : Table} {g : GBatch} (hg : GBatch.ofBytes ((batchOf io q).getD []) = g)
    (ht : (s.dev.part r.rs.partNo).table? g.table = some t0) :
    let p := r.rs.partNo
    let d := s.dev.settleTable s.clock (Dev.endServed s.clock) p t0
    let y := d.part p
    let t := (y.table? g.table).getD t0
    let o := gatherAll t y.mem.dram y.mem.poison g
    let e := d.modPart p fun y => { y with tables := modIf (fun k => k.num == t.num) (fun k => { k with stats := o.stats }) y.tables }
    (o.poisoned = false → io.writesOk = true → execGather r io s =
      Ended s r (e.hostOut s.clock r (fld q.desc 40 8) (o.out.flatMap fun v => v.flatMap fun e => le 4 e.toNat))
        ⟨statusSUCCESS, 0, g.bags, o.rowsRead⟩) ∧
    (o.poisoned = true → execGather r io s = Ended s r e ⟨statusPOISON, 0, 0, 0⟩) := by
  intro p d y t o e
  refine ⟨fun hclean hok => State.onDev_ends (Dev.command_ends h io.upto _ _ _ _ _ ?clean),
    fun hbad => State.onDev_ends (Dev.command_ends h io.upto _ _ _ _ _ ?bad)⟩
  case clean =>
    rw [if_neg (by simp [hu]), hg]
    dsimp only
    rw [ht]
    dsimp only
    rw [if_neg (by simp [o, hclean, t, y, d, p]), if_pos hok]
  case bad =>
    rw [if_neg (by simp [hu]), hg]
    dsimp only
    rw [ht]
    exact if_pos hbad

omit hu in
/-- A scatter update of a reproducible partition waits for its barrier epoch. -/
theorem execScatterUpdate_held (h : Carries s r 0x52 q) (hr : (s.dev.part r.rs.partNo).cfg.repro = true) :
    execScatterUpdate r io s = Becomes s s.dev := by
  refine congrArg (Becomes s) (Dev.command_goes_on h io.upto _ _ _ _ _ ?work)
  case work => exact if_pos (by simp [hr])

/-- One of a standard partition is applied at once, where the staging region has room for its values. -/
theorem execScatterUpdate_applies (h : Carries s r 0x52 q) {b : Bytes} (hw : q.work = .held b) {t0 : Table} {u : UBatch}
    (hub : UBatch.ofBytes b = u) (ht : (s.dev.part r.rs.partNo).table? u.table = some t0) (hr : (s.dev.part r.rs.partNo).cfg.repro = false) :
    let p := r.rs.partNo
    let d := s.dev.settleTable s.clock (Dev.endServed s.clock) p t0
    let t := ((d.part p).table? u.table).getD t0
    let pos := (indexed u.indices).map fun e => (e.2, UBatch.value b u t.dim e.1)
    let n := (foldUpdates u.mode t.rows (pos.filter fun e => e.1 != padIndex)).length
    let w := d.foldRows s.clock p t u.mode u.rate [] pos
    (n ≤ 65536 ∨ 4 * t.dim * n ≤ (d.part p).stagingFree) → execScatterUpdate r io s =
      Ended s r w.1 ⟨if w.2.anyPoison then statusPOISON else statusSUCCESS, if 0 < w.2.sat then flagSAT else 0, w.2.updated, w.2.dropped⟩ := by
  intro p d t pos n w hroom
  refine State.onDev_ends (Dev.command_ends h io.upto _ _ _ _ _ ?work)
  case work =>
    rw [if_neg (by simp [hu, hr]), hw]
    simp only [Dev.applyBatch, hub, ht]
    rw [if_neg fun hfull => hroom.elim (Nat.not_le_of_lt hfull.1) (Nat.not_le_of_lt hfull.2)]

end TableCommands

/-- Settles O16: each command's ends are its own lemmas, and what a fold keeps is an invariant of it. -/
theorem tableCommandsComplete : Obligations.TableCommandsComplete := by
  intro s r io q hu
  dsimp only
  refine ⟨fun h t0 ht => ?gather, fun h b t0 hw ht => ?scatter, gatherAll_out_length, fun mode rows pos => ?fold⟩
  case gather =>
    obtain ⟨hclean, hbad⟩ := execGather_ends hu h rfl ht
    refine ⟨hclean, hbad, fun hnone => ?_⟩
    rw [hnone]
    exact gatherAll_poisoned_nil _ _ _
  case scatter =>
    exact ⟨execScatterUpdate_held h, fun hr hroom => execScatterUpdate_applies hu h hw rfl ht hr hroom,
      fun hnone => Dev.foldRows_anyPoison_nil hnone _ _ _ _ _ _⟩
  case fold =>
    obtain ⟨hnodup, hkeys⟩ := foldUpdates_rowsOf mode rows pos
    exact ⟨hnodup, fun e he => hkeys e.1 (List.mem_map_of_mem he)⟩

end Sys2Proof.Machine
end

section
/-! PROOF. Commands of the bank engines: how an engine takes the next record of its running group, and what each opcode leaves. -/

namespace Sys2Proof.Machine

open Sys2Proof

/-! ### An engine takes a record (R212, R220 to R223, R241) -/

/-- The group that an engine of a channel runs is past the record it takes. -/
def Dev.pastRecord (d : Dev) (ch eng : Nat) : Dev :=
  d.modChan ch fun x => { x with running := modIf (fun k => k.eng == eng) (fun k => { k with next := k.next + 1 }) x.running }

/-- The requests that a group serves, marked with what a record of it came to. -/
def Dev.markServed (fin : Ends) (o : BankOut) (serves : List (ReqRef × Nat)) : Dev :=
  serves.foldl (fun (d : Dev) r =>
    let d := if o.sat then d.flagRow flagSAT ⟨r.1, r.2, 0, [], 0, 0, true⟩ else d
    if o.dropped then d.markDropped fin r else d) o.d

/-- A record that saturates nothing and drops no update marks no request. -/
theorem Dev.markServed_unmarked (fin : Ends) (e : Dev) (bad : Bool) (serves : List (ReqRef × Nat)) :
    Dev.markServed fin { d := e, poison := bad } serves = e := by
  simp [Dev.markServed]

/-- The group stops after a record that met poison; another record leaves what its opcode does. -/
def Dev.afterRecord (c : Clock) (fin : Ends) (ch : Nat) (g : Group) (bad : Bool) (e : Dev) : Dev :=
  if bad then (e.bankPoison fin ch { g with next := g.next + 1 }).startGroups c.time ch false else e

section Takes
variable {s : State} {p eng op ch : Nat} {cmd : List Byte} {g : Group} (h : BankTakes s p eng op cmd ch g)
include h

theorem bankTakes_opcode : Bc.op cmd = op := by
  obtain ⟨-, -, -, -, -, hop⟩ := h
  exact hop

theorem Dev.takeBank_takes :
    s.onDev (fun c d => d.takeBank c p eng op cmd) =
      Becomes s ((s.dev.bankStep s.clock (Dev.endServed s.clock) ch (eng % 8)).modChan ch Channel.turn) := by
  obtain ⟨hch, -, hg, hp, hcmd, hop⟩ := h
  refine congrArg (Becomes s) ?_
  simp [Dev.takeBank, hch, hg, hp, hcmd, hop]

/-- Only a LOAD or a STORE waits at another channel. -/
theorem Dev.bankAway_nil (hop : 2 < op) : s.dev.bankAway s.clock.time p ch cmd = [] := by
  rw [Dev.bankAway, if_neg (by rw [bankTakes_opcode h]; omega)]

theorem Dev.bankStep_waits (haway : s.dev.bankAway s.clock.time p ch cmd ≠ []) (fin : Ends) :
    s.dev.bankStep s.clock fin ch (eng % 8) =
      (s.dev.bankAway s.clock.time p ch cmd).foldl (fun (d : Dev) k => d.accessWaits s.clock.time k) s.dev := by
  obtain ⟨-, hown, hg, -, hcmd, -⟩ := h
  simp [Dev.bankStep, hown, hg, hcmd, haway]

theorem Dev.bankStep_runs (haway : s.dev.bankAway s.clock.time p ch cmd = []) (fin : Ends) {o : BankOut}
    (ho : (s.dev.pastRecord ch (eng % 8)).bankDo s.clock p eng g.entry.isSome
      (((s.dev.pastRecord ch (eng % 8)).groupServes g).map (·.1)) cmd = o) :
    s.dev.bankStep s.clock fin ch (eng % 8) =
      Dev.afterRecord s.clock fin ch g o.poison (Dev.markServed fin o ((s.dev.pastRecord ch (eng % 8)).groupServes g)) := by
  obtain ⟨-, hown, hg, -, hcmd, -⟩ := h
  subst ho
  simp only [Dev.bankStep, hg, hown, hcmd, haway, Nat.div_add_mod]
  rfl

/-- A record that marks no request: what its opcode does, and the end of the group where it met poison. -/
theorem Dev.takeBank_unmarked (haway : s.dev.bankAway s.clock.time p ch cmd = []) {e : Dev} {bad : Bool}
    (ho : ∀ phase serves, (s.dev.pastRecord ch (eng % 8)).bankDo s.clock p eng phase serves cmd = { d := e, poison := bad }) :
    s.onDev (fun c d => d.takeBank c p eng op cmd) =
      if bad then
        Becomes s (((e.bankPoison (Dev.endServed s.clock) ch { g with next := g.next + 1 }).startGroups s.clock.time ch false).modChan ch
          Channel.turn)
      else Becomes s (e.modChan ch Channel.turn) := by
  rw [Dev.takeBank_takes h, Dev.bankStep_runs h haway _ (ho _ _), Dev.markServed_unmarked]
  cases bad <;> rfl

/-- A record of a group that serves no request, nor is of a bank phase. -/
theorem Dev.takeBank_unserved (haway : s.dev.bankAway s.clock.time p ch cmd = []) (hentry : g.entry = none) (hserves : g.serves = [])
    {o : BankOut} (ho : (s.dev.pastRecord ch (eng % 8)).bankDo s.clock p eng false [] cmd = o) (hsound : o.poison = false) :
    s.onDev (fun c d => d.takeBank c p eng op cmd) = Becomes s (o.d.modChan ch Channel.turn) := by
  have hnone : (s.dev.pastRecord ch (eng % 8)).groupServes g = [] := by simp [Dev.groupServes, hentry, hserves]
  rw [Dev.takeBank_takes h, Dev.bankStep_runs h haway _ rfl, hnone, hentry]
  simp only [List.map_nil, Option.isSome_none, ho, hsound]
  rfl

end Takes

theorem Part.scratchTainted_clean {x : Part} (h : x.scratchBad = []) (eng a n : Nat) : x.scratchTainted eng a n = false := by
  simp [Part.scratchTainted, h]

/-! ### What the opcodes leave (R208, R209, R224 to R228, R236, R240) -/

section Opcodes
variable {d : Dev} {c : Clock} {p eng : Nat} {phase : Bool} {serves : List ReqRef} {cmd : Bytes}

theorem Dev.bankDo_load (hop : Bc.op cmd = 1) (hw : d.tileWindow p (Bc.addr cmd) (64 * Bc.count cmd) = none)
    (hr : (d.part p).dramRange (Bc.addr cmd) (64 * Bc.count cmd) = true) :
    d.bankDo c p eng phase serves cmd =
      { d := d.modPart p fun y => y.scratchWrite eng (Bc.sOut cmd) ((d.part p).mem.dram.readN (Bc.addr cmd) (64 * Bc.count cmd))
          ((d.part p).mem.poisoned (Bc.addr cmd) (64 * Bc.count cmd)),
        poison := (d.part p).mem.poisoned (Bc.addr cmd) (64 * Bc.count cmd) } := by
  simp [Dev.bankDo, hop, Dev.bankLoad, hw, hr]

/-- Bytes computed from no poisoned line are stored as they are. -/
theorem Dev.bankDo_store (hop : Bc.op cmd = 2) (hw : d.tileWindow p (Bc.addr cmd) (64 * Bc.count cmd) = none)
    (hr : (d.part p).dramRange (Bc.addr cmd) (64 * Bc.count cmd) = true)
    (hpart : (d.part p).mem.partialPoison (Bc.addr cmd) (64 * Bc.count cmd) = false) (hclean : (d.part p).scratchBad = []) :
    d.bankDo c p eng phase serves cmd =
      { d := d.modPart p fun y =>
          { y with mem := y.mem.put (Bc.addr cmd) ((d.part p).scratchRead eng (Bc.sIn cmd) (64 * Bc.count cmd)) } } := by
  simp [Dev.bankDo, hop, Dev.bankStore, hw, hr, hpart, Part.scratchTainted_clean hclean]

theorem Dev.bankDo_store_tile (hop : Bc.op cmd = 2) {t o : Nat}
    (hw : d.tileWindow p (Bc.addr cmd) (64 * Bc.count cmd) = some (t, o)) :
    d.bankDo c p eng phase serves cmd =
      { d := d.modTile t fun y => { y with sram := y.sram.writeN o ((d.part p).scratchRead eng (Bc.sIn cmd) (64 * Bc.count cmd)) } } := by
  simp [Dev.bankDo, hop, Dev.bankStore, hw]

theorem Dev.bankDo_scan (hop : Bc.op cmd = 3) {i : Index} {range : Nat} (hi : (d.part p).rangeAt eng (Bc.loc cmd) = some (i, range))
    (hprm : scanParamsOk i ((d.part p).scratchRead eng (Bc.sIn cmd) 256) = true) (hclean : (d.part p).scratchBad = []) :
    let prm := (d.part p).scratchRead eng (Bc.sIn cmd) 256
    let bad := (i.scanNodes range (fld prm 200 8)).any (·.sketchPoison)
    d.bankDo c p eng phase serves cmd =
      { d := d.modPart p fun y => y.scratchWrite eng (Bc.sOut cmd) (i.scanBytes range prm) bad, poison := bad } := by
  simp [Dev.bankDo, hop, Dev.bankScan, hi, hprm, Part.scratchTainted_clean hclean]

theorem Dev.bankDo_matvec (hop : Bc.op cmd = 4) {m : MvShape} {b : Bytes} {bad : Bool} (hm : MvShape.ofParam (Bc.p0 cmd) = some m)
    (hb : (d.part p).linesRead eng (Bc.loc cmd) (Bc.count cmd * m.rowBytes / 64) = some (b, bad)) (hclean : (d.part p).scratchBad = []) :
    d.bankDo c p eng phase serves cmd =
      { d := d.modPart p fun y => y.scratchWrite eng (Bc.sOut cmd) ((List.range (Bc.count cmd)).flatMap fun j =>
          le 4 (m.row ((b.drop (j * m.rowBytes)).take m.rowBytes) ((d.part p).scratchRead eng (Bc.sIn cmd) (m.actBytes + 4))).toNat) bad,
        poison := bad } := by
  simp [Dev.bankDo, hop, Dev.bankMatvec, hm, hb, Part.scratchTainted_clean hclean]

/-- Rows that the engine holds, none of them poisoned. -/
theorem Dev.bankDo_rowRead (hop : Bc.op cmd = 5) {t : Table} {o : Nat} (ht : (d.part p).tableAt eng (Bc.loc cmd) = some (t, o))
    (hclean : (d.part p).scratchBad = []) :
    let k := Bc.count cmd
    let b := (d.part p).scratchRead eng (Bc.sIn cmd) (rowReq * k)
    let reqs := (List.range k).map fun i => (fld b (8 * i) 4, fld b (8 * i + 4) 4)
    (∀ r ∈ reqs, r.1 < t.rows ∧ some (r.1 % t.engines) = t.enginePos eng ∧ t.rowPoisoned (d.part p).mem.poison r.1 = false) →
    d.bankDo c p eng phase serves cmd =
      { d := (d.modPart p fun y => y.modTable t.num fun k' => { k' with stats := { k'.stats with
            lookups := satCap 64 (k'.stats.lookups + k),
            rowsRead := satCap 64 (k'.stats.rowsRead + (dedupNat (reqs.map (·.1))).length) } }).modPart p
          fun y => y.scratchWrite eng (Bc.sOut cmd) (reqs.flatMap fun r =>
            (t.part (d.part p).mem.dram r.1 0).flatMap fun v => le 4 (f32mul (BitVec.ofNat 32 r.2) v).toNat) false } := by
  intro k b reqs hreqs
  have hheld : (reqs.any fun r => decide (t.rows ≤ r.1) || some (r.1 % t.engines) != t.enginePos eng) = false := by
    refine List.any_eq_false.2 fun r hr => ?_
    obtain ⟨hrow, hpos, -⟩ := hreqs r hr
    simp [hrow, hpos]
  have hsound : (reqs.any fun r => t.rowPoisoned (d.part p).mem.poison r.1) = false :=
    List.any_eq_false.2 fun r hr => by simp [(hreqs r hr).2.2]
  simp only [Dev.bankDo, hop, Dev.bankRowRead, ht]
  rw [if_neg (by rw [hheld]; decide), hsound, Part.scratchTainted_clean hclean]
  rfl

/-- Updates of a standard partition that belong to no training step are applied at once. -/
theorem Dev.bankDo_rowUpdate (hop : Bc.op cmd = 6) {t : Table} {o : Nat} (ht : (d.part p).tableAt eng (Bc.loc cmd) = some (t, o))
    (hclean : (d.part p).scratchBad = []) (hrepro : (d.part p).cfg.repro = false) :
    let rows := (List.range (Bc.count cmd)).map fun i =>
      let r := (d.part p).scratchRead eng (Bc.sIn cmd + t.updReq * i) t.updReq
      (fld r 0 4, (u32s r 8 t.dim).map (BitVec.ofNat 32))
    Bc.p0 cmd ≤ 2 → (Bc.p0 cmd = 2 → t.opt ≠ 0) → (∀ r ∈ rows, r.1 < t.rows ∧ some (r.1 % t.engines) = t.enginePos eng) →
    d.bankDo c p eng false serves cmd = d.applyRows c p t (Bc.p0 cmd) (BitVec.ofNat 32 (Bc.p1 cmd)) [] rows := by
  intro rows hmode hopt hrows
  have hheld : (rows.any fun r => decide (t.rows ≤ r.1) || some (r.1 % t.engines) != t.enginePos eng) = false := by
    refine List.any_eq_false.2 fun r hr => ?_
    obtain ⟨hrow, hpos⟩ := hrows r hr
    simp [hrow, hpos]
  simp only [Dev.bankDo, hop, Dev.bankRowUpdate, ht]
  rw [if_neg ?takes]
  case takes =>
    rintro (h | ⟨h, h0⟩ | h)
    · exact Nat.not_lt_of_le hmode h
    · exact hopt h h0
    · exact absurd h (by rw [hheld]; decide)
  simp [hrepro, Part.scratchTainted_clean hclean, rows]

theorem Dev.bankDo_fill (hop : Bc.op cmd = 7) :
    d.bankDo c p eng phase serves cmd =
      { d := d.modPart p fun y =>
          (List.range (Bc.count cmd)).foldl (fun (y : Part) i => match y.lineAddr eng (Bc.loc cmd + i) with
            | some a => { y with mem := y.mem.put a (List.replicate 8 (le 4 (Bc.p0 cmd) ++ le 4 (Bc.p1 cmd))).flatten }
            | none => y) y } := by
  simp only [Dev.bankDo, hop]
  rfl

end Opcodes

/-- Settles O48: the engine takes the record; what its opcode leaves marks no request, or the group serves none. -/
theorem bankCommandsComplete : Obligations.BankCommandsComplete := by
  intro s p eng ch cmd g
  dsimp only
  refine ⟨fun op hop h haway => ?waits, fun h haway hw hr => ?load, fun h haway hw hr hpart hclean => ?store,
    fun h haway t o hw => ?storeTile, fun h i range hi hprm hclean => ?scan, fun h m b bad hm hb hclean => ?matvec,
    fun h t o ht hreqs hclean => ?rowRead, fun h t o ht hmode hopt hrows hclean hrepro hentry hserves => ?rowUpdate, fun h => ?fill⟩
  case waits =>
    have htakes := (Dev.takeBank_takes h).trans (congrArg (fun e : Dev => Becomes s (e.modChan ch Channel.turn))
      (Dev.bankStep_waits h haway _))
    rcases hop with rfl | rfl
    · exact htakes
    · exact htakes
  case load => exact Dev.takeBank_unmarked h haway fun _ _ => Dev.bankDo_load (bankTakes_opcode h) hw hr
  case store => exact Dev.takeBank_unmarked h haway fun _ _ => Dev.bankDo_store (bankTakes_opcode h) hw hr hpart hclean
  case storeTile => exact Dev.takeBank_unmarked h haway fun _ _ => Dev.bankDo_store_tile (bankTakes_opcode h) hw
  case scan =>
    refine (congrArg (Becomes s) (if_pos ?names)).trans
      (Dev.takeBank_unmarked h (Dev.bankAway_nil h (by decide)) fun _ _ => Dev.bankDo_scan (bankTakes_opcode h) hi hprm hclean)
    case names => simp [Part.scanNames, hi]
  case matvec =>
    exact Dev.takeBank_unmarked h (Dev.bankAway_nil h (by decide)) fun _ _ => Dev.bankDo_matvec (bankTakes_opcode h) hm hb hclean
  case rowRead =>
    refine (congrArg (Becomes s) (if_pos ⟨?names, rfl⟩)).trans
      (Dev.takeBank_unmarked h (Dev.bankAway_nil h (by decide)) fun _ _ => Dev.bankDo_rowRead (bankTakes_opcode h) ht hclean hreqs)
    case names => simp [Part.tableNamed, ht]
  case rowUpdate =>
    refine (congrArg (Becomes s) (if_pos ⟨?names, rfl, rfl⟩)).trans
      (Dev.takeBank_unserved h (Dev.bankAway_nil h (by decide)) hentry hserves
        (Dev.bankDo_rowUpdate (bankTakes_opcode h) ht hclean hrepro hmode hopt hrows) rfl)
    case names => simp [Part.tableNamed, ht]
  case fill => exact Dev.takeBank_unmarked h (Dev.bankAway_nil h (by decide)) fun _ _ => Dev.bankDo_fill (bankTakes_opcode h)

end Sys2Proof.Machine
end

section
/-! PROOF. Channels and power tokens: how a group arrives and starts, what the end of a group and of a switch leave, and the budgets at the
rebalancing point. -/

namespace Sys2Proof.Machine

open Sys2Proof

/-! ### Lists with one element changed -/

theorem modAt_congr {α : Type} {f g : α → α} {x : α} : ∀ {n : Nat} {l : List α}, n < l.length → f (l.getD n x) = g (l.getD n x) →
    modAt f n l = modAt g n l
  | _, [], h, _ => absurd h (Nat.not_lt_zero _)
  | 0, a :: l, _, h => congrArg (· :: l) h
  | n + 1, a :: l, hn, h => congrArg (a :: ·) (modAt_congr (x := x) (by simpa using hn) (by simpa using h))

/-- What is read of each element of a list changes as the element does. -/
theorem map_modAt {α β : Type} {f : α → α} {g : α → β} {h : β → β} (hc : ∀ a, g (f a) = h (g a)) :
    ∀ (n : Nat) (l : List α), (modAt f n l).map g = modAt h n (l.map g)
  | _, [] => by simp [modAt]
  | 0, a :: l => by simp [modAt, hc]
  | n + 1, a :: l => by simp [modAt, map_modAt hc n l]

theorem map_modAt_keep {α β : Type} {f : α → α} {g : α → β} (hc : ∀ a, g (f a) = g a) (n : Nat) (l : List α) :
    (modAt f n l).map g = l.map g := (map_modAt (h := id) hc n l).trans (modAt_id n _)

/-- A change that is made once for all, made at the places of a list. -/
theorem getD_foldl_modAt {α : Type} {h : α → α} (hidem : ∀ a, h (h a) = h a) (x : α) {k : Nat} :
    ∀ (ks : List Nat) {l : List α}, k < l.length →
      (ks.foldl (fun l j => modAt h j l) l).getD k x = if k ∈ ks then h (l.getD k x) else l.getD k x
  | [], _, _ => by simp
  | j :: ks, l, hl => by
    rw [List.foldl_cons, getD_foldl_modAt hidem x ks (by simpa using hl)]
    by_cases hj : j = k
    · rw [hj, modAt_getD_eq h x hl]
      simp [hidem]
    · rw [modAt_getD_ne h x hj]
      simp [Ne.symm hj]

/-- A list all of whose elements but one give nothing. -/
theorem flatMap_of_single {α β : Type} {f : α → List β} {a : α} : ∀ {l : List α}, l.Nodup → a ∈ l → (∀ b ∈ l, b ≠ a → f b = []) →
    l.flatMap f = f a
  | b :: l, hn, ha, hf => by
    obtain ⟨hb, hn⟩ := List.nodup_cons.1 hn
    rw [List.flatMap_cons]
    by_cases hab : b = a
    · have hrest : l.flatMap f = [] := List.flatMap_eq_nil_iff.2 fun c hc =>
        hf c (List.mem_cons_of_mem b hc) fun hca => hb (hab ▸ hca ▸ hc)
      rw [hrest, List.append_nil, hab]
    · have ha : a ∈ l := by simpa [Ne.symm hab] using ha
      rw [hf b List.mem_cons_self hab, List.nil_append]
      exact flatMap_of_single hn ha fun c hc => hf c (List.mem_cons_of_mem b hc)

/-! ### A group arrives (R211, R213, R217, R221) -/

theorem Channel.waits_none (x : Channel) : x.waits none = x := by
  obtain ⟨_, _, _, oldest, _, _, _, _, _, _⟩ := x
  cases oldest <;> rfl

theorem Dev.modChan_waits_none (d : Dev) (ch : Nat) : (d.modChan ch fun y => y.waits none) = d := by
  simp only [Channel.waits_none, Dev.modChan, modAt_id]

theorem Dev.modChan_modChan (d : Dev) (ch : Nat) (f g : Channel → Channel) :
    (d.modChan ch g).modChan ch f = d.modChan ch fun y => f (g y) := by
  simp only [Dev.modChan, modAt_modAt]

theorem Dev.modChan_congr {d : Dev} {ch : Nat} {f g : Channel → Channel} (hc : ch < d.channels.length) (h : f (d.chan ch) = g (d.chan ch)) :
    d.modChan ch f = d.modChan ch g := congrArg (fun l => ({ d with channels := l } : Dev)) (modAt_congr hc h)

/-- The group that COMMAND_GROUP_START queues for an engine (R221). -/
def Dev.groupFor (d : Dev) (p pos eng : Nat) (cmds : List Bytes) (serves : List ReqRef) : Group :=
  ⟨eng, p, ceilDiv ((d.part p).groupBound (8 * pos + eng) cmds) 32, 0, d.nextOrd, none, cmds, 0, serves⟩

theorem execCommandGroupStart_queues {s : State} {ch p pos eng : Nat} {cmds : List Bytes} {serves : List ReqRef}
    (hown : s.dev.chanOwner ch = some (p, pos)) (heng : eng < 8) (hok : (s.dev.part p).groupOk (8 * pos + eng) cmds = true)
    (hq : (s.dev.chan ch).queue = []) :
    execCommandGroupStart ch eng ⟨cmds, serves⟩ none s = Becomes s
      (((s.dev.queueGroup ch (s.dev.groupFor p pos eng cmds serves)).startGroups s.clock.time ch false).modChan ch Channel.turn) := by
  refine congrArg (Becomes s) ?_
  simp only [hown, Dev.modChan_waits_none]
  rw [if_neg (by simp [hq, heng, hok])]
  rfl

section Start
variable {d : Dev} {ch : Nat} (now : Nat) (b : Bool)

@[simp] theorem Dev.takeToken_channels (stack p : Nat) : (d.takeToken stack p).1.channels = d.channels := by
  unfold Dev.takeToken
  dsimp only
  split <;> rfl

@[simp] theorem Dev.takeToken_parts (stack p : Nat) : (d.takeToken stack p).1.parts = d.parts := by
  unfold Dev.takeToken
  dsimp only
  split <;> rfl

/-- No group starts in a channel outside processor mode. -/
theorem Dev.chan_startGroup_of_mode (h : (d.chan ch).mode ≠ .processor) (k : Nat) (g : Group) :
    (d.startGroup now k b g).chan ch = d.chan ch := by
  unfold Dev.startGroup
  dsimp only
  split
  case isFalse => rfl
  case isTrue hstart =>
    have hk : k ≠ ch := by
      rintro rfl
      simp [Channel.couldStart, h] at hstart
    have htoken : (d.takeToken (k / 16) g.part).1.chan ch = d.chan ch := by rw [Dev.chan, Dev.takeToken_channels, Dev.chan]
    split
    · rw [Dev.chan_modChan_ne _ _ hk, htoken]
    · exact htoken

theorem Dev.chan_startGroups_of_mode (h : (d.chan ch).mode ≠ .processor) (k : Nat) : (d.startGroups now k b).chan ch = d.chan ch := by
  unfold Dev.startGroups
  refine List.foldlRecOn (motive := fun e : Dev => e.chan ch = d.chan ch) _ _ rfl fun e he g _ => ?_
  exact (Dev.chan_startGroup_of_mode now _ (by rwa [he]) _ _).trans he

/-- The only group that waits in the stack is the one that is looked at. -/
theorem Dev.startGroups_of_single {g : Group} (hq : (d.chan ch).queue = [g])
    (hothers : ∀ k, k / 16 = ch / 16 → k ≠ ch → (d.chan k).queue = []) : d.startGroups now ch b = d.startGroup now ch b g := by
  have hmem : ∀ k ∈ stackChans (ch / 16), k / 16 = ch / 16 := by
    intro k hk
    obtain ⟨i, hi, rfl⟩ := List.mem_map.1 hk
    have := List.mem_range.1 hi
    omega
  have hch : ch ∈ stackChans (ch / 16) :=
    List.mem_map.2 ⟨ch % 16, List.mem_range.2 (Nat.mod_lt _ (by decide)), Nat.div_add_mod ch 16⟩
  have hnodup : (stackChans (ch / 16)).Nodup := List.nodup_range.map fun i j hij => by simpa using hij
  have hall : ((stackChans (ch / 16)).flatMap fun k => (d.chan k).queue.map fun g => (k, g)) = [(ch, g)] := by
    rw [flatMap_of_single hnodup hch fun k hk hne => by rw [hothers k (hmem k hk) hne, List.map_nil], hq]
    rfl
  unfold Dev.startGroups
  rw [hall]
  simp [sortBy, sortBy.ins]

end Start

theorem Dev.takeToken_granted (d : Dev) (stack p : Nat) : (d.takeToken stack p).2 = true ↔
    (d.share stack p).held < (d.share stack p).grant ∧ d.heldTokens stack < (d.arb stack).effective := by
  unfold Dev.takeToken
  dsimp only
  split
  case isTrue h => simp [h]
  case isFalse h => simp [h]

@[simp] theorem Dev.startGroup_parts (d : Dev) (now ch : Nat) (b : Bool) (g : Group) : (d.startGroup now ch b g).parts = d.parts := by
  unfold Dev.startGroup
  dsimp only
  split
  · split <;> simp
  · rfl

@[simp] theorem Dev.startGroups_parts (d : Dev) (now ch : Nat) (b : Bool) : (d.startGroups now ch b).parts = d.parts := by
  unfold Dev.startGroups
  refine foldl_keep Dev.parts _ (fun e k => ?_) _ d
  exact e.startGroup_parts now k.1 _ k.2

@[simp] theorem Dev.startGroup_length (d : Dev) (now ch : Nat) (b : Bool) (g : Group) :
    (d.startGroup now ch b g).channels.length = d.channels.length := by
  unfold Dev.startGroup
  dsimp only
  split
  · split <;> simp [Dev.modChan]
  · rfl

@[simp] theorem Dev.startGroups_length (d : Dev) (now ch : Nat) (b : Bool) :
    (d.startGroups now ch b).channels.length = d.channels.length := by
  unfold Dev.startGroups
  refine foldl_keep (fun e : Dev => e.channels.length) _ (fun e k => ?_) _ d
  exact e.startGroup_length now k.1 _ k.2

@[simp] theorem Dev.queueGroup_length (d : Dev) (ch : Nat) (g : Group) : (d.queueGroup ch g).channels.length = d.channels.length := by
  simp [Dev.queueGroup, Dev.modChan]

section Token
variable {d : Dev} {ch : Nat} (now : Nat) (b : Bool) {g : Group} (hc : ch < d.channels.length)
include hc

theorem Dev.chan_startGroup_granted (hstart : (d.chan ch).couldStart now b g = true) (htoken : (d.takeToken (ch / 16) g.part).2 = true) :
    (d.startGroup now ch b g).chan ch = { d.chan ch with
      queue := (d.chan ch).queue.erase g, running := (d.chan ch).running ++ [{ g with start := now }] } := by
  simp only [Dev.startGroup, hstart, htoken, if_true]
  rw [Dev.chan_modChan_self _ _ (by rwa [Dev.takeToken_channels]), Dev.chan, Dev.takeToken_channels]
  rfl

omit hc in
theorem Dev.chan_startGroup_refused (htoken : (d.takeToken (ch / 16) g.part).2 = false) :
    (d.startGroup now ch b g).chan ch = d.chan ch := by
  unfold Dev.startGroup
  dsimp only
  split
  case isTrue => rw [htoken, if_neg Bool.false_ne_true, Dev.chan, Dev.takeToken_channels, Dev.chan]
  case isFalse => rfl

theorem Dev.chan_queueGroup_memory (g : Group) (hm : (d.chan ch).mode = .memory) (ho : (d.chan ch).oldest = none) :
    (d.queueGroup ch g).chan ch = { d.chan ch with queue := (d.chan ch).queue ++ [g], mode := .toProcessor, windowEnd := none } := by
  rw [Dev.queueGroup, Dev.chan_modChan_self _ _ hc]
  simp [Channel.turn, hm, ho]

theorem Dev.chan_queueGroup_processor (g : Group) (hm : (d.chan ch).mode = .processor) (ho : (d.chan ch).oldest = none) :
    (d.queueGroup ch g).chan ch = { d.chan ch with queue := (d.chan ch).queue ++ [g] } := by
  rw [Dev.queueGroup, Dev.chan_modChan_self _ _ hc]
  simp [Channel.turn, hm, ho]

end Token

theorem Channel.turn_of_processor {x : Channel} (hm : x.mode = .processor) (ho : x.oldest = none) : x.turn = x := by
  simp [Channel.turn, hm, ho]

theorem Channel.turn_of_toProcessor {x : Channel} (hm : x.mode = .toProcessor) : x.turn = x := by simp [Channel.turn, hm]

section Arrives
variable {s : State} {ch : Nat} (hch : ch < s.dev.channels.length) (hq : (s.dev.chan ch).queue = [])
  (ho : (s.dev.chan ch).oldest = none) (g : Group)
include hch hq ho

/-- In memory mode the channel turns to processor mode. -/
theorem Dev.arrives_memory (hm : (s.dev.chan ch).mode = .memory) :
    ((((s.dev.queueGroup ch g).startGroups s.clock.time ch false).modChan ch Channel.turn).chan ch) =
      { s.dev.chan ch with queue := [g], mode := .toProcessor, windowEnd := none } := by
  have hqueued := Dev.chan_queueGroup_memory hch g hm ho
  have hstarts : ((s.dev.queueGroup ch g).startGroups s.clock.time ch false).chan ch = (s.dev.queueGroup ch g).chan ch :=
    Dev.chan_startGroups_of_mode _ _ (by simp [hqueued]) ch
  rw [Dev.chan_modChan_self _ _ (by simpa using hch), hstarts, hqueued, Channel.turn_of_toProcessor rfl, hq]
  rfl

/-- In processor mode the group starts when it has its token, and waits otherwise. -/
theorem Dev.arrives_processor (hm : (s.dev.chan ch).mode = .processor) (hlost : (s.dev.chan ch).lost = false)
    (hrun : (s.dev.chan ch).running = []) (hothers : ∀ k, k / 16 = ch / 16 → k ≠ ch → (s.dev.chan k).queue = []) :
    let e := ((s.dev.queueGroup ch g).startGroups s.clock.time ch false).modChan ch Channel.turn
    e.chan ch = if (s.dev.takeToken (ch / 16) g.part).2 then { s.dev.chan ch with running := [{ g with start := s.clock.time }] }
      else { s.dev.chan ch with queue := [g] } := by
  have hqueued : (s.dev.queueGroup ch g).chan ch = { s.dev.chan ch with queue := [g] } := by
    rw [Dev.chan_queueGroup_processor hch g hm ho, hq]
    rfl
  have hsingle := Dev.startGroups_of_single (d := s.dev.queueGroup ch g) (b := false) s.clock.time (by rw [hqueued]) fun k hk hne =>
    (congrArg Channel.queue (Dev.chan_modChan_ne s.dev _ (Ne.symm hne))).trans (hothers k hk hne)
  have hstart : ((s.dev.queueGroup ch g).chan ch).couldStart s.clock.time false g = true := by
    simp [hqueued, Channel.couldStart, Channel.mayStart, hm, ho, hlost, hrun]
  have htoken : ((s.dev.queueGroup ch g).takeToken (ch / 16) g.part).2 = (s.dev.takeToken (ch / 16) g.part).2 :=
    Bool.eq_iff_iff.2 ((Dev.takeToken_granted _ _ _).trans (Dev.takeToken_granted s.dev _ _).symm)
  intro e
  have hlen : ch < ((s.dev.queueGroup ch g).startGroups s.clock.time ch false).channels.length := by simpa using hch
  dsimp only [e]
  rw [Dev.chan_modChan_self _ _ hlen, hsingle]
  split
  case isTrue hgranted =>
    rw [Dev.chan_startGroup_granted _ _ (by simpa using hch) hstart (htoken.trans hgranted), hqueued]
    refine (Channel.turn_of_processor ?mode ?oldest).trans ?started
    case mode => exact hm
    case oldest => exact ho
    case started => simp [hrun, hq]
  case isFalse hrefused =>
    rw [Dev.chan_startGroup_refused _ _ (htoken.trans (Bool.eq_false_iff.2 hrefused)), hqueued]
    exact Channel.turn_of_processor hm ho

end Arrives

/-! ### The end of a group (R213, R215, R217) -/

section GroupEnd
variable {d : Dev} {ch eng : Nat} {g : Group}

theorem Dev.groupOn_of_running (hr : (d.chan ch).running = [g]) (he : g.eng = eng) : d.groupOn ch eng = some g := by
  simp [Dev.groupOn, hr, he]

/-- A group whose commands have all run ends, and other groups may start. -/
theorem Dev.finishGroup_of_ended (c : Clock) (fin : Ends) (hg : d.groupOn ch eng = some g) (hn : g.next = g.cmds.length) :
    d.finishGroup c fin ch eng = ((d.endGroup ch eng).startGroups c.time ch false).modChan ch Channel.turn := by
  simp [Dev.finishGroup, hg, hn, Dev.bankSteps]

theorem Dev.endGroup_of_plain (hg : d.groupOn ch eng = some g) (hentry : g.entry = none) :
    d.endGroup ch eng = (d.modChan ch fun x => { x with running := x.running.erase g }).dropToken (ch / 16) g.part := by
  simp [Dev.endGroup, hg, hentry]

theorem Channel.waits_running (x : Channel) (o : Option Nat) : (x.waits o).running = x.running := rfl

end GroupEnd

theorem execCommandGroupEnd_ended {s : State} {ch eng : Nat} {g : Group} (oldest : Option Nat) (hch : ch < s.dev.channels.length)
    (hr : (s.dev.chan ch).running = [g]) (he : g.eng = eng) (hn : g.next = g.cmds.length) :
    execCommandGroupEnd ch eng oldest s = Becomes s
      (((((s.dev.modChan ch fun y => y.waits oldest).endGroup ch eng).startGroups s.clock.time ch false).modChan ch Channel.turn).invStep
        s.clock g.part) := by
  have hg : (s.dev.modChan ch fun y => y.waits oldest).groupOn ch eng = some g :=
    Dev.groupOn_of_running (by rw [Dev.chan_modChan_self _ _ hch, Channel.waits_running, hr]) he
  refine congrArg (Becomes s) ?_
  simp only [hg, Option.map_some, Dev.finishGroup_of_ended s.clock _ hg hn]

/-! ### The end of a switch and of the memory window (R211, R213, R214) -/

section Switch
variable {s : State} {ch : Nat} (oldest : Option Nat) (hch : ch < s.dev.channels.length)

theorem Dev.chanOwner_congr {d e : Dev} (h : e.parts = d.parts) (ch : Nat) : e.chanOwner ch = d.chanOwner ch := by
  rw [Dev.chanOwner, h, Dev.chanOwner]

@[simp] theorem Dev.switchDone_parts (d : Dev) (now : Nat) : (d.switchDone now ch oldest).parts = d.parts := by
  unfold Dev.switchDone
  dsimp only
  split
  · simp
  · split <;> rfl

/-- A channel of no partition: no tile waits for it. -/
theorem execChannelModeSwitchComplete_free (hown : s.dev.chanOwner ch = none) :
    execChannelModeSwitchComplete ch oldest s = Becomes s ((s.dev.switchDone s.clock.time ch oldest).modChan ch Channel.turn) := by
  refine congrArg (Becomes s) ?_
  dsimp only
  rw [Dev.chanOwner_congr (s.dev.switchDone_parts oldest s.clock.time) ch, hown]

theorem execChannelModeSwitchComplete_owned {p pos : Nat}
    (hown : (s.dev.switchDone s.clock.time ch oldest).chanOwner ch = some (p, pos)) :
    execChannelModeSwitchComplete ch oldest s =
      Becomes s (((s.dev.switchDone s.clock.time ch oldest).invStep s.clock p).modChan ch Channel.turn) := by
  refine congrArg (Becomes s) ?_
  dsimp only
  rw [hown]

theorem Dev.switchDone_processor {d : Dev} (now : Nat) (hm : (d.chan ch).mode = .toProcessor) :
    d.switchDone now ch oldest =
      ((d.modChan ch fun y => ({ y with mode := .processor } : Channel).waits oldest).startGroups now ch true).modChan ch Channel.turn := by
  simp [Dev.switchDone, hm]

/-- With no group queued no window opens, and the channel stays in memory mode. -/
theorem Dev.switchDone_memory {d : Dev} (now : Nat) (hch : ch < d.channels.length) (hm : (d.chan ch).mode = .toMemory)
    (hq : (d.chan ch).queue = []) :
    (d.switchDone now ch oldest).modChan ch Channel.turn = d.modChan ch fun y =>
      { y with mode := .memory, oldest := oldest, closed := false, memSince := now, windowEnd := none } := by
  simp only [Dev.switchDone, hm, hq, List.isEmpty_nil, if_true]
  rw [if_neg (by decide), Dev.modChan_modChan]
  refine Dev.modChan_congr hch ?_
  simp [Channel.turn, hq]

/-- With groups queued the end of the window closes admission and turns the channel to processor mode. -/
theorem execMemoryWindowExpiry_closes {t : Nat} (hch : ch < s.dev.channels.length) (ht : (s.dev.chan ch).windowEnd = some t)
    (hm : (s.dev.chan ch).mode = .memory) (hq : (s.dev.chan ch).queue ≠ []) :
    ∃ d, execMemoryWindowExpiry ch s = BecomesAt s t d ∧
      d.chan ch = { s.dev.chan ch with windowEnd := none, closed := true, oldest := none, mode := .toProcessor } := by
  unfold execMemoryWindowExpiry
  rw [ht]
  refine ⟨_, rfl, ?_⟩
  rw [Dev.chan_modChan_self _ _ hch, if_pos hm]
  simp [Channel.turn, hm, hq]

end Switch

/-! ### The rebalancing point (R217 to R219) -/

/-- Of an arbiter: the budget that was set, the one in force, and its cap. -/
def Arbiter.budget (a : Arbiter) : Nat × Nat × Nat := (a.set, a.effective, a.cap)

/-- The lower of the budget that was set and the cap comes into force, at least 16. -/
def budgetInForce (b : Nat × Nat × Nat) : Nat × Nat × Nat := (b.1, max 16 (min b.1 b.2.2), b.2.2)

theorem budgetInForce_idem (b : Nat × Nat × Nat) : budgetInForce (budgetInForce b) = budgetInForce b := rfl

def Dev.budgets (d : Dev) : List (Nat × Nat × Nat) := d.arbiters.map Arbiter.budget

theorem Dev.budgets_getD (d : Dev) (k : Nat) : d.budgets.getD k Arbiter.reset.budget = (d.arb k).budget := List.getD_map _ _ _

theorem Dev.budgets_newShares (d : Dev) (st : Nat) (f : Arbiter → List TokShare) :
    (d.modArb st fun a => { a with shares := f a }).budgets = d.budgets := map_modAt_keep (by exact fun _ => rfl) st d.arbiters

theorem Dev.takeToken_budgets (d : Dev) (stack p : Nat) : (d.takeToken stack p).1.budgets = d.budgets := by
  unfold Dev.takeToken
  dsimp only
  split <;> exact d.budgets_newShares stack _

theorem Dev.startGroup_budgets (d : Dev) (now ch : Nat) (b : Bool) (g : Group) : (d.startGroup now ch b g).budgets = d.budgets := by
  unfold Dev.startGroup
  dsimp only
  split
  · split <;> exact d.takeToken_budgets _ _
  · rfl

theorem Dev.startGroups_budgets (d : Dev) (now ch : Nat) (b : Bool) : (d.startGroups now ch b).budgets = d.budgets := by
  unfold Dev.startGroups
  refine foldl_keep Dev.budgets _ (fun e k => ?_) _ d
  exact e.startGroup_budgets now k.1 _ k.2

theorem Dev.rebalance_budgets (now : Nat) (d : Dev) (st : Nat) : (Dev.rebalance now d st).budgets = modAt budgetInForce st d.budgets := by
  have hset : (d.modArb st fun a => { a with effective := max 16 (min a.set a.cap) }).budgets = modAt budgetInForce st d.budgets :=
    map_modAt (by exact fun _ => rfl) st d.arbiters
  rw [← hset]
  exact Dev.budgets_newShares _ st _

theorem Dev.rebalance_foldl_budgets (now : Nat) : ∀ (ks : List Nat) (d : Dev),
    (ks.foldl (Dev.rebalance now) d).budgets = ks.foldl (fun l k => modAt budgetInForce k l) d.budgets
  | [], _ => rfl
  | k :: ks, d => by rw [List.foldl_cons, Dev.rebalance_foldl_budgets now ks, Dev.rebalance_budgets, List.foldl_cons]

theorem Dev.rebalanceAll_budgets (d : Dev) (c : Clock) :
    (d.rebalanceAll c).budgets = (List.range 20).foldl (fun l k => modAt budgetInForce k l) d.budgets := by
  refine (foldl_keep Dev.budgets _ (fun e k => e.startGroups_budgets c.time (16 * k) false) _ _).trans ?_
  exact Dev.rebalance_foldl_budgets c.time _ _

/-- A stack has the budget in force that the point gives it. -/
theorem Dev.rebalanceAll_effective {d : Dev} (c : Clock) {k : Nat} (hk : k < 20) (hlen : k < d.arbiters.length) :
    ((d.rebalanceAll c).arb k).effective = max 16 (min (d.arb k).set (d.arb k).cap) := by
  have hpoint := getD_foldl_modAt budgetInForce_idem Arbiter.reset.budget (List.range 20) (l := d.budgets) (k := k)
    (by rwa [Dev.budgets, List.length_map])
  rw [if_pos (List.mem_range.2 hk), Dev.budgets_getD, ← Dev.rebalanceAll_budgets d c, Dev.budgets_getD] at hpoint
  simp only [Arbiter.budget, budgetInForce, Prod.mk.injEq] at hpoint
  exact hpoint.2.1

@[simp] theorem Dev.startGroups_nextPoint (d : Dev) (now ch : Nat) (b : Bool) : (d.startGroups now ch b).nextPoint = d.nextPoint := by
  unfold Dev.startGroups
  refine foldl_keep Dev.nextPoint _ (fun e k => ?_) _ d
  unfold Dev.startGroup Dev.takeToken
  dsimp only
  split
  · split <;> rfl
  · rfl

theorem Dev.rebalance_nextPoint (now : Nat) (d : Dev) (st : Nat) : (Dev.rebalance now d st).nextPoint = d.nextPoint := rfl

theorem Dev.rebalanceAll_nextPoint (d : Dev) (c : Clock) : (d.rebalanceAll c).nextPoint = (c.time / 20000 + 1) * 20000 := by
  unfold Dev.rebalanceAll
  dsimp only
  rw [foldl_keep Dev.nextPoint _ fun e k => e.startGroups_nextPoint c.time (16 * k) false,
    foldl_keep Dev.nextPoint _ (Dev.rebalance_nextPoint c.time)]

/-- Settles O49: a group's arrival by the mode of its channel, the end of a group, of a switch and of the window by their own lemmas, and
the budgets of all stacks through the rebalancing. -/
theorem channelsAndTokens : Obligations.ChannelsAndTokens := by
  intro s ch hch
  dsimp only
  refine ⟨fun p pos eng cmds serves hown heng hok hq => ?arrival, fun eng g oldest hr he hn => ?groupEnd, fun eng g hr he hentry => ?emptied,
    fun hown => ⟨fun hm hq oldest => ?toMemory, fun hm oldest => ?toProcessor⟩, fun p pos oldest hown => ?owned,
    fun t ht hm hq => ?window, ?point⟩
  case arrival =>
    have hstart := execCommandGroupStart_queues (serves := serves) hown heng hok hq
    refine ⟨fun hm ho => ⟨_, hstart, Dev.arrives_memory hch hq ho _ hm⟩, fun hm ho hlost hrun hothers => ?_⟩
    have harrives := Dev.arrives_processor hch hq ho (s.dev.groupFor p pos eng cmds serves) hm hlost hrun hothers
    have hgranted := s.dev.takeToken_granted (ch / 16) (s.dev.groupFor p pos eng cmds serves).part
    refine ⟨fun hheld hbudget => ⟨_, hstart, ?_⟩, fun hnone => ⟨_, hstart, ?_⟩⟩
    · rw [if_pos (hgranted.2 ⟨hheld, hbudget⟩)] at harrives
      exact ⟨by rw [harrives]; rfl, by rw [harrives]; exact hq, by simp [Dev.queueGroup]⟩
    · rw [if_neg fun htoken => hnone.elim (Nat.not_le_of_lt (hgranted.1 htoken).1) (Nat.not_le_of_lt (hgranted.1 htoken).2)] at harrives
      exact ⟨by rw [harrives]; exact hrun, by rw [harrives]; rfl, by simp [Dev.queueGroup]⟩
  case groupEnd => exact execCommandGroupEnd_ended oldest hch hr he hn
  case emptied =>
    rw [Dev.endGroup_of_plain (Dev.groupOn_of_running hr he) hentry]
    refine (congrArg Channel.running (Dev.chan_modChan_self _ _ hch)).trans ?_
    simp [hr]
  case toMemory =>
    exact (execChannelModeSwitchComplete_free oldest hown).trans (congrArg (Becomes s) (Dev.switchDone_memory oldest _ hch hm hq))
  case toProcessor =>
    refine (execChannelModeSwitchComplete_free oldest hown).trans (congrArg (fun e : Dev => Becomes s (e.modChan ch Channel.turn)) ?_)
    exact Dev.switchDone_processor oldest _ hm
  case owned => exact execChannelModeSwitchComplete_owned oldest hown
  case window => exact execMemoryWindowExpiry_closes hch ht hm hq
  case point => exact ⟨_, rfl, Dev.rebalanceAll_nextPoint _ _, fun k hk hlen => Dev.rebalanceAll_effective _ hk hlen⟩

end Sys2Proof.Machine
end

section
/-! PROOF. What work leaves of the hardware: requests that end, tiles and bank engines that run, updates that are applied, pauses and fences
change neither the power nor which channels are lost or have used their spare engine. -/

namespace Sys2Proof.Machine

open Sys2Proof

/-! ### The health of channels (R220, R259) -/

/-- Whether a channel is lost, and whether its spare engine stands in for another. -/
def Channel.health (x : Channel) : Bool × Bool := (x.lost, x.spareUsed)

/-- The power of `e` and the health of its channels are those of `d`. -/
@[simp] abbrev SameHardware (e d : Dev) : Prop := e.power = d.power ∧ e.channels.map Channel.health = d.channels.map Channel.health

theorem SameHardware.refl (d : Dev) : SameHardware d d := ⟨rfl, rfl⟩

theorem SameHardware.trans {a b c : Dev} (h : SameHardware a b) (k : SameHardware b c) : SameHardware a c :=
  ⟨h.1.trans k.1, h.2.trans k.2⟩

@[simp] theorem Channel.turn_lost (x : Channel) : x.turn.lost = x.lost := by
  unfold Channel.turn
  split
  · exact .refl _
  · split <;> rfl

@[simp] theorem Channel.turn_spareUsed (x : Channel) : x.turn.spareUsed = x.spareUsed := by
  unfold Channel.turn
  split
  · exact .refl _
  · split <;> rfl

@[simp] theorem Channel.waits_lost (x : Channel) (o : Option Nat) : (x.waits o).lost = x.lost := rfl
@[simp] theorem Channel.waits_spareUsed (x : Channel) (o : Option Nat) : (x.waits o).spareUsed = x.spareUsed := rfl

@[simp] theorem Dev.modChan_hardware {f : Channel → Channel} (h : ∀ x, (f x).lost = x.lost ∧ (f x).spareUsed = x.spareUsed) (d : Dev)
    (ch : Nat) : SameHardware (d.modChan ch f) d :=
  ⟨rfl, map_modAt_keep (fun x => Prod.ext (h x).1 (h x).2) ch d.channels⟩

@[simp] theorem Dev.modTile_hardware (d : Dev) (t : Nat) (f : Tile → Tile) : SameHardware (d.modTile t f) d := .refl d

/-! ### Updates in turn and under a condition -/

@[simp] theorem Dev.foldl_hardware {α : Type} (f : Dev → α → Dev) (h : ∀ d a, SameHardware (f d a) d) (l : List α) (d : Dev) :
    SameHardware (l.foldl f d) d :=
  ⟨foldl_keep Dev.power f (fun d a => (h d a).1) l d, foldl_keep (fun d : Dev => d.channels.map Channel.health) f (fun d a => (h d a).2) l d⟩

@[simp] theorem Dev.power_ite (p : Prop) [Decidable p] (a b : Dev) : (if p then a else b).power = if p then a.power else b.power :=
  apply_ite Dev.power p a b

@[simp] theorem Dev.health_ite (p : Prop) [Decidable p] (a b : Dev) : (if p then a else b).channels.map Channel.health =
    if p then a.channels.map Channel.health else b.channels.map Channel.health :=
  apply_ite (fun d : Dev => d.channels.map Channel.health) p a b

@[simp] theorem Dev.fst_ite_power {α : Type} (p : Prop) [Decidable p] (a b : Dev × α) :
    (if p then a else b).1.power = if p then a.1.power else b.1.power := apply_ite (fun x : Dev × α => x.1.power) p a b

@[simp] theorem Dev.fst_ite_health {α : Type} (p : Prop) [Decidable p] (a b : Dev × α) : (if p then a else b).1.channels.map Channel.health =
    if p then a.1.channels.map Channel.health else b.1.channels.map Channel.health :=
  apply_ite (fun x : Dev × α => x.1.channels.map Channel.health) p a b

@[simp] theorem BankOut.power_ite (p : Prop) [Decidable p] (a b : BankOut) :
    (if p then a else b).d.power = if p then a.d.power else b.d.power := apply_ite (fun o : BankOut => o.d.power) p a b

@[simp] theorem BankOut.health_ite (p : Prop) [Decidable p] (a b : BankOut) : (if p then a else b).d.channels.map Channel.health =
    if p then a.d.channels.map Channel.health else b.d.channels.map Channel.health :=
  apply_ite (fun o : BankOut => o.d.channels.map Channel.health) p a b

theorem SameHardware.ite {p : Prop} [Decidable p] {a b d : Dev} (ha : SameHardware a d) (hb : SameHardware b d) :
    SameHardware (if p then a else b) d := by
  split
  · exact ha
  · exact hb

/-! ### Completions, events and records (R335, R467, R471) -/

theorem OnlyReports.hardware {d e : Dev} (h : OnlyReports d e) : SameHardware e d := by
  obtain ⟨_, _, _, _, _, _, _, rfl⟩ := h
  exact .refl d

@[simp] theorem Dev.modRing_hardware (d : Dev) (rs : RsId) (f : RingSet → RingSet) : SameHardware (d.modRing rs f) d :=
  (onlyReports_modRing d rs f).hardware

@[simp] theorem Dev.writeHost_hardware (d : Dev) (c : Clock) (rs : RsId) (tie : Tie) (svc addr : Nat) (b : Bytes) :
    SameHardware (d.writeHost c rs tie svc addr b) d := (onlyReports_writeHost d c rs tie svc addr b).hardware

@[simp] theorem Dev.writeSlot_hardware (d : Dev) (c : Clock) (rs : RsId) (e : WaitEntry) : SameHardware (d.writeSlot c rs e) d :=
  (onlyReports_writeSlot d c rs e).hardware

@[simp] theorem Dev.record_hardware (d : Dev) (c : Clock) (code kind idx : Nat) (part : Option Nat) (d0 d1 d2 : Nat) :
    SameHardware (d.record c code kind idx part d0 d1 d2) d := (onlyReports_record d c code kind idx part d0 d1 d2).hardware

@[simp] theorem Dev.stopTiles_hardware (d : Dev) (p : Nat) : SameHardware (d.stopTiles p) d :=
  Dev.foldl_hardware _ (fun d t => d.modTile_hardware t _) _ d

@[simp] theorem Dev.stopInv_hardware (d : Dev) (p : Nat) : SameHardware (d.stopInv p) d := by simp [Dev.stopInv]

@[simp] theorem Dev.leaveInvs_hardware (d : Dev) (r : ReqRef) : SameHardware (d.leaveInvs r) d := by
  unfold Dev.leaveInvs
  split <;> simp

@[simp] theorem Dev.modReq_hardware (d : Dev) (r : ReqRef) (f : Req → Req) : SameHardware (d.modReq r f) d := Dev.modRing_hardware d r.rs _

@[simp] theorem Dev.dropReq_hardware (d : Dev) (r : ReqRef) : SameHardware (d.dropReq r) d := by
  unfold Dev.dropReq
  dsimp only
  split <;> split <;> simp

@[simp] theorem Dev.putEntry_hardware (d : Dev) (c : Clock) (rs : RsId) (e : WaitEntry) : SameHardware (d.putEntry c rs e) d := by
  simp [Dev.putEntry]

@[simp] theorem Dev.finish_hardware (d : Dev) (c : Clock) (r : ReqRef) (e : Ending) : SameHardware (d.finish c r e) d := by
  unfold Dev.finish
  split <;> simp

@[simp] theorem Dev.flushEvents_hardware (c : Clock) (p n : Nat) (d : Dev) : SameHardware (d.flushEvents c p n) d := by
  induction n generalizing d with
  | zero => exact .refl _
  | succ n ih =>
    unfold Dev.flushEvents
    dsimp only
    split <;> simp [ih]

@[simp] theorem Dev.postEvent_hardware (d : Dev) (c : Clock) (p type : Nat) (payload : Bytes) :
    SameHardware (d.postEvent c p type payload) d := by simp [Dev.postEvent]

@[simp] theorem Dev.saturate_hardware (d : Dev) (c : Clock) (p counter n source : Nat) : SameHardware (d.saturate c p counter n source) d := by
  simp [Dev.saturate, Dev.drift]

/-! ### The journal and its pages (R258, R275 to R277) -/

@[simp] theorem Dev.settleBuffer_hardware (d : Dev) (p : Nat) : SameHardware (d.settleBuffer p) d := by simp [Dev.settleBuffer]

@[simp] theorem Dev.structRun_hardware (d : Dev) (c : Clock) (p tag : Nat) (body : Bytes) : SameHardware (d.structRun c p tag body) d := by
  simp [Dev.structRun, Dev.packAppend]

@[simp] theorem Dev.journalAppend_hardware (d : Dev) (c : Clock) (p : Nat) (j : JRec) (src : Nat) :
    SameHardware (d.journalAppend c p j src) d := by simp [Dev.journalAppend, Dev.packAppend]

@[simp] theorem Dev.structAppend_hardware (d : Dev) (c : Clock) (p index handle lists : Nat) :
    SameHardware (d.structAppend c p index handle lists) d := by
  have hstate : SameHardware (d.stateRecords c p) d := by simp [Dev.stateRecords]
  unfold Dev.structAppend
  dsimp only
  split <;> simp [hstate]

@[simp] theorem Dev.cancelUpd_hardware (d : Dev) (c : Clock) (p : Nat) (r : ReqRef) (u : UpdRun) : SameHardware (d.cancelUpd c p r u) d := by
  unfold Dev.cancelUpd
  split <;> simp

/-! ### Requests that end or lose their state (R132, R349, R394) -/

@[simp] theorem Dev.setSearch_hardware (d : Dev) (r : ReqRef) (i : Nat) (f : SearchRun → SearchRun) : SameHardware (d.setSearch r i f) d :=
  Dev.modReq_hardware d r _

@[simp] theorem Dev.dropRows_hardware (d : Dev) (r : ReqRef) (sub : Nat) : SameHardware (d.dropRows r sub) d := by simp [Dev.dropRows]

@[simp] theorem Dev.endSearches_hardware (d : Dev) (c : Clock) (r : ReqRef) (ok : Bool) : SameHardware (d.endSearches c r ok) d := by
  unfold Dev.endSearches
  split
  · exact .refl _
  · split <;> simp [Dev.hostOut]

@[simp] theorem Dev.endServed_hardware (c : Clock) (d : Dev) (r : ReqRef) (sub : Nat) (tile : Bool) (status : Nat) :
    SameHardware (Dev.endServed c d r sub tile status) d := by
  unfold Dev.endServed
  split
  · exact .refl _
  · split <;> simp

@[simp] theorem Dev.loseSearches_hardware (d : Dev) (r : ReqRef) (f : SearchRun → Bool) : SameHardware (d.loseSearches r f) d := by
  unfold Dev.loseSearches
  split
  · exact .refl _
  · split <;> simp

@[simp] theorem Dev.loseState_hardware (d : Dev) (r : ReqRef) : SameHardware (d.loseState r) d := by
  unfold Dev.loseState
  split
  · exact .refl _
  · split <;> simp

/-! ### Tiles (R146 to R148, R170 to R180) -/

@[simp] theorem Dev.failInv_hardware (d : Dev) (c : Clock) (p : Nat) (tile : Bool) (status : Nat) :
    SameHardware (d.failInv (Dev.endServed c) p tile status) d := by
  unfold Dev.failInv
  split <;> simp

@[simp] theorem Dev.tileFault_hardware (d : Dev) (c k : Clock) (p pos site : Nat) (x : TDesc) (code detail : Nat) :
    SameHardware (d.tileFault c (Dev.endServed k) p pos site x code detail) d := by simp [Dev.tileFault]

@[simp] theorem Dev.flagRow_hardware (d : Dev) (f : Nat) (w : InvRow) : SameHardware (d.flagRow f w) d := by simp [Dev.flagRow]

@[simp] theorem Dev.markRows_hardware (d : Dev) (p rows : Nat) (marks : List RowMark) : SameHardware (d.markRows p rows marks) d := by
  unfold Dev.markRows
  split <;> simp

@[simp] theorem Dev.signal_hardware (d : Dev) (sites : List Nat) (token n : Nat) : SameHardware (d.signal sites token n).1 d := by
  unfold Dev.signal
  refine List.foldlRecOn (motive := fun a : Dev × Bool => SameHardware a.1 d) sites _ (.refl d) fun a h t _ => ?_
  exact h

@[simp] theorem Dev.stageRead_hardware (d : Dev) (now p a n : Nat) : SameHardware (d.stageRead now p a n) d := by simp [Dev.stageRead]

/-- An attempt fails, or leaves a device with the hardware of `u`. -/
def LeavesHardware {ε : Type} (u : Dev) (a : Except ε Dev) : Prop := ∀ d, a = .ok d → SameHardware d u

theorem LeavesHardware.ok {ε : Type} {u d : Dev} (h : SameHardware d u) : LeavesHardware (ε := ε) u (.ok d) := by
  rintro _ ⟨⟩
  exact h

theorem LeavesHardware.error {ε : Type} (u : Dev) (e : ε) : LeavesHardware u (.error e) := by
  rintro _ ⟨⟩

theorem LeavesHardware.ite {ε : Type} {u : Dev} {p : Prop} [Decidable p] {a b : Except ε Dev} (ha : LeavesHardware u a)
    (hb : LeavesHardware u b) : LeavesHardware u (if p then a else b) := by
  split
  · exact ha
  · exact hb

/-- Moves one after the other, each of which leaves the hardware or fails. -/
theorem LeavesHardware.foldl {ε α : Type} {u : Dev} {f : Except ε Dev → α → Except ε Dev}
    (hf : ∀ a x, LeavesHardware u a → LeavesHardware u (f a x)) {a : Except ε Dev} (ha : LeavesHardware u a) (l : List α) :
    LeavesHardware u (l.foldl f a) := by
  induction l generalizing a with
  | nil => exact ha
  | cons x l ih => exact ih (hf a x ha)

theorem Dev.xferPut_hardware (d : Dev) (p : Nat) (dst : Option Nat) (a : Nat) (b : Bytes) (add : Bool) :
    LeavesHardware d (d.xferPut p dst a b add) := by
  cases dst with
  | some t => exact .ite (.error _ _) (.ok (.refl d))
  | none => exact .ite (.error _ _) (.ite (.error _ _) (.ok (.refl d)))

theorem Dev.runXfer_hardware (d : Dev) (now p pos site : Nat) (b : Bytes) : LeavesHardware d (d.runXfer now p pos site b) := by
  unfold Dev.runXfer
  extract_lets _ _ _ _ _ _ _ src _ _ read _
  split
  · exact .error _ _
  extract_lets start
  refine .ite (.error _ _) ?_
  split
  · exact .error _ _
  have hstart : SameHardware start d := by
    cases hsrc : src <;> simp [start, hsrc]
  refine .foldl (fun a i ha => ?_) (.ok hstart) _
  cases a with
  | error e => exact .error _ _
  | ok e =>
    refine .ite ha ?_
    cases read i with
    | error e => exact .error _ _
    | ok row =>
      refine .foldl (fun a t ha => ?_) ha _
      cases a with
      | error e => exact .error _ _
      | ok e =>
        dsimp only
        split
        · exact .error _ _
        · next h => exact .ok ((e.xferPut_hardware _ _ _ _ _ _ h).trans (ha e rfl))

@[simp] theorem Dev.descDone_hardware (d : Dev) (c k : Clock) (p pos site : Nat) (x : TDesc) :
    SameHardware (d.descDone c (Dev.endServed k) p pos site x).1 d := by simp [Dev.descDone]

@[simp] theorem Dev.runDesc_hardware (d : Dev) (c k : Clock) (p pos site : Nat) (x : TDesc) :
    SameHardware (d.runDesc c (Dev.endServed k) p pos site x) d := by
  unfold Dev.runDesc
  dsimp only
  split
  case h_1 =>
    split
    · simp
    · next e h => exact (Dev.descDone_hardware _ _ _ _ _ _ _).trans (d.runXfer_hardware _ _ _ _ _ e h)
  case h_2 =>
    split
    · simp
    · refine .ite ?_ (d.descDone_hardware _ _ _ _ _ _)
      have hdone := d.descDone_hardware c k p pos site x
      refine .ite hdone ?_
      split
      · exact hdone
      · exact hdone
  case h_3 => split <;> simp

@[simp] theorem Dev.accessWaits_hardware (d : Dev) (now ch : Nat) : SameHardware (d.accessWaits now ch) d := by
  simp [Dev.accessWaits]

@[simp] theorem Dev.runTiles_hardware (c k : Clock) (p n : Nat) (d : Dev) : SameHardware (Dev.runTiles c (Dev.endServed k) p n d) d := by
  induction n generalizing d with
  | zero => exact .refl _
  | succ n ih =>
    have hwaits (l : List (Nat × Nat)) : SameHardware (l.foldl (fun d s => d.modTile s.2 fun t => t.serveWaits.serveWaits) d) d :=
      Dev.foldl_hardware _ (fun d s => d.modTile_hardware s.2 _) l d
    unfold Dev.runTiles
    dsimp only
    split <;> simp [ih, hwaits]

@[simp] theorem Dev.dispatchAll_hardware (t n : Nat) (d : Dev) : SameHardware (d.dispatchAll t n) d := by
  induction n generalizing d with
  | zero => exact .refl _
  | succ n ih =>
    refine (ih _).trans ?_
    unfold Dev.dispatch
    dsimp only
    split <;> simp

/-! ### Command groups on bank engines (R212 to R224) -/

@[simp] theorem Dev.dropToken_hardware (d : Dev) (stack p : Nat) : SameHardware (d.dropToken stack p) d := .refl d

@[simp] theorem Dev.takeToken_hardware (d : Dev) (stack p : Nat) : SameHardware (d.takeToken stack p).1 d := by
  simp [Dev.takeToken, Dev.setShare]

@[simp] theorem Dev.startGroups_hardware (d : Dev) (now ch : Nat) (afterSwitch : Bool) : SameHardware (d.startGroups now ch afterSwitch) d := by
  simp [Dev.startGroups, Dev.startGroup]

@[simp] theorem Dev.switchDone_hardware (d : Dev) (now ch : Nat) (oldest : Option Nat) : SameHardware (d.switchDone now ch oldest) d := by
  simp [Dev.switchDone]

@[simp] theorem Dev.endGroup_hardware (d : Dev) (ch eng : Nat) : SameHardware (d.endGroup ch eng) d := by
  unfold Dev.endGroup
  split
  · exact .refl _
  · dsimp only
    split <;> simp [Dev.phaseDone]

@[simp] theorem Dev.rowsBack_hardware (d : Dev) (c : Clock) (p : Nat) (t : Table) (mem : Memory) (poison written : List Nat) (sat : Nat)
    (stats : TabStats → TabStats) : SameHardware (d.rowsBack c p t mem poison written sat stats) d := by
  simp [Dev.rowsBack, Dev.backRecord]

@[simp] theorem Dev.bankDo_hardware (d : Dev) (c : Clock) (p eng : Nat) (phase : Bool) (serves : List ReqRef) (b : Bytes) :
    SameHardware (d.bankDo c p eng phase serves b).d d := by
  unfold Dev.bankDo Dev.bankLoad Dev.bankStore Dev.bankScan Dev.bankMatvec Dev.bankRowRead Dev.bankRowUpdate Dev.bankFill
  dsimp only
  split
  case h_4 =>
    split
    · exact .refl _
    · split <;> simp
  case h_7 => exact .refl _
  all_goals split <;> simp [Dev.applyRows]

@[simp] theorem Dev.bankPoison_hardware (d : Dev) (c : Clock) (ch : Nat) (g : Group) :
    SameHardware (d.bankPoison (Dev.endServed c) ch g) d := by simp [Dev.bankPoison]

@[simp] theorem Dev.markDropped_hardware (d : Dev) (c : Clock) (r : ReqRef × Nat) : SameHardware (d.markDropped (Dev.endServed c) r) d := by
  unfold Dev.markDropped
  split <;> simp

@[simp] theorem Dev.bankStep_hardware (d : Dev) (c k : Clock) (ch eng : Nat) : SameHardware (d.bankStep c (Dev.endServed k) ch eng) d := by
  unfold Dev.bankStep
  split
  · split
    · exact .refl _
    · simp
  · exact .refl _

@[simp] theorem Dev.bankSteps_hardware (c k : Clock) (ch eng n : Nat) (d : Dev) :
    SameHardware (d.bankSteps c (Dev.endServed k) ch eng n) d := by
  induction n generalizing d with
  | zero => exact .refl _
  | succ n ih => exact (ih _).trans (d.bankStep_hardware c k ch eng)

@[simp] theorem Dev.finishGroup_hardware (d : Dev) (c k : Clock) (ch eng : Nat) :
    SameHardware (d.finishGroup c (Dev.endServed k) ch eng) d := by
  unfold Dev.finishGroup
  split <;> simp

/-! ### Invocations (R146, R187, R191) -/

@[simp] theorem Dev.startEntry_hardware (d : Dev) (p entry : Nat) : SameHardware (d.startEntry p entry) d := by
  unfold Dev.startEntry
  dsimp only
  split
  · exact .refl _
  · split
    · exact .refl _
    · split
      · exact .refl _
      · refine (Dev.foldl_hardware _ (fun d k => ?_) _ _).trans (SameHardware.refl d)
        split
        · exact .refl _
        · split
          · exact .refl _
          · exact Dev.modChan_hardware (fun _ => by simp) d _

@[simp] theorem Dev.startTile_hardware (d : Dev) (p pos : Nat) : SameHardware (d.startTile p pos) d := by
  unfold Dev.startTile
  dsimp only
  split <;> simp

@[simp] theorem Dev.invDone_hardware (d : Dev) (c : Clock) (p : Nat) : SameHardware (d.invDone (Dev.endServed c) p) d := by
  unfold Dev.invDone
  dsimp only
  split <;> simp

@[simp] theorem Dev.driveChan_hardware (d : Dev) (c k : Clock) (p ch : Nat) : SameHardware (d.driveChan c (Dev.endServed k) p ch) d := by
  simp [Dev.driveChan]

@[simp] theorem Dev.driveOnce_hardware (d : Dev) (c k : Clock) (p : Nat) : SameHardware (d.driveOnce c (Dev.endServed k) p) d := by
  unfold Dev.driveOnce
  dsimp only
  split <;> simp

@[simp] theorem Dev.runRows_hardware (d : Dev) (c k : Clock) (r : ReqRef) (sub : Nat) :
    SameHardware (d.runRows c (Dev.endServed k) r sub) d := by
  have hserve : ∀ (n : Nat) (d : Dev), SameHardware (d.serveRows c (Dev.endServed k) r sub n) d := by
    intro n
    induction n with
    | zero => exact .refl
    | succ n ih => intro d; simp [Dev.serveRows, ih]
  exact hserve _ d

/-! ### Updates applied after their request has gone (R120, R136) -/

@[simp] theorem Dev.vectorRecord_hardware (d : Dev) (c : Clock) (r : ReqRef) (epoch : Nat) (u : UpdRun) (v : List F32) (version : Nat) :
    SameHardware (d.vectorRecord c r epoch u v version).1 d := by
  unfold Dev.vectorRecord
  dsimp only
  split <;> simp [Dev.setUpd, Dev.acceptVector]

@[simp] theorem Dev.encodeUpd_hardware (d : Dev) (c : Clock) (r : ReqRef) (epoch : Nat) (u : UpdRun) (run : Bool) :
    SameHardware (d.encodeUpd c r epoch u run).1 d := by
  have htake (d : Dev) : SameHardware (d.takeEncoded c r epoch u).1 d := by
    unfold Dev.takeEncoded
    dsimp only
    split <;> simp
  simp [Dev.encodeUpd, htake]

@[simp] theorem Dev.encodeGone_hardware (d : Dev) (c : Clock) (j : JRec) : SameHardware (d.encodeGone c j).1 d := by simp [Dev.encodeGone]

@[simp] theorem Dev.placeUpd_hardware (d : Dev) (c : Clock) (r : ReqRef) (u : UpdRun) : SameHardware (d.placeUpd c r u).1 d := by
  simp [Dev.placeUpd]

@[simp] theorem Dev.applyOne_hardware (d : Dev) (c : Clock) (p : Nat) (j : JRec) : SameHardware (d.applyOne c p j) d := by
  simp [Dev.applyOne]

@[simp] theorem Dev.applyAborted_hardware (d : Dev) (c : Clock) (p : Nat) : SameHardware (d.applyAborted c p) d := by
  simp [Dev.applyAborted]

/-! ### Pauses, the fence and ports (R391 to R394, R420, R466) -/

@[simp] theorem Dev.pauseStart_hardware (d : Dev) (c : Clock) (p cause : Nat) (counted : Bool) :
    SameHardware (d.pauseStart c p cause counted) d := .refl d

@[simp] theorem Dev.pauseEnd_hardware (d : Dev) (c : Clock) (p cause : Nat) : SameHardware (d.pauseEnd c p cause) d := by
  unfold Dev.pauseEnd
  split <;> simp

@[simp] theorem Dev.shortPause_hardware (d : Dev) (c : Clock) (p cause : Nat) : SameHardware (d.shortPause c p cause) d := by
  simp [Dev.shortPause, Dev.pauseNow]

@[simp] theorem Dev.dropGroups_hardware (d : Dev) (p : Nat) : SameHardware (d.dropGroups p) d := by simp [Dev.dropGroups]

@[simp] theorem Dev.fenceWork_hardware (d : Dev) (c : Clock) (p : Nat) (suspend : Bool) : SameHardware (d.fenceWork c p suspend) d := by
  simp [Dev.fenceWork, Dev.cutSilent, Dev.silence]

@[simp] theorem Dev.fencePart_hardware (d : Dev) (c : Clock) (p cause : Nat) : SameHardware (d.fencePart c p cause) d := by
  unfold Dev.fencePart
  dsimp only
  split <;> simp [Dev.modLife, Dev.setStarted]

/-! ### What a failure is declared for, and what is told of it (R388 to R390, R457, R469) -/

@[simp] theorem Dev.tagStops_hardware (d : Dev) (c : Clock) (kind index : Nat) : SameHardware (d.tagStops c kind index) d := by
  unfold Dev.tagStops
  dsimp only
  split <;> simp

@[simp] theorem Dev.declared_hardware (d : Dev) (c : Clock) (k i : Nat) (causes : List Nat) : SameHardware (d.declared c k i causes).1 d := by
  simp [Dev.declared, Dev.tagFailure]
end Sys2Proof.Machine
end

section
/-! PROOF. The host ports' pins, temperature, power limits and the floor: what a Function Level Reset leaves of the hardware, and what each
of these events does to the power. -/

namespace Sys2Proof.Machine

open Sys2Proof

/-! ### A Function Level Reset (R333, R398, R401) -/

@[simp] theorem Dev.opEnd_hardware (d : Dev) (c : Clock) (p : Nat) (o : LongOp) (e : Ending) : SameHardware (d.opEnd c p o e) d := by
  unfold Dev.opEnd
  dsimp only
  split <;> simp

@[simp] theorem Dev.endOps_hardware (d : Dev) (c : Clock) (p : Nat) : SameHardware (d.endOps c p) d := by
  simp [Dev.endOps, Dev.cancelOps, Dev.opCancel]

@[simp] theorem Dev.startDrain_hardware (d : Dev) (c : Clock) (rs : RsId) (cause : Nat) : SameHardware (d.startDrain c rs cause) d := by
  simp [Dev.startDrain]

@[simp] theorem Dev.settlePart_hardware (d : Dev) (c : Clock) (p : Nat) : SameHardware (d.settlePart c p) d := by
  simp [Dev.settlePart, Dev.setStarted, Dev.modLife]

@[simp] theorem Dev.flr_hardware (d : Dev) (c : Clock) (p : Nat) : SameHardware (d.flr c p) d := by
  unfold Dev.flr
  dsimp only
  split
  case h_1 => exact .refl d
  case h_2 => exact .refl d
  case h_3 => simp [Dev.drainAll, Dev.modLife]
  case h_4 => split <;> exact .refl d
  case h_5 => split <;> exact .refl d

/-! ### The pins of a host port (R516, R518) -/

/-- Of the power, a host port that goes down changes its link alone. -/
@[simp] theorem Dev.hostDown_power (d : Dev) (c : Clock) (port : Nat) :
    (d.hostDown c port).power = { d.power with hostLink := modAt (fun _ => false) port d.power.hostLink } := by
  simp [Dev.hostDown, Dev.modPower]

section HostPort
variable {s : State} {port : Nat} (hport : port < 2)
include hport

theorem execPerstNAssert_linkDown (hlink : port < s.dev.power.hostLink.length) (hpin : port < s.dev.power.perst.length) :
    ∃ d, execPerstNAssert port s = Becomes s d ∧ d.power.hostLink.getD port true = false ∧ d.power.perst.getD port false = true := by
  refine ⟨_, rfl, ?_⟩
  dsimp only
  rw [if_neg (Nat.not_le_of_lt hport), Dev.hostDown_power]
  exact ⟨modAt_getD_eq _ _ hlink, modAt_getD_eq _ _ hpin⟩

theorem execPerstNRelease_trains (hpin : port < s.dev.power.perst.length) (hserves : s.dev.units.isRetired 13 (23 + port) = false)
    (hup : s.dev.power.mode = .up) :
    execPerstNRelease port s = Becomes s { s.dev with power := { s.dev.power with
      perst := modAt (fun _ => false) port s.dev.power.perst, hostLink := modAt (fun _ => true) port s.dev.power.hostLink } } := by
  refine congrArg (Becomes s) ?_
  dsimp only
  rw [if_neg (Nat.not_le_of_lt hport), Dev.hostTrain, if_neg]
  case hnc => simp [Dev.hostServes, Dev.modPower, hserves, hup, -List.getD_eq_getElem?_getD, modAt_getD_eq (fun _ => false) true hpin]
  rfl

/-- A port that is held in reset does not train again when it loses its clock. -/
theorem execRefclkLoss_linkDown (hlink : port < s.dev.power.hostLink.length) (hheld : s.dev.power.perst.getD port true = true) :
    ∃ d, execRefclkLoss port s = Becomes s d ∧ d.power.hostLink.getD port true = false ∧
      d.power.refclk = modAt (fun _ => false) port s.dev.power.refclk ∧ d.power.sris = modAt (fun _ => true) port s.dev.power.sris := by
  refine ⟨_, rfl, ?_⟩
  dsimp only
  rw [if_neg (Nat.not_le_of_lt hport), Dev.hostTrain, if_pos, Dev.hostDown_power]
  case hc => exact .inl (by simp only [Dev.hostServes, Dev.hostDown_power, Dev.modPower, hheld]; simp)
  exact ⟨modAt_getD_eq _ _ hlink, rfl, rfl⟩

end HostPort

/-! ### Temperature and power (R218, R522 to R524) -/

theorem State.onBoth_becomes {s : State} {f : Clock → Dev → Clock × Dev} {d : Dev} (h : f s.clock s.dev = (s.clock, d)) :
    s.onBoth f = Becomes s d := by
  rw [State.onBoth_eq, h]
  rfl

/-- An element of a list stands at some place of it. -/
theorem exists_mem_indexed {α : Type} {l : List α} {a : α} (h : a ∈ l) : ∃ i, (i, a) ∈ indexed l := by
  obtain ⟨i, hi, rfl⟩ := List.mem_iff_getElem.1 h
  exact ⟨i, List.mem_iff_getElem.2 ⟨i, by simpa [indexed] using hi, by simp [indexed]⟩⟩

theorem thermalOff_shutdown (c : Clock) (d : Dev) : (thermalOff c d).2.power.mode = .shutdown ∧ (thermalOff c d).2.thermN = false := by
  have hmode : (thermalOff c d).2.power.mode = .shutdown := rfl
  exact ⟨hmode, by simp [Dev.thermN, hmode]⟩

theorem Dev.running_of_up {d : Dev} (h : d.power.mode = .up) : d.running = true := by simp [Dev.running, h]

@[simp] theorem Dev.tellSensor_power (d : Dev) (id val : Nat) : (d.tellSensor id val).power = d.power := by
  unfold Dev.tellSensor
  split <;> rfl

@[simp] theorem Dev.tellSensor_arbiters (d : Dev) (id val : Nat) : (d.tellSensor id val).arbiters = d.arbiters := by
  unfold Dev.tellSensor
  split <;> rfl

@[simp] theorem Dev.record_arbiters (d : Dev) (c : Clock) (code kind idx : Nat) (part : Option Nat) (d0 d1 d2 : Nat) :
    (d.record c code kind idx part d0 d1 d2).arbiters = d.arbiters := by
  obtain ⟨_, _, _, _, _, _, _, h⟩ := onlyReports_record d c code kind idx part d0 d1 d2
  rw [h]

@[simp] theorem Dev.applySteps_power (d : Dev) (c : Clock) (before : Nat) : (d.applySteps c before).power = d.power := by
  unfold Dev.applySteps
  dsimp only
  split <;> simp

theorem Dev.applySteps_cap {d : Dev} {c : Clock} {before : Nat} {a : Arbiter} (h : a ∈ (d.applySteps c before).arbiters) :
    a.cap = min (stepCap d.power.step) d.power.powerCap := by
  have hall : (d.applySteps c before).arbiters =
      d.arbiters.map fun a => { a with cap := min (stepCap d.power.step) d.power.powerCap } := by
    unfold Dev.applySteps
    dsimp only
    split <;> simp
  obtain ⟨k, -, rfl⟩ := List.mem_map.1 (hall ▸ h)
  rfl

/-- A module that no reset holds stays off until its next reset. -/
theorem execThermalShutdownExit_leaves {s : State} (hmode : s.dev.power.mode = .shutdown) (hheld : s.dev.power.heldReset = false) :
    execThermalShutdownExit s = Becomes s { s.dev with power := { s.dev.power with temp := min s.dev.power.temp 849 } } := by
  refine State.onBoth_becomes ?_
  dsimp only
  rw [if_neg (by simp [hmode]), if_neg (by simp [Dev.modPower, hheld])]
  rfl

section Throttling
variable {s : State} (hup : s.dev.power.mode = .up)
include hup

theorem execThermalSample_shutsDown {temp : Int} (h : 1050 ≤ temp) :
    ∃ c d, execThermalSample temp s = .next { s with clock := c, dev := d } ∧ d.power.mode = .shutdown ∧ d.thermN = false := by
  refine ⟨_, _, rfl, ?_⟩
  have hrun : (s.dev.modPower fun x => { x with temp := temp }).running = true := Dev.running_of_up hup
  dsimp only
  rw [hrun, Bool.not_true, if_neg Bool.false_ne_true, if_pos ⟨h, by simp [Dev.modPower, hup]⟩]
  exact thermalOff_shutdown _ _

/-- Below the limit the step is at least the one whose entry threshold the sample reaches. -/
theorem execThermalSample_steps {temp : Int} (h : temp < 1050) :
    ∃ d, execThermalSample temp s = Becomes s d ∧ d.power.temp = temp ∧
      (1020 ≤ temp → 3 ≤ d.power.thermalStep) ∧ (980 ≤ temp → 2 ≤ d.power.thermalStep) ∧ (940 ≤ temp → 1 ≤ d.power.thermalStep) := by
  have hrun : (s.dev.modPower fun x => { x with temp := temp }).running = true := Dev.running_of_up hup
  refine Exists.intro ?d (And.intro (State.onBoth_becomes (d := ?d) ?sample) ?steps)
  case sample =>
    dsimp only
    rw [hrun, Bool.not_true, if_neg Bool.false_ne_true, if_neg fun hlimit => not_le_of_gt h hlimit.1]
  case steps =>
    rw [Dev.applySteps_power]
    refine ⟨rfl, fun ht => le_max_of_le_left ?_, fun ht => le_max_of_le_left ?_, fun ht => le_max_of_le_left ?_⟩
    all_goals split_ifs <;> omega

theorem execThermalShutdown_shutsDown :
    ∃ c d, execThermalShutdown s = .next { s with clock := c, dev := d } ∧ d.power.mode = .shutdown := by
  refine ⟨_, _, rfl, ?_⟩
  dsimp only
  rw [Dev.running_of_up hup, if_pos (by simp [hup])]
  exact (thermalOff_shutdown _ _).1

/-- Budgets above the lowest are lowered to it at once (log 44). -/
theorem execPowerLimited_lowers (h : ∃ a ∈ s.dev.arbiters, 16 < a.effective) :
    ∃ d, execPowerLimited s = Becomes s d ∧ d.power.powerCap = 16 ∧ ∀ a ∈ d.arbiters, a.cap ≤ 16 := by
  obtain ⟨a, ha, hhigh⟩ := h
  obtain ⟨i, hi⟩ := exists_mem_indexed ha
  have hsome : ((indexed s.dev.arbiters).filter fun e => decide (16 < e.2.effective)) ≠ [] :=
    List.ne_nil_of_mem (List.mem_filter.2 ⟨hi, decide_eq_true hhigh⟩)
  refine ⟨_, rfl, ?_⟩
  dsimp only
  rw [Dev.running_of_up hup, Bool.not_true, if_neg Bool.false_ne_true, if_pos (by simp [hsome]), Dev.applySteps_power]
  refine ⟨by rw [Dev.record_power]; rfl, fun a ha => ?_⟩
  rw [Dev.applySteps_cap ha, Dev.record_power]
  exact min_le_right _ _

end Throttling

/-- Settles O57: each event by its own lemma. -/
theorem pinsAndThrottling : Obligations.PinsAndThrottling := by
  intro s
  dsimp only
  refine ⟨fun port hport hlink hpin => ⟨?assert, fun hserves hup => ?release, fun hheld => ?clock⟩,
    fun temp hup => ⟨fun h => ?hot, fun h => ?sample⟩, fun hup => ?shutdown, fun hup h => ?limited, fun hmode hheld => ?exits, fun b => rfl, rfl⟩
  case assert => exact execPerstNAssert_linkDown hport hlink hpin
  case release => exact execPerstNRelease_trains hport hpin hserves hup
  case clock => exact execRefclkLoss_linkDown hport hlink hheld
  case hot => exact execThermalSample_shutsDown hup h
  case sample => exact execThermalSample_steps hup h
  case shutdown => exact execThermalShutdown_shutsDown hup
  case limited => exact execPowerLimited_lowers hup h
  case exits => exact execThermalShutdownExit_leaves hmode hheld

end Sys2Proof.Machine
end

section
/-! PROOF. Memory that is lost: which channels a lost stack, channel or bank engine takes out of use, and what the loads and scans
that follow leave. -/

namespace Sys2Proof.Machine

open Sys2Proof

/-! ### Units and channels in service (R220, R457, R461) -/

/-- `e` has the units of `d`, and the same channels lost or on their spare engine. -/
@[simp] abbrev SameService (e d : Dev) : Prop := e.units = d.units ∧ e.channels.map Channel.health = d.channels.map Channel.health

theorem SameService.refl (d : Dev) : SameService d d := ⟨rfl, rfl⟩

@[simp] theorem Dev.foldl_service {α : Type} (f : Dev → α → Dev) (h : ∀ d a, SameService (f d a) d) (l : List α) (d : Dev) :
    SameService (l.foldl f d) d :=
  ⟨foldl_keep Dev.units f (fun d a => (h d a).1) l d, foldl_keep (fun d : Dev => d.channels.map Channel.health) f (fun d a => (h d a).2) l d⟩

theorem Channel.health_fst (x : Channel) : x.health.1 = x.lost := rfl

/-- A channel's health, from that of all of them. -/
theorem Dev.health_eq (d : Dev) (ch : Nat) : (d.chan ch).health = (d.channels.map Channel.health).getD ch Channel.reset.health :=
  (List.getD_map _ _ _).symm

theorem SameService.chan_health {e d : Dev} (h : SameService e d) (ch : Nat) : (e.chan ch).health = (d.chan ch).health := by
  rw [e.health_eq, h.2, d.health_eq]

@[simp] theorem Dev.tellSpares_channels (d old : Dev) : (d.tellSpares old).channels = d.channels := by
  have htell (d : Dev) (id val : Nat) : (d.tellSensor id val).channels = d.channels := by
    unfold Dev.tellSensor
    split <;> rfl
  simp only [Dev.tellSpares]
  split
  · exact foldl_keep Dev.channels _ (fun d k => by split <;> simp [htell]) _ d
  · rw [htell]
    exact foldl_keep Dev.channels _ (fun d k => by split <;> simp [htell]) _ d

/-! ### What a loss brings about beside the channels (R257 to R263) -/

@[simp] theorem Dev.fillModule_service (d : Dev) (ch : Nat) : SameService (d.fillModule ch) d := by
  unfold Dev.fillModule
  dsimp only
  split <;> exact .refl d

@[simp] theorem Dev.fillPosition_service (d : Dev) (p ch : Nat) : SameService (d.fillPosition p ch) d := by
  unfold Dev.fillPosition
  dsimp only
  split <;> simp [Dev.modLife]

@[simp] theorem Dev.rematPart_service (d : Dev) (c : Clock) (p stack : Nat) (chans lost : List Nat) (channel : Option Nat) :
    SameService (d.rematPart c p stack chans lost channel) d := by
  simp [Dev.rematPart, Dev.startRemat]

theorem Dev.loseChannels_service (d : Dev) (c : Clock) (stack : Nat) (chs : List Nat) (cause : Nat) (channel : Option Nat) :
    SameService (d.loseChannels c stack chs cause channel) (chs.foldl Dev.retireChannel d) := by
  unfold Dev.loseChannels
  dsimp only
  cases channel <;> simp

/-! ### Channels that are retired (R259, R461) -/

theorem Units.isRetired_retire_of {u : Units} {k i : Nat} (h : u.isRetired k i = true) (j m : Nat) : (u.retire j m).isRetired k i = true := by
  unfold Units.retire
  split
  · exact h
  · simp only [Units.isRetired, List.contains_cons, Bool.or_eq_true]
    exact .inr h

theorem Dev.retireChannel_units (d : Dev) (ch : Nat) : (d.retireChannel ch).units =
    (List.range 8).foldl (fun (u : Units) g => u.retire 7 (8 * ch + g)) (d.units.retire 6 ch) := by
  simp only [Dev.retireChannel, Dev.modChan_units]

theorem Dev.retireChannel_isRetired {d : Dev} {k i : Nat} (h : d.units.isRetired k i = true) (ch : Nat) :
    (d.retireChannel ch).units.isRetired k i = true := by
  rw [Dev.retireChannel_units]
  refine List.foldlRecOn (motive := fun u : Units => u.isRetired k i = true) (List.range 8) _ (Units.isRetired_retire_of h 6 ch) ?_
  exact fun _ hu g _ => Units.isRetired_retire_of hu 7 (8 * ch + g)

/-- The health of a channel that is retired. -/
def retiredHealth (h : Bool × Bool) : Bool × Bool := (true, h.2)

theorem Dev.retireChannel_health (d : Dev) (ch : Nat) :
    (d.retireChannel ch).channels.map Channel.health = modAt retiredHealth ch (d.channels.map Channel.health) := by
  have htokens := (Dev.foldl_hardware (fun (d : Dev) (g : Group) => d.dropToken (ch / 16) g.part) (fun d g => d.dropToken_hardware _ _)
    (d.chan ch).running d).2
  rw [← htokens]
  simp only [Dev.retireChannel, Dev.modChan]
  exact map_modAt (h := retiredHealth) (by exact fun _ => rfl) ch _

theorem Dev.loseChannels_isRetired {d : Dev} {k i : Nat} (h : d.units.isRetired k i = true) (c : Clock) (stack : Nat) (chs : List Nat)
    (cause : Nat) (channel : Option Nat) : (d.loseChannels c stack chs cause channel).units.isRetired k i = true := by
  rw [(d.loseChannels_service c stack chs cause channel).1]
  exact List.foldlRecOn (motive := fun e : Dev => e.units.isRetired k i = true) _ _ h fun _ he ch _ => Dev.retireChannel_isRetired he ch

theorem Dev.loseChannels_health (d : Dev) (c : Clock) (stack : Nat) (chs : List Nat) (cause : Nat) (channel : Option Nat) :
    (d.loseChannels c stack chs cause channel).channels.map Channel.health =
      chs.foldl (fun l ch => modAt retiredHealth ch l) (d.channels.map Channel.health) := by
  rw [(d.loseChannels_service c stack chs cause channel).2]
  exact (List.foldl_hom (fun e : Dev => e.channels.map Channel.health) fun e ch => (e.retireChannel_health ch).symm).symm

@[simp] theorem Dev.loseChannels_length (d : Dev) (c : Clock) (stack : Nat) (chs : List Nat) (cause : Nat) (channel : Option Nat) :
    (d.loseChannels c stack chs cause channel).channels.length = d.channels.length := by
  have hlen := congrArg List.length (d.loseChannels_health c stack chs cause channel)
  rw [foldl_keep List.length _ (fun l ch => modAt_length retiredHealth ch l)] at hlen
  simpa using hlen

/-- The channels that a loss takes are lost after it, and those that were lost before. -/
theorem Dev.loseChannels_lost {d : Dev} {ch : Nat} (hch : ch < d.channels.length) (c : Clock) (stack : Nat) {chs : List Nat} (cause : Nat)
    (channel : Option Nat) (h : ch ∈ chs ∨ (d.chan ch).lost = true) : ((d.loseChannels c stack chs cause channel).chan ch).lost = true := by
  have hhealth : ((d.loseChannels c stack chs cause channel).chan ch).health =
      if ch ∈ chs then retiredHealth (d.chan ch).health else (d.chan ch).health := by
    rw [Dev.health_eq, Dev.loseChannels_health, getD_foldl_modAt (h := retiredHealth) (fun _ => rfl) _ chs (by simpa using hch), ← d.health_eq]
  rw [← Channel.health_fst, hhealth]
  split
  case isTrue => rfl
  case isFalse hout => exact h.resolve_left hout

/-! ### A stack and a channel that are lost (R259, R457) -/

theorem Dev.loseStack_lost {d : Dev} {ch : Nat} (hch : ch < d.channels.length) (c : Clock) (st cause : Nat) (h : (d.chan ch).lost = true) :
    ((d.loseStack c st cause).chan ch).lost = true := by
  unfold Dev.loseStack
  split
  · exact h
  · exact Dev.loseChannels_lost (by exact hch) c st cause none (.inr h)

theorem Dev.loseStack_takes {d : Dev} (hlen : d.channels.length = 320) {st : Nat} (hst : st < 20) (h : d.units.isRetired 5 st = false)
    (c : Clock) (cause : Nat) : (d.loseStack c st cause).units.isRetired 5 st = true ∧
      ∀ m, m < 16 → ((d.loseStack c st cause).chan (16 * st + m)).lost = true := by
  unfold Dev.loseStack
  rw [if_neg (by simp [h, hst])]
  refine ⟨Dev.loseChannels_isRetired (by simp [Units.isRetired]) c st _ cause none, fun m hm => ?_⟩
  refine Dev.loseChannels_lost (by simp only [hlen]; omega) c st cause none ?_
  by_cases hlost : (d.chan (16 * st + m)).lost = true
  · exact .inr hlost
  · exact .inl (List.mem_filter.2 ⟨List.mem_map.2 ⟨m, List.mem_range.2 hm, rfl⟩, by simpa using hlost⟩)

theorem Dev.loseChannel_lost {d : Dev} (hlen : d.channels.length = 320) {ch : Nat} (hch : ch < 320) (c : Clock) (cause : Nat) :
    ((d.loseChannel c ch cause).chan ch).lost = true := by
  have hch : ch < d.channels.length := hlen ▸ hch
  have htaken := Dev.loseChannels_lost hch c (ch / 16) cause (some ch) (.inl (List.mem_singleton_self ch))
  unfold Dev.loseChannel
  split
  case isTrue h => exact h.resolve_left (by omega)
  dsimp only
  split
  · exact Dev.loseStack_lost (by simpa using hch) c _ 2 htaken
  · exact htaken

/-! ### Bank engines that fail (R220) -/

/-- A channel on which the spare engine takes the place of engine `g`, whose groups run again. -/
def Channel.spared (again : List Group) (g : Nat) (y : Channel) : Channel :=
  ({ y with spareUsed := true, running := y.running.filter fun r => r.eng != g, queue := again ++ y.queue } : Channel).turn

/-- The spare engine of channel `ch` takes the place and name of engine `g`, with the generation raised, and is reported. -/
def Dev.engineSpared (d : Dev) (c : Clock) (ch g cause : Nat) : Dev :=
  let again := (d.chan ch).running.filter fun r => r.eng == g
  let e := (again.foldl (fun (d : Dev) (r : Group) => d.dropToken (ch / 16) r.part) d).modChan ch (Channel.spared again g)
  let u := e.units.raise 7 (8 * ch + g)
  (({ e with units := { u with count := u.count + 1 } } : Dev).record c 0x0101 7 (8 * ch + g) none cause (unitWord (some (7, 8 * ch + g)))
    (d.units.gen 7 (8 * ch + g))).tellSpares d

@[simp] theorem Dev.record_channels (d : Dev) (c : Clock) (code kind idx : Nat) (part : Option Nat) (d0 d1 d2 : Nat) :
    (d.record c code kind idx part d0 d1 d2).channels = d.channels := by
  obtain ⟨_, _, _, _, _, _, _, h⟩ := onlyReports_record d c code kind idx part d0 d1 d2
  rw [h]

@[simp] theorem Dev.pauseEnd_channels (d : Dev) (c : Clock) (p cause : Nat) : (d.pauseEnd c p cause).channels = d.channels := by
  unfold Dev.pauseEnd
  split <;> simp

@[simp] theorem Dev.pauseStart_channels (d : Dev) (c : Clock) (p cause : Nat) (counted : Bool) :
    (d.pauseStart c p cause counted).channels = d.channels := rfl

@[simp] theorem Dev.shortPause_channels (d : Dev) (c : Clock) (p cause : Nat) : (d.shortPause c p cause).channels = d.channels := by
  simp [Dev.shortPause, Dev.pauseNow, apply_ite Dev.channels]

/-- Beside the change itself, the partition that holds the channel pauses. -/
theorem execBankEngineFailure_spared {s : State} {ch g : Nat} (hch : ch < 320) (hg : g < 8) (hlost : (s.dev.chan ch).lost = false)
    {w : Dev × Nat} (hw : s.dev.declared s.clock 7 (8 * ch + g) [6, 7] = w) (hspare : (w.1.chan ch).spareUsed = false) :
    ∃ d, execBankEngineFailure ch g s = Becomes s d ∧ d.channels = (w.1.engineSpared s.clock ch g w.2).channels ∧
      d.units = (w.1.engineSpared s.clock ch g w.2).units := by
  refine ⟨_, rfl, ?_⟩
  dsimp only
  rw [if_neg (by simp [hch, hg, hlost]), hw, hspare, if_neg Bool.false_ne_true]
  split
  · exact ⟨Dev.shortPause_channels _ _ _ _, Dev.shortPause_units _ _ _ _⟩
  · exact ⟨rfl, rfl⟩

theorem Channel.turn_running (x : Channel) : x.turn.running = x.running := by
  unfold Channel.turn
  split
  · exact .refl _
  · split <;> rfl

theorem Dev.engineSpared_gen (d : Dev) (c : Clock) (ch g cause : Nat) :
    (d.engineSpared c ch g cause).units.gen 7 (8 * ch + g) = min 0xFFFF (d.units.gen 7 (8 * ch + g) + 1) := by
  have hunits := foldl_keep Dev.units (fun (d : Dev) (r : Group) => d.dropToken (ch / 16) r.part) (fun _ _ => rfl)
    ((d.chan ch).running.filter fun r => r.eng == g) d
  simp only [Dev.engineSpared, Dev.tellSpares_units, Dev.record_units, Dev.modChan_units, hunits]
  exact Units.gen_raise rfl

theorem Dev.engineSpared_chan {d : Dev} {ch : Nat} (hch : ch < d.channels.length) (c : Clock) (g cause : Nat) :
    ((d.engineSpared c ch g cause).chan ch) = (d.chan ch).spared ((d.chan ch).running.filter fun r => r.eng == g) g := by
  have hchans := foldl_keep Dev.channels (fun (d : Dev) (r : Group) => d.dropToken (ch / 16) r.part) (fun _ _ => rfl)
    ((d.chan ch).running.filter fun r => r.eng == g) d
  simp only [Dev.chan, Dev.engineSpared, Dev.tellSpares_channels, Dev.record_channels, Dev.modChan]
  simp only [Dev.chan] at hchans
  rw [hchans, modAt_getD_eq _ _ hch]

theorem Channel.spared_health (again : List Group) (g : Nat) (y : Channel) : (y.spared again g).health = (y.lost, true) := by
  simp [Channel.spared, Channel.health]

theorem Channel.spared_running (again : List Group) (g : Nat) (y : Channel) : ((y.spared again g).running.any fun r => r.eng == g) = false := by
  simp [Channel.spared, Channel.turn_running]

theorem Dev.declared_service (d : Dev) (c : Clock) (k i : Nat) (causes : List Nat) : SameService (d.declared c k i causes).1 d := by simp

section BankEngine
variable {s : State} (hlen : s.dev.channels.length = 320) {ch g : Nat} (hch : ch < 320) (hg : g < 8) (hlost : (s.dev.chan ch).lost = false)
include hlen hch hg hlost

/-- With its spare engine in use already, the channel is lost. -/
theorem execBankEngineFailure_loses (hspare : (s.dev.chan ch).spareUsed = true) :
    ∃ d, execBankEngineFailure ch g s = Becomes s d ∧ (d.chan ch).lost = true := by
  have hdecl := s.dev.declared_service s.clock 7 (8 * ch + g) [6, 7]
  have hcount : (s.dev.declared s.clock 7 (8 * ch + g) [6, 7]).1.channels.length = 320 := by
    rw [← List.length_map Channel.health, hdecl.2, List.length_map, hlen]
  have hsame : ((s.dev.declared s.clock 7 (8 * ch + g) [6, 7]).1.chan ch).spareUsed = (s.dev.chan ch).spareUsed :=
    congrArg Prod.snd (hdecl.chan_health ch)
  refine ⟨_, rfl, ?_⟩
  dsimp only
  rw [if_neg (by simp [hch, hg, hlost]), if_pos (hsame.trans hspare)]
  exact Dev.loseChannel_lost (hcount) hch _ _

theorem execBankEngineFailure_spares (hspare : (s.dev.chan ch).spareUsed = false) :
    ∃ d, execBankEngineFailure ch g s = Becomes s d ∧ (d.chan ch).spareUsed = true ∧ (d.chan ch).lost = false ∧
      d.units.gen 7 (8 * ch + g) = min 0xFFFF (s.dev.units.gen 7 (8 * ch + g) + 1) ∧ ((d.chan ch).running.any fun r => r.eng == g) = false := by
  generalize hw : s.dev.declared s.clock 7 (8 * ch + g) [6, 7] = w
  have hdecl : SameService w.1 s.dev := hw ▸ s.dev.declared_service _ _ _ _
  have hcount : ch < w.1.channels.length := by
    rwa [← List.length_map Channel.health, hdecl.2, List.length_map, hlen]
  have hbefore : (w.1.chan ch).health = (false, false) := (hdecl.chan_health ch).trans (Prod.ext hlost hspare)
  obtain ⟨d, hd, hchans, hunits⟩ := execBankEngineFailure_spared hch hg hlost hw (congrArg Prod.snd hbefore)
  have hchan : d.chan ch = (w.1.chan ch).spared ((w.1.chan ch).running.filter fun r => r.eng == g) g := by
    rw [← Dev.engineSpared_chan hcount s.clock g w.2, Dev.chan, Dev.chan, hchans]
  have hhealth : (d.chan ch).health = (false, true) := by
    rw [hchan, Channel.spared_health, ← Channel.health_fst, hbefore]
  refine ⟨d, hd, congrArg Prod.snd hhealth, congrArg Prod.fst hhealth, ?_, ?_⟩
  · rw [hunits, Dev.engineSpared_gen, hdecl.1]
  · rw [hchan, Channel.spared_running]

end BankEngine

/-! ### Loads that are done (R259, R263) -/

theorem execRematerialisationComplete_reports {s : State} {p stack mask mib : Nat} {channel : Option Nat} {o : LongOp}
    (ho : ((s.dev.part p).ops.find? fun o => o.opcode == opRemat && o.state == 1) = some o) (hwork : o.work = .remat stack mask mib channel) :
    execRematerialisationComplete p s = Becomes s
      (((((s.dev.modPart p fun x => x.modOp o fun _ => { o with done := mib }).opEnd s.clock p { o with done := mib } ⟨statusSUCCESS, 0, 0, 0⟩).postEvent
        s.clock p 3 (tierBytes 1 stack mask 0 mib s.clock.time s.clock.timeLost))).record s.clock 0x0204 (if channel.isSome then 6 else 5)
        (channel.getD stack) (some p) mib ((s.clock.time - o.started) / 1000) 0) := by
  refine congrArg (Becomes s) ?_
  dsimp only
  simp only [ho, hwork]

/-! ### Lines that a patrol scrub finds bad (R210) -/

section PatrolScrub
variable {d : Dev} {stack p : Nat} (hp : p < 64)
include hp

theorem Dev.scrubOne_line {line : Nat} {o : Obj}
    (ho : ((d.part p).objs.find? fun o => o.kind != .stored && decide (o.first * windowBytes ≤ 64 * line) &&
      decide (64 * line < o.first * windowBytes + o.size)) = some o) (hclean : (d.part p).mem.poison.contains line = false)
    (hstack : (d.part p).chanOf ((d.part p).posOfByte o (64 * line)) / 16 = stack) (c : Clock) :
    d.scrubOne c stack (8 * p + 512 * line) =
      ((d.modPart p fun y => { y with mem := { y.mem with poison := line :: y.mem.poison } }).record c 0x0201 6
        ((d.part p).chanOf ((d.part p).posOfByte o (64 * line))) (some p) (Config.freeNat d.free 0) 0 0).fresh := by
  have hpart : (8 * p + 512 * line) / 8 % 64 = p := by omega
  have hwhat : (8 * p + 512 * line) % 8 = 0 := by omega
  have hrest : (8 * p + 512 * line) / 512 = line := by omega
  simp only [Dev.scrubOne, hpart, hwhat, hrest, ho]
  rw [if_pos trivial, if_neg (not_or_intro (not_not_intro hstack) (ne_true_of_eq_false hclean))]
  rfl

theorem Dev.scrubOne_list {idx slot : Nat} (hidx : idx < 16) {i : Index} {n : Node} (hi : (d.part p).index? idx = some i)
    (hn : i.graph.node? slot = some n)
    (hstack : (d.part p).chanOf (slot / 512 % max 1 (8 * (d.part p).life.chans.length) / 8) / 16 = stack) (c : Clock) :
    d.scrubOne c stack (2 + 8 * p + 512 * (idx + 16 * slot)) =
      ((d.modIndex p idx fun i => i.modGraph fun g => g.modNode slot fun n => { n with listPoison := true }).record c 0x0201 6
        ((d.part p).chanOf (slot / 512 % max 1 (8 * (d.part p).life.chans.length) / 8)) (some p) (Config.freeNat d.free 0) 0 0).fresh := by
  have hpart : (2 + 8 * p + 512 * (idx + 16 * slot)) / 8 % 64 = p := by omega
  have hwhat : (2 + 8 * p + 512 * (idx + 16 * slot)) % 8 = 2 := by omega
  have hrest : (2 + 8 * p + 512 * (idx + 16 * slot)) / 512 = idx + 16 * slot := by omega
  have hindex : (idx + 16 * slot) % 16 = idx := by omega
  have hslot : (idx + 16 * slot) / 16 = slot := by omega
  simp only [Dev.scrubOne, hpart, hwhat, hrest, hindex, hslot]
  rw [if_neg (by decide), if_pos (by decide), if_neg (by simp [hstack, hi, hn])]
  rfl

end PatrolScrub

/-- Settles O51: each event by its own lemma. -/
theorem memoryIsLost : Obligations.MemoryIsLost := by
  intro s hlen
  refine ⟨fun st hst h => ⟨_, rfl, Dev.loseStack_takes hlen hst h s.clock 5⟩, fun ch hch hlost => ⟨?channel, fun g hg h => ?second, fun g hg h => ?first⟩,
    fun p o stack mask mib channel ho hwork => ?load, rfl, fun stack p line o hp ho hclean => ?line, fun stack p idx slot i n hp hidx hi hn => ?list⟩
  case channel => exact ⟨_, rfl, Dev.loseChannel_lost hlen hch s.clock 2⟩
  case second => exact execBankEngineFailure_loses hlen hch hg hlost h
  case first => exact execBankEngineFailure_spares hlen hch hg hlost h
  case load => exact execRematerialisationComplete_reports ho hwork
  case line => exact fun hstack => congrArg (Becomes s) (Dev.scrubOne_line hp ho hclean hstack s.clock)
  case list => exact fun hstack => congrArg (Becomes s) (Dev.scrubOne_list hp hidx hi hn hstack s.clock)

end Sys2Proof.Machine
end

section
/-! PROOF. The discards and FLUSH: what DISCARD and SECURE_DISCARD leave of a range that stands, and what a FLUSH makes durable. -/

namespace Sys2Proof.Machine

open Sys2Proof

/-! ### Discards (R300, R302, R346, R357) -/

/-- What a discard of a range of `o` leaves before it ends: the range is unmapped at the first run alone, a secure one then erases its old
versions, and FREE takes the whole object. -/
def Dev.rangeDiscarded (d : Dev) (c : Clock) (r : ReqRef) (q : Req) (o : Obj) (secure : Bool) : Dev :=
  let p := r.rs.partNo
  let lpns := (List.range (oLen q / 16384)).filterMap fun i => d.flash.lpn? p o.first (oOff q / 16384 + i)
  let d0 := if q.ponr then d else (d.discard c p o (oOff q) (oLen q) false).modReq r fun y => { y with ponr := true }
  let d1 : Dev := if secure then { d0 with flash := d0.flash.eraseOld c.time p lpns } else d0
  if fbits q.desc 28 2 2 = 1 then d1.discard c p o 0 0 true else d1

theorem Dev.discardCmd_ends {s : State} {r : ReqRef} {io : Io} {op : Nat} {q : Req} {o : Obj} (secure : Bool) (h : Carries s r op q)
    (hu : io.upto = .done) (ho : (s.dev.part r.rs.partNo).storedAt (oWin q) = some o) :
    s.dev.discardCmd s.clock r io op secure =
      (s.dev.rangeDiscarded s.clock r q o secure).finish s.clock r ⟨statusSUCCESS, 0, oLen q / 16384, 0⟩ := by
  unfold Dev.discardCmd
  refine Dev.command_ends h io.upto _ _ _ _ _ ?work
  case work =>
    dsimp only
    rw [ho]
    dsimp only
    rw [if_neg (by simp [hu])]
    simp only [beq_iff_eq]
    rfl

theorem execDiscard_ends {s : State} {r : ReqRef} {io : Io} {q : Req} {o : Obj} (h : Carries s r 0x32 q) (hu : io.upto = .done)
    (ho : (s.dev.part r.rs.partNo).storedAt (oWin q) = some o) :
    execDiscard r io s = Ended s r (s.dev.rangeDiscarded s.clock r q o false) ⟨statusSUCCESS, 0, oLen q / 16384, 0⟩ :=
  State.onDev_ends (f := fun c d => d.discardCmd c r io 0x32 false) (Dev.discardCmd_ends false h hu ho)

theorem execSecureDiscard_ends {s : State} {r : ReqRef} {io : Io} {q : Req} {o : Obj} (h : Carries s r 0x33 q) (hu : io.upto = .done)
    (ho : (s.dev.part r.rs.partNo).storedAt (oWin q) = some o) :
    execSecureDiscard r io s = Ended s r (s.dev.rangeDiscarded s.clock r q o true) ⟨statusSUCCESS, 0, oLen q / 16384, 0⟩ :=
  State.onDev_ends (f := fun c d => d.discardCmd c r io 0x33 true) (Dev.discardCmd_ends true h hu ho)

/-! ### FLUSH (R346) -/

theorem execFlush_ends {s : State} {r : ReqRef} {io : Io} {q : Req} (h : Carries s r 0x34 q) (hu : io.upto = .done) :
    let d := if fbits q.desc 28 5 5 = 1 then s.dev.checkpoint s.clock r.rs.partNo else s.dev
    let f := d.flash.flushPart r.rs.partNo
    execFlush r io s = Ended s r { d with flash := f.1 } ⟨statusSUCCESS, 0, f.2, 0⟩ := by
  intro d f
  refine State.onDev_ends (Dev.command_ends h io.upto _ _ _ _ _ ?work)
  case work => exact if_neg (by simp [hu])

/-- Settles O14: both discards are one command, and a FLUSH flushes its partition. -/
theorem discardsAndFlushesComplete : Obligations.DiscardsAndFlushesComplete := by
  refine ⟨fun s r io q secure o hu h ho => ?discard, fun s r io q h hu => execFlush_ends h hu⟩
  case discard =>
    cases secure with
    | false => exact execDiscard_ends h hu ho
    | true => exact execSecureDiscard_ends h hu ho

end Sys2Proof.Machine
end

section
/-! PROOF. What work leaves of the keys: requests that end, tiles and bank engines that run, updates that are applied, records, pauses and
fences change no partition's keys. Where a lemma is proved by `(rfl)`, the brackets keep `simp` from using it by unfolding alone, so that it
serves under a binder too. -/

namespace Sys2Proof.Machine

open Sys2Proof

/-- The keys of every partition. -/
def Dev.keys (d : Dev) : List Keys := d.parts.map Part.keys

theorem Dev.part_keys_congr {e d : Dev} (h : e.keys = d.keys) (p : Nat) : (e.part p).keys = (d.part p).keys := by
  simpa [Dev.part, Dev.keys] using congrArg (fun l => l.getD p (Part.reset p).keys) h

/-! ### One partition -/

@[simp] theorem Part.dropOuts_keys (x : Part) (r : ReqRef) (sub : Nat) : (x.dropOuts r sub).keys = x.keys := (rfl)
@[simp] theorem Part.leaveInvs_keys (x : Part) (r : ReqRef) : (x.leaveInvs r).keys = x.keys := (rfl)
@[simp] theorem Part.endLoad_keys (x : Part) (m : Nat) : (x.endLoad m).keys = x.keys := (rfl)
@[simp] theorem Part.passHorizon_keys (x : Part) : x.passHorizon.keys = x.keys := (rfl)
@[simp] theorem Part.applied_keys (x : Part) (j : Nat) : (x.applied j).keys = x.keys := (rfl)
@[simp] theorem Part.modModel_keys (x : Part) (m : Nat) (f : Model → Model) : (x.modModel m f).keys = x.keys := (rfl)
@[simp] theorem Part.modTable_keys (x : Part) (t : Nat) (f : Table → Table) : (x.modTable t f).keys = x.keys := (rfl)
@[simp] theorem Part.modRunning_keys (x : Part) (f : Inv → Inv) : (x.modRunning f).keys = x.keys := (rfl)
@[simp] theorem Part.entryEnded_keys (x : Part) (entry pos : Nat) : (x.entryEnded entry pos).keys = x.keys := (rfl)
@[simp] theorem Part.stage_keys (x : Part) (a n : Nat) : (x.stage a n).keys = x.keys := (rfl)
@[simp] theorem Part.syncUpd_keys (x : Part) (u : UpdRun) : (x.syncUpd u).keys = x.keys := (rfl)
@[simp] theorem Part.scratchWrite_keys (x : Part) (eng a : Nat) (b : Bytes) (bad : Bool) :
    (x.scratchWrite eng a b bad).keys = x.keys := (rfl)

@[simp] theorem Part.keys_ite (p : Prop) [Decidable p] (x y : Part) : (if p then x else y).keys = if p then x.keys else y.keys :=
  apply_ite Part.keys p x y

@[simp] theorem Part.foldl_keys {α : Type} (f : Part → α → Part) (h : ∀ x a, (f x a).keys = x.keys) (l : List α) (x : Part) :
    (l.foldl f x).keys = x.keys := foldl_keep Part.keys f h l x

@[simp] theorem Part.releaseOlds_keys (x : Part) (p : Nat) : (x.releaseOlds p).keys = x.keys := by
  refine Part.foldl_keys _ (fun x k => Part.foldl_keys _ (fun x o => ?_) _ x) _ x
  dsimp only
  split
  · rfl
  · split <;> rfl

@[simp] theorem Part.beginInv_keys (x : Part) (c : Clock) : (x.beginInv c).keys = x.keys := by
  unfold Part.beginInv
  split
  · rfl
  · split
    · rfl
    · dsimp only
      split <;> rfl

@[simp] theorem Part.queueEncoder_keys (x : Part) (r : ReqRef) (u : UpdRun) : (x.queueEncoder r u).keys = x.keys := by
  have hrow : ∀ (x : Part) (i : Inv) (b : Bool) (w : InvRow), (x.addRow i b w).keys = x.keys := fun x i b w => by
    unfold Part.addRow
    dsimp only
    split <;> simp
  unfold Part.queueEncoder
  split
  · rfl
  · split
    · rfl
    · exact Part.foldl_keys _ (fun x w => hrow x _ _ _) _ x

@[simp] theorem Part.placeUpd_keys (x : Part) (now : Nat) (u : UpdRun) (j : Nat) : (x.placeUpd now u j).1.keys = x.keys := by
  unfold Part.placeUpd Part.admitHot
  split
  · dsimp only
    split <;> rfl
  · rfl

@[simp] theorem Part.linkUpd_keys (x : Part) (u : UpdRun) (adm : Nat) : (x.linkUpd u adm).keys = x.keys := by
  unfold Part.linkUpd
  split <;> rfl

@[simp] theorem Part.commitUpd_keys (x : Part) (u : UpdRun) (e : Nat) (order : Nat × Nat × Nat) :
    (x.commitUpd u e order).keys = x.keys := by
  unfold Part.commitUpd
  split <;> rfl

@[simp] theorem Part.deleteUpd_keys (x : Part) (now : Nat) (u : UpdRun) (e : Nat) (order : Nat × Nat × Nat) :
    (x.deleteUpd now u e order).keys = x.keys := (rfl)

/-! ### Updates of one partition, in turn and under a condition -/

/-- Keys lie in partitions alone. -/
@[simp] theorem Dev.keys_with (d : Dev) (mg co fl ch mc ms rs ar np ti re un fa po fw la fr ou) :
    Dev.keys ⟨d.parts, mg, co, fl, ch, mc, ms, rs, ar, np, ti, re, un, fa, po, fw, la, fr, ou⟩ = d.keys := (rfl)

@[simp] theorem Dev.emit_keys (d : Dev) (o : Output) : (d.emit o).keys = d.keys := (rfl)
@[simp] theorem Dev.fresh_keys (d : Dev) : d.fresh.keys = d.keys := (rfl)
@[simp] theorem Dev.modFabric_keys (d : Dev) (f : Fabric → Fabric) : (d.modFabric f).keys = d.keys := (rfl)
@[simp] theorem Dev.modTransport_keys (d : Dev) (p : Nat) (f : TransportPart → TransportPart) :
    (d.modTransport p f).keys = d.keys := (rfl)
@[simp] theorem Dev.modTile_keys (d : Dev) (t : Nat) (f : Tile → Tile) : (d.modTile t f).keys = d.keys := (rfl)
@[simp] theorem Dev.modChan_keys (d : Dev) (ch : Nat) (f : Channel → Channel) : (d.modChan ch f).keys = d.keys := (rfl)
@[simp] theorem Dev.modArb_keys (d : Dev) (st : Nat) (f : Arbiter → Arbiter) : (d.modArb st f).keys = d.keys := (rfl)

/-- An element that is changed without its image keeps the images of the whole list. -/
theorem map_modAt_keep_at {α β : Type} {f : α → α} {g : α → β} {z : α} :
    ∀ {n : Nat} {l : List α}, g (f (l.getD n z)) = g (l.getD n z) → (modAt f n l).map g = l.map g
  | _, [], _ => by simp [modAt]
  | 0, _ :: _, h => by simpa [modAt] using h
  | n + 1, a :: l, h => by simpa [modAt] using map_modAt_keep_at (n := n) (l := l) (by simpa using h)

theorem Dev.modPart_keys_at {f : Part → Part} {d : Dev} {p : Nat} (h : (f (d.part p)).keys = (d.part p).keys) :
    (d.modPart p f).keys = d.keys := map_modAt_keep_at h

@[simp] theorem Dev.modPart_keys {f : Part → Part} (h : ∀ x, (f x).keys = x.keys) (d : Dev) (p : Nat) :
    (d.modPart p f).keys = d.keys := Dev.modPart_keys_at (h _)

@[simp] theorem Dev.foldl_keys {α : Type} (f : Dev → α → Dev) (h : ∀ d a, (f d a).keys = d.keys) (l : List α) (d : Dev) :
    (l.foldl f d).keys = d.keys := foldl_keep Dev.keys f h l d

@[simp] theorem Dev.keys_ite (p : Prop) [Decidable p] (a b : Dev) :
    (if p then a else b).keys = if p then a.keys else b.keys := apply_ite Dev.keys p a b

@[simp] theorem Dev.fst_ite_keys {α : Type} (p : Prop) [Decidable p] (a b : Dev × α) :
    (if p then a else b).1.keys = if p then a.1.keys else b.1.keys :=
  apply_ite (fun x : Dev × α => x.1.keys) p a b

@[simp] theorem BankOut.keys_ite (p : Prop) [Decidable p] (a b : BankOut) :
    (if p then a else b).d.keys = if p then a.d.keys else b.d.keys :=
  apply_ite (fun o : BankOut => o.d.keys) p a b

theorem Dev.keys_of_ite {p : Prop} [Decidable p] {a b d : Dev} (ha : a.keys = d.keys) (hb : b.keys = d.keys) :
    (if p then a else b).keys = d.keys := by
  split
  · exact ha
  · exact hb

theorem Outward.keys {d e : Dev} (h : Outward d e) : e.keys = d.keys := by
  obtain ⟨_, _, rfl⟩ := h
  rfl

/-! ### Completions, events and records (R335, R467, R471) -/

@[simp] theorem Dev.modRing_keys (d : Dev) (rs : RsId) (f : RingSet → RingSet) : (d.modRing rs f).keys = d.keys := by
  cases rs with
  | part p n => exact Dev.modPart_keys (f := fun x => { x with rings := modAt f n x.rings }) (fun _ => rfl) d p
  | mgmt n => rfl

@[simp] theorem Dev.modRun_keys (d : Dev) (rs : RsId) (f : RingRun → RingRun) : (d.modRun rs f).keys = d.keys := Dev.modRing_keys d rs _

@[simp] theorem Dev.modMsix_keys (d : Dev) (fn : Fn) (v : Nat) (f : MsixVec → MsixVec) : (d.modMsix fn v f).keys = d.keys := by
  cases fn with
  | pf => rfl
  | vf n => exact Dev.modPart_keys (f := fun x => { x with msix := modAt f v x.msix }) (fun _ => rfl) d n
  | remote n _ => exact Dev.modPart_keys (f := fun x => { x with msix := modAt f v x.msix }) (fun _ => rfl) d n

@[simp] theorem Dev.sendRdma_keys (d : Dev) (c : Clock) (rs : RsId) (o : RoceOut) : (d.sendRdma c rs o).keys = d.keys := by
  unfold Dev.sendRdma
  split
  · rfl
  · refine Dev.keys_of_ite ?_ (d.modRing_keys rs _)
    exact (outward_sendTo _ c _ _ _ _ _ _ _ _).keys.trans ((Dev.modRing_keys _ rs _).trans (outward_nextSequence d rs.partNo).keys)

@[simp] theorem Dev.writeHost_keys (d : Dev) (c : Clock) (rs : RsId) (tie : Tie) (svc addr : Nat) (b : Bytes) :
    (d.writeHost c rs tie svc addr b).keys = d.keys := by simp [Dev.writeHost]

@[simp] theorem Dev.notify_keys (d : Dev) (c : Clock) (rs : RsId) : (d.notify c rs).keys = d.keys := by
  have hsent (d : Dev) (p flow peer : Nat) (b : Bytes) : (d.sendPacketOn c p 6 true 3 peer false flow (.notice rs) b).keys = d.keys :=
    (outward_sendPacketOn d c p 6 true 3 peer false flow (.notice rs) b).keys
  simp [Dev.notify, hsent]

@[simp] theorem Dev.writeSlot_keys (d : Dev) (c : Clock) (rs : RsId) (e : WaitEntry) : (d.writeSlot c rs e).keys = d.keys := by
  simp [Dev.writeSlot]

@[simp] theorem Dev.flushMgmtEvents_keys (c : Clock) (n : Nat) (d : Dev) : (d.flushMgmtEvents c n).keys = d.keys := by
  induction n generalizing d with
  | zero => rfl
  | succ n ih =>
    unfold Dev.flushMgmtEvents
    dsimp only
    split <;> simp [ih]

@[simp] theorem Dev.record_keys (d : Dev) (c : Clock) (code kind idx : Nat) (part : Option Nat) (d0 d1 d2 : Nat) :
    (d.record c code kind idx part d0 d1 d2).keys = d.keys := by
  simp [Dev.record, Dev.assignRecord, Dev.putRecord, Dev.postMgmt]

@[simp] theorem Dev.stopTiles_keys (d : Dev) (p : Nat) : (d.stopTiles p).keys = d.keys :=
  Dev.foldl_keys _ (fun d t => d.modTile_keys t _) _ d

@[simp] theorem Dev.stopInv_keys (d : Dev) (p : Nat) : (d.stopInv p).keys = d.keys := by simp [Dev.stopInv]

@[simp] theorem Dev.leaveInvs_keys (d : Dev) (r : ReqRef) : (d.leaveInvs r).keys = d.keys := by
  unfold Dev.leaveInvs
  split <;> simp

@[simp] theorem Dev.modReq_keys (d : Dev) (r : ReqRef) (f : Req → Req) : (d.modReq r f).keys = d.keys := Dev.modRing_keys d r.rs _

@[simp] theorem Dev.dropReq_keys (d : Dev) (r : ReqRef) : (d.dropReq r).keys = d.keys := by
  unfold Dev.dropReq
  dsimp only
  split <;> split <;> simp

@[simp] theorem Dev.putEntry_keys (d : Dev) (c : Clock) (rs : RsId) (e : WaitEntry) : (d.putEntry c rs e).keys = d.keys := by
  simp [Dev.putEntry]

@[simp] theorem Dev.finish_keys (d : Dev) (c : Clock) (r : ReqRef) (e : Ending) : (d.finish c r e).keys = d.keys := by
  unfold Dev.finish
  split <;> simp

@[simp] theorem Dev.flushEvents_keys (c : Clock) (p n : Nat) (d : Dev) : (d.flushEvents c p n).keys = d.keys := by
  induction n generalizing d with
  | zero => rfl
  | succ n ih =>
    unfold Dev.flushEvents
    dsimp only
    split <;> simp [ih]

@[simp] theorem Dev.postEvent_keys (d : Dev) (c : Clock) (p type : Nat) (payload : Bytes) :
    (d.postEvent c p type payload).keys = d.keys := by simp [Dev.postEvent]

@[simp] theorem Dev.saturate_keys (d : Dev) (c : Clock) (p counter n source : Nat) : (d.saturate c p counter n source).keys = d.keys := by
  simp [Dev.saturate, Dev.drift]

/-! ### The journal and its pages (R258, R275 to R277) -/

@[simp] theorem Dev.settleBuffer_keys (d : Dev) (p : Nat) : (d.settleBuffer p).keys = d.keys := by simp [Dev.settleBuffer]

@[simp] theorem Dev.structRun_keys (d : Dev) (c : Clock) (p tag : Nat) (body : Bytes) : (d.structRun c p tag body).keys = d.keys := by
  simp [Dev.structRun, Dev.packAppend]

@[simp] theorem Dev.journalAppend_keys (d : Dev) (c : Clock) (p : Nat) (j : JRec) (src : Nat) :
    (d.journalAppend c p j src).keys = d.keys := by simp [Dev.journalAppend, Dev.packAppend]

@[simp] theorem Dev.structAppend_keys (d : Dev) (c : Clock) (p index handle lists : Nat) :
    (d.structAppend c p index handle lists).keys = d.keys := by
  have hstate : (d.stateRecords c p).keys = d.keys := by simp [Dev.stateRecords]
  unfold Dev.structAppend
  dsimp only
  split <;> simp [hstate]

@[simp] theorem Dev.cancelUpd_keys (d : Dev) (c : Clock) (p : Nat) (r : ReqRef) (u : UpdRun) : (d.cancelUpd c p r u).keys = d.keys := by
  unfold Dev.cancelUpd
  split
  · rfl
  · refine Dev.keys_of_ite ((Dev.structAppend_keys _ _ _ _ _ _).trans ?withdrawn) ?withdrawn
    case withdrawn => exact (Dev.modPart_keys (fun x => by split <;> rfl) _ p).trans (d.journalAppend_keys c p _ _)

/-! ### Requests that end or lose their state (R132, R349, R394) -/

@[simp] theorem Dev.setSearch_keys (d : Dev) (r : ReqRef) (i : Nat) (f : SearchRun → SearchRun) : (d.setSearch r i f).keys = d.keys :=
  Dev.modReq_keys d r _

@[simp] theorem Dev.dropRows_keys (d : Dev) (r : ReqRef) (sub : Nat) : (d.dropRows r sub).keys = d.keys := by simp [Dev.dropRows]

@[simp] theorem Dev.endSearches_keys (d : Dev) (c : Clock) (r : ReqRef) (ok : Bool) : (d.endSearches c r ok).keys = d.keys := by
  unfold Dev.endSearches
  split
  · rfl
  · split <;> simp [Dev.hostOut]

@[simp] theorem Dev.endServed_keys (c : Clock) (d : Dev) (r : ReqRef) (sub : Nat) (tile : Bool) (status : Nat) :
    (Dev.endServed c d r sub tile status).keys = d.keys := by
  unfold Dev.endServed
  split
  · rfl
  · split <;> simp

/-! ### Tiles (R146 to R148, R170 to R180) -/

@[simp] theorem Dev.failInv_keys (d : Dev) (c : Clock) (p : Nat) (tile : Bool) (status : Nat) :
    (d.failInv (Dev.endServed c) p tile status).keys = d.keys := by
  unfold Dev.failInv
  split <;> simp

@[simp] theorem Dev.tileFault_keys (d : Dev) (c k : Clock) (p pos site : Nat) (x : TDesc) (code detail : Nat) :
    (d.tileFault c (Dev.endServed k) p pos site x code detail).keys = d.keys := by simp [Dev.tileFault]

@[simp] theorem Dev.flagRow_keys (d : Dev) (f : Nat) (w : InvRow) : (d.flagRow f w).keys = d.keys := by simp [Dev.flagRow]

@[simp] theorem Dev.markRows_keys (d : Dev) (p rows : Nat) (marks : List RowMark) : (d.markRows p rows marks).keys = d.keys := by
  unfold Dev.markRows
  split <;> simp

@[simp] theorem Dev.signal_keys (d : Dev) (sites : List Nat) (token n : Nat) : (d.signal sites token n).1.keys = d.keys := by
  unfold Dev.signal
  refine List.foldlRecOn (motive := fun a : Dev × Bool => a.1.keys = d.keys) sites _ rfl fun a h t _ => ?_
  exact h

@[simp] theorem Dev.stageRead_keys (d : Dev) (now p a n : Nat) : (d.stageRead now p a n).keys = d.keys := by simp [Dev.stageRead]

/-- An attempt fails, or leaves a device with the keys of `u`. -/
def LeavesKeys {ε : Type} (u : Dev) (a : Except ε Dev) : Prop := ∀ d, a = .ok d → d.keys = u.keys

theorem LeavesKeys.ok {ε : Type} {u d : Dev} (h : d.keys = u.keys) : LeavesKeys (ε := ε) u (.ok d) := by
  rintro _ ⟨⟩
  exact h

theorem LeavesKeys.error {ε : Type} (u : Dev) (e : ε) : LeavesKeys u (.error e) := by
  rintro _ ⟨⟩

theorem LeavesKeys.ite {ε : Type} {u : Dev} {p : Prop} [Decidable p] {a b : Except ε Dev} (ha : LeavesKeys u a)
    (hb : LeavesKeys u b) : LeavesKeys u (if p then a else b) := by
  split
  · exact ha
  · exact hb

/-- Moves one after the other, each of which leaves the keys or fails. -/
theorem LeavesKeys.foldl {ε α : Type} {u : Dev} {f : Except ε Dev → α → Except ε Dev}
    (hf : ∀ a x, LeavesKeys u a → LeavesKeys u (f a x)) {a : Except ε Dev} (ha : LeavesKeys u a) (l : List α) :
    LeavesKeys u (l.foldl f a) := by
  induction l generalizing a with
  | nil => exact ha
  | cons x l ih => exact ih (hf a x ha)

theorem Dev.xferPut_keys (d : Dev) (p : Nat) (dst : Option Nat) (a : Nat) (b : Bytes) (add : Bool) :
    LeavesKeys d (d.xferPut p dst a b add) := by
  cases dst with
  | some t => exact .ite (.error _ _) (.ok (by simp))
  | none => exact .ite (.error _ _) (.ite (.error _ _) (.ok (by simp)))

theorem Dev.runXfer_keys (d : Dev) (now p pos site : Nat) (b : Bytes) : LeavesKeys d (d.runXfer now p pos site b) := by
  unfold Dev.runXfer
  extract_lets _ _ _ _ _ _ _ src _ _ read _
  split
  · exact .error _ _
  extract_lets start
  refine .ite (.error _ _) ?_
  split
  · exact .error _ _
  have hstart : start.keys = d.keys := by
    cases hsrc : src <;> simp [start, hsrc]
  refine .foldl (fun a i ha => ?_) (.ok hstart) _
  cases a with
  | error e => exact .error _ _
  | ok e =>
    refine .ite ha ?_
    cases read i with
    | error e => exact .error _ _
    | ok row =>
      refine .foldl (fun a t ha => ?_) ha _
      cases a with
      | error e => exact .error _ _
      | ok e =>
        dsimp only
        split
        · exact .error _ _
        · next h => exact .ok ((e.xferPut_keys _ _ _ _ _ _ h).trans (ha e rfl))

@[simp] theorem Dev.descDone_keys (d : Dev) (c k : Clock) (p pos site : Nat) (x : TDesc) :
    (d.descDone c (Dev.endServed k) p pos site x).1.keys = d.keys := by simp [Dev.descDone]

@[simp] theorem Dev.runDesc_keys (d : Dev) (c k : Clock) (p pos site : Nat) (x : TDesc) :
    (d.runDesc c (Dev.endServed k) p pos site x).keys = d.keys := by
  unfold Dev.runDesc
  dsimp only
  split
  case h_1 =>
    split
    · simp
    · next e h => exact (Dev.descDone_keys _ _ _ _ _ _ _).trans (d.runXfer_keys _ _ _ _ _ e h)
  case h_2 =>
    split
    · simp
    · refine Dev.keys_of_ite ?_ (d.descDone_keys _ _ _ _ _ _)
      have hdone := d.descDone_keys c k p pos site x
      refine Dev.keys_of_ite hdone ?_
      split <;> simp
  case h_3 => split <;> simp

@[simp] theorem Dev.accessWaits_keys (d : Dev) (now ch : Nat) : (d.accessWaits now ch).keys = d.keys := by
  simp [Dev.accessWaits]

@[simp] theorem Dev.runTiles_keys (c k : Clock) (p n : Nat) (d : Dev) : (Dev.runTiles c (Dev.endServed k) p n d).keys = d.keys := by
  induction n generalizing d with
  | zero => rfl
  | succ n ih =>
    have hwaits (l : List (Nat × Nat)) : (l.foldl (fun d s => d.modTile s.2 fun t => t.serveWaits.serveWaits) d).keys = d.keys :=
      Dev.foldl_keys _ (fun d s => d.modTile_keys s.2 _) l d
    unfold Dev.runTiles
    dsimp only
    split <;> simp [ih, hwaits]

@[simp] theorem Dev.dispatchAll_keys (t n : Nat) (d : Dev) : (d.dispatchAll t n).keys = d.keys := by
  induction n generalizing d with
  | zero => rfl
  | succ n ih =>
    refine (ih _).trans ?_
    unfold Dev.dispatch
    dsimp only
    split <;> simp

/-! ### Command groups on bank engines (R212 to R224) -/

@[simp] theorem Dev.dropToken_keys (d : Dev) (stack p : Nat) : (d.dropToken stack p).keys = d.keys := (rfl)

@[simp] theorem Dev.takeToken_keys (d : Dev) (stack p : Nat) : (d.takeToken stack p).1.keys = d.keys := by
  simp [Dev.takeToken, Dev.setShare]

@[simp] theorem Dev.startGroups_keys (d : Dev) (now ch : Nat) (afterSwitch : Bool) : (d.startGroups now ch afterSwitch).keys = d.keys := by
  simp [Dev.startGroups, Dev.startGroup]

@[simp] theorem Dev.switchDone_keys (d : Dev) (now ch : Nat) (oldest : Option Nat) : (d.switchDone now ch oldest).keys = d.keys := by
  simp [Dev.switchDone]

@[simp] theorem Dev.endGroup_keys (d : Dev) (ch eng : Nat) : (d.endGroup ch eng).keys = d.keys := by
  unfold Dev.endGroup
  split
  · rfl
  · dsimp only
    split <;> simp [Dev.phaseDone]

@[simp] theorem Dev.rowsBack_keys (d : Dev) (c : Clock) (p : Nat) (t : Table) (mem : Memory) (poison written : List Nat) (sat : Nat)
    (stats : TabStats → TabStats) : (d.rowsBack c p t mem poison written sat stats).keys = d.keys := by
  simp [Dev.rowsBack, Dev.backRecord]

@[simp] theorem Dev.bankDo_keys (d : Dev) (c : Clock) (p eng : Nat) (phase : Bool) (serves : List ReqRef) (b : Bytes) :
    (d.bankDo c p eng phase serves b).d.keys = d.keys := by
  unfold Dev.bankDo Dev.bankLoad Dev.bankStore Dev.bankScan Dev.bankMatvec Dev.bankRowRead Dev.bankRowUpdate Dev.bankFill
  dsimp only
  split
  case h_4 =>
    split
    · rfl
    · split <;> simp
  case h_7 => exact Dev.modPart_keys (fun x => Part.foldl_keys _ (fun y i => by split <;> rfl) _ x) d p
  all_goals split <;> simp [Dev.applyRows]

@[simp] theorem Dev.bankPoison_keys (d : Dev) (c : Clock) (ch : Nat) (g : Group) :
    (d.bankPoison (Dev.endServed c) ch g).keys = d.keys := by simp [Dev.bankPoison]

@[simp] theorem Dev.markDropped_keys (d : Dev) (c : Clock) (r : ReqRef × Nat) : (d.markDropped (Dev.endServed c) r).keys = d.keys := by
  unfold Dev.markDropped
  split <;> simp

@[simp] theorem Dev.bankStep_keys (d : Dev) (c k : Clock) (ch eng : Nat) : (d.bankStep c (Dev.endServed k) ch eng).keys = d.keys := by
  unfold Dev.bankStep
  split
  · split
    · rfl
    · simp
  · rfl

@[simp] theorem Dev.bankSteps_keys (c k : Clock) (ch eng n : Nat) (d : Dev) :
    (d.bankSteps c (Dev.endServed k) ch eng n).keys = d.keys := by
  induction n generalizing d with
  | zero => rfl
  | succ n ih => exact (ih _).trans (d.bankStep_keys c k ch eng)

@[simp] theorem Dev.finishGroup_keys (d : Dev) (c k : Clock) (ch eng : Nat) :
    (d.finishGroup c (Dev.endServed k) ch eng).keys = d.keys := by
  unfold Dev.finishGroup
  split <;> simp

/-! ### Invocations (R146, R187, R191) -/

@[simp] theorem Dev.startEntry_keys (d : Dev) (p entry : Nat) : (d.startEntry p entry).keys = d.keys := by
  unfold Dev.startEntry
  dsimp only
  split
  · rfl
  · split
    · rfl
    · split
      · simp
      · refine (Dev.foldl_keys _ (fun d k => ?_) _ _).trans (by simp)
        split
        · rfl
        · split
          · rfl
          · exact d.modChan_keys _ _

@[simp] theorem Dev.startTile_keys (d : Dev) (p pos : Nat) : (d.startTile p pos).keys = d.keys := by
  unfold Dev.startTile
  dsimp only
  split <;> simp

@[simp] theorem Dev.invDone_keys (d : Dev) (c : Clock) (p : Nat) : (d.invDone (Dev.endServed c) p).keys = d.keys := by
  unfold Dev.invDone
  dsimp only
  split <;> simp

@[simp] theorem Dev.driveChan_keys (d : Dev) (c k : Clock) (p ch : Nat) : (d.driveChan c (Dev.endServed k) p ch).keys = d.keys := by
  simp [Dev.driveChan]

@[simp] theorem Dev.driveOnce_keys (d : Dev) (c k : Clock) (p : Nat) : (d.driveOnce c (Dev.endServed k) p).keys = d.keys := by
  unfold Dev.driveOnce
  dsimp only
  split <;> simp

@[simp] theorem Dev.runRows_keys (d : Dev) (c k : Clock) (r : ReqRef) (sub : Nat) :
    (d.runRows c (Dev.endServed k) r sub).keys = d.keys := by
  have hserve : ∀ (n : Nat) (d : Dev), (d.serveRows c (Dev.endServed k) r sub n).keys = d.keys := by
    intro n
    induction n with
    | zero => exact fun _ => rfl
    | succ n ih => intro d; simp [Dev.serveRows, ih]
  exact hserve _ d

/-! ### Updates applied after their request has gone (R120, R136) -/

@[simp] theorem Dev.vectorRecord_keys (d : Dev) (c : Clock) (r : ReqRef) (epoch : Nat) (u : UpdRun) (v : List F32) (version : Nat) :
    (d.vectorRecord c r epoch u v version).1.keys = d.keys := by
  unfold Dev.vectorRecord
  dsimp only
  split <;> simp [Dev.setUpd, Dev.acceptVector]

@[simp] theorem Dev.encodeUpd_keys (d : Dev) (c : Clock) (r : ReqRef) (epoch : Nat) (u : UpdRun) (run : Bool) :
    (d.encodeUpd c r epoch u run).1.keys = d.keys := by
  have htake (d : Dev) : (d.takeEncoded c r epoch u).1.keys = d.keys := by
    unfold Dev.takeEncoded
    dsimp only
    split <;> simp
  simp [Dev.encodeUpd, htake]

@[simp] theorem Dev.encodeGone_keys (d : Dev) (c : Clock) (j : JRec) : (d.encodeGone c j).1.keys = d.keys := by simp [Dev.encodeGone]

@[simp] theorem Dev.placeUpd_keys (d : Dev) (c : Clock) (r : ReqRef) (u : UpdRun) : (d.placeUpd c r u).1.keys = d.keys := by
  have hplaced := Dev.modPart_keys_at (d := d) (p := r.rs.partNo) (f := fun _ =>
    ((d.part r.rs.partNo).placeUpd c.time u (u.journal.getD 0)).1.syncUpd { u with placed := true }) (by simp)
  simp [Dev.placeUpd, hplaced]

@[simp] theorem Dev.applyOne_keys (d : Dev) (c : Clock) (p : Nat) (j : JRec) : (d.applyOne c p j).keys = d.keys := by
  simp [Dev.applyOne]

@[simp] theorem Dev.applyAborted_keys (d : Dev) (c : Clock) (p : Nat) : (d.applyAborted c p).keys = d.keys := by
  simp [Dev.applyAborted]

/-! ### Pauses, the fence and ports (R391 to R394, R420, R466) -/

@[simp] theorem Dev.pauseStart_keys (d : Dev) (c : Clock) (p cause : Nat) (counted : Bool) :
    (d.pauseStart c p cause counted).keys = d.keys := by simp [Dev.pauseStart]

@[simp] theorem Dev.pauseEnd_keys (d : Dev) (c : Clock) (p cause : Nat) : (d.pauseEnd c p cause).keys = d.keys := by
  unfold Dev.pauseEnd
  split <;> simp

@[simp] theorem Dev.dropGroups_keys (d : Dev) (p : Nat) : (d.dropGroups p).keys = d.keys := by simp [Dev.dropGroups]

@[simp] theorem Dev.fenceWork_keys (d : Dev) (c : Clock) (p : Nat) (suspend : Bool) : (d.fenceWork c p suspend).keys = d.keys := by
  simp [Dev.fenceWork, Dev.cutSilent, Dev.silence]

@[simp] theorem Dev.fencePart_keys (d : Dev) (c : Clock) (p cause : Nat) : (d.fencePart c p cause).keys = d.keys := by
  unfold Dev.fencePart
  dsimp only
  split <;> simp [Dev.modLife, Dev.setStarted]

end Sys2Proof.Machine
end

section
/-! PROOF. Supplies that come and go: what starts a bring-up, what the loss of an input leaves of the power, the keys and the clock, and
the storage die of a carrier. -/

namespace Sys2Proof.Machine

open Sys2Proof

/-! ### Keys that are dropped (R404, R406, R481) -/

/-- Every key of partition `p` has been zeroised. -/
def Dev.Zeroised (d : Dev) (p : Nat) : Prop :=
  (d.part p).keys.owner = none ∧ (d.part p).keys.transport = none ∧ (d.part p).keys.media = none

theorem Dev.zeroised_congr {d e : Dev} (h : e.keys = d.keys) (p : Nat) : e.Zeroised p ↔ d.Zeroised p := by
  simp only [Dev.Zeroised, Dev.part_keys_congr h]

/-- A partition beyond the last reads as one that was never given a key. -/
theorem Dev.zeroised_of_length_le {d : Dev} {p : Nat} (h : d.parts.length ≤ p) : d.Zeroised p := by
  simp [Dev.Zeroised, Dev.part, h, Part.reset]

theorem Dev.part_zeroise_self {d : Dev} {p : Nat} (h : p < d.parts.length) :
    ((d.zeroise p).part p).keys = { (d.part p).keys with owner := none, transport := none, media := none } := by
  have hown := d.part_modPart_self (fun x => { x with keys := { x.keys with owner := none, media := none } }) h
  have hlen : p < (d.modKeys p fun y => { y with owner := none, media := none }).parts.length := by
    simpa [Dev.modKeys, Dev.modPart] using h
  exact (congrArg Part.keys (Dev.part_modPart_self _ (fun x => { x with keys := { x.keys with transport := none } }) hlen)).trans
    (congrArg (fun x : Part => { x.keys with transport := none }) hown)

theorem Dev.part_zeroise_ne (d : Dev) {p q : Nat} (h : p ≠ q) : (d.zeroise p).part q = d.part q :=
  (Dev.part_modPart_ne _ _ h).trans (Dev.part_modPart_ne _ _ h)

theorem Dev.zeroised_zeroise_self (d : Dev) (p : Nat) : (d.zeroise p).Zeroised p := by
  by_cases h : p < d.parts.length
  · simp [Dev.Zeroised, Dev.part_zeroise_self h]
  · refine Dev.zeroised_of_length_le ?_
    simpa [Dev.zeroise, Dev.newTransport, Dev.modKeys, Dev.modPart] using Nat.le_of_not_lt h

theorem Dev.Zeroised.zeroise {d : Dev} {q : Nat} (h : d.Zeroised q) (p : Nat) : (d.zeroise p).Zeroised q := by
  by_cases hp : p = q
  · exact hp ▸ d.zeroised_zeroise_self p
  · simpa [Dev.Zeroised, Dev.part_zeroise_ne d hp] using h

/-- Partitions that are zeroised in turn, by a step that brings no key back, end without keys. -/
theorem Dev.zeroised_foldl {f : Dev → Nat → Dev} (hself : ∀ d p, (f d p).Zeroised p)
    (hkeep : ∀ d p {q}, d.Zeroised q → (f d p).Zeroised q) {q : Nat} :
    ∀ (l : List Nat) (d : Dev), q ∈ l ∨ d.Zeroised q → (l.foldl f d).Zeroised q
  | [], _, h => h.resolve_left List.not_mem_nil
  | p :: l, d, h => by
    refine Dev.zeroised_foldl hself hkeep l _ ?_
    rcases h with h | h
    · rcases List.mem_cons.1 h with rfl | h
      · exact .inr (hself d q)
      · exact .inl h
    · exact .inr (hkeep d p h)

theorem Dev.Zeroised.fencePart {d : Dev} {q : Nat} (h : d.Zeroised q) (c : Clock) (p cause : Nat) : (d.fencePart c p cause).Zeroised q :=
  (Dev.zeroised_congr (d.fencePart_keys c p cause) q).2 h

theorem Dev.zeroised_prepareReset (d : Dev) (c : Clock) {p : Nat} (hp : p < 64) : (d.prepareReset c).Zeroised p := by
  unfold Dev.prepareReset
  rw [Dev.zeroised_congr (Dev.keys_with _ _ _ _ _ _ _ _ _ _ _ _ _ _ _ _ _ _ _)]
  refine Dev.zeroised_foldl (fun d p => ?self) (fun d p q h => ?keep) (List.range 64) d (.inl (List.mem_range.2 hp))
  case self => split <;> exact Dev.zeroised_zeroise_self _ p
  case keep =>
    split
    · exact h.zeroise p
    · exact (h.fencePart c p 0).zeroise p

/-! ### What a reset and the loss of time leave (R429, R480, R486) -/

@[simp] theorem Dev.prepareReset_power (d : Dev) (c : Clock) : (d.prepareReset c).power = { d.power with floor := c.time } := by
  unfold Dev.prepareReset
  dsimp only
  rw [foldl_keep Dev.power _ fun d p => ?fence]
  case fence =>
    split
    · rfl
    · exact (d.fencePart_hardware c p 0).1

@[simp] theorem Dev.endPauses_power (d : Dev) (c : Clock) : (d.endPauses c).power = d.power :=
  foldl_keep Dev.power _ (fun d p => (d.pauseEnd_hardware c p 9).1) _ d

@[simp] theorem Dev.endPauses_keys (d : Dev) (c : Clock) : (d.endPauses c).keys = d.keys := by simp [Dev.endPauses]

theorem outward_kickAll (d : Dev) (c : Clock) : Outward d (d.kickAll c) :=
  List.foldlRecOn (motive := Outward d) _ _ (.refl d) fun e h i _ => h.trans (outward_kick e c i)

@[simp] theorem Dev.kickAll_keys (d : Dev) (c : Clock) : (d.kickAll c).keys = d.keys := (outward_kickAll d c).keys

@[simp] theorem Dev.kickAll_power (d : Dev) (c : Clock) : (d.kickAll c).power = d.power := by
  obtain ⟨_, _, h⟩ := outward_kickAll d c
  rw [h]

@[simp] theorem holdover_keys (c : Clock) (d : Dev) : (holdover (c, d)).2.keys = d.keys := by
  unfold holdover loseTime
  split <;> simp

@[simp] theorem holdover_power (c : Clock) (d : Dev) : (holdover (c, d)).2.power = d.power := by
  unfold holdover loseTime
  split <;> simp

@[simp] theorem Part.afterReset_keys (x : Part) : x.afterReset.keys = x.keys := by
  have hdrop : ∀ (y : Part) (o : LongOp), (y.dropWork o).keys = y.keys := fun y o => by
    unfold Part.dropWork
    split <;> rfl
  exact Part.foldl_keys _ hdrop _ _

@[simp] theorem Dev.ground_keys (d : Dev) : d.ground.keys = d.keys := by simp [Dev.keys, Dev.ground]

@[simp] theorem Dev.powerCycled_keys (d : Dev) : d.powerCycled.keys = d.keys := by simp [Dev.keys, Dev.powerCycled]

/-! ### The 48 V input (R294, R480, R503, R510) -/

theorem State.onBoth_next {s : State} {f : Clock → Dev → Clock × Dev} {c : Clock} {d : Dev} (h : f s.clock s.dev = (c, d)) :
    s.onBoth f = .next { s with clock := c, dev := d } := by
  rw [State.onBoth_eq, h]

/-- With the inputs there a module that is off starts a cold bring-up, and goes on from the count that a keeper has held, or from the
floor. -/
theorem powerUp_starts {c : Clock} {d : Dev} (h : d.power.mode = .off) :
    ∃ k e, powerUp c d = (k, e) ∧ e.power.mode = .bringup 1 ∧ e.power.warm = false ∧ e.power.inputOk = d.power.inputOk ∧
      e.power.auxOk = d.power.auxOk ∧ k.powered = true ∧ k.powerCycles = c.powerCycles + 1 ∧
      (d.power.kept = true → k.time = c.time) ∧ (d.power.kept = false → k.time = d.power.floor + 1000000000) := by
  unfold powerUp
  rw [if_neg (not_not_intro h)]
  cases hk : d.power.kept with
  | true => exact ⟨_, _, rfl, rfl, rfl, rfl, rfl, rfl, rfl, fun _ => rfl, nofun⟩
  | false => exact ⟨_, _, rfl, rfl, rfl, rfl, rfl, rfl, rfl, nofun, fun _ => rfl⟩

/-- A module whose 48 V input has gone is off, and holds no owner key and no media key. -/
def LostInput (c : Clock) (d : Dev) : Prop :=
  d.power.mode = .off ∧ d.power.inputOk = false ∧ c.powered = false ∧ d.mgmt.stage = 0 ∧
    ∀ p, p < 64 → (d.part p).keys.owner = none ∧ (d.part p).keys.media = none

theorem loseInput_lost {c : Clock} {d : Dev} (hin : d.power.inputOk = true) (hmode : d.power.mode ≠ .fatal) :
    LostInput (loseInput c d).1 (loseInput c d).2 := by
  unfold loseInput
  rw [hin, Bool.not_true, if_neg Bool.false_ne_true]
  extract_lets mode mib gone cut fenced recorded r _ clock _ grounded _ off
  have hcut : cut.power.inputOk = false := by
    dsimp only [cut, mode]
    split <;> rfl
  have hfenced : fenced = (cut.prepareReset c).endPauses c := if_neg hmode
  have hgrounded : grounded = r.2.ground.powerCycled.modPower fun x =>
    { x with mode := .off, sealed := false, dramKept := false, hostLink := [false, false] } := if_neg hmode
  have hmode' : off.power.mode = .off := congrArg (·.power.mode) hgrounded
  have hinput : off.power.inputOk = false := by
    refine (congrArg (·.power.inputOk) hgrounded).trans (?_ : r.2.power.inputOk = false)
    simp [r, recorded, hfenced, hcut]
  have hkeys : off.keys = (cut.prepareReset c).keys := by
    simp [off, hgrounded, r, recorded, hfenced]
  have hzeroised : ∀ p, p < 64 → (off.part p).keys.owner = none ∧ (off.part p).keys.media = none := fun p hp =>
    have ⟨howner, _, hmedia⟩ := (Dev.zeroised_congr hkeys p).2 (cut.zeroised_prepareReset c hp)
    ⟨howner, hmedia⟩
  split
  · exact ⟨hmode', hinput, rfl, rfl, hzeroised⟩
  · exact ⟨rfl, hinput, rfl, rfl, hzeroised⟩

theorem execInputLostInSleep_asleep {s : State} (h : s.dev.power.mode = .sleep) : execInputLostInSleep s = execLowerLimitTrip s := by
  unfold execInputLostInSleep execLowerLimitTrip
  rw [State.onBoth_eq, State.onBoth_eq, if_pos h]

theorem execPowerOn_starts {s : State} (hin : s.dev.power.inputOk = false) (haux : s.dev.power.auxOk = true)
    (hoff : s.dev.power.mode = .off) :
    ∃ c d, execPowerOn s = .next { s with clock := c, dev := d } ∧ d.power.mode = .bringup 1 ∧ d.power.warm = false ∧
      d.power.inputOk = true ∧ c.powered = true ∧ c.powerCycles = s.clock.powerCycles + 1 ∧
      (s.dev.power.kept = true → c.time = s.clock.time) ∧ (s.dev.power.kept = false → c.time = s.dev.power.floor + 1000000000) := by
  obtain ⟨c, d, h, hmode, hwarm, hinput, -, hpowered, hcycles, hkept, hfloor⟩ :=
    powerUp_starts (c := s.clock) (d := s.dev.modPower fun x => { x with inputOk := true }) hoff
  refine ⟨c, d, State.onBoth_next ?_, hmode, hwarm, hinput, hpowered, hcycles, hkept, hfloor⟩
  dsimp only
  rw [if_neg (by simp [hin]), if_pos (by simpa [Dev.modPower] using haux), h]

/-! ### The auxiliary input (R430, R510) -/

/-- A module that runs on the 48 V input goes on without the auxiliary one; no record is written (log 45). -/
theorem execAuxInputLost_runs {s : State} (hin : s.dev.power.inputOk = true) (hon : s.dev.power.mode ≠ .off) :
    execAuxInputLost s = Becomes s { s.dev with power := { s.dev.power with auxOk := false } } := by
  refine State.onBoth_becomes ?_
  dsimp only
  rw [if_pos (by simp [Dev.modPower, hin, hon])]
  rfl

theorem execAuxInputLost_forgets {s : State} (hin : s.dev.power.inputOk = false) :
    ∃ c d, execAuxInputLost s = .next { s with clock := c, dev := d } ∧ d.power.kept = false ∧ c.everLocked = false ∧
      c.timeLost = true ∧ d.power.auxOk = false := by
  refine ⟨_, _, State.onBoth_next (if_neg ?_), rfl, rfl, rfl, rfl⟩
  simp [Dev.modPower, hin]

theorem execAuxInputRestored_starts {s : State} (haux : s.dev.power.auxOk = false) (hin : s.dev.power.inputOk = true)
    (hoff : s.dev.power.mode = .off) :
    ∃ c d, execAuxInputRestored s = .next { s with clock := c, dev := d } ∧ d.power.mode = .bringup 1 ∧ d.power.auxOk = true ∧
      c.powered = true := by
  obtain ⟨c, d, h, hmode, -, -, hauxOk, hpowered, -⟩ :=
    powerUp_starts (c := s.clock) (d := s.dev.modPower fun x => { x with auxOk := true }) hoff
  refine ⟨c, d, State.onBoth_next ?_, hmode, hauxOk, hpowered⟩
  dsimp only
  rw [if_neg (by simp [haux]), if_pos (by simp [Dev.modPower, hin, hoff]), h]

/-! ### Carriers (R286, R511, R512) -/

theorem Dev.nandStop_nandOff (d : Dev) (side : Nat) : side ∈ (d.nandStop side).flash.nandOff := by
  unfold Dev.nandStop
  split
  case isTrue h => exact List.contains_iff_mem.1 h
  case isFalse => exact List.mem_cons_self

theorem Dev.nandStop_lost (d : Dev) (side n : Nat) : (d.nandStop side).flash.lost n = d.flash.lost n := by
  unfold Dev.nandStop
  split <;> rfl

theorem Dev.loseDie_nandOff (d : Dev) (c : Clock) (side : Nat) (forGood : Bool) :
    (d.loseDie c side forGood).flash.nandOff = d.flash.nandOff := by simp [Dev.loseDie]

/-- The die of a carrier that goes is lost, with its NAND operations stopped, whatever of the power tells of the carrier. -/
theorem Dev.storageDieLost_carrierGone {d : Dev} (c : Clock) {side : Nat} (hside : side < 2) (hlost : d.flash.lost side = false)
    (hother : d.flash.lost (1 - side) = false) (f : Power → Power) :
    let e := ((d.modPower f).nandStop side).storageDieLost c side false
    e.flash.lost side = true ∧ side ∈ e.flash.nandOff := by
  intro e
  have hstop : ∀ n, ((d.modPower f).nandStop side).flash.lost n = d.flash.lost n := Dev.nandStop_lost _ side
  have he : e = ((d.modPower f).nandStop side).loseDie c side false :=
    Dev.storageDieLost_first c false hside ((hstop side).trans hlost) ((hstop (1 - side)).trans hother)
  rw [he, Dev.loseDie_nandOff]
  exact ⟨(Dev.loseDie_lost c false hside ((hstop (1 - side)).trans hother)).1, Dev.nandStop_nandOff _ side⟩

/-- Settles O55: each supply by its own lemma; the loss of the 48 V input is one run, from sleep or not. -/
theorem suppliesComeAndGo : Obligations.SuppliesComeAndGo := by
  intro s
  dsimp only
  refine ⟨fun hin haux hoff => ?on, fun hin hmode _ _ => ⟨?trip, fun hsleep => ?sleep⟩, fun hin hon => ?auxLost, fun hin => ?bothLost,
    fun haux hin hoff => ?restored, fun side hside hlost hother => ⟨?fault, ?removed⟩⟩
  case on => exact execPowerOn_starts hin haux hoff
  case trip => exact ⟨_, _, rfl, loseInput_lost hin hmode⟩
  case sleep =>
    obtain ⟨hoff, hinput, hpowered, -⟩ := loseInput_lost (c := s.clock) hin hmode
    exact ⟨_, _, (execInputLostInSleep_asleep hsleep).trans rfl, hoff, hinput, hpowered⟩
  case auxLost => exact execAuxInputLost_runs hin hon
  case bothLost => exact execAuxInputLost_forgets hin
  case restored => exact execAuxInputRestored_starts haux hin hoff
  case fault => exact ⟨_, congrArg (Becomes s) (if_neg (Nat.not_le_of_lt hside)), Dev.storageDieLost_carrierGone s.clock hside hlost hother _⟩
  case removed => exact ⟨_, congrArg (Becomes s) (if_neg (Nat.not_le_of_lt hside)), Dev.storageDieLost_carrierGone s.clock hside hlost hother _⟩

end Sys2Proof.Machine
end

section
/-! PROOF. The ends of requests: what leaves the in-flight table, and the fields of the completion entry. -/

namespace Sys2Proof.Machine

open Sys2Proof

/-! ### The in-flight table (R318, R319) -/

/-- Settles O6: the end takes the request out of its in-flight table; dropping it and writing its entry leave every other. -/
theorem endRemovesOnlyItsRequest : Obligations.EndRemovesOnlyItsRequest := fun d c r e =>
  ⟨d.req?_finish_self c r e, fun _ h => d.req?_finish_ne c e h⟩

/-! ### Little-endian fields (R5) -/

@[simp] theorem le_length (n v : Nat) : (le n v).length = n := by
  induction n generalizing v with
  | zero => rfl
  | succ n ih => simp [le, ih]

@[simp] theorem zeros_length (n : Nat) : (zeros n).length = n := List.length_replicate

theorem leNat_le (n v : Nat) : leNat (le n v) = v % 256 ^ n := by
  induction n generalizing v with
  | zero => simp [le, leNat, Nat.mod_one]
  | succ n ih =>
    rw [le, leNat, ih, BitVec.toNat_ofNat]
    exact ((congrArg (v % ·) Nat.pow_succ').trans Nat.mod_mul).symm

theorem leNat_zeros (n : Nat) : leNat (zeros n) = 0 := by
  induction n with
  | zero => rfl
  | succ n ih => rw [zeros, List.replicate_succ, leNat, ← zeros, ih]; rfl

theorem leNat_append (a b : Bytes) : leNat (a ++ b) = leNat a + 256 ^ a.length * leNat b := by
  induction a with
  | nil => simp [leNat]
  | cons x a ih => rw [List.cons_append, leNat, leNat, ih, List.length_cons, Nat.pow_succ']; ring

theorem leNat_lt (b : Bytes) : leNat b < 256 ^ b.length := by
  induction b with
  | nil => simp [leNat]
  | cons a b ih =>
    have ha := a.isLt
    rw [leNat, List.length_cons, Nat.pow_succ]
    omega

theorem fld_lt (b : Bytes) (off n : Nat) : fld b off n < 256 ^ n :=
  (leNat_lt _).trans_le (Nat.pow_le_pow_right (by decide) (List.length_take_le n _))

/-- A field that lies behind the first part of a record is a field of the rest. -/
theorem fld_append_right {a : Bytes} {off : Nat} (h : a.length ≤ off) (b : Bytes) (n : Nat) :
    fld (a ++ b) off n = fld b (off - a.length) n := by
  rw [fld, List.drop_append, List.drop_eq_nil_of_le h, List.nil_append, fld]

/-- The field that is the first part of a record. -/
theorem fld_append_left {a : Bytes} {n : Nat} (h : a.length = n) (b : Bytes) : fld (a ++ b) 0 n = leNat a := by
  rw [fld, List.drop_zero, List.take_left' h]

theorem fld_all {a : Bytes} {n : Nat} (h : a.length = n) : fld a 0 n = leNat a := by
  rw [fld, List.drop_zero, List.take_of_length_le h.le]

/-- A field is its low part and its high part. -/
theorem fld_add {b : Bytes} {off m : Nat} (h : off + m ≤ b.length) (n : Nat) :
    fld b off (m + n) = fld b off m + 256 ^ m * fld b (off + m) n := by
  have hm : ((b.drop off).take m).length = m := by simp; omega
  rw [fld, List.take_add, leNat_append, hm, List.drop_drop, fld, fld]

/-! ### Completion entries (R319) -/

@[simp] theorem completionBytes_length (q : Req) (rel : Nat) (e : Ending) : (completionBytes q rel e).length = 32 := by
  simp [completionBytes]

/-- The fields of a completion entry, as they stand one behind the other. -/
theorem fld_completionBytes (q : Req) (rel : Nat) (e : Ending) :
    let keep := okStatus e.status || e.status == statusREDIRECT || e.status == statusSUSPENDED || e.status == statusNOTCANCEL
    fld (completionBytes q rel e) 1 1 = e.status % 256 ∧
    fld (completionBytes q rel e) 2 2 = (if okStatus e.status then e.flags else 0) % 256 ^ 2 ∧
    fld (completionBytes q rel e) 8 4 = q.commandId % 256 ^ 4 ∧
    fld (completionBytes q rel e) 12 4 = q.seq % 256 ^ 4 ∧
    fld (completionBytes q rel e) 16 8 = (if keep then e.r0 else 0) % 256 ^ 8 ∧
    fld (completionBytes q rel e) 24 8 = (if keep then e.r1 else 0) % 256 ^ 8 := by
  simp only [completionBytes, List.append_assoc]
  refine ⟨?_, ?_, ?_, ?_, ?_, ?_⟩ <;> simp [fld_append_right, fld_append_left, fld_all, leNat_le]

/-- Settles O7: each field of the entry is the value that its place is written with, which fits it. -/
theorem completionEntryLayout : Obligations.CompletionEntryLayout := by
  intro q rel e hstatus hflags hr0 hr1 hseq
  obtain ⟨h1, h2, h8, h12, h16, h24⟩ := fld_completionBytes q rel e
  refine ⟨completionBytes_length q rel e, ?status, ?flags, ?command, ?sequence, fun hok => ?results, fun herr hre hsu hnc => ?zero⟩
  case status => rw [h1, Nat.mod_eq_of_lt hstatus]
  case flags =>
    rw [h2, Nat.mod_eq_of_lt]
    split
    · exact hflags
    · decide
  case command => rw [h8]; exact Nat.mod_eq_of_lt (fld_lt q.desc 4 4)
  case sequence => rw [h12]; exact Nat.mod_eq_of_lt hseq
  case results =>
    simp only [hok, Bool.true_or, if_true] at h16 h24
    exact ⟨h16.trans (Nat.mod_eq_of_lt hr0), h24.trans (Nat.mod_eq_of_lt hr1)⟩
  case zero =>
    have hlen : 16 + 8 ≤ (completionBytes q rel e).length := by simp
    rw [fld_add hlen 8, h16, h24]
    simp [herr, hre, hsu, hnc]

end Sys2Proof.Machine
end

section
/-! PROOF. Ring sets: the slots that completion entries take, and the places from which descriptors are fetched. -/

namespace Sys2Proof.Machine

open Sys2Proof

/-! ### Ring sets that there are -/

/-- The device has this ring set. -/
def Dev.HasRing (d : Dev) : RsId → Prop
  | .part p n => p < d.parts.length ∧ n < (d.part p).rings.length
  | .mgmt n => n < d.mgmt.rings.length

theorem Dev.HasRing.modRing {d : Dev} {rs : RsId} (h : d.HasRing rs) (k : RsId) (f : RingSet → RingSet) : (d.modRing k f).HasRing rs := by
  cases k with
  | part p n =>
    cases rs with
    | part q m =>
      have hlen := Dev.part_modPart_keep (fun x => x.rings.length) d p q (fun x => { x with rings := modAt f n x.rings })
        fun x => modAt_length f n x.rings
      exact ⟨(d.modPart_length p _).symm ▸ h.1, hlen.symm ▸ h.2⟩
    | mgmt m => exact h
  | mgmt n =>
    cases rs with
    | part q m => exact h
    | mgmt m => exact h.trans_eq (modAt_length f n d.mgmt.rings).symm

theorem Dev.HasRing.outward {d e : Dev} {rs : RsId} (h : d.HasRing rs) (k : Outward d e) : e.HasRing rs := by
  obtain ⟨_, _, rfl⟩ := k
  cases rs <;> exact h

theorem Dev.HasRing.sendRdma {d : Dev} {rs : RsId} (h : d.HasRing rs) (c : Clock) (k : RsId) (o : RoceOut) : (d.sendRdma c k o).HasRing rs := by
  unfold Dev.sendRdma
  split
  · exact h
  · split
    · exact ((h.outward (outward_nextSequence d k.partNo)).modRing k _).outward (outward_sendTo _ c _ _ _ _ _ _ _ _)
    · exact h.modRing k _

theorem Dev.HasRing.writeHost {d : Dev} {rs : RsId} (h : d.HasRing rs) (c : Clock) (k : RsId) (tie : Tie) (svc addr : Nat) (b : Bytes) :
    (d.writeHost c k tie svc addr b).HasRing rs := by
  unfold Dev.writeHost
  dsimp only
  split
  · exact List.foldlRecOn (motive := fun e : Dev => e.HasRing rs) _ _ h fun e he _ _ => he.sendRdma c k _
  · exact h.outward (outward_emit d _)

/-- A ring set that there is takes its update. -/
theorem Dev.HasRing.ring_modRing {d : Dev} {rs : RsId} (h : d.HasRing rs) (f : RingSet → RingSet) :
    (d.modRing rs f).ring rs = f (d.ring rs) := by
  cases rs with
  | part p n =>
    have hp : (d.modPart p fun x => { x with rings := modAt f n x.rings }).part p = _ := Dev.part_modPart_self d _ h.1
    simpa only [Dev.ring, Dev.modRing, hp] using modAt_getD_eq f _ h.2
  | mgmt n => exact modAt_getD_eq f _ h

/-! ### Slots of the completion ring (R320, R321, R326) -/

theorem Dev.ring_modMsix (d : Dev) (fn : Fn) (v : Nat) (f : MsixVec → MsixVec) (rs : RsId) : (d.modMsix fn v f).ring rs = d.ring rs := by
  cases fn with
  | pf => cases rs <;> rfl
  | vf n => exact Dev.ring_modPart_keep d n (fun x => { x with msix := modAt f v x.msix }) (fun _ => rfl) rs
  | remote n _ => exact Dev.ring_modPart_keep d n (fun x => { x with msix := modAt f v x.msix }) (fun _ => rfl) rs

/-- A notification takes the count of entries not yet notified, and nothing else of any ring set. -/
theorem Dev.ring_notify_pend {α : Type} (g : RingSet → α) (hg : ∀ r : RingSet, g { r with run := { r.run with pend := 0 } } = g r)
    (d : Dev) (c : Clock) (rs k : RsId) : g ((d.notify c rs).ring k) = g (d.ring k) := by
  refine Eq.trans (congrArg g ?_) (Dev.ring_modRing g d rs k _ hg)
  unfold Dev.notify
  dsimp only
  split
  · exact (outward_sendPacketOn _ c _ _ _ _ _ _ _ _ _).ring k
  · split
    · exact Dev.ring_modMsix _ _ _ _ k
    · exact (outward_emit _ _).ring k

/-- The next slot of a ring set, the phase of its entry, and the entries that wait. -/
def RingSet.slots (r : RingSet) : Nat × Bool × List WaitEntry := (r.run.cqTail, r.run.phase, r.entries)

/-- An entry that is written takes one slot; the phase is inverted where the ring's end is passed. -/
theorem Dev.HasRing.slots_writeSlot {d : Dev} {rs : RsId} (h : d.HasRing rs) (c : Clock) (e : WaitEntry) :
    ((d.writeSlot c rs e).ring rs).slots =
      let r := d.ring rs
      let tail := (r.run.cqTail + 1) % r.cqSize
      (tail, if tail = 0 then !r.run.phase else r.run.phase, r.entries) := by
  have hnotify (a : Dev) (b : Prop) [Decidable b] : ((if b then a.notify c rs else a).ring rs).slots = (a.ring rs).slots := by
    split
    · exact Dev.ring_notify_pend RingSet.slots (fun _ => rfl) a c rs rs
    · rfl
  unfold Dev.writeSlot
  extract_lets r b0 isDone bytes tie written done tail advanced
  have hwritten : written.HasRing rs ∧ (written.ring rs).slots = r.slots :=
    ⟨h.writeHost c rs tie 3 _ _, Dev.ring_writeHost RingSet.slots (fun _ _ => rfl) d c rs rs tie 3 _ _⟩
  have hdone : done.HasRing rs ∧ (done.ring rs).slots = r.slots := by
    dsimp only [done]
    split
    · refine ⟨hwritten.1.modRing rs _, Eq.trans ?_ hwritten.2⟩
      exact Dev.ring_modRing RingSet.slots written rs rs _ fun _ => rfl
    · exact hwritten
  have hphase : (done.ring rs).run.phase = r.run.phase := congrArg (fun x => x.2.1) hdone.2
  have hentries : (done.ring rs).entries = r.entries := congrArg (fun x => x.2.2) hdone.2
  rw [hnotify, show advanced.ring rs = _ from hdone.1.ring_modRing _]
  simp only [RingSet.slots, hphase, hentries, tail, r]

/-- Settles O8: a free slot with no entry before it is taken; any other entry joins those that wait. -/
theorem entriesTakeSlotsInOrder : Obligations.EntriesTakeSlotsInOrder := by
  intro d c p n e hp hn hst hunw r r'
  have hring : d.HasRing (.part p n) := ⟨hp, hn⟩
  have hdma : d.dmaOk (.part p n) = true := bne_iff_ne.2 hst
  refine ⟨fun hempty hfree => ?taken, fun hwait => ?waits⟩
  case taken =>
    have hput : d.putEntry c (.part p n) e = d.writeSlot c (.part p n) e := by
      simp [Dev.putEntry, hunw, hdma, show (d.ring (.part p n)).entries = [] from hempty, show (d.ring (.part p n)).cqFull = false from hfree]
    have hslots : r'.slots = _ := (congrArg (fun x : Dev => (x.ring (.part p n)).slots) hput).trans (hring.slots_writeSlot c e)
    simpa only [RingSet.slots, Prod.mk.injEq, show (d.ring (.part p n)).entries = [] from hempty] using hslots
  case waits =>
    have hput : d.putEntry c (.part p n) e = d.modRing (.part p n) fun x => { x with entries := x.entries ++ [e] } := by
      unfold Dev.putEntry
      rw [if_neg (by simp [hunw]), if_neg]
      simpa [hdma] using hwait
    have hr' : r' = { r with entries := r.entries ++ [e] } := by
      dsimp only [r']
      rw [hput, hring.ring_modRing]
    simp [hr']

/-! ### Descriptor fetch (R317, R321, R332) -/

/-- How far the submission ring has been fetched: the count of descriptors, and the next place of the ring. -/
def RingSet.fetchPlace (r : RingSet) : Nat × Nat := (r.run.fetched, r.run.sqFetch)

theorem Dev.fetchPlace_writeSlot (d : Dev) (c : Clock) (rs k : RsId) (e : WaitEntry) :
    ((d.writeSlot c rs e).ring k).fetchPlace = (d.ring k).fetchPlace := by
  have hrun (d : Dev) (f : RingRun → RingRun) (h : ∀ x, (f x).fetched = x.fetched ∧ (f x).sqFetch = x.sqFetch) :
      ((d.modRun rs f).ring k).fetchPlace = (d.ring k).fetchPlace :=
    Dev.ring_modRing RingSet.fetchPlace d rs k _ fun r => Prod.ext (h r.run).1 (h r.run).2
  have hhost := Dev.ring_writeHost RingSet.fetchPlace (fun _ _ => rfl) d c rs k
  have hnotify := Dev.ring_notify_pend RingSet.fetchPlace (fun _ => rfl)
  unfold Dev.writeSlot
  dsimp only
  split <;> split <;> simp [hrun, hhost, hnotify]

theorem Dev.fetchPlace_putEntry (d : Dev) (c : Clock) (rs k : RsId) (e : WaitEntry) :
    ((d.putEntry c rs e).ring k).fetchPlace = (d.ring k).fetchPlace := by
  unfold Dev.putEntry
  dsimp only
  split
  · exact Dev.ring_modRing RingSet.fetchPlace d rs k _ fun _ => rfl
  · split
    · exact d.fetchPlace_writeSlot c rs k e
    · exact Dev.ring_modRing RingSet.fetchPlace d rs k _ fun _ => rfl

/-- The end of a request fetches nothing. -/
theorem Dev.fetchPlace_finish (d : Dev) (c : Clock) (r : ReqRef) (e : Ending) (k : RsId) :
    ((d.finish c r e).ring k).fetchPlace = (d.ring k).fetchPlace := by
  unfold Dev.finish
  split
  · rfl
  · obtain ⟨a, ha, hdrop⟩ := d.ring_dropReq r k
    rw [Dev.fetchPlace_putEntry, hdrop, ← ha k]
    exact Dev.ring_modRing RingSet.fetchPlace a r.rs k _ fun _ => rfl

/-- A fetched descriptor takes the next place of its ring, whether its fetch ends it at once or not. -/
theorem Dev.HasRing.fetchPlace_fetchOne {d : Dev} {rs : RsId} (h : d.HasRing rs) (c : Clock) (b : Bytes) :
    ((d.fetchOne c rs b).ring rs).fetchPlace =
      ((d.ring rs).run.fetched + 1, ((d.ring rs).run.sqFetch + 1) % (d.ring rs).sqSize) := by
  unfold Dev.fetchOne
  extract_lets r n found q taken
  have htaken : (taken.ring rs).fetchPlace = (n + 1, (r.run.sqFetch + 1) % r.sqSize) := by
    rw [show taken.ring rs = _ from h.ring_modRing _]
    rfl
  split
  · exact htaken
  · split
    · exact (taken.fetchPlace_finish c _ _ rs).trans htaken
    · exact htaken

/-- A fetch that fails faults the ring set with cause 4 (R332). -/
theorem execDescriptorFetch_failed {s : State} {rs : RsId} (h : 0 < s.dev.fetchable rs) :
    let r := s.dev.ring rs
    let a := r.regs.sqBase + 64 * r.run.sqFetch
    execDescriptorFetch rs none s = Becomes s ((s.dev.readHost s.clock rs 3 a 64).ringFault s.clock rs 4 0 a) := by
  simp [execDescriptorFetch, State.onDev_eq, Becomes, Nat.pos_iff_ne_zero.1 h]

/-- The descriptors that a fetch returns are read from their places and taken in ring order (R316, R317). -/
theorem execDescriptorFetch_read {s : State} {rs : RsId} (h : 0 < s.dev.fetchable rs) (l : List Bytes) :
    let t := upToOrdered (l.take (s.dev.fetchable rs))
    execDescriptorFetch rs (some l) s =
      Becomes s (t.foldl (fun d b => d.fetchOne s.clock rs b) (s.dev.readDescs s.clock rs t.length)) := by
  simp [execDescriptorFetch, State.onDev_eq, Becomes, Nat.pos_iff_ne_zero.1 h]

/-- Settles O27: what a fetch does by what its read returned, and the place that each descriptor takes. -/
theorem descriptorsAreFetched : Obligations.DescriptorsAreFetched := by
  refine ⟨fun s rs => ?reads, fun d c p n b hp hn => ?places⟩
  case reads =>
    intro r a h
    exact ⟨execDescriptorFetch_failed h, execDescriptorFetch_read h⟩
  case places =>
    have hring : d.HasRing (.part p n) := ⟨hp, hn⟩
    exact Prod.ext_iff.1 (hring.fetchPlace_fetchOne c b)

end Sys2Proof.Machine
end

section
/-! PROOF. Doorbell polls and nudges: what a poll and each of its returns leave, and the interval to the next one. -/

namespace Sys2Proof.Machine

open Sys2Proof

/-! ### Updates that agree where they apply -/

/-- Two updates of one element that agree on it, or of none. -/
theorem modAt_congr_getD {α : Type} {f g : α → α} {n : Nat} {l : List α} {z : α} (h : f (l.getD n z) = g (l.getD n z)) :
    modAt f n l = modAt g n l := by
  by_cases hn : n < l.length
  · exact modAt_congr (x := z) hn h
  · rw [modAt_of_le f (Nat.le_of_not_lt hn), modAt_of_le g (Nat.le_of_not_lt hn)]

theorem Dev.modPart_congr {d : Dev} {p : Nat} {f g : Part → Part} (h : f (d.part p) = g (d.part p)) : d.modPart p f = d.modPart p g :=
  congrArg (fun l => { d with parts := l }) (modAt_congr_getD h)

theorem Dev.modRing_congr {d : Dev} {rs : RsId} {f g : RingSet → RingSet} (h : f (d.ring rs) = g (d.ring rs)) :
    d.modRing rs f = d.modRing rs g := by
  cases rs with
  | part p n => exact Dev.modPart_congr (congrArg (fun l => { d.part p with rings := l }) (modAt_congr_getD h))
  | mgmt n => exact congrArg (fun l => { d with mgmt := { d.mgmt with rings := l } }) (modAt_congr_getD h)

theorem Dev.modRun_congr {d : Dev} {rs : RsId} {f g : RingRun → RingRun} (h : f (d.ring rs).run = g (d.ring rs).run) :
    d.modRun rs f = d.modRun rs g :=
  Dev.modRing_congr (congrArg (fun x => { d.ring rs with run := x }) h)

/-! ### Doorbell polls (R322 to R324) -/

/-- A poll that may be made is made at its time. -/
theorem execDoorbellPoll_polls {s : State} {rs : RsId} (hlive : (s.dev.ring rs).run.st.live = true)
    (hout : (s.dev.ring rs).run.pollOut = false) (hserved : s.dev.ringServed rs = true) :
    let t := (s.dev.ring rs).run.nextPoll
    execDoorbellPoll rs s = BecomesAt s t (s.dev.poll (s.clock.reach t) rs) := by
  simp [execDoorbellPoll, Dev.mayPoll, hlive, hout, hserved, State.atTime_eq, BecomesAt]

/-- A poll that brings no new tail and no new head, and finds no work, only counts as empty. -/
theorem Dev.modRun_nothing_new {d : Dev} {rs : RsId} {tail head : Nat} {work : Bool} (ht : (d.ring rs).run.sqTail = tail)
    (hh : (d.ring rs).run.cqHead = head) (hw : work = false) (faulting : Bool) (upTo lo hi : Nat) :
    (d.modRun rs fun x =>
      let x : RingRun := if faulting || tail == x.sqTail then x else { x with sqTail := tail, founds := x.founds ++ [(upTo, x.pollStart)] }
      ({ x with cqHead := head } : RingRun).afterPoll lo hi work) = d.modRun rs fun x => x.afterPoll lo hi false := by
  subst ht hh hw
  exact Dev.modRun_congr (by simp)

section PollReturn

variable {s : State} {rs : RsId} {b : Bytes} (hout : (s.dev.ring rs).run.pollOut = true)
include hout

/-- A poll whose read failed faults its ring set, which polls again at the longest interval (R332). -/
theorem execDoorbellPollReturn_failed (hlive : (s.dev.ring rs).run.st.live = true) :
    let r := s.dev.ring rs
    execDoorbellPollReturn rs none s = Becomes s (((s.dev.modRun rs fun x => { x with pollOut := false }).ringFault s.clock rs 3 0
      r.regs.doorbell).modRun rs fun x => { x with nextPoll := s.clock.time + r.regs.maxPoll }) := by
  simp [execDoorbellPollReturn, State.onDev_eq, Becomes, hout, hlive]

/-- A tail beyond the submission ring faults a running ring set (R332). -/
theorem execDoorbellPollReturn_badTail (hst : (s.dev.ring rs).run.st = .running) (htail : (s.dev.ring rs).sqSize ≤ fld b 0 2) :
    let r := s.dev.ring rs
    execDoorbellPollReturn rs (some b) s = Becomes s (((s.dev.modRun rs fun x => { x with pollOut := false }).ringFault s.clock rs 1
      (fld b 0 2) 0).modRun rs fun x => x.afterPoll r.regs.minPoll r.regs.maxPoll true) := by
  simp [execDoorbellPollReturn, State.onDev_eq, Becomes, hout, hst, RingSt.live, htail]

/-- A tail and a head that stand, with nothing in flight: an empty poll (R323). -/
theorem execDoorbellPollReturn_empty (hst : (s.dev.ring rs).run.st = .running) (htail : fld b 0 2 = (s.dev.ring rs).run.sqFetch)
    (hhead : fld b 4 2 = (s.dev.ring rs).run.cqHead) (hsq : (s.dev.ring rs).run.sqFetch < (s.dev.ring rs).sqSize)
    (hcq : (s.dev.ring rs).run.cqHead < (s.dev.ring rs).cqSize) (hold : (s.dev.ring rs).run.sqTail = (s.dev.ring rs).run.sqFetch)
    (hnone : (s.dev.ring rs).inFlight = 0) :
    let r := s.dev.ring rs
    execDoorbellPollReturn rs (some b) s =
      Becomes s ((((s.dev.modRun rs fun x => { x with pollOut := false }).modRun rs fun x =>
        x.afterPoll r.regs.minPoll r.regs.maxPoll false).flushRing s.clock rs).closeDrain s.clock rs |>.settleRs s.clock rs) := by
  intro r
  have htail' : ((s.dev.modRun rs fun x => { x with pollOut := false }).ring rs).run.sqTail = r.run.sqTail :=
    Dev.ring_modRing (fun r => r.run.sqTail) s.dev rs rs _ fun _ => rfl
  have hhead' : ((s.dev.modRun rs fun x => { x with pollOut := false }).ring rs).run.cqHead = r.run.cqHead :=
    Dev.ring_modRing (fun r => r.run.cqHead) s.dev rs rs _ fun _ => rfl
  unfold execDoorbellPollReturn
  rw [State.onDev_eq]
  dsimp only
  rw [if_neg (by simp [hout, hst, RingSt.live]), if_neg (by simpa [htail] using fun _ => hsq), if_neg (by simpa [hhead] using hcq)]
  refine congrArg (fun e : Dev => Becomes s (((e.flushRing s.clock rs).closeDrain s.clock rs).settleRs s.clock rs)) ?_
  exact Dev.modRun_nothing_new (htail'.trans (hold.trans htail.symm)) (hhead'.trans hhead.symm) (by simp [htail, hhead, hst, hnone]) _ _ _ _

end PollReturn

/-- With work the interval falls to the shortest; without, it stands for three polls and then doubles, up to the longest (R323). -/
theorem RingRun.afterPoll_interval (x : RingRun) (lo hi : Nat) :
    (x.afterPoll lo hi true).interval = lo ∧ (x.afterPoll lo hi true).empty = 0 ∧
    (x.empty < 3 → (x.afterPoll lo hi false).interval = x.interval) ∧
    (3 ≤ x.empty → (x.afterPoll lo hi false).interval = min (2 * x.interval) hi) := by
  refine ⟨rfl, rfl, fun h => ?stands, fun h => ?doubles⟩
  case stands => simp [RingRun.afterPoll, show ¬ 3 < x.empty + 1 by omega]
  case doubles => simp [RingRun.afterPoll, show 3 < x.empty + 1 by omega]

theorem RingRun.afterPoll_nextPoll (x : RingRun) (lo hi : Nat) (work : Bool) :
    (x.afterPoll lo hi work).nextPoll = x.pollStart + (x.afterPoll lo hi work).interval := by
  unfold RingRun.afterPoll
  cases work
  · by_cases h : 3 < x.empty + 1 <;> simp [h]
  · rfl

/-! ### Nudges (R325) -/

/-- A nudge of a ring set that runs or stops brings its next poll to within 250 ns. -/
theorem execLocalNudge_nudges {s : State} {rs : RsId} {fn : Fn} {off : Nat} (htarget : nudgeTarget fn off = some rs)
    (hheard : s.dev.heard rs = true) (hst : (s.dev.ring rs).run.st = .running ∨ (s.dev.ring rs).run.st = .stopping) :
    execLocalNudge fn off s = Becomes s (s.dev.modRun rs fun x => { x with nextPoll := min x.nextPoll (s.clock.time + 250) }) := by
  simp [execLocalNudge, State.onDev_eq, Becomes, htarget, hheard, Dev.nudge, hst]

/-- Settles O26: what a poll, each of its returns and a nudge do, and the interval that follows a poll. -/
theorem pollsAndNudges : Obligations.PollsAndNudges := by
  refine ⟨fun s rs => ?commands, fun x lo hi => ?interval⟩
  case commands =>
    exact ⟨execDoorbellPoll_polls, fun hout hlive => execDoorbellPollReturn_failed hout hlive,
      fun b hout hst htail hhead hsq hcq hold hnone => execDoorbellPollReturn_empty hout hst htail hhead hsq hcq hold hnone,
      fun b hout hst htail => execDoorbellPollReturn_badTail hout hst htail,
      fun fn off htarget hheard hst => execLocalNudge_nudges htarget hheard hst⟩
  case interval =>
    obtain ⟨hfalls, hzero, hstands, hdoubles⟩ := x.afterPoll_interval lo hi
    exact ⟨hfalls, hzero, hstands, hdoubles, x.afterPoll_nextPoll lo hi⟩

end Sys2Proof.Machine
end

section
/-! PROOF. Registers: the writes that are ignored, those of moderation and of a refused-write bit, and the reads that latch a high half. -/

namespace Sys2Proof.Machine

open Sys2Proof

/-! ### Writes of registers (R305, R307, R308) -/

/-- A write that is not of 4 or 8 bytes, or not aligned, is ignored (R307). -/
theorem Dev.regWrite_ignored (d : Dev) (c : Clock) (fn : Fn) {off size : Nat} (v : Nat) (h : size ≠ 4 ∧ size ≠ 8 ∨ off % size ≠ 0) :
    d.regWrite c fn off size v = d := by
  have hacc : accessOk off size = false := by
    rcases h with ⟨h4, h8⟩ | h
    · simp [accessOk, h4, h8]
    · simp [accessOk, h]
  simp [Dev.regWrite, hacc]

theorem Dev.bar0Up_of_up {d : Dev} (h : d.power.mode = .up) : d.bar0Up = true := by simp [Dev.bar0Up, h]

/-- An access of a virtual function to its own set-up page (R305). -/
theorem pageOf_own {p o : Nat} (hp : p < 64) (ho : o < 0x1000) : pageOf (.vf p) (0x100000 + 0x1000 * p + o) = .part p o true := by
  have hpage : (0x100000 + 0x1000 * p + o) / 0x1000 = 0x100 + p := by omega
  have hoff : (0x100000 + 0x1000 * p + o) % 0x1000 = o := by omega
  simp [pageOf, hpage, hoff, hp]

theorem nudgeTarget_own_page {p o : Nat} (hp : p < 64) (ho : o < 0x1000) : nudgeTarget (.vf p) (0x100000 + 0x1000 * p + o) = none := by
  simp [nudgeTarget]
  omega

/-- A write of a virtual function to its own set-up page is a write of that page. -/
theorem Dev.regWrite_own {d : Dev} {p o size : Nat} (c : Clock) (v : Nat) (hp : p < 64) (ho : o < 0x1000) (hup : d.power.mode = .up)
    (hsize : size = 4 ∨ size = 8) (halign : o % size = 0) :
    d.regWrite c (.vf p) (0x100000 + 0x1000 * p + o) size v = d.writePart c (.vf p) p false o size (v % 256 ^ size) := by
  have hacc : accessOk (0x100000 + 0x1000 * p + o) size = true := by
    rcases hsize with rfl | rfl <;> simp [accessOk] <;> omega
  simp [Dev.regWrite, hacc, Dev.bar0Up_of_up hup, nudgeTarget_own_page hp ho, pageOf_own hp ho]

/-! ### Fields of a register (R308) -/

theorem testBit_bits (v hi lo i : Nat) : (bits v hi lo).testBit i = (decide (i < hi + 1 - lo) && v.testBit (lo + i)) := by
  rw [bits, Nat.testBit_mod_two_pow, Nat.testBit_div_two_pow, Nat.add_comm lo]

/-- The bits of a field come from what is put in it, every other bit stands. -/
theorem testBit_setBits {hi lo : Nat} (h : lo ≤ hi) (v x i : Nat) :
    (setBits v hi lo x).testBit i = if lo ≤ i ∧ i ≤ hi then x.testBit (i - lo) else v.testBit i := by
  obtain ⟨w, rfl⟩ : ∃ w, hi = lo + w := ⟨hi - lo, by omega⟩
  have hw : lo + w + 1 - lo = w + 1 := by omega
  have hsplit : setBits v (lo + w) lo x =
      2 ^ lo * (2 ^ (w + 1) * (v / 2 ^ (lo + w + 1)) + x % 2 ^ (w + 1)) + v % 2 ^ lo := by
    rw [setBits, hw, Nat.add_assoc lo, Nat.pow_add 2 lo]
    ring
  rw [hsplit, Nat.testBit_two_pow_mul_add _ (Nat.mod_lt _ (Nat.two_pow_pos lo)),
    Nat.testBit_two_pow_mul_add _ (Nat.mod_lt _ (Nat.two_pow_pos (w + 1))), Nat.testBit_mod_two_pow, Nat.testBit_mod_two_pow,
    Nat.testBit_div_two_pow]
  rcases Nat.lt_or_ge i lo with hlow | hge
  · simp [hlow, Nat.not_le.2 hlow]
  · rcases Nat.lt_or_ge (i - lo) (w + 1) with hin | hout
    · simp [hge, hin, Nat.not_lt.2 hge, show i ≤ lo + w by omega]
    · simp [Nat.not_lt.2 hge, Nat.not_lt.2 hout, show ¬ i ≤ lo + w by omega, show i - lo - (w + 1) + (lo + w + 1) = i by omega]

/-- What is put in a field is read in it, as far as it fits. -/
theorem bits_setBits_self {hi lo : Nat} (h : lo ≤ hi) (v x : Nat) : bits (setBits v hi lo x) hi lo = x % 2 ^ (hi + 1 - lo) := by
  refine Nat.eq_of_testBit_eq fun i => ?_
  rw [testBit_bits, testBit_setBits h, Nat.testBit_mod_two_pow]
  by_cases hi' : i < hi + 1 - lo
  · simp [show lo + i ≤ hi by omega]
  · simp [hi']

/-- A field that lies apart stands. -/
theorem bits_setBits_apart {hi lo hi' lo' : Nat} (h : lo ≤ hi) (hapart : hi < lo' ∨ hi' < lo) (v x : Nat) :
    bits (setBits v hi lo x) hi' lo' = bits v hi' lo' := by
  refine Nat.eq_of_testBit_eq fun i => ?_
  rw [testBit_bits, testBit_bits, testBit_setBits h]
  by_cases hi : i < hi' + 1 - lo'
  · rw [if_neg (by omega)]
  · simp [hi]

/-- A field that lies within the field that is set takes its bits of the value. -/
theorem bits_setBits_within {hi lo hi' lo' : Nat} (h : lo ≤ hi) (h' : lo' ≤ hi') (hlo : lo ≤ lo') (hhi : hi' ≤ hi) (v x : Nat) :
    bits (setBits v hi lo x) hi' lo' = bits x (hi' - lo) (lo' - lo) := by
  refine Nat.eq_of_testBit_eq fun i => ?_
  rw [testBit_bits, testBit_bits, testBit_setBits h]
  by_cases hi : i < hi' + 1 - lo'
  · rw [if_pos (by omega), show lo' + i - lo = lo' - lo + i by omega]
    simp [hi, show i < hi' - lo + 1 - (lo' - lo) by omega]
  · simp [hi, show ¬ i < hi' - lo + 1 - (lo' - lo) by omega]

/-- A writable field that takes the value written to it. -/
theorem Field.write_rw {f : Field} {old off size v : Nat} (hacc : f.acc = .rw) (htouched : f.touched off size = true)
    (hok : f.ok (bits (merged old off size v) f.hi f.lo) = true) (cur : Nat × Bool) :
    f.write old off size v cur = (setBits cur.1 f.hi f.lo (bits (merged old off size v) f.hi f.lo), cur.2) := by
  simp [Field.write, htouched, hacc, hok]


/-- Two writable fields that both take their parts of a write. -/
theorem writeReg_two {f g : Field} {old off size v : Nat} (hf : f.acc = .rw ∧ f.touched off size = true)
    (hg : g.acc = .rw ∧ g.touched off size = true)
    (hfok : f.ok (bits (merged old off size v) f.hi f.lo) = true) (hgok : g.ok (bits (merged old off size v) g.hi g.lo) = true) :
    writeReg [f, g] old off size v = (setBits (setBits old f.hi f.lo (bits (merged old off size v) f.hi f.lo)) g.hi g.lo
      (bits (merged old off size v) g.hi g.lo), false) := by
  rw [writeReg, List.foldl_cons, List.foldl_cons, List.foldl_nil, Field.write_rw hf.1 hf.2 hfok, Field.write_rw hg.1 hg.2 hgok]

/-- A write of MOD_COUNT and MOD_TIME in their ranges is taken whole (R314). -/
theorem writeReg_moderation {v : Nat} (lock : Bool) (vmax old : Nat) (hcount : 1 ≤ v % 256) (htime : v / 2 ^ 32 ≤ 1000000) :
    let w := writeReg (ringFields lock vmax 0x30) old 0x30 8 v
    w.2 = false ∧ bits w.1 7 0 = v % 256 ∧ bits w.1 51 32 = v / 2 ^ 32 := by
  have hfits : v / 2 ^ 32 < 2 ^ 20 := by omega
  have hcount' : bits (merged old 0x30 8 v) 7 0 = v % 256 := by
    refine (bits_setBits_within (hi := 63) (lo := 0) ?_ ?_ ?_ ?_ old v).trans ?_ <;> simp [bits]
  have htime' : bits (merged old 0x30 8 v) 51 32 = v / 2 ^ 32 := by
    refine (bits_setBits_within (hi := 63) (lo := 0) ?_ ?_ ?_ ?_ old v).trans (Nat.mod_eq_of_lt hfits) <;> simp
  have hcountOk : inRange 1 255 (bits (merged old 0x30 8 v) 7 0) = true := by
    have : v % 256 ≤ 255 := by omega
    simp [hcount', inRange, hcount, this]
  have htimeOk : inRange 0 1000000 (bits (merged old 0x30 8 v) 51 32) = true := by
    rw [htime']
    simpa [inRange] using htime
  have hfields : ringFields lock vmax 0x30 = [⟨7, 0, .rw, inRange 1 255⟩, ⟨51, 32, .rw, inRange 0 1000000⟩] := by simp only [ringFields]
  have hw := writeReg_two (f := ⟨7, 0, .rw, inRange 1 255⟩) (g := ⟨51, 32, .rw, inRange 0 1000000⟩) ⟨rfl, rfl⟩ ⟨rfl, rfl⟩ hcountOk htimeOk
  rw [← hfields] at hw
  dsimp only
  rw [hw]
  dsimp only
  rw [hcount', htime']
  refine ⟨rfl, ?count, ?time⟩
  case count =>
    refine (bits_setBits_apart (hi := 51) (lo := 32) ?_ ?_ _ _).trans ((bits_setBits_self (hi := 7) (lo := 0) ?_ old _).trans ?_) <;> simp
  case time =>
    refine (bits_setBits_self (hi := 51) (lo := 32) ?_ _ _).trans (Nat.mod_eq_of_lt hfits)
    simp

/-- A write of both moderation fields of a ring set block, in their ranges, sets them and nothing else. -/
theorem Dev.writeRing_moderation {d : Dev} {v : Nat} (c : Clock) (rs : RsId) (lock : Bool) (vmax : Nat) (hcount : 1 ≤ v % 256)
    (htime : v / 2 ^ 32 ≤ 1000000) :
    d.writeRing c rs lock vmax 0x30 8 v =
      d.modRing rs fun r => { r with regs := { r.regs with modCount := v % 256, modTime := v / 2 ^ 32 } } := by
  obtain ⟨hok, hc, ht⟩ := writeReg_moderation lock vmax ((d.ring rs).reg 0x30) hcount htime
  simp [Dev.writeRing, hok, RingRegs.set, hc, ht]

theorem execRegisterWrite_moderation {s : State} {p n v : Nat} (hp : p < 64) (hn : n < 16) (hup : s.dev.power.mode = .up)
    (hbar : (s.dev.part p).barred = false) (hcount : 1 ≤ v % 256) (htime : v / 2 ^ 32 ≤ 1000000) :
    execRegisterWrite (.vf p) (0x100000 + 0x1000 * p + 0x430 + 128 * n) 8 v s = Becomes s
      (s.dev.modRing (.part p n) fun r => { r with regs := { r.regs with modCount := v % 256, modTime := v / 2 ^ 32 } }) := by
  have hv : v % 256 ^ 8 = v := Nat.mod_eq_of_lt (by omega)
  have hring : (0x430 + 128 * n - 0x400) / 128 = n := by omega
  have hoff : (0x430 + 128 * n - 0x400) % 128 = 0x30 := by omega
  rw [execRegisterWrite, State.onDev_eq, Nat.add_assoc, Dev.regWrite_own s.clock v hp (by omega) hup (.inr rfl) (by omega), hv, Becomes]
  unfold Dev.writePart
  dsimp only
  rw [if_neg (by simp [hbar]), if_pos (by omega), hring, hoff, Dev.writeRing_moderation s.clock _ _ _ hcount htime]

/-- Writing 1 to bit 0 of the status register clears that bit and leaves KEY_REFUSED, whatever the read-only bits show (R9, R311). -/
theorem writeReg_rejected (lock rejected owner transport refused : Bool) :
    let w := writeReg (partFields lock 0x30) (b2n rejected + 2 * b2n owner + 4 * b2n transport + 8 * b2n refused) 0x30 4 1
    w.2 = false ∧ bitAt w.1 0 = false ∧ bitAt w.1 3 = refused := by
  revert lock rejected owner transport refused
  decide

theorem execRegisterWrite_rejected {s : State} {p : Nat} (hp : p < 64) (hup : s.dev.power.mode = .up)
    (hbar : (s.dev.part p).barred = false) :
    execRegisterWrite (.vf p) (0x100000 + 0x1000 * p + 0x30) 4 1 s =
      Becomes s (s.dev.modPart p fun x => { x with regs := { x.regs with rejected := false } }) := by
  obtain ⟨hok, hrejected, hrefused⟩ := writeReg_rejected (s.dev.part p).locked (s.dev.part p).regs.rejected
    (s.dev.part p).keys.owner.isSome (s.dev.part p).keys.transport.isSome (s.dev.part p).regs.keyRefused
  rw [execRegisterWrite, State.onDev_eq, Dev.regWrite_own s.clock 1 hp (by decide) hup (.inl rfl) rfl, Becomes]
  have hreg : s.dev.partReg s.clock p 0x30 = b2n (s.dev.part p).regs.rejected + 2 * b2n (s.dev.part p).keys.owner.isSome +
      4 * b2n (s.dev.part p).keys.transport.isSome + 8 * b2n (s.dev.part p).regs.keyRefused := rfl
  have hset := Dev.modPart_congr (d := s.dev) (p := p)
    (f := fun y => { y with regs := { y.regs with rejected := false, keyRefused := (s.dev.part p).regs.keyRefused } })
    (g := fun y => { y with regs := { y.regs with rejected := false } }) rfl
  unfold Dev.writePart
  simpa [hbar, hreg, hok, hrejected, hrefused] using hset

/-! ### Reads of registers that latch their high half (R309) -/

/-- The entry of the latches that belongs to a register of a function. -/
def latchOf (fn : Fn) (base : Nat) (e : Fn × Nat × Nat) : Bool := e.1 == latchFn fn && e.2.1 == base

/-- A register that latches is no epoch register. -/
theorem pageOf_of_latched {fn : Fn} {base : Nat} (h : latched fn base = true) (p : Nat) (w : Bool) : pageOf fn base ≠ .part p 0x18 w := by
  intro hpage
  simp [latched, hpage] at h

/-- A 4-byte read of a register that latches takes its low half and latches the high one, or takes the high half that is latched and
releases it, or with none latched the present one. -/
theorem Dev.regRead_latched {fn : Fn} {base off : Nat} (d : Dev) (c : Clock) (hlatched : latched fn base = true)
    (hbase : off / 8 * 8 = base) (hacc : off % 4 = 0) :
    let v := d.reg64 c fn base
    let rest := d.latches.filter fun e => !latchOf fn base e
    d.regRead c fn off 4 =
      if off = base then ({ d with latches := (latchFn fn, base, v / 2 ^ 32) :: rest }, v % 2 ^ 32)
      else (d.latches.find? (latchOf fn base)).elim (d, v / 2 ^ 32) fun e => ({ d with latches := rest }, e.2.2) := by
  intro v rest
  subst hbase
  have hok : accessOk off 4 = true := by simp [accessOk, hacc]
  unfold Dev.regRead
  rw [if_neg (by simp [hok])]
  extract_lets base' v' d'
  have hd : d' = d := by
    dsimp only [d']
    split
    · next h => exact absurd h (pageOf_of_latched hlatched _ _)
    · rfl
  clear_value d'
  subst hd
  rw [if_neg (by decide), if_neg (by simp [base', hlatched])]
  split
  · rfl
  · split
    · next e he => rw [show d'.latches.find? (latchOf fn _) = some e from he]; rfl
    · next hnone => rw [show d'.latches.find? (latchOf fn _) = none from hnone]; rfl

section Halves

variable {s : State} {fn : Fn} {base off : Nat} (hup : s.dev.bar0Up = true) (hlatched : latched fn base = true)
  (hoff : off / 8 * 8 = base)
include hup hlatched hoff

/-- A read of the low half gives it and latches the high half. -/
theorem execLowHalfRead_latches :
    let v := s.dev.reg64 s.clock fn base
    let rest := s.dev.latches.filter fun e => !latchOf fn base e
    execLowHalfRead fn off s =
      Becomes s (({ s.dev with latches := (latchFn fn, base, v / 2 ^ 32) :: rest } : Dev).emit (.regRead fn base (v % 2 ^ 32))) := by
  have hread := s.dev.regRead_latched s.clock hlatched (off := base) (by omega) (by omega)
  simp only [if_true] at hread
  simp [execLowHalfRead, State.onDev_eq, Dev.hostRegRead, hup, hoff, hread, Becomes]

/-- A read of the high half gives what is latched and releases it. -/
theorem execHighHalfRead_releases {n : Nat} (hheld : s.dev.latches.find? (latchOf fn base) = some (latchFn fn, base, n)) :
    execHighHalfRead fn off s = Becomes s (({ s.dev with latches := s.dev.latches.filter fun e => !latchOf fn base e } : Dev).emit
      (.regRead fn (base + 4) n)) := by
  have hread := s.dev.regRead_latched s.clock hlatched (off := base + 4) (by omega) (by omega)
  simp [hheld] at hread
  simp [execHighHalfRead, State.onDev_eq, Dev.hostRegRead, hup, hoff, hread, Becomes]

/-- With no latch held a read of the high half gives the present one. -/
theorem execHighHalfRead_present (hnone : s.dev.latches.find? (latchOf fn base) = none) :
    execHighHalfRead fn off s = Becomes s (s.dev.emit (.regRead fn (base + 4) (s.dev.reg64 s.clock fn base / 2 ^ 32))) := by
  have hread := s.dev.regRead_latched s.clock hlatched (off := base + 4) (by omega) (by omega)
  simp [hnone] at hread
  simp [execHighHalfRead, State.onDev_eq, Dev.hostRegRead, hup, hoff, hread, Becomes]

end Halves

/-- Settles O25: the writes by the page and field that they reach, the reads of both halves by what is latched. -/
theorem registerAccesses : Obligations.RegisterAccesses := by
  intro s mine
  refine ⟨fun fn off size v h => ?ignored, fun p n v hp hn hup hbar hcount htime => ?moderation, fun p hp hup hbar => ?rejected,
    fun fn base hup hlatched _ => ⟨fun off hoff => ?low, fun off n hoff hheld => ?high, fun off hoff hnone => ?present⟩⟩
  case ignored => exact congrArg (Becomes s) (s.dev.regWrite_ignored s.clock fn v h)
  case moderation => exact execRegisterWrite_moderation hp hn hup hbar hcount htime
  case rejected => exact execRegisterWrite_rejected hp hup hbar
  case low => exact execLowHalfRead_latches hup hlatched hoff
  case high => exact execHighHalfRead_releases hup hlatched hoff hheld
  case present => exact execHighHalfRead_present hup hlatched hoff hnone

end Sys2Proof.Machine
end

section
/-! PROOF. Packets of the transport: set-up messages, nudges, updates of remote modules and their acknowledgements, by what the checks make of each. -/

namespace Sys2Proof.Machine

open Sys2Proof

/-! ### Packets that fail the first check (R431, R435, R436) -/

/-- A malformed packet, or one where the transport does not run, is a port error. -/
theorem execMalformedTransportPacket_counts {s : State} {k : Packet} (h : s.dev.laidOut k = false) :
    execMalformedTransportPacket k s = Becomes s (s.dev.modPort k.port fun y => { y with errors := bump y.errors }) := by
  simp [execMalformedTransportPacket, State.onDev_eq, Becomes, h, Dev.portError]

/-! ### Set-up messages (R306, R409, R437) -/

/-- What the checks of a set-up message leave, and what they make of it (R435). -/
def Dev.setupReceived (d : Dev) (c : Clock) (k : Packet) : Dev × Fate :=
  d.receive c k (d.part (pkPart k)).keys.transport.isSome ((d.part (pkPart k)).cfg.fromOwner k) true

/-- A set-up write that needs an SPDM session and has none: any before the transport key is held, and always one of KEY_DATA. -/
def Dev.needsSession (d : Dev) (k : Packet) : Prop :=
  k.session = false ∧ ((d.part (pkPart k)).keys.transport = none ∨ (0x100 ≤ fld k.payload 0 4 ∧ fld k.payload 0 4 < 0x120))

theorem Dev.needsSession_iff (d : Dev) (k : Packet) : d.needsSession k ↔
    (!k.session && (!(d.part (pkPart k)).keys.transport.isSome ||
      (decide (0x100 ≤ fld k.payload 0 4) && decide (fld k.payload 0 4 < 0x120)))) = true := by
  simp [Dev.needsSession]

section Arrives

variable {s : State} {k : Packet}

/-- A set-up read answers what the register reads, or that its epoch is stale; any other has no answer. -/
theorem execSetupRead_fates (ht : pkType k = 1) :
    let w := s.dev.setupReceived s.clock k
    (w.2 = .accepted →
      let r := w.1.regRead s.clock (.remote (pkPart k) k.session) (fld k.payload 0 4) (fld k.payload 4 1)
      execSetupRead k s = Becomes s (r.1.setupAnswer s.clock k 0 (some r.2) false)) ∧
    (w.2 = .stale → execSetupRead k s = Becomes s (w.1.setupAnswer s.clock k 1 none false)) ∧
    (w.2 = .dropped → execSetupRead k s = Becomes s w.1) := by
  refine ⟨fun h => ?accepted, fun h => ?stale, fun h => ?dropped⟩ <;> unfold Dev.setupReceived at h <;>
    simp [execSetupRead, State.onDev_eq, Becomes, Dev.setupReceived, ht, h]

/-- An accepted set-up write that has the session it needs writes its register; one without it is refused. -/
theorem execSetupWrite_accepted (ht : pkType k = 2) (h : (s.dev.setupReceived s.clock k).2 = .accepted) :
    let d := (s.dev.setupReceived s.clock k).1
    (¬ s.dev.needsSession k → execSetupWrite k s = Becomes s ((d.regWrite s.clock (.remote (pkPart k) k.session) (fld k.payload 0 4)
      (fld k.payload 4 1) (fld k.payload 8 8)).setupAnswer s.clock k 0 none true)) ∧
    (s.dev.needsSession k → execSetupWrite k s = Becomes s ((d.rejectPart (pkPart k)).setupAnswer s.clock k 2 none true)) := by
  unfold Dev.setupReceived at h
  refine ⟨fun hsession => ?written, fun hsession => ?refused⟩
  case written =>
    rw [Dev.needsSession_iff] at hsession
    simp only [execSetupWrite, State.onDev_eq, ht, h, ne_eq, not_true_eq_false, if_false, if_neg hsession, Becomes, Dev.setupReceived]
  case refused =>
    rw [Dev.needsSession_iff] at hsession
    simp only [execSetupWrite, State.onDev_eq, ht, h, ne_eq, not_true_eq_false, if_false, if_pos hsession, Becomes, Dev.setupReceived]

/-- Any other set-up write: a stale epoch is answered, a repeated packet is given its answer again, a dropped one is not answered. -/
theorem execSetupWrite_fates (ht : pkType k = 2) :
    let w := s.dev.setupReceived s.clock k
    (w.2 = .stale → execSetupWrite k s = Becomes s (w.1.setupAnswer s.clock k 1 none false)) ∧
    (∀ b, w.2 = .repeated (some b) → execSetupWrite k s = Becomes s (w.1.answer s.clock k 3 3 b)) ∧
    (w.2 = .dropped → execSetupWrite k s = Becomes s w.1) := by
  refine ⟨fun h => ?stale, fun b h => ?again, fun h => ?dropped⟩ <;> unfold Dev.setupReceived at h <;>
    simp [execSetupWrite, State.onDev_eq, Becomes, Dev.setupReceived, ht, h]

/-! ### Nudges of remote ring sets (R325, R436) -/

/-- A nudge that the peer of a remote ring set sends brings its poll forward. -/
theorem execFabricNudge_nudges (ht : pkType k = 5) {d : Dev} {rs : RsId} (hrs : rs = .part (pkPart k) (fld k.payload 0 1))
    (h : s.dev.receive s.clock k true ((s.dev.part (pkPart k)).cfg.fromOwner k) true = (d, .accepted)) (hn : fld k.payload 0 1 < 16)
    (hremote : (d.ring rs).regs.remote = true) (hpeer : (d.ring rs).regs.peerId = pkSource k) (hheard : d.heard rs = true) :
    execFabricNudge k s = Becomes s (d.nudge s.clock rs) := by
  subst hrs
  simp [execFabricNudge, State.onDev_eq, Becomes, ht, h, hn, hremote, hpeer, hheard]

/-! ### Updates of remote modules and their acknowledgements (R433, R436, R445) -/

/-- What the checks of an update of a remote module leave, and what they make of it (R435). -/
def Dev.updateReceived (d : Dev) (c : Clock) (k : Packet) : Dev × Fate := d.receive c k true ((d.part (pkPart k)).cfg.fromSource k) true

theorem execUpdate_fates (ht : pkType k = 8) :
    let w := s.dev.updateReceived s.clock k
    (w.2 = .accepted → (s.dev.part (pkPart k)).life.st ≠ .closed → execUpdate k s = Becomes s (w.1.runUpdate s.clock k)) ∧
    (w.2 = .stale → execUpdate k s = Becomes s (w.1.redirect s.clock k)) ∧
    (∀ b, w.2 = .repeated (some b) → execUpdate k s = Becomes s (w.1.sendAck s.clock (pkPart k) (pkSource k) (pkService k) b)) ∧
    (w.2 = .dropped → execUpdate k s = Becomes s w.1) := by
  refine ⟨fun h hopen => ?accepted, fun h => ?stale, fun b h => ?again, fun h => ?dropped⟩ <;> unfold Dev.updateReceived at h <;>
    simp [execUpdate, State.onDev_eq, Becomes, Dev.updateReceived, ht, h]
  case accepted => exact fun h => absurd h hopen

/-- An acknowledgement takes the update that it names from those that are repeated. -/
theorem execUpdateAck_ends (ht : pkType k = 9) {d : Dev}
    (h : s.dev.receive s.clock k true ((s.dev.part (pkPart k)).cfg.fromSource k) false = (d, .accepted)) :
    execUpdateAck k s = Becomes s (d.modTransport (pkPart k) fun t =>
      { t with outs := t.outs.filter fun o => !(o.sequence == fld k.payload 0 8 && o.peer == pkSource k / 64) }) := by
  simp [execUpdateAck, State.onDev_eq, Becomes, ht, h]

end Arrives

/-- Settles O38: each type of packet by what its checks make of it. -/
theorem packetsArrive : Obligations.PacketsArrive := by
  intro s k c p x w u a n
  refine ⟨execMalformedTransportPacket_counts, fun ht => ?read, fun ht => ?write, fun ht haccepted hn => ?nudge, fun ht => ?update,
    fun ht haccepted => ?acknowledged⟩
  case read => exact execSetupRead_fates ht
  case write =>
    obtain ⟨hstale, hagain, hdropped⟩ := execSetupWrite_fates (s := s) ht
    exact ⟨⟨fun h => (execSetupWrite_accepted ht h).1, fun h => (execSetupWrite_accepted ht h).2⟩, hstale, hagain, hdropped⟩
  case nudge => exact fun hremote hpeer hheard => execFabricNudge_nudges ht rfl (Prod.ext rfl haccepted) hn hremote hpeer hheard
  case update => exact execUpdate_fates ht
  case acknowledged => exact execUpdateAck_ends ht (Prod.ext rfl haccepted)

end Sys2Proof.Machine
end

section
/-! PROOF. The state after reset: every partition, ring set and power budget holds the reset value of its kind. -/

namespace Sys2Proof.Machine

open Sys2Proof

/-! ### Every partition and ring set at reset (R312 to R315, R397) -/

theorem getD_map_range {α : Type} (f : Nat → α) {n i : Nat} (h : i < n) (z : α) : ((List.range n).map f).getD i z = f i := by
  simp [h]

theorem Dev.reset_part {p : Nat} (h : p < 64) : Dev.reset.part p = Part.reset p := getD_map_range Part.reset h _

theorem Dev.reset_ring {p n : Nat} (hp : p < 64) (hn : n < 16) : Dev.reset.ring (.part p n) = RingSet.reset (Config.localQpn p n) := by
  rw [Dev.ring, Dev.reset_part hp]
  exact getD_map_range (fun n => RingSet.reset (Config.localQpn p n)) hn _

theorem Dev.reset_arb {a : Nat} (h : a < 20) : Dev.reset.arb a = Arbiter.reset := List.getD_replicate _ h

/-- Settles O60: each part of the device at reset is the reset value of its kind. -/
theorem resetState : Obligations.ResetState := by
  refine ⟨rfl, rfl, rfl, rfl, fun p hp => ?partition, fun p n hp hn => ?ring, fun a ha => ?budget, ?clock⟩
  case partition =>
    have hpart : State.reset.dev.part p = Part.reset p := Dev.reset_part hp
    rw [hpart]
    exact ⟨rfl, rfl, rfl, rfl, rfl, rfl⟩
  case ring =>
    have hring : State.reset.dev.ring (.part p n) = RingSet.reset (Config.localQpn p n) := Dev.reset_ring hp hn
    rw [hring]
    exact ⟨rfl, rfl, rfl, rfl, rfl, rfl⟩
  case budget => exact congrArg Arbiter.set (Dev.reset_arb ha)
  case clock => exact ⟨fun h => absurd h (by decide), fun h => absurd h (by decide), .inl rfl, by decide⟩

end Sys2Proof.Machine
end

section
/-! PROOF. Function Level Resets: what drains, starts and ends of transitions leave of a partition, and what each state of it makes of the reset. -/

namespace Sys2Proof.Machine

open Sys2Proof

/-! ### What starts and drains of ring sets leave of a partition (R315, R320, R326, R333) -/

section Leaves

variable {α : Type} (g : Part → α) (hrings : ∀ (x : Part) l, g { x with rings := l } = g x)
include hrings

theorem Dev.part_writeHost_keep (d : Dev) (c : Clock) (rs : RsId) (tie : Tie) (svc addr : Nat) (b : Bytes) (p : Nat) :
    g ((d.writeHost c rs tie svc addr b).part p) = g (d.part p) := by
  unfold Dev.writeHost
  dsimp only
  split
  · exact foldl_keep (fun e : Dev => g (e.part p)) _ (fun e _ => e.part_sendRdma_keep g hrings c rs _ p) _ d
  · rfl

theorem Dev.part_startDrain_keep (d : Dev) (c : Clock) (rs : RsId) (cause p : Nat) : g ((d.startDrain c rs cause).part p) = g (d.part p) := by
  unfold Dev.startDrain
  dsimp only
  split
  · exact Dev.part_modRing_keep g d rs p _ hrings
  · split
    · exact Dev.part_modRing_keep g d rs p _ hrings
    · rfl

theorem Dev.part_startRing_keep (hregs : ∀ (x : Part) v, g { x with regs := v } = g x) (d : Dev) (c : Clock) (rs : RsId) (p : Nat) :
    g ((d.startRing c rs).part p) = g (d.part p) := by
  have hreject (d : Dev) : g ((d.rejectRs rs).part p) = g (d.part p) := by
    cases rs with
    | part q n => exact Dev.part_modPart_keep g d q p _ fun x => hregs x _
    | mgmt n => rfl
  unfold Dev.startRing
  dsimp only
  split
  · exact (hreject _).trans (Dev.part_modRing_keep g d rs p _ hrings)
  · exact Dev.part_modRing_keep g d rs p _ hrings

section Slots

variable (hmsix : ∀ (x : Part) l, g { x with msix := l } = g x)
include hmsix

theorem Dev.part_notify_keep (d : Dev) (c : Clock) (rs : RsId) (p : Nat) : g ((d.notify c rs).part p) = g (d.part p) := by
  have hmask (d : Dev) (fn : Fn) (v : Nat) (f : MsixVec → MsixVec) : g ((d.modMsix fn v f).part p) = g (d.part p) := by
    cases fn with
    | pf => rfl
    | vf n => exact Dev.part_modPart_keep g d n p (fun x => { x with msix := modAt f v x.msix }) fun x => hmsix x _
    | remote n _ => exact Dev.part_modPart_keep g d n p (fun x => { x with msix := modAt f v x.msix }) fun x => hmsix x _
  refine Eq.trans ?_ (Dev.part_modRing_keep g d rs p (fun r => { r with run := { r.run with pend := 0 } }) hrings)
  unfold Dev.notify
  dsimp only
  split
  · exact congrArg g ((outward_sendPacketOn _ c _ _ _ _ _ _ _ _ _).part p)
  · split
    · exact hmask _ _ _ _
    · rfl

theorem Dev.part_writeSlot_keep (d : Dev) (c : Clock) (rs : RsId) (e : WaitEntry) (p : Nat) :
    g ((d.writeSlot c rs e).part p) = g (d.part p) := by
  have hrun (d : Dev) (f : RingRun → RingRun) : g ((d.modRun rs f).part p) = g (d.part p) := Dev.part_modRing_keep g d rs p _ hrings
  have hhost := Dev.part_writeHost_keep g hrings d c rs
  have hnotify := Dev.part_notify_keep g hrings hmsix
  unfold Dev.writeSlot
  dsimp only
  split <;> split <;> simp [hrun, hhost, hnotify]

theorem Dev.part_flushEntries_keep (c : Clock) (rs : RsId) (p n : Nat) (d : Dev) : g ((d.flushEntries c rs n).part p) = g (d.part p) := by
  induction n generalizing d with
  | zero => rfl
  | succ n ih =>
    unfold Dev.flushEntries
    dsimp only
    split
    · rfl
    · split
      · rfl
      · rw [ih, Dev.part_writeSlot_keep g hrings hmsix]
        exact Dev.part_modRing_keep g d rs p _ hrings

variable (hev : ∀ (x : Part) v, g { x with ev := v } = g x)
include hev

theorem Dev.part_flushEvents_keep (c : Clock) (q p n : Nat) (d : Dev) : g ((d.flushEvents c q n).part p) = g (d.part p) := by
  induction n generalizing d with
  | zero => rfl
  | succ n ih =>
    unfold Dev.flushEvents
    dsimp only
    split
    · rfl
    · split
      · rw [ih, Dev.part_writeSlot_keep g hrings hmsix]
        exact Dev.part_modPart_keep g d q p _ fun x => hev x _
      · rfl

theorem Dev.part_flushRing_keep (d : Dev) (c : Clock) (q n p : Nat) : g ((d.flushRing c (.part q n)).part p) = g (d.part p) := by
  unfold Dev.flushRing
  dsimp only
  split
  · rw [Dev.part_flushEvents_keep g hrings hmsix hev, Dev.part_flushEntries_keep g hrings hmsix]
  · exact Dev.part_flushEntries_keep g hrings hmsix c _ p _ d

end Slots

end Leaves

/-! ### The end of a transition (R369, R397, R398) -/

/-- Partitions whose keys stand are as many as they were. -/
theorem Dev.length_congr {d e : Dev} (h : e.keys = d.keys) : e.parts.length = d.parts.length := by
  simpa [Dev.keys] using congrArg List.length h

theorem Dev.endOps_keys (d : Dev) (c : Clock) (p : Nat) : (d.endOps c p).keys = d.keys := by
  have hend (d : Dev) (o : LongOp) (e : Ending) : (d.opEnd c p o e).keys = d.keys := by
    unfold Dev.opEnd
    dsimp only
    refine (Dev.modPart_keys (fun x => ?_) _ p).trans ?_
    · split <;> rfl
    · split <;> simp
  have hdrop (x : Part) (o : LongOp) : (x.dropWork o).keys = x.keys := by
    unfold Part.dropWork
    split <;> rfl
  exact Dev.foldl_keys _ (fun d o => (Dev.modPart_keys (fun x => hdrop x o) _ p).trans (hend d o _)) _ d

/-- A transition that waits for its ring sets goes on; one whose ring sets are quiet ends in the state that it leads to. -/
theorem Dev.settlePart_st {d : Dev} {p : Nat} (c : Clock) (hp : p < d.parts.length) (hst : (d.part p).life.st = .draining) :
    ((d.settlePart c p).part p).life.st = .draining ∨
      ((d.settlePart c p).part p).life.st = if (d.part p).life.flr then .started else .opened := by
  have hkeys : ((d.endOps c p).pauseEnd c p 8).keys = d.keys := (Dev.pauseEnd_keys _ c p 8).trans (d.endOps_keys c p)
  unfold Dev.settlePart
  dsimp only
  split
  · exact .inl hst
  · refine .inr ?_
    split
    · rw [Dev.part_modPart_self _ _ ((Dev.length_congr ((Dev.applyAborted_keys _ c p).trans hkeys)).symm ▸ hp)]
      rfl
    · rw [Dev.modLife, Dev.part_modPart_self _ _ (by simpa [Dev.setStarted, Dev.length_congr hkeys] using hp)]

/-! ### Started partitions that drain (R333, R397, R398) -/

theorem Dev.modPart_modPart (d : Dev) (p : Nat) (f g : Part → Part) : (d.modPart p g).modPart p f = d.modPart p fun x => f (g x) :=
  congrArg (fun l => { d with parts := l }) (modAt_modAt f g p d.parts)

/-- A started partition that begins to drain, for a Function Level Reset or for a disable, in the pause that begins with it. -/
def Dev.leaving (d : Dev) (c : Clock) (p : Nat) (flr : Bool) : Dev :=
  d.modPart p fun x => { x with life := { x.life with st := .draining, flr := flr },
                                acct := { x.acct with running := x.acct.running ++ [⟨c.time, 8, false⟩] } }

theorem Dev.leaving_eq (d : Dev) (c : Clock) (p : Nat) (flr : Bool) :
    (d.modLife p fun l => { l with st := .draining, flr := flr }).pauseStart c p 8 false = d.leaving c p flr := d.modPart_modPart p _ _

theorem Dev.life_drainAll (d : Dev) (c : Clock) (p cause : Nat) : ((d.drainAll c p cause).part p).life = (d.part p).life :=
  foldl_keep (fun e : Dev => (e.part p).life) _ (fun d n => d.part_startDrain_keep Part.life (fun _ _ => rfl) c (.part p n) cause p) _ d

theorem Dev.length_drainAll (d : Dev) (c : Clock) (p cause : Nat) : (d.drainAll c p cause).parts.length = d.parts.length :=
  Dev.length_congr (Dev.foldl_keys _ (fun d n => by simp [Dev.startDrain]) _ d)

/-- The drain goes on, or ends in the state that the partition leaves for. -/
theorem Dev.leaving_st {d : Dev} {p : Nat} (c : Clock) (flr : Bool) (cause : Nat) (hp : p < d.parts.length) :
    let e := ((d.leaving c p flr).drainAll c p cause).settlePart c p
    (e.part p).life.st = .draining ∨ (e.part p).life.st = if flr then .started else .opened := by
  have hlife : (((d.leaving c p flr).drainAll c p cause).part p).life = { (d.part p).life with st := .draining, flr := flr } := by
    rw [Dev.life_drainAll, Dev.leaving, Dev.part_modPart_self d _ hp]
  have hend := Dev.settlePart_st (d := (d.leaving c p flr).drainAll c p cause) c
    (by rw [Dev.length_drainAll, Dev.leaving, Dev.modPart_length]; exact hp) (by rw [hlife])
  simpa only [hlife] using hend

/-! ### Function Level Resets of a partition's function (R333, R398) -/

/-- A closed partition has its owner and transport keys, and what was kept under them, taken from it. -/
theorem Dev.flr_closed {d : Dev} {c : Clock} {p : Nat} (h : (d.part p).life.st = .closed) :
    d.flr c p = ((d.modKeys p fun k => { k with owner := none, transport := none }).modTransport p fun t =>
      { t with windows := [], answers := [] }).modPart p Part.flrRegs := by
  have hkeys : (d.modKeys p fun k => { k with owner := none }).modKeys p (fun k => { k with transport := none }) =
      d.modKeys p fun k => { k with owner := none, transport := none } := d.modPart_modPart p _ _
  simp [Dev.flr, h, Dev.newTransport, hkeys]

theorem Dev.part_flr_closed {d : Dev} {p : Nat} (hp : p < d.parts.length) :
    (((d.modKeys p fun k => { k with owner := none, transport := none }).modTransport p fun t =>
      { t with windows := [], answers := [] }).modPart p Part.flrRegs).part p =
        Part.flrRegs { d.part p with keys := { (d.part p).keys with owner := none, transport := none } } := by
  rw [Dev.part_modPart_self _ _ (by simpa [Dev.modKeys] using hp)]
  exact congrArg Part.flrRegs (d.part_modPart_self (fun x => { x with keys := { x.keys with owner := none, transport := none } }) hp)

/-- A started partition drains for the reset. -/
theorem Dev.flr_started {d : Dev} {c : Clock} {p : Nat} (h : (d.part p).life.st = .started) :
    d.flr c p = ((d.leaving c p true).drainAll c p 2).settlePart c p := by
  simp [Dev.flr, h, Dev.leaving_eq]

/-! ### Function Level Reset of the management function (R333) -/

/-- A ring set that takes a drain: a running one stops with it, a faulting one that has none takes it unless a STOP brings it. -/
def RingSet.draining (r : RingSet) (k : Drain) : RingSet :=
  if r.run.st = .running then { r with run := { r.run with st := .stopping }, drain := some k }
  else if r.run.st = .faulting ∧ k.cause ≠ 0 ∧ r.drain.isNone then { r with drain := some k }
  else r

theorem Dev.HasRing.ring_startDrain {d : Dev} {rs : RsId} (h : d.HasRing rs) (c : Clock) (cause : Nat) :
    (d.startDrain c rs cause).ring rs = (d.ring rs).draining ⟨c.time, d.drainBound rs, cause, false⟩ := by
  unfold Dev.startDrain RingSet.draining
  dsimp only
  split
  · exact h.ring_modRing _
  · split
    · exact h.ring_modRing _
    · rfl

theorem Dev.ring_startDrain_ne (d : Dev) {rs k : RsId} (h : rs ≠ k) (c : Clock) (cause : Nat) :
    (d.startDrain c rs cause).ring k = d.ring k := by
  unfold Dev.startDrain
  dsimp only
  split
  · exact d.ring_modRing_ne _ h
  · split
    · exact d.ring_modRing_ne _ h
    · rfl

theorem Dev.HasRing.startDrain {d : Dev} {rs : RsId} (h : d.HasRing rs) (c : Clock) (k : RsId) (cause : Nat) :
    (d.startDrain c k cause).HasRing rs := by
  unfold Dev.startDrain
  dsimp only
  split
  · exact h.modRing k _
  · split
    · exact h.modRing k _
    · exact h

/-- The management ring sets of a list drain in turn (R333). -/
def Dev.drainMgmt (d : Dev) (c : Clock) (l : List Nat) : Dev := l.foldl (fun (d : Dev) n => d.startDrain c (.mgmt n) 2) d

theorem Dev.ring_drainMgmt_notMem {c : Clock} {n : Nat} {l : List Nat} {d : Dev} (h : n ∉ l) :
    (d.drainMgmt c l).ring (.mgmt n) = d.ring (.mgmt n) := by
  refine List.foldlRecOn (motive := fun e : Dev => e.ring (.mgmt n) = d.ring (.mgmt n)) l _ rfl fun e he m hm => ?_
  have hne : RsId.mgmt m ≠ RsId.mgmt n := fun heq => h (RsId.mgmt.inj heq ▸ hm)
  rw [e.ring_startDrain_ne hne, he]

/-- Each takes its own drain, once. -/
theorem Dev.ring_drainMgmt_mem {c : Clock} {n : Nat} {l : List Nat} {d : Dev} (hl : l.Nodup) (hring : d.HasRing (.mgmt n)) (hn : n ∈ l) :
    (d.drainMgmt c l).ring (.mgmt n) = (d.ring (.mgmt n)).draining ⟨c.time, 10000000, 2, false⟩ := by
  induction l generalizing d with
  | nil => exact absurd hn List.not_mem_nil
  | cons m l ih =>
    obtain ⟨hm, hl⟩ := List.nodup_cons.1 hl
    change ((d.startDrain c (.mgmt m) 2).drainMgmt c l).ring (.mgmt n) = _
    by_cases hnm : n = m
    · subst hnm
      rw [Dev.ring_drainMgmt_notMem hm, hring.ring_startDrain]
      rfl
    · have hne : RsId.mgmt m ≠ RsId.mgmt n := fun h => hnm (RsId.mgmt.inj h).symm
      rw [ih hl (hring.startDrain c _ 2) ((List.mem_cons.1 hn).resolve_left hnm), d.ring_startDrain_ne hne]

/-- Settles O29: each state of the partition by its own equation, and the four ring sets of the management function. -/
theorem functionLevelResets : Obligations.FunctionLevelResets := by
  intro s p hp x
  refine ⟨fun h => ?closed, fun h => ?opened, fun h => ?started, fun h hflr => ?draining, fun h hnone => ?fenced, fun r h hr => ?inReset,
    fun hlen => ?mgmt⟩
  case closed =>
    intro d
    have hd : d.part p = _ := Dev.part_flr_closed hp
    refine ⟨congrArg (Becomes s) (Dev.flr_closed h), ?_⟩
    rw [hd]
    exact ⟨rfl, rfl, rfl, rfl, h, rfl⟩
  case opened => simp [exec, execFunctionLevelReset, State.onDev_eq, Becomes, Dev.flr, show (s.dev.part p).life.st = .opened from h]
  case started =>
    intro d e
    have he : ((s.dev.leaving s.clock p true).drainAll s.clock p 2).settlePart s.clock p = e := by
      simp only [Dev.leaving, Dev.drainAll, e, d]
    exact ⟨congrArg (Becomes s) ((Dev.flr_started h).trans he), he ▸ Dev.leaving_st s.clock true 2 hp⟩
  case draining =>
    simp [exec, execFunctionLevelReset, State.onDev_eq, Becomes, Dev.flr, show (s.dev.part p).life.st = .draining from h,
      show (s.dev.part p).life.flr = true from hflr]
  case fenced =>
    simp [exec, execFunctionLevelReset, State.onDev_eq, Becomes, Dev.flr, show (s.dev.part p).life.st = .fenced from h,
      show (s.dev.part p).life.reset = none from hnone]
  case inReset =>
    simp [exec, execFunctionLevelReset, State.onDev_eq, Becomes, Dev.flr, Dev.modLife, show (s.dev.part p).life.st = .fenced from h,
      show (s.dev.part p).life.reset = some r from hr]
  case mgmt =>
    refine ⟨rfl, fun n hn => ?_⟩
    have hring : s.dev.HasRing (.mgmt n) := hn.trans_eq hlen.symm
    refine (Dev.ring_drainMgmt_mem List.nodup_range hring (List.mem_range.2 hn)).trans ?_
    simp [RingSet.draining]

end Sys2Proof.Machine
end

section
/-! PROOF. What work leaves of the composition records in force: tiles and bank engines that run, requests that end, and updates that are applied
after their request has gone. -/

namespace Sys2Proof.Machine

open Sys2Proof

/-- The composition record in force in every partition. -/
def Dev.cfgs (d : Dev) : List PartCfg := d.parts.map Part.cfg

theorem Dev.part_cfg_congr {e d : Dev} (h : e.cfgs = d.cfgs) (p : Nat) : (e.part p).cfg = (d.part p).cfg := by
  simpa [Dev.part, Dev.cfgs] using congrArg (fun l => l.getD p (Part.reset p).cfg) h

/-! ### One partition -/

@[simp] theorem Part.dropOuts_cfg (x : Part) (r : ReqRef) (sub : Nat) : (x.dropOuts r sub).cfg = x.cfg := (rfl)
@[simp] theorem Part.leaveInvs_cfg (x : Part) (r : ReqRef) : (x.leaveInvs r).cfg = x.cfg := (rfl)
@[simp] theorem Part.endLoad_cfg (x : Part) (m : Nat) : (x.endLoad m).cfg = x.cfg := (rfl)
@[simp] theorem Part.passHorizon_cfg (x : Part) : x.passHorizon.cfg = x.cfg := (rfl)
@[simp] theorem Part.applied_cfg (x : Part) (j : Nat) : (x.applied j).cfg = x.cfg := (rfl)
@[simp] theorem Part.modModel_cfg (x : Part) (m : Nat) (f : Model → Model) : (x.modModel m f).cfg = x.cfg := (rfl)
@[simp] theorem Part.modTable_cfg (x : Part) (t : Nat) (f : Table → Table) : (x.modTable t f).cfg = x.cfg := (rfl)
@[simp] theorem Part.modRunning_cfg (x : Part) (f : Inv → Inv) : (x.modRunning f).cfg = x.cfg := (rfl)
@[simp] theorem Part.entryEnded_cfg (x : Part) (entry pos : Nat) : (x.entryEnded entry pos).cfg = x.cfg := (rfl)
@[simp] theorem Part.stage_cfg (x : Part) (a n : Nat) : (x.stage a n).cfg = x.cfg := (rfl)
@[simp] theorem Part.syncUpd_cfg (x : Part) (u : UpdRun) : (x.syncUpd u).cfg = x.cfg := (rfl)
@[simp] theorem Part.scratchWrite_cfg (x : Part) (eng a : Nat) (b : Bytes) (bad : Bool) :
    (x.scratchWrite eng a b bad).cfg = x.cfg := (rfl)

@[simp] theorem Part.cfg_ite (p : Prop) [Decidable p] (x y : Part) : (if p then x else y).cfg = if p then x.cfg else y.cfg :=
  apply_ite Part.cfg p x y

@[simp] theorem Part.foldl_cfg {α : Type} (f : Part → α → Part) (h : ∀ x a, (f x a).cfg = x.cfg) (l : List α) (x : Part) :
    (l.foldl f x).cfg = x.cfg := foldl_keep Part.cfg f h l x

@[simp] theorem Part.releaseOlds_cfg (x : Part) (p : Nat) : (x.releaseOlds p).cfg = x.cfg := by
  refine Part.foldl_cfg _ (fun x k => Part.foldl_cfg _ (fun x o => ?_) _ x) _ x
  dsimp only
  split
  · rfl
  · split <;> rfl

@[simp] theorem Part.beginInv_cfg (x : Part) (c : Clock) : (x.beginInv c).cfg = x.cfg := by
  unfold Part.beginInv
  split
  · rfl
  · split
    · rfl
    · dsimp only
      split <;> rfl

@[simp] theorem Part.queueEncoder_cfg (x : Part) (r : ReqRef) (u : UpdRun) : (x.queueEncoder r u).cfg = x.cfg := by
  have hrow : ∀ (x : Part) (i : Inv) (b : Bool) (w : InvRow), (x.addRow i b w).cfg = x.cfg := fun x i b w => by
    unfold Part.addRow
    dsimp only
    split <;> simp
  unfold Part.queueEncoder
  split
  · rfl
  · split
    · rfl
    · exact Part.foldl_cfg _ (fun x w => hrow x _ _ _) _ x

@[simp] theorem Part.placeUpd_cfg (x : Part) (now : Nat) (u : UpdRun) (j : Nat) : (x.placeUpd now u j).1.cfg = x.cfg := by
  unfold Part.placeUpd Part.admitHot
  split
  · dsimp only
    split <;> rfl
  · rfl

@[simp] theorem Part.linkUpd_cfg (x : Part) (u : UpdRun) (adm : Nat) : (x.linkUpd u adm).cfg = x.cfg := by
  unfold Part.linkUpd
  split <;> rfl

@[simp] theorem Part.commitUpd_cfg (x : Part) (u : UpdRun) (e : Nat) (order : Nat × Nat × Nat) :
    (x.commitUpd u e order).cfg = x.cfg := by
  unfold Part.commitUpd
  split <;> rfl

@[simp] theorem Part.deleteUpd_cfg (x : Part) (now : Nat) (u : UpdRun) (e : Nat) (order : Nat × Nat × Nat) :
    (x.deleteUpd now u e order).cfg = x.cfg := (rfl)

/-! ### Updates of one partition, in turn and under a condition -/

/-- Composition records lie in partitions alone. -/
@[simp] theorem Dev.cfg_with (d : Dev) (mg co fl ch mc ms rs ar np ti re un fa po fw la fr ou) :
    Dev.cfgs ⟨d.parts, mg, co, fl, ch, mc, ms, rs, ar, np, ti, re, un, fa, po, fw, la, fr, ou⟩ = d.cfgs := (rfl)

@[simp] theorem Dev.emit_cfg (d : Dev) (o : Output) : (d.emit o).cfgs = d.cfgs := (rfl)
@[simp] theorem Dev.fresh_cfg (d : Dev) : d.fresh.cfgs = d.cfgs := (rfl)
@[simp] theorem Dev.modTile_cfg (d : Dev) (t : Nat) (f : Tile → Tile) : (d.modTile t f).cfgs = d.cfgs := (rfl)
@[simp] theorem Dev.modChan_cfg (d : Dev) (ch : Nat) (f : Channel → Channel) : (d.modChan ch f).cfgs = d.cfgs := (rfl)
@[simp] theorem Dev.modArb_cfg (d : Dev) (st : Nat) (f : Arbiter → Arbiter) : (d.modArb st f).cfgs = d.cfgs := (rfl)

theorem Dev.modPart_cfg_at {f : Part → Part} {d : Dev} {p : Nat} (h : (f (d.part p)).cfg = (d.part p).cfg) :
    (d.modPart p f).cfgs = d.cfgs := map_modAt_keep_at h

@[simp] theorem Dev.modPart_cfg {f : Part → Part} (h : ∀ x, (f x).cfg = x.cfg) (d : Dev) (p : Nat) :
    (d.modPart p f).cfgs = d.cfgs := Dev.modPart_cfg_at (h _)

@[simp] theorem Dev.foldl_cfg {α : Type} (f : Dev → α → Dev) (h : ∀ d a, (f d a).cfgs = d.cfgs) (l : List α) (d : Dev) :
    (l.foldl f d).cfgs = d.cfgs := foldl_keep Dev.cfgs f h l d

@[simp] theorem Dev.cfg_ite (p : Prop) [Decidable p] (a b : Dev) :
    (if p then a else b).cfgs = if p then a.cfgs else b.cfgs := apply_ite Dev.cfgs p a b

@[simp] theorem Dev.fst_ite_cfg {α : Type} (p : Prop) [Decidable p] (a b : Dev × α) :
    (if p then a else b).1.cfgs = if p then a.1.cfgs else b.1.cfgs :=
  apply_ite (fun x : Dev × α => x.1.cfgs) p a b

@[simp] theorem BankOut.cfg_ite (p : Prop) [Decidable p] (a b : BankOut) :
    (if p then a else b).d.cfgs = if p then a.d.cfgs else b.d.cfgs :=
  apply_ite (fun o : BankOut => o.d.cfgs) p a b

theorem Dev.cfg_of_ite {p : Prop} [Decidable p] {a b d : Dev} (ha : a.cfgs = d.cfgs) (hb : b.cfgs = d.cfgs) :
    (if p then a else b).cfgs = d.cfgs := by
  split
  · exact ha
  · exact hb

theorem Outward.cfgs {d e : Dev} (h : Outward d e) : e.cfgs = d.cfgs := by
  obtain ⟨_, _, rfl⟩ := h
  rfl

/-! ### Completions and events (R335, R467) -/

@[simp] theorem Dev.modRing_cfg (d : Dev) (rs : RsId) (f : RingSet → RingSet) : (d.modRing rs f).cfgs = d.cfgs := by
  cases rs with
  | part p n => exact Dev.modPart_cfg (f := fun x => { x with rings := modAt f n x.rings }) (fun _ => rfl) d p
  | mgmt n => rfl

@[simp] theorem Dev.modRun_cfg (d : Dev) (rs : RsId) (f : RingRun → RingRun) : (d.modRun rs f).cfgs = d.cfgs := Dev.modRing_cfg d rs _

@[simp] theorem Dev.modMsix_cfg (d : Dev) (fn : Fn) (v : Nat) (f : MsixVec → MsixVec) : (d.modMsix fn v f).cfgs = d.cfgs := by
  cases fn with
  | pf => rfl
  | vf n => exact Dev.modPart_cfg (f := fun x => { x with msix := modAt f v x.msix }) (fun _ => rfl) d n
  | remote n _ => exact Dev.modPart_cfg (f := fun x => { x with msix := modAt f v x.msix }) (fun _ => rfl) d n

@[simp] theorem Dev.sendRdma_cfg (d : Dev) (c : Clock) (rs : RsId) (o : RoceOut) : (d.sendRdma c rs o).cfgs = d.cfgs := by
  unfold Dev.sendRdma
  split
  · rfl
  · refine Dev.cfg_of_ite ?_ (d.modRing_cfg rs _)
    exact (outward_sendTo _ c _ _ _ _ _ _ _ _).cfgs.trans ((Dev.modRing_cfg _ rs _).trans (outward_nextSequence d rs.partNo).cfgs)

@[simp] theorem Dev.writeHost_cfg (d : Dev) (c : Clock) (rs : RsId) (tie : Tie) (svc addr : Nat) (b : Bytes) :
    (d.writeHost c rs tie svc addr b).cfgs = d.cfgs := by simp [Dev.writeHost]

@[simp] theorem Dev.notify_cfg (d : Dev) (c : Clock) (rs : RsId) : (d.notify c rs).cfgs = d.cfgs := by
  have hsent (d : Dev) (p flow peer : Nat) (b : Bytes) : (d.sendPacketOn c p 6 true 3 peer false flow (.notice rs) b).cfgs = d.cfgs :=
    (outward_sendPacketOn d c p 6 true 3 peer false flow (.notice rs) b).cfgs
  simp [Dev.notify, hsent]

@[simp] theorem Dev.writeSlot_cfg (d : Dev) (c : Clock) (rs : RsId) (e : WaitEntry) : (d.writeSlot c rs e).cfgs = d.cfgs := by
  simp [Dev.writeSlot]

@[simp] theorem Dev.stopTiles_cfg (d : Dev) (p : Nat) : (d.stopTiles p).cfgs = d.cfgs :=
  Dev.foldl_cfg _ (fun d t => d.modTile_cfg t _) _ d

@[simp] theorem Dev.stopInv_cfg (d : Dev) (p : Nat) : (d.stopInv p).cfgs = d.cfgs := by simp [Dev.stopInv]

@[simp] theorem Dev.leaveInvs_cfg (d : Dev) (r : ReqRef) : (d.leaveInvs r).cfgs = d.cfgs := by
  unfold Dev.leaveInvs
  split <;> simp

@[simp] theorem Dev.modReq_cfg (d : Dev) (r : ReqRef) (f : Req → Req) : (d.modReq r f).cfgs = d.cfgs := Dev.modRing_cfg d r.rs _

@[simp] theorem Dev.dropReq_cfg (d : Dev) (r : ReqRef) : (d.dropReq r).cfgs = d.cfgs := by
  unfold Dev.dropReq
  dsimp only
  split <;> split <;> simp

@[simp] theorem Dev.putEntry_cfg (d : Dev) (c : Clock) (rs : RsId) (e : WaitEntry) : (d.putEntry c rs e).cfgs = d.cfgs := by
  simp [Dev.putEntry]

@[simp] theorem Dev.finish_cfg (d : Dev) (c : Clock) (r : ReqRef) (e : Ending) : (d.finish c r e).cfgs = d.cfgs := by
  unfold Dev.finish
  split <;> simp

@[simp] theorem Dev.flushEvents_cfg (c : Clock) (p n : Nat) (d : Dev) : (d.flushEvents c p n).cfgs = d.cfgs := by
  induction n generalizing d with
  | zero => rfl
  | succ n ih =>
    unfold Dev.flushEvents
    dsimp only
    split <;> simp [ih]

@[simp] theorem Dev.postEvent_cfg (d : Dev) (c : Clock) (p type : Nat) (payload : Bytes) :
    (d.postEvent c p type payload).cfgs = d.cfgs := by simp [Dev.postEvent]

@[simp] theorem Dev.saturate_cfg (d : Dev) (c : Clock) (p counter n source : Nat) : (d.saturate c p counter n source).cfgs = d.cfgs := by
  simp [Dev.saturate, Dev.drift]

/-! ### The journal and its pages (R258, R275 to R277) -/

@[simp] theorem Dev.settleBuffer_cfg (d : Dev) (p : Nat) : (d.settleBuffer p).cfgs = d.cfgs := by simp [Dev.settleBuffer]

@[simp] theorem Dev.structRun_cfg (d : Dev) (c : Clock) (p tag : Nat) (body : Bytes) : (d.structRun c p tag body).cfgs = d.cfgs := by
  simp [Dev.structRun, Dev.packAppend]

@[simp] theorem Dev.journalAppend_cfg (d : Dev) (c : Clock) (p : Nat) (j : JRec) (src : Nat) :
    (d.journalAppend c p j src).cfgs = d.cfgs := by simp [Dev.journalAppend, Dev.packAppend]

@[simp] theorem Dev.structAppend_cfg (d : Dev) (c : Clock) (p index handle lists : Nat) :
    (d.structAppend c p index handle lists).cfgs = d.cfgs := by
  have hstate : (d.stateRecords c p).cfgs = d.cfgs := by simp [Dev.stateRecords]
  unfold Dev.structAppend
  dsimp only
  split <;> simp [hstate]

@[simp] theorem Dev.cancelUpd_cfg (d : Dev) (c : Clock) (p : Nat) (r : ReqRef) (u : UpdRun) : (d.cancelUpd c p r u).cfgs = d.cfgs := by
  unfold Dev.cancelUpd
  split
  · rfl
  · refine Dev.cfg_of_ite ((Dev.structAppend_cfg _ _ _ _ _ _).trans ?withdrawn) ?withdrawn
    case withdrawn => exact (Dev.modPart_cfg (fun x => by split <;> rfl) _ p).trans (d.journalAppend_cfg c p _ _)

/-! ### Requests that end or lose their state (R132, R349, R394) -/

@[simp] theorem Dev.setSearch_cfg (d : Dev) (r : ReqRef) (i : Nat) (f : SearchRun → SearchRun) : (d.setSearch r i f).cfgs = d.cfgs :=
  Dev.modReq_cfg d r _

@[simp] theorem Dev.dropRows_cfg (d : Dev) (r : ReqRef) (sub : Nat) : (d.dropRows r sub).cfgs = d.cfgs := by simp [Dev.dropRows]

@[simp] theorem Dev.endSearches_cfg (d : Dev) (c : Clock) (r : ReqRef) (ok : Bool) : (d.endSearches c r ok).cfgs = d.cfgs := by
  unfold Dev.endSearches
  split
  · rfl
  · split <;> simp [Dev.hostOut]

@[simp] theorem Dev.endServed_cfg (c : Clock) (d : Dev) (r : ReqRef) (sub : Nat) (tile : Bool) (status : Nat) :
    (Dev.endServed c d r sub tile status).cfgs = d.cfgs := by
  unfold Dev.endServed
  split
  · rfl
  · split <;> simp

/-! ### Tiles (R146 to R148, R170 to R180) -/

@[simp] theorem Dev.failInv_cfg (d : Dev) (c : Clock) (p : Nat) (tile : Bool) (status : Nat) :
    (d.failInv (Dev.endServed c) p tile status).cfgs = d.cfgs := by
  unfold Dev.failInv
  split <;> simp

@[simp] theorem Dev.tileFault_cfg (d : Dev) (c k : Clock) (p pos site : Nat) (x : TDesc) (code detail : Nat) :
    (d.tileFault c (Dev.endServed k) p pos site x code detail).cfgs = d.cfgs := by simp [Dev.tileFault]

@[simp] theorem Dev.flagRow_cfg (d : Dev) (f : Nat) (w : InvRow) : (d.flagRow f w).cfgs = d.cfgs := by simp [Dev.flagRow]

@[simp] theorem Dev.markRows_cfg (d : Dev) (p rows : Nat) (marks : List RowMark) : (d.markRows p rows marks).cfgs = d.cfgs := by
  unfold Dev.markRows
  split <;> simp

@[simp] theorem Dev.signal_cfg (d : Dev) (sites : List Nat) (token n : Nat) : (d.signal sites token n).1.cfgs = d.cfgs := by
  unfold Dev.signal
  refine List.foldlRecOn (motive := fun a : Dev × Bool => a.1.cfgs = d.cfgs) sites _ rfl fun a h t _ => ?_
  exact h

@[simp] theorem Dev.stageRead_cfg (d : Dev) (now p a n : Nat) : (d.stageRead now p a n).cfgs = d.cfgs := by simp [Dev.stageRead]

/-- An attempt fails, or leaves a device with the composition records of `u`. -/
def LeavesCfg {ε : Type} (u : Dev) (a : Except ε Dev) : Prop := ∀ d, a = .ok d → d.cfgs = u.cfgs

theorem LeavesCfg.ok {ε : Type} {u d : Dev} (h : d.cfgs = u.cfgs) : LeavesCfg (ε := ε) u (.ok d) := by
  rintro _ ⟨⟩
  exact h

theorem LeavesCfg.error {ε : Type} (u : Dev) (e : ε) : LeavesCfg u (.error e) := by
  rintro _ ⟨⟩

theorem LeavesCfg.ite {ε : Type} {u : Dev} {p : Prop} [Decidable p] {a b : Except ε Dev} (ha : LeavesCfg u a)
    (hb : LeavesCfg u b) : LeavesCfg u (if p then a else b) := by
  split
  · exact ha
  · exact hb

/-- Moves one after the other, each of which leaves the composition records or fails. -/
theorem LeavesCfg.foldl {ε α : Type} {u : Dev} {f : Except ε Dev → α → Except ε Dev}
    (hf : ∀ a x, LeavesCfg u a → LeavesCfg u (f a x)) {a : Except ε Dev} (ha : LeavesCfg u a) (l : List α) :
    LeavesCfg u (l.foldl f a) := by
  induction l generalizing a with
  | nil => exact ha
  | cons x l ih => exact ih (hf a x ha)

theorem Dev.xferPut_cfg (d : Dev) (p : Nat) (dst : Option Nat) (a : Nat) (b : Bytes) (add : Bool) :
    LeavesCfg d (d.xferPut p dst a b add) := by
  cases dst with
  | some t => exact .ite (.error _ _) (.ok (by simp))
  | none => exact .ite (.error _ _) (.ite (.error _ _) (.ok (by simp)))

theorem Dev.runXfer_cfg (d : Dev) (now p pos site : Nat) (b : Bytes) : LeavesCfg d (d.runXfer now p pos site b) := by
  unfold Dev.runXfer
  extract_lets _ _ _ _ _ _ _ src _ _ read _
  split
  · exact .error _ _
  extract_lets start
  refine .ite (.error _ _) ?_
  split
  · exact .error _ _
  have hstart : start.cfgs = d.cfgs := by
    cases hsrc : src <;> simp [start, hsrc]
  refine .foldl (fun a i ha => ?_) (.ok hstart) _
  cases a with
  | error e => exact .error _ _
  | ok e =>
    refine .ite ha ?_
    cases read i with
    | error e => exact .error _ _
    | ok row =>
      refine .foldl (fun a t ha => ?_) ha _
      cases a with
      | error e => exact .error _ _
      | ok e =>
        dsimp only
        split
        · exact .error _ _
        · next h => exact .ok ((e.xferPut_cfg _ _ _ _ _ _ h).trans (ha e rfl))

@[simp] theorem Dev.descDone_cfg (d : Dev) (c k : Clock) (p pos site : Nat) (x : TDesc) :
    (d.descDone c (Dev.endServed k) p pos site x).1.cfgs = d.cfgs := by simp [Dev.descDone]

@[simp] theorem Dev.runDesc_cfg (d : Dev) (c k : Clock) (p pos site : Nat) (x : TDesc) :
    (d.runDesc c (Dev.endServed k) p pos site x).cfgs = d.cfgs := by
  unfold Dev.runDesc
  dsimp only
  split
  case h_1 =>
    split
    · simp
    · next e h => exact (Dev.descDone_cfg _ _ _ _ _ _ _).trans (d.runXfer_cfg _ _ _ _ _ e h)
  case h_2 =>
    split
    · simp
    · refine Dev.cfg_of_ite ?_ (d.descDone_cfg _ _ _ _ _ _)
      have hdone := d.descDone_cfg c k p pos site x
      refine Dev.cfg_of_ite hdone ?_
      split <;> simp
  case h_3 => split <;> simp

@[simp] theorem Dev.accessWaits_cfg (d : Dev) (now ch : Nat) : (d.accessWaits now ch).cfgs = d.cfgs := by
  simp [Dev.accessWaits]

@[simp] theorem Dev.runTiles_cfg (c k : Clock) (p n : Nat) (d : Dev) : (Dev.runTiles c (Dev.endServed k) p n d).cfgs = d.cfgs := by
  induction n generalizing d with
  | zero => rfl
  | succ n ih =>
    have hwaits (l : List (Nat × Nat)) : (l.foldl (fun d s => d.modTile s.2 fun t => t.serveWaits.serveWaits) d).cfgs = d.cfgs :=
      Dev.foldl_cfg _ (fun d s => d.modTile_cfg s.2 _) l d
    unfold Dev.runTiles
    dsimp only
    split <;> simp [ih, hwaits]

@[simp] theorem Dev.dispatchAll_cfg (t n : Nat) (d : Dev) : (d.dispatchAll t n).cfgs = d.cfgs := by
  induction n generalizing d with
  | zero => rfl
  | succ n ih =>
    refine (ih _).trans ?_
    unfold Dev.dispatch
    dsimp only
    split <;> simp

/-! ### Command groups on bank engines (R212 to R224) -/

@[simp] theorem Dev.dropToken_cfg (d : Dev) (stack p : Nat) : (d.dropToken stack p).cfgs = d.cfgs := (rfl)

@[simp] theorem Dev.takeToken_cfg (d : Dev) (stack p : Nat) : (d.takeToken stack p).1.cfgs = d.cfgs := by
  simp [Dev.takeToken, Dev.setShare]

@[simp] theorem Dev.startGroups_cfg (d : Dev) (now ch : Nat) (afterSwitch : Bool) : (d.startGroups now ch afterSwitch).cfgs = d.cfgs := by
  simp [Dev.startGroups, Dev.startGroup]

@[simp] theorem Dev.switchDone_cfg (d : Dev) (now ch : Nat) (oldest : Option Nat) : (d.switchDone now ch oldest).cfgs = d.cfgs := by
  simp [Dev.switchDone]

@[simp] theorem Dev.endGroup_cfg (d : Dev) (ch eng : Nat) : (d.endGroup ch eng).cfgs = d.cfgs := by
  unfold Dev.endGroup
  split
  · rfl
  · dsimp only
    split <;> simp [Dev.phaseDone]

@[simp] theorem Dev.rowsBack_cfg (d : Dev) (c : Clock) (p : Nat) (t : Table) (mem : Memory) (poison written : List Nat) (sat : Nat)
    (stats : TabStats → TabStats) : (d.rowsBack c p t mem poison written sat stats).cfgs = d.cfgs := by
  simp [Dev.rowsBack, Dev.backRecord]

@[simp] theorem Dev.bankDo_cfg (d : Dev) (c : Clock) (p eng : Nat) (phase : Bool) (serves : List ReqRef) (b : Bytes) :
    (d.bankDo c p eng phase serves b).d.cfgs = d.cfgs := by
  unfold Dev.bankDo Dev.bankLoad Dev.bankStore Dev.bankScan Dev.bankMatvec Dev.bankRowRead Dev.bankRowUpdate Dev.bankFill
  dsimp only
  split
  case h_4 =>
    split
    · rfl
    · split <;> simp
  case h_7 => exact Dev.modPart_cfg (fun x => Part.foldl_cfg _ (fun y i => by split <;> rfl) _ x) d p
  all_goals split <;> simp [Dev.applyRows]

@[simp] theorem Dev.bankPoison_cfg (d : Dev) (c : Clock) (ch : Nat) (g : Group) :
    (d.bankPoison (Dev.endServed c) ch g).cfgs = d.cfgs := by simp [Dev.bankPoison]

@[simp] theorem Dev.markDropped_cfg (d : Dev) (c : Clock) (r : ReqRef × Nat) : (d.markDropped (Dev.endServed c) r).cfgs = d.cfgs := by
  unfold Dev.markDropped
  split <;> simp

@[simp] theorem Dev.bankStep_cfg (d : Dev) (c k : Clock) (ch eng : Nat) : (d.bankStep c (Dev.endServed k) ch eng).cfgs = d.cfgs := by
  unfold Dev.bankStep
  split
  · split
    · rfl
    · simp
  · rfl

@[simp] theorem Dev.bankSteps_cfg (c k : Clock) (ch eng n : Nat) (d : Dev) :
    (d.bankSteps c (Dev.endServed k) ch eng n).cfgs = d.cfgs := by
  induction n generalizing d with
  | zero => rfl
  | succ n ih => exact (ih _).trans (d.bankStep_cfg c k ch eng)

@[simp] theorem Dev.finishGroup_cfg (d : Dev) (c k : Clock) (ch eng : Nat) :
    (d.finishGroup c (Dev.endServed k) ch eng).cfgs = d.cfgs := by
  unfold Dev.finishGroup
  split <;> simp

/-! ### Invocations (R146, R187, R191) -/

@[simp] theorem Dev.startEntry_cfg (d : Dev) (p entry : Nat) : (d.startEntry p entry).cfgs = d.cfgs := by
  unfold Dev.startEntry
  dsimp only
  split
  · rfl
  · split
    · rfl
    · split
      · simp
      · refine (Dev.foldl_cfg _ (fun d k => ?_) _ _).trans (by simp)
        split
        · rfl
        · split
          · rfl
          · exact d.modChan_cfg _ _

@[simp] theorem Dev.startTile_cfg (d : Dev) (p pos : Nat) : (d.startTile p pos).cfgs = d.cfgs := by
  unfold Dev.startTile
  dsimp only
  split <;> simp

@[simp] theorem Dev.invDone_cfg (d : Dev) (c : Clock) (p : Nat) : (d.invDone (Dev.endServed c) p).cfgs = d.cfgs := by
  unfold Dev.invDone
  dsimp only
  split <;> simp

@[simp] theorem Dev.driveChan_cfg (d : Dev) (c k : Clock) (p ch : Nat) : (d.driveChan c (Dev.endServed k) p ch).cfgs = d.cfgs := by
  simp [Dev.driveChan]

@[simp] theorem Dev.driveOnce_cfg (d : Dev) (c k : Clock) (p : Nat) : (d.driveOnce c (Dev.endServed k) p).cfgs = d.cfgs := by
  unfold Dev.driveOnce
  dsimp only
  split <;> simp

@[simp] theorem Dev.runRows_cfg (d : Dev) (c k : Clock) (r : ReqRef) (sub : Nat) :
    (d.runRows c (Dev.endServed k) r sub).cfgs = d.cfgs := by
  have hserve : ∀ (n : Nat) (d : Dev), (d.serveRows c (Dev.endServed k) r sub n).cfgs = d.cfgs := by
    intro n
    induction n with
    | zero => exact fun _ => rfl
    | succ n ih => intro d; simp [Dev.serveRows, ih]
  exact hserve _ d

/-! ### Updates applied after their request has gone (R120, R136) -/

@[simp] theorem Dev.vectorRecord_cfg (d : Dev) (c : Clock) (r : ReqRef) (epoch : Nat) (u : UpdRun) (v : List F32) (version : Nat) :
    (d.vectorRecord c r epoch u v version).1.cfgs = d.cfgs := by
  unfold Dev.vectorRecord
  dsimp only
  split <;> simp [Dev.setUpd, Dev.acceptVector]

@[simp] theorem Dev.encodeUpd_cfg (d : Dev) (c : Clock) (r : ReqRef) (epoch : Nat) (u : UpdRun) (run : Bool) :
    (d.encodeUpd c r epoch u run).1.cfgs = d.cfgs := by
  have htake (d : Dev) : (d.takeEncoded c r epoch u).1.cfgs = d.cfgs := by
    unfold Dev.takeEncoded
    dsimp only
    split <;> simp
  simp [Dev.encodeUpd, htake]

@[simp] theorem Dev.encodeGone_cfg (d : Dev) (c : Clock) (j : JRec) : (d.encodeGone c j).1.cfgs = d.cfgs := by simp [Dev.encodeGone]

@[simp] theorem Dev.placeUpd_cfg (d : Dev) (c : Clock) (r : ReqRef) (u : UpdRun) : (d.placeUpd c r u).1.cfgs = d.cfgs := by
  have hplaced := Dev.modPart_cfg_at (d := d) (p := r.rs.partNo) (f := fun _ =>
    ((d.part r.rs.partNo).placeUpd c.time u (u.journal.getD 0)).1.syncUpd { u with placed := true }) (by simp)
  simp [Dev.placeUpd, hplaced]

@[simp] theorem Dev.applyOne_cfg (d : Dev) (c : Clock) (p : Nat) (j : JRec) : (d.applyOne c p j).cfgs = d.cfgs := by
  simp [Dev.applyOne]

@[simp] theorem Dev.applyAborted_cfg (d : Dev) (c : Clock) (p : Nat) : (d.applyAborted c p).cfgs = d.cfgs := by
  simp [Dev.applyAborted]

end Sys2Proof.Machine
end

section
/-! PROOF. The transitions of a partition: what KEY_LOAD, OPEN, START, CLOSE and DISABLE leave, and what a composition record that waited for the
close changes. -/

namespace Sys2Proof.Machine

open Sys2Proof

/-! ### Partitions that the fabric manager has fenced (R400) -/

theorem Part.barred_of_not_fenced {x : Part} (h : x.life.st ≠ .fenced) : x.barred = false := by
  simp [Part.barred, h]

/-- What the four commands answer of a partition that takes set-up writes, and of one that takes none. -/
theorem exec_transition_unbarred {s : State} {p : Nat} (h : (s.dev.part p).barred = false) :
    (∀ sel, exec (.keyLoad p sel) s = Becomes s (s.dev.keyLoad s.clock p sel)) ∧
    exec (.openPart p) s = Becomes s (s.dev.openPart s.clock p) ∧ exec (.startPart p) s = Becomes s (s.dev.startPart s.clock p) ∧
    exec (.closePart p) s = Becomes s (s.dev.closePart s.clock p) := by
  simp [exec, execKeyLoad, execOpenPart, execStartPart, execClosePart, State.onDev_eq, Becomes, h]

theorem exec_transition_barred {s : State} {p : Nat} (h : (s.dev.part p).barred = true) :
    (∀ sel, exec (.keyLoad p sel) s = Becomes s s.dev) ∧ exec (.openPart p) s = Becomes s s.dev ∧
    exec (.startPart p) s = Becomes s s.dev ∧ exec (.closePart p) s = Becomes s s.dev := by
  simp [exec, execKeyLoad, execOpenPart, execStartPart, execClosePart, State.onDev_eq, Becomes, h]

/-! ### KEY_LOAD (R313, R405) -/

section KeyLoad

variable {d : Dev} {p : Nat} (c : Clock)

/-- KEY_DATA has been taken and is zero. -/
def Dev.keyTaken (d : Dev) (p : Nat) : Dev := d.modPart p fun y => { y with regs := { y.regs with keyData := zeros 32 } }

theorem Dev.keyLoad_transport (h : (d.part p).life.st = .closed ∨ (d.part p).life.st = .opened) :
    d.keyLoad c p 1 = (d.keyTaken p).newTransport p (some (d.part p).regs.keyData) := by
  rcases h with h | h <;> simp [Dev.keyLoad, Dev.keyTaken, h]

theorem Dev.keyLoad_closed (h : (d.part p).life.st = .closed) :
    d.keyLoad c p 0 = (d.keyTaken p).modKeys p fun k => { k with owner := some (d.part p).regs.keyData } := by
  simp [Dev.keyLoad, Dev.keyTaken, h]

/-- In an open partition the record of its media key is written anew under the new owner key. -/
theorem Dev.keyLoad_opened {m : Bytes} {r : WrapRec} (h : (d.part p).life.st = .opened) (hm : (d.part p).keys.media = some m)
    (hr : (d.part p).keys.record = some r) :
    d.keyLoad c p 0 = ((d.keyTaken p).writeRecord c p r.gen 1 (r.count + 1) (d.part p).regs.keyData m).modKeys p
      fun k => { k with owner := some (d.part p).regs.keyData } := by
  simp [Dev.keyLoad, Dev.keyTaken, h, hm, hr]

theorem Dev.keyLoad_refused {sel : Nat} (h : 2 ≤ sel ∨ ((d.part p).life.st ≠ .closed ∧ (d.part p).life.st ≠ .opened)) :
    d.keyLoad c p sel = (d.keyTaken p).rejectPart p := by
  simp only [Dev.keyLoad, Dev.keyTaken]
  rw [if_pos h]

end KeyLoad

/-! ### OPEN (R404) -/

theorem Dev.openPart_refused {d : Dev} (c : Clock) {p : Nat} (h : (d.part p).keys.owner = none ∨ (d.part p).life.st ≠ .closed) :
    d.openPart c p = d.rejectPart p := by
  unfold Dev.openPart
  dsimp only
  split
  · rfl
  · next k hk =>
    rw [if_pos (.inl (h.resolve_left (by simp [hk])))]

/-- A closed partition whose owner key is held opens by what its record says of that key. -/
theorem Dev.openPart_keyed {d : Dev} (c : Clock) {p : Nat} {key : Bytes} (hst : (d.part p).life.st = .closed) (hstage : d.mgmt.stage = 9)
    (hup : d.power.mode = .up) (hpresent : (d.part p).cfg.present = true) (hkey : (d.part p).keys.owner = some key) :
    ((d.part p).keys.record = none → d.openPart c p = (d.newMediaKey c p 1).opened c p true) ∧
    (∀ r, (d.part p).keys.record = some r → r.alg = 0 → d.openPart c p = (d.newMediaKey c p r.gen).opened c p false) ∧
    (∀ r, (d.part p).keys.record = some r → r.alg ≠ 0 → r.owner = key →
      d.openPart c p = (d.modKeys p fun k => { k with media := some r.media }).opened c p false) ∧
    (∀ r, (d.part p).keys.record = some r → r.alg ≠ 0 → r.owner ≠ key → d.openPart c p =
      (d.modKeys p fun k => { k with owner := none }).modPart p fun y => { y with regs := { y.regs with keyRefused := true } }) := by
  refine ⟨fun h => ?_, fun r h ha => ?_, fun r h ha ho => ?_, fun r h ha ho => ?_⟩ <;>
    simp [Dev.openPart, *]

/-! ### START (R312, R315, R397) -/

theorem Dev.startPart_refused {d : Dev} (c : Clock) {p : Nat} (h : (d.part p).life.st ≠ .opened) : d.startPart c p = d.rejectPart p := by
  simp [Dev.startPart, h]

/-- A partition that has started, before its ring sets do: updates that were aborted are applied, and the features begin. -/
def Dev.begun (d : Dev) (c : Clock) (p : Nat) : Dev :=
  ((d.applyAborted c p).modPart p fun x =>
    (({ x with feat := Features.atStart x.cfg.repro, ev := ⟨0, 0, []⟩,
               life := { x.life with st := .started, busMaster := true, flr := false } } : Part).trimStaged).trimHot).setStarted c p true

/-- A ring set at the start of its partition: an enabled one starts, any other is idle. -/
def Dev.beginRing (d : Dev) (c : Clock) (p n : Nat) : Dev :=
  if (d.ring (.part p n)).regs.enable then (d.startRing c (.part p n)).flushRing c (.part p n)
  else d.modRun (.part p n) fun r => { r with st := .idle }

theorem Dev.startPart_opened {d : Dev} (c : Clock) {p : Nat} (h : (d.part p).life.st = .opened) :
    d.startPart c p = (List.range 16).foldl (fun d n => d.beginRing c p n) (d.begun c p) := by
  unfold Dev.startPart
  rw [if_neg (not_not.2 h)]
  rfl

/-- The life and the features of a partition stand while its ring sets start. -/
theorem Dev.beginRing_keep (d : Dev) (c : Clock) (p n : Nat) :
    ((d.beginRing c p n).part p).life = (d.part p).life ∧ ((d.beginRing c p n).part p).feat = (d.part p).feat := by
  have hkeep {α : Type} (g : Part → α) (h1 : ∀ (x : Part) l, g { x with rings := l } = g x) (h2 : ∀ (x : Part) l, g { x with msix := l } = g x)
      (h3 : ∀ (x : Part) v, g { x with ev := v } = g x) (h4 : ∀ (x : Part) v, g { x with regs := v } = g x) :
      g ((d.beginRing c p n).part p) = g (d.part p) := by
    unfold Dev.beginRing
    split
    · rw [Dev.part_flushRing_keep g h1 h2 h3, Dev.part_startRing_keep g h1 h4]
    · exact Dev.part_modRing_keep g d _ p _ h1
  exact ⟨hkeep Part.life (fun _ _ => rfl) (fun _ _ => rfl) (fun _ _ => rfl) fun _ _ => rfl,
    hkeep Part.feat (fun _ _ => rfl) (fun _ _ => rfl) (fun _ _ => rfl) fun _ _ => rfl⟩

theorem Dev.part_begun {d : Dev} (c : Clock) {p : Nat} (hp : p < d.parts.length) :
    let x := (d.begun c p).part p
    x.life.st = .started ∧ x.life.busMaster = true ∧ x.feat = Features.atStart (d.part p).cfg.repro := by
  have hlen : p < (d.applyAborted c p).parts.length := (Dev.length_congr (d.applyAborted_keys c p)).symm ▸ hp
  have hcfg : ((d.applyAborted c p).part p).cfg = (d.part p).cfg := Dev.part_cfg_congr (d.applyAborted_cfg c p) p
  rw [Dev.begun, Dev.setStarted, Dev.part_modPart_self _ _ (by simpa using hlen), Dev.part_modPart_self _ _ hlen, ← hcfg]
  exact ⟨rfl, rfl, rfl⟩

theorem Dev.part_startPart {d : Dev} (c : Clock) {p : Nat} (hp : p < d.parts.length) (h : (d.part p).life.st = .opened) :
    let x := (d.startPart c p).part p
    x.life.st = .started ∧ x.life.busMaster = true ∧ x.feat = Features.atStart (d.part p).cfg.repro := by
  have hlife := foldl_keep (fun e : Dev => (e.part p).life) _ (fun e n => (e.beginRing_keep c p n).1) (List.range 16) (d.begun c p)
  have hfeat := foldl_keep (fun e : Dev => (e.part p).feat) _ (fun e n => (e.beginRing_keep c p n).2) (List.range 16) (d.begun c p)
  rw [Dev.startPart_opened c h]
  dsimp only
  rw [hlife, hfeat]
  exact Dev.part_begun c hp

/-! ### A composition record that takes effect at the close (R384) -/

section Record

variable {α : Type} {g : Part → α}
  (hlife : ∀ (x : Part) sites chans unfilled dram, g { x with life := { x.life with sites, chans, unfilled, dramValid := dram } } = g x)
  (hdram : ∀ x : Part, g x.loseDram = g x) (hcfg : ∀ (x : Part) cfg next objs, g { x with cfg, next, objs } = g x)

include hlife in
theorem Dev.part_giveSites_keep (d : Dev) (p k : Nat) (sites : List Nat) : g ((d.giveSites p sites).part k) = g (d.part k) := by
  have htiles (d : Dev) (old : List Nat) :
      g ((sites.foldl (fun (d : Dev) t => if old.contains t then d else d.modTile t fun _ => Tile.reset) d).part k) = g (d.part k) :=
    foldl_keep (fun e : Dev => g (e.part k)) _ (fun e t => by split <;> rfl) _ d
  have hleave (d : Dev) : g (((List.range 64).foldl (fun (d : Dev) q =>
      if q = p ∨ !((d.part q).life.sites.any sites.contains) then d
      else d.modLife q fun l => { l with sites := l.sites.filter fun t => !sites.contains t }) d).part k) = g (d.part k) :=
    foldl_keep (fun e : Dev => g (e.part k)) _ (fun e q => by
      split
      · rfl
      · exact Dev.part_modPart_keep g e q k _ fun x => hlife x _ _ _ _) _ d
  exact (Dev.part_modPart_keep g _ p k _ fun x => hlife x _ _ _ _).trans ((hleave _).trans (htiles _ _))

include hdram in
theorem Dev.part_giveChannel_keep (d : Dev) (p k ch : Nat) : g ((d.giveChannel p ch).part k) = g (d.part k) := by
  unfold Dev.giveChannel
  dsimp only
  split
  · split
    · rfl
    · refine Dev.part_modPart_keep g d _ k _ fun x => ?_
      split
      · exact hdram x
      · rfl
  · rfl

include hlife hdram

theorem Dev.part_giveChannels_keep (d : Dev) (p k : Nat) (chans : List Nat) : g ((d.giveChannels p chans).part k) = g (d.part k) := by
  have hlose (x : Part) (sites chans unfilled : List Nat) (dram : Bool) :
      g { x.loseDram with life := { x.life with sites, chans, unfilled, dramValid := dram } } = g x :=
    (hlife x.loseDram _ _ _ _).trans (hdram x)
  have hleave (d : Dev) : g ((d.leaveChannels p chans).part k) = g (d.part k) :=
    foldl_keep (fun e : Dev => g (e.part k)) _ (fun e q => by
      split
      · rfl
      · exact Dev.part_modPart_keep g e q k _ fun x => hlose x _ _ _ _) _ d
  unfold Dev.giveChannels
  split
  · rfl
  · exact (Dev.part_modPart_keep g _ p k _ fun x => hlose x _ _ _ _).trans ((hleave _).trans
      (foldl_keep (fun e : Dev => g (e.part k)) _ (fun e ch => Dev.part_giveChannel_keep hdram e p k ch) _ d))

include hcfg

theorem Dev.part_takeCfg_keep (d : Dev) (p k : Nat) (r : PartCfg) : g ((d.takeCfg p r).part k) = g (d.part k) := by
  unfold Dev.takeCfg Dev.applyCfg
  split
  · exact Dev.part_modPart_keep g d p k _ fun x => hcfg x _ _ _
  · exact (Dev.part_modPart_keep g _ p k _ fun x => hcfg x _ _ _).trans
      ((Dev.part_giveChannels_keep hlife hdram _ p k _).trans (Dev.part_giveSites_keep hlife d p k _))

theorem Dev.part_applyNext_keep (d : Dev) (p k : Nat) : g ((d.applyNext p).part k) = g (d.part k) := by
  have hone (d : Dev) (q : Nat) : g (Dev.part (match (d.part q).next with
      | some r => if (d.part q).life.st = .closed then d.takeCfg q r else d
      | none => d) k) = g (d.part k) := by
    split
    · split
      · exact Dev.part_takeCfg_keep hlife hdram hcfg d q k _
      · rfl
    · rfl
  exact (foldl_keep (fun e : Dev => g (e.part k)) _ hone _ _).trans (hone d p)

end Record

/-! ### CLOSE (R399, R406) -/

@[simp] theorem Dev.checkpoint_keys (d : Dev) (c : Clock) (p : Nat) : (d.checkpoint c p).keys = d.keys := by
  simp [Dev.checkpoint, Dev.checkpointPage]

theorem Dev.closePart_refused {d : Dev} (c : Clock) {p : Nat} (h : (d.part p).life.st ≠ .opened) : d.closePart c p = d.rejectPart p := by
  simp [Dev.closePart, h]

/-- The contents of a partition go to flash before it closes. -/
def Dev.saved (d : Dev) (c : Clock) (p : Nat) : Dev :=
  let e := ({ d with flash := (d.flash.flushPart p).1 } : Dev).checkpoint c p
  { e with flash := (e.flash.flushPart p).1 }

@[simp] theorem Dev.saved_keys (d : Dev) (c : Clock) (p : Nat) : (d.saved c p).keys = d.keys :=
  Dev.checkpoint_keys { d with flash := (d.flash.flushPart p).1 } c p

/-- A partition that closes, before a composition record that waited takes effect. -/
def Dev.shut (d : Dev) (c : Clock) (p : Nat) : Dev :=
  ((d.saved c p).zeroise p).modPart p fun x =>
    { x with fwBuf := [], fwLen := 0, life := { x.life with st := .closed, keyAtFence := false } }

theorem Dev.closePart_opened {d : Dev} (c : Clock) {p : Nat} (h : (d.part p).life.st = .opened) :
    d.closePart c p = (d.shut c p).applyNext p := by
  unfold Dev.closePart
  rw [if_neg (not_not.2 h)]
  rfl

theorem Dev.part_shut {d : Dev} (c : Clock) {p : Nat} (hp : p < d.parts.length) :
    ((d.shut c p).part p).life.st = .closed ∧ (d.shut c p).Zeroised p := by
  have hlen : p < ((d.saved c p).zeroise p).parts.length := by
    simpa [Dev.zeroise, Dev.newTransport, Dev.modKeys, Dev.modPart, Dev.length_congr (d.saved_keys c p)] using hp
  have hkeys : (d.shut c p).keys = ((d.saved c p).zeroise p).keys := by simp [Dev.shut]
  refine ⟨?_, (Dev.zeroised_congr hkeys p).2 ((d.saved c p).zeroised_zeroise_self p)⟩
  rw [Dev.shut, Dev.part_modPart_self _ _ hlen]

theorem Dev.part_closePart {d : Dev} (c : Clock) {p : Nat} (hp : p < d.parts.length) (h : (d.part p).life.st = .opened) :
    ((d.closePart c p).part p).life.st = .closed ∧ (d.closePart c p).Zeroised p := by
  have hst := Dev.part_applyNext_keep (g := fun x => x.life.st) (fun _ _ _ _ _ => rfl) (fun _ => rfl) (fun _ _ _ _ => rfl) (d.shut c p) p p
  have hkeys := Dev.part_applyNext_keep (g := Part.keys) (fun _ _ _ _ _ => rfl) (fun _ => rfl) (fun _ _ _ _ => rfl) (d.shut c p) p p
  rw [Dev.closePart_opened c h, Dev.Zeroised, hst, hkeys]
  exact Dev.part_shut c hp

/-! ### DISABLE (R333, R401) -/

theorem Dev.part_disablePart {d : Dev} (c : Clock) {p : Nat} (hp : p < d.parts.length) (h : (d.part p).life.st = .started) :
    ((d.disablePart c p).part p).life.st = .draining ∨ ((d.disablePart c p).part p).life.st = .opened := by
  have hleave : d.disablePart c p = ((d.leaving c p false).drainAll c p 1).settlePart c p := by simp [Dev.disablePart, h, Dev.leaving_eq]
  have hst := Dev.leaving_st c false 1 hp
  rw [hleave]
  simpa using hst

theorem Dev.disablePart_refused {d : Dev} (c : Clock) {p : Nat} (h : (d.part p).life.st = .closed ∨ (d.part p).life.st = .opened)
    (hr : (d.part p).life.reset = none) : d.disablePart c p = d.rejectPart p := by
  rcases h with h | h <;> simp [Dev.disablePart, h, hr]

/-! ### The transitions -/

/-- Settles O23: each command by the state that it finds the partition in. -/
theorem partitionTransitions : Obligations.PartitionTransitions := by
  intro s p hp x rejected taken
  have hopen {st : PartSt} (h : x.life.st = st) (hne : st ≠ .fenced) : x.barred = false := Part.barred_of_not_fenced (h ▸ hne)
  have hsetup (h : x.life.st = .closed ∨ x.life.st = .opened) : x.barred = false := h.elim (hopen · nofun) (hopen · nofun)
  have hcmd (h : x.barred = false) := exec_transition_unbarred (s := s) (p := p) h
  refine ⟨fun h => ?transport, fun h => ?ownerClosed, fun m r h hm hr => ?ownerOpened, fun key h hstage hup hpresent hkey => ?opens,
    fun sel hb h => ?noKey, fun hb h => ?noOwner, fun hb h => ?notClosed, fun hb h => ?notOpened, fun h => ?starts, fun h => ?closes,
    fun h => ?disables, fun h hr => ?noDisable, fun h => exec_transition_barred h⟩
  case transport => rw [(hcmd (hsetup h)).1, Dev.keyLoad_transport _ h]; rfl
  case ownerClosed => rw [(hcmd (hopen h nofun)).1, Dev.keyLoad_closed _ h]; rfl
  case ownerOpened => rw [(hcmd (hopen h nofun)).1, Dev.keyLoad_opened _ h hm hr]; rfl
  case opens =>
    obtain ⟨hnone, hzero, hown, hother⟩ := Dev.openPart_keyed s.clock h hstage hup hpresent hkey
    rw [(hcmd (hopen h nofun)).2.1]
    split
    · next hr => rw [hnone hr]
    · next r hr =>
      split
      · next ha => rw [hzero r hr ha]
      · next ha =>
        split
        · next ho => rw [hown r hr ha ho]
        · next ho => rw [hother r hr ha ho]
  case noKey => rw [(hcmd hb).1, Dev.keyLoad_refused _ h]; rfl
  case noOwner => rw [(hcmd hb).2.1, Dev.openPart_refused _ (.inl h)]; rfl
  case notClosed => rw [(hcmd hb).2.1, Dev.openPart_refused _ (.inr h)]; rfl
  case notOpened =>
    obtain ⟨-, -, hstart, hclose⟩ := hcmd hb
    rw [hstart, hclose, Dev.startPart_refused _ h, Dev.closePart_refused _ h]
    exact ⟨rfl, rfl⟩
  case starts => exact ⟨_, (hcmd (hopen h nofun)).2.2.1, Dev.part_startPart _ hp h⟩
  case closes =>
    obtain ⟨hst, howner, htransport, hmedia⟩ := Dev.part_closePart s.clock hp h
    exact ⟨_, (hcmd (hopen h nofun)).2.2.2, hst, howner, hmedia, htransport⟩
  case disables => exact ⟨_, rfl, Dev.part_disablePart _ hp h⟩
  case noDisable => simp only [exec, execDisablePart, State.onDev_eq, Dev.disablePart_refused _ h hr]; rfl

end Sys2Proof.Machine
end

section
/-! PROOF. The checks of R341 that every opcode shares, in their order: what the first check that fails gives, and what has passed when none
fails. -/

namespace Sys2Proof.Machine

open Sys2Proof

/-! ### The gate (R341) -/

theorem Dev.gate_of_opcode {d : Dev} {c : Clock} {r : ReqRef} {q : Req} (perm fields handles : Bool) {st : Nat}
    (hop : d.opcodeCheck r.rs q.opcode = some st) : d.gate c r q perm fields handles = some ⟨st, 0, 0, 0⟩ := by
  simp [Dev.gate, hop]

theorem Dev.gate_of_epoch {d : Dev} {c : Clock} {r : ReqRef} {q : Req} (perm fields handles : Bool)
    (hop : d.opcodeCheck r.rs q.opcode = none) (hepoch : d.comp.accepts c.time q.compEpoch = false) :
    d.gate c r q perm fields handles = some ⟨statusREDIRECT, 0, d.comp.epoch, 0⟩ := by
  simp [Dev.gate, hop, hepoch]

theorem Dev.gate_of_fields {d : Dev} {c : Clock} {r : ReqRef} {q : Req} {fields : Bool} (handles : Bool)
    (hop : d.opcodeCheck r.rs q.opcode = none) (hepoch : d.comp.accepts c.time q.compEpoch = true)
    (hshared : r.rs.isMgmt = true ∨ (d.part r.rs.partNo).exclusive = false)
    (hbad : headerOk q.desc = false ∨ bodyOk q.desc = false ∨ fields = false) :
    d.gate c r q true fields handles = some ⟨statusBADFIELD, 0, 0, 0⟩ := by
  have hhold : (!r.rs.isMgmt && (d.part r.rs.partNo).exclusive && !pastExclusive q.opcode) = false := by
    rcases hshared with h | h <;> simp [h]
  have hfail : (!headerOk q.desc || !bodyOk q.desc || !fields) = true := by
    rcases hbad with h | h | h <;> simp [h]
  simp only [Dev.gate, hop, hepoch, hhold, hfail, Bool.not_true, Bool.false_or, Bool.false_eq_true, if_false, if_true]

/-- What has passed of a request that passes every check, its deadline apart. -/
theorem Dev.gate_passed {d : Dev} {c : Clock} {r : ReqRef} {q : Req} {perm fields handles : Bool}
    (h : d.gate c r q perm fields handles = none) :
    perm = true ∧ fields = true ∧ handles = true ∧ headerOk q.desc = true ∧ bodyOk q.desc = true ∧
      d.comp.accepts c.time q.compEpoch = true := by
  unfold Dev.gate at h
  dsimp only at h
  split at h
  case h_1 => cases h
  case h_2 =>
    simp only [ite_eq_iff, reduceCtorEq, and_false, false_or] at h
    obtain ⟨hepoch, hperm, hfields, -, hrest⟩ := h
    have hhandles : handles = true := by
      rcases hrest with ⟨-, -, -, h, -⟩ | ⟨-, -, h, -⟩ <;> simpa using h
    simp only [Bool.or_eq_true, Bool.not_eq_true', not_or, Bool.not_eq_false] at hepoch hperm hfields
    exact ⟨hperm.1, hfields.2, hhandles, hfields.1.1, hfields.1.2, hepoch⟩

/-! ### The opcode table (R339, R340) -/

theorem Dev.opcodeCheck_mgmt (d : Dev) (n : Nat) {op : Nat} {i : OpInfo} (h : opInfo op = some i) :
    d.opcodeCheck (.mgmt n) op = if i.mgmt then none else some statusBADOP := by
  simp [Dev.opcodeCheck, h]

theorem Dev.opcodeCheck_part (d : Dev) (p n : Nat) {op : Nat} {i : OpInfo} (h : opInfo op = some i) (hi : i.part ≠ 3) :
    d.opcodeCheck (.part p n) op =
      if i.part = 1 ∧ !(d.part p).cfg.info ∨ i.part = 2 ∧ !(d.part p).cfg.maint then some statusBADOP else none := by
  simp only [Dev.opcodeCheck, h, if_neg hi]
  grind

/-- Settles O9: a rule for each check of the gate, and one for each kind of ring set. -/
theorem admissionChecksInOrder : Obligations.AdmissionChecksInOrder := by
  refine ⟨fun d c r q perm fields handles => ⟨fun st hop => Dev.gate_of_opcode _ _ _ hop, fun hop he => Dev.gate_of_epoch _ _ _ hop he,
    fun hop he hp => hp ▸ Dev.gate_of_not_permitted _ _ hop he, fun hop he hp hs hb => hp ▸ Dev.gate_of_fields _ hop he hs hb,
    Dev.gate_passed⟩, fun d rs op => ⟨fun h => ?unknown, ?mgmt, ?anyone, ?info, ?maint⟩⟩
  case unknown => simp [Dev.opcodeCheck, h]
  case mgmt => rintro i n h rfl; exact d.opcodeCheck_mgmt n h
  case anyone => rintro i p n h rfl hi; simp [d.opcodeCheck_part p n h (by omega), hi]
  case info => rintro i p n h rfl hi hno; simp [d.opcodeCheck_part p n h (by omega), hi, hno]
  case maint => rintro i p n h rfl hi hno; simp [d.opcodeCheck_part p n h (by omega), hi, hno]

end Sys2Proof.Machine
end

section
/-! PROOF. Messages of the fabric manager and of the recorder: the session, the state of the module and the layout judge each of them alike; one
that is heard then has its own effect. -/

namespace Sys2Proof.Machine

open Sys2Proof

/-! ### How a message is judged (R439, R440, R500) -/

theorem Dev.fm_asleep {d : Dev} {k : FmClass} {type : Nat} {m : Bytes} (run : Dev → Nat × Dev × Bytes) (hg : d.fmGate k = some 5) :
    d.fm k type true m run = d.fmReply m 5 [] := by
  simp [Dev.fm, hg]

theorem Dev.fm_misshapen {d : Dev} {k : FmClass} {type : Nat} {m : Bytes} (run : Dev → Nat × Dev × Bytes) (hg : d.fmGate k = some 0)
    (hl : fmLayout type m = false) : d.fm k type true m run = d.fmReply m 1 [] := by
  simp [Dev.fm, hg, hl]

theorem Dev.fm_unanswered {d : Dev} {k : FmClass} {type : Nat} {m : Bytes} (session : Bool) (run : Dev → Nat × Dev × Bytes)
    (hg : d.fmGate k = none) : d.fm k type session m run = d := by
  simp [Dev.fm, hg]

/-- Each of the messages, whatever it does, is judged first as one of its class and type. -/
theorem exec_message {i : Bool → Bytes → Instr} {k : FmClass} {type : Nat}
    (h : (i = .compose ∧ k = .fabric ∧ type = 1) ∨ (i = .traffic ∧ k = .fabric ∧ type = 2) ∨ (i = .gates ∧ k = .fabric ∧ type = 3) ∨
     (i = .fabric ∧ k = .fabric ∧ type = 4) ∨ (i = .fence ∧ k = .fabric ∧ type = 5) ∨ (i = .release ∧ k = .fabric ∧ type = 6) ∨
     (i = .recorderFreeze ∧ k = .recorder ∧ type = 0x10) ∨ (i = .recorderThaw ∧ k = .recorder ∧ type = 0x11) ∨
     (i = .recorderRead ∧ k = .recorder ∧ type = 0x12)) (session : Bool) (m : Bytes) (s : State) :
    ∃ run, exec (i session m) s = Becomes s (s.dev.fm k type session m run) := by
  rcases h with h | h | h | h | h | h | h | h | h <;> obtain ⟨rfl, rfl, rfl⟩ := h <;> exact ⟨_, rfl⟩

/-- Settles O34: what `Dev.fm` answers before a message has any effect of its own. -/
theorem managerMessagesAreJudged : Obligations.ManagerMessagesAreJudged := by
  intro s m i k type h
  obtain ⟨out, hout⟩ := exec_message h false m s
  obtain ⟨run, hrun⟩ := exec_message h true m s
  rw [hout, hrun]
  exact ⟨fun n hg => by rw [Dev.fm_unsecured _ hg], fun hg => by rw [Dev.fm_asleep _ hg], fun hg hl => by rw [Dev.fm_misshapen _ hg hl],
    fun hg => by rw [Dev.fm_unanswered _ _ hg]⟩

/-! ### What a message that is heard does (R440, R443, R449, R453, R454, R475, R476) -/

/-- A message that is heard and answers `result` leaves the device of its own effect, and its response. -/
theorem Dev.fm_heard {s : State} {k : FmClass} {type : Nat} {m extra : Bytes} {run : Dev → Nat × Dev × Bytes} {result : Nat} {d : Dev}
    (h : FmHeard s k type m) (hrun : run s.dev = (result, d, extra)) :
    Becomes s (s.dev.fm k type true m run) = Becomes s (d.fmReply m result extra) := by
  rw [Dev.fm_runs _ h.1 h.2, hrun]

section Compose

variable {d : Dev} {c : Clock} {b : Bytes} (hlen : b.length = 8256) (hzero : zeroAt b 16 48 = true)
  (hclean : (chunks 128 (b.drop 64)).all recordClean = true) (hnone : d.comp.pending = none)
include hlen hzero hclean hnone

theorem Dev.compose_old (he : fld b 0 4 ≤ d.comp.epoch) : d.compose c b = (2, d, []) := by
  simp [Dev.compose, hlen, hzero, hclean, hnone, he]

/-- A COMPOSE that is accepted moves the floor, and is held for its time or takes effect. -/
theorem Dev.compose_accepted (he : d.comp.epoch < fld b 0 4) (hgrace : fld b 4 4 ≤ 100000)
    (hrange : ((chunks 128 (b.drop 64)).map PartCfg.ofBytes).all d.cfgInRange = true)
    (hfree : d.cfgConflict ((chunks 128 (b.drop 64)).map PartCfg.ofBytes) = false) :
    let recs := (chunks 128 (b.drop 64)).map PartCfg.ofBytes
    let grace := if fld b 4 4 = 0 then 5000 else fld b 4 4
    let e : Dev := { d with power := { d.power with floor := c.time } }
    d.compose c b =
      if fld b 8 8 ≤ c.time then (0, e.takeEpoch c (fld b 0 4) grace recs, [])
      else (0, { e with comp := { e.comp with pending := some (fld b 0 4, grace, fld b 8 8, recs) } }, []) := by
  intro recs grace e
  have hcomp : ({ d.comp with pending := none } : Comp) = d.comp := by rw [← hnone]
  unfold Dev.compose
  extract_lets raws recs' _ floor
  have hfloor : floor = d.comp.epoch := by simp only [floor, hnone]
  rw [if_neg (by simp [hlen, hzero, raws, hclean]), if_neg (by rw [hfloor]; exact Nat.not_le_of_lt he),
    if_neg (by rw [hrange]; simpa using hgrace), if_neg (by simp [recs', raws, hfree])]
  exact if_congr Iff.rfl (congrArg (fun k : Comp => (0, ({ e with comp := k } : Dev).takeEpoch c (fld b 0 4) grace recs, [])) hcomp) rfl

end Compose

theorem execTraffic_taken {s : State} {m : Bytes} (h : FmHeard s .fabric 2 m) (hclean : trafficClean (m.drop 16) = true)
    (hok : trafficOk (m.drop 16) = true) :
    execTraffic true m s = Becomes s (((s.dev.modFabric fun f => { f with
      overhead := ((m.drop 16).take 16).map (·.toNat),
      subs := (chunks 64 ((m.drop 16).drop 32)).map fun r => Subscriber.ofBytes r s.clock.time }).kickAll s.clock).fmReply m 0 []) :=
  Dev.fm_heard h ((if_neg (by simp [hclean])).trans (if_neg (by simp [hok])))

theorem execFence_fences {s : State} {m : Bytes} (h : FmHeard s .fabric 5 m) (hlen : m.length = 16) {p : Nat} (hp : p = fbits m 12 5 0) :
    ((s.dev.part p).life.st ≠ .fenced → execFence true m s = Becomes s ((s.dev.fencePart s.clock p 1).fmReply m 0 [])) ∧
    ((s.dev.part p).life.st = .fenced → (s.dev.part p).life.reset = none → execFence true m s = Becomes s (s.dev.fmReply m 5 [])) := by
  subst hp
  exact ⟨fun hst => Dev.fm_heard h (by simp [hlen, hst]), fun hst hr => Dev.fm_heard h (by simp [hlen, hst, hr])⟩

theorem execRelease_releases {s : State} {m : Bytes} (h : FmHeard s .fabric 6 m) (hlen : m.length = 16) {p : Nat} (hp : p = fbits m 12 5 0) :
    ((s.dev.part p).life.st = .fenced → (s.dev.part p).life.reset = none →
      execRelease true m s = Becomes s ((s.dev.releasePart s.clock p (fbits m 12 6 6 == 1)).fmReply m 0 [])) ∧
    ((s.dev.part p).life.st ≠ .fenced → execRelease true m s = Becomes s (s.dev.fmReply m 5 [])) := by
  subst hp
  exact ⟨fun hst hr => Dev.fm_heard h (by simp [hlen, hst, hr]), fun hst => Dev.fm_heard h (by simp [hlen, hst])⟩

theorem execRecorderRead_boxes {s : State} {m : Bytes} (h : FmHeard s .recorder 0x12 m) (hlen : (m.drop 16).length = 16)
    (hz : zeroAt (m.drop 16) 1 3 = true) (hz' : zeroAt (m.drop 16) 12 4 = true) (hsrc : fld (m.drop 16) 0 1 = 2)
    (hpos : 0 < fld (m.drop 16) 8 4) (hmax : fld (m.drop 16) 8 4 ≤ 4096) (hend : fld (m.drop 16) 4 4 + fld (m.drop 16) 8 4 ≤ 2097664) :
    execRecorderRead true m s =
      Becomes s (s.dev.fmReply m 0 ((s.dev.recorder.boxLog.drop (fld (m.drop 16) 4 4)).take (fld (m.drop 16) 8 4))) := by
  refine Dev.fm_heard h ?_
  dsimp only
  rw [if_neg (by simp [hlen, hz, hz']), hsrc, if_pos rfl, if_neg (by omega), if_pos rfl]

/-- Settles O35: each message that is heard by what it then does. -/
theorem managerMessagesComplete : Obligations.ManagerMessagesComplete := by
  intro s m c b p
  have hneg {v : Bool} (h : v = true) : ¬(!v) = true := by simp [h]
  refine ⟨fun h hlen hzero hclean hnone => ⟨fun he => ?old, ?accepted⟩, fun h hc ho => execTraffic_taken h hc ho, fun h hc ho => ?gates,
    fun h hc ho => ?fabric, fun h hlen => execFence_fences h hlen rfl, fun h hlen => execRelease_releases h hlen rfl, fun n hg => ?query,
    fun h hlen => ?freeze, fun h hlen => ?thaw, fun h hlen hz hz' hs hp hm he => execRecorderRead_boxes h hlen hz hz' hs hp hm he⟩
  case old => exact Dev.fm_heard h (Dev.compose_old hlen hzero hclean hnone he)
  case accepted =>
    intro recs grace d he hg hr hf
    have hcompose := Dev.compose_accepted (c := c) hlen hzero hclean hnone he hg hr hf
    exact ⟨fun ht => Dev.fm_heard h (hcompose.trans (if_neg (Nat.not_le_of_lt ht))),
      fun ht => Dev.fm_heard h (hcompose.trans (if_pos ht))⟩
  case gates => exact Dev.fm_heard h ((if_neg (hneg hc)).trans (if_neg (hneg ho)))
  case fabric => exact Dev.fm_heard h ((if_neg (hneg hc)).trans (if_neg (hneg ho)))
  case query => exact congrArg (Becomes s) (by simp only [hg]; rfl)
  case freeze => exact Dev.fm_heard h (if_neg (not_not_intro hlen))
  case thaw => exact Dev.fm_heard h (if_neg (not_not_intro hlen))

end Sys2Proof.Machine
end

section
/-! PROOF. What an accepted packet has passed, and the window of the SEQUENCE values that were accepted. -/

namespace Sys2Proof.Machine

open Sys2Proof

/-! ### The window (R434) -/

/-- The window after `n` was accepted: its highest value, and those of the accepted ones that it still covers. -/
theorem RxWin.accept_seen {w : RxWin} {n m h : Nat} (hh : (w.accept n).highest = some h) (hm : m = n ∨ m ∈ w.seen) (hin : h < m + 2049) :
    m ∈ (w.accept n).seen := by
  simp only [RxWin.accept, Option.some.injEq] at hh ⊢
  simpa [hh, hin] using hm

/-- A value in reach of the window is new only while it is not among those seen. -/
theorem RxWin.fresh_eq_false {w : RxWin} {m h : Nat} (hh : w.highest = some h) (hle : m ≤ h) (hseen : h < m + 2049 → m ∈ w.seen) :
    w.fresh m = false := by
  simpa [RxWin.fresh, hh, hle] using hseen

theorem RxWin.accept_highest (w : RxWin) (n : Nat) : (w.accept n).highest = some ((w.highest.map (max · n)).getD n) := by
  cases h : w.highest <;> simp [RxWin.accept, h]

theorem RxWin.accept_not_fresh (w : RxWin) (n : Nat) : (w.accept n).fresh n = false := by
  have hh := w.accept_highest n
  refine RxWin.fresh_eq_false hh ?_ (RxWin.accept_seen hh (.inl rfl))
  cases w.highest <;> simp

theorem RxWin.accept_keeps_seen {w : RxWin} {n m h : Nat} (hh : w.highest = some h) (hlt : h < n) (hm : m ≤ h) (hseen : m ∈ w.seen) :
    (w.accept n).fresh m = false := by
  have hn := w.accept_highest n
  refine RxWin.fresh_eq_false hn ?_ (RxWin.accept_seen hn (.inr hseen))
  simp only [hh, Option.map_some, Option.getD_some]
  omega

/-! ### The checks (R435) -/

/-- The checks of a packet that is accepted, each in its place. -/
theorem Dev.receiveIf_accepted {d : Dev} {c : Clock} {k : Packet} {keyed from_ epoch policed : Bool}
    (h : (d.receiveIf c k keyed from_ epoch policed).2 = .accepted) :
    d.laidOut k = true ∧
    ((d.part (pkPart k)).life.st == .fenced || !from_ || pkKeyed k != keyed ||
      (keyed && !((d.part (pkPart k)).keys.transport.isSome && k.tagOk))) = false ∧
    (keyed && !((d.transport (pkPart k)).win (pkKind k) (pkSource k)).fresh (pkSeq k)) = false := by
  simp only [Dev.receiveIf] at h
  split at h
  case isTrue => cases h
  case isFalse hlaid =>
    split at h
    case isTrue => cases h
    case isFalse hauth =>
      split at h
      case isTrue => split at h <;> cases h
      case isFalse hfresh => exact ⟨by simpa using hlaid, Bool.eq_false_of_not_eq_true hauth, Bool.eq_false_of_not_eq_true hfresh⟩

/-- Settles O39: the checks an accepted packet has passed, and that a SEQUENCE once accepted is not new again. -/
theorem onlyFreshPacketsAreAccepted : Obligations.OnlyFreshPacketsAreAccepted := by
  refine ⟨fun d c k keyed from_ epoch h => ?checks, RxWin.accept_not_fresh,
    fun w n m h hh _ hlt hm hseen => RxWin.accept_keeps_seen hh hlt hm hseen⟩
  obtain ⟨hlaid, hauth, hfresh⟩ := Dev.receiveIf_accepted h
  simp only [Dev.laidOut, Bool.and_eq_true] at hlaid
  simp only [Bool.or_eq_false_iff, Bool.not_eq_false', bne_eq_false_iff_eq, beq_eq_false_iff_ne] at hauth
  obtain ⟨⟨⟨hfenced, hfrom⟩, hkeyed⟩, hkey⟩ := hauth
  refine ⟨hlaid.1, hlaid.2, hfenced, hfrom, hkeyed, ?_⟩
  rintro rfl
  simp only [Bool.true_and, Bool.not_eq_false', Bool.and_eq_true] at hkey hfresh
  exact ⟨hkey.1, hkey.2, hfresh⟩

end Sys2Proof.Machine
end

section
/-! PROOF. The ports of the fabric: each command's effect where its port can take it. -/

namespace Sys2Proof.Machine

open Sys2Proof

/-! ### A command on the device, or on a device at its due time -/

theorem State.onDev_becomes {s : State} {f : Clock → Dev → Dev} {d : Dev} (h : f s.clock s.dev = d) : s.onDev f = Becomes s d :=
  congrArg (Becomes s) h

theorem State.atTime_becomes {s : State} {t : Nat} {f : Clock → Dev → Dev} {d : Dev} (h : f (s.clock.reach t) s.dev = d) :
    s.atTime t f = BecomesAt s t d :=
  congrArg (BecomesAt s t) h

/-! ### Ports, LLDP and neighbours (R420, R422, R424, R425) -/

theorem execPortUp_comes {s : State} {port : Nat} (hport : port < s.dev.fabric.portCount) (hup : (s.dev.port port).up = false)
    (hlanes : s.dev.lanesOk port = true) (hmode : s.dev.power.mode = .up) :
    execPortUp port s = Becomes s (((s.dev.modPort port fun x =>
        { x with up := true, busy := false, queue := [], lldpNext := s.clock.time, lldpSent := 0 }).record
      s.clock 0x0503 0x0C port none s.dev.fabric.lanesPerPort 0 0).solicitAll s.clock port) :=
  State.onDev_becomes (if_neg (by simp [hport, hup, hlanes, hmode]))

theorem execLldpTransmit_sends {s : State} {port : Nat} (hup : (s.dev.port port).up = true) :
    execLldpTransmit port s =
      let x := s.dev.port port
      let c := s.clock.reach x.lldpNext
      let d := s.dev.modPort port fun y =>
        { y with lldpSent := y.lldpSent + 1, lldpNext := c.time + (if y.lldpSent + 1 < 4 then 1000000000 else 30000000000) }
      BecomesAt s x.lldpNext (d.ownFrame c port true lldpAddr 0x88CC (d.lldpBytes port 120)) :=
  if_neg (by simp [hup])

theorem execLldpdu_learns {s : State} {port : Nat} {k : Neighbour} (hup : (s.dev.port port).up = true) (httl : 0 < k.ttl)
    (hnew : (s.dev.port port).neighbours.any (fun y => y.chassis == k.chassis && y.portId == k.portId) = false)
    (hroom : (s.dev.port port).neighbours.length < 8) :
    execLldpdu port k s = Becomes s ((s.dev.modPort port fun y =>
        { y with neighbours := y.neighbours ++ [⟨k.chassis, k.portId, s.clock.time + k.ttl * 1000000000⟩] }).record
      s.clock 0x0501 0x0C port none k.chassis k.portId 0) :=
  State.onDev_becomes ((if_neg (by simp [hup])).trans ((if_neg (by simp [hnew])).trans ((if_neg (by omega)).trans (if_neg (by omega)))))

theorem execNeighborAdvertisement_resolves {s : State} {port target : Nat} (hup : (s.dev.port port).up = true)
    (hpeer : s.dev.fabric.cfg.peers.any (fun (k : Peer) => k.addr == target && bitAt k.ports port) = true) :
    execNeighborAdvertisement port target s = Becomes s (s.dev.modPort port fun y =>
      { y with resolved := if y.resolved.contains target then y.resolved else y.resolved ++ [target] }) :=
  State.onDev_becomes (if_pos (by rw [hup, hpeer]; rfl))

theorem execLldpTtlExpiry_forgets {s : State} {port i : Nat} {k : Neigh} (hk : (s.dev.port port).neighbours[i]? = some k) :
    execLldpTtlExpiry port i s = BecomesAt s k.expires ((s.dev.modPort port fun y =>
      { y with neighbours := y.neighbours.eraseIdx i }).neighbourGone (s.clock.reach k.expires) port k 1) := by
  rw [execLldpTtlExpiry, hk]
  rfl

/-- A request to the port's own address is answered to a MAC address that is a free value. -/
theorem exec_ownAddr_answered {s : State} {port dst src : Nat} {data : List Byte} (hown : s.dev.ownAddr port dst = true) :
    execEchoRequest port dst src data s = Becomes s (s.dev.fresh.ownFrame s.clock port false (Config.freeNat s.dev.free 0 % 2 ^ 48) 0x86DD
      (icmp dst src (be 1 129 ++ be 3 0 ++ data))) ∧
    execNeighborSolicitation port dst src s = Becomes s (s.dev.fresh.ownFrame s.clock port false (Config.freeNat s.dev.free 0 % 2 ^ 48) 0x86DD
      (icmp dst src (be 1 136 ++ be 3 0 ++ be 4 0x60000000 ++ be 16 dst ++ be 1 2 ++ be 1 1 ++ be 6 (Config.macBase + port)))) :=
  ⟨State.onDev_becomes (if_neg (by simp [hown])), State.onDev_becomes (if_neg (by simp [hown]))⟩

/-! ### Gates (R448, R452, R455) -/

theorem execFrameTransmissionEnd_kicks {s : State} {port : Nat} (hbusy : (s.dev.port port).busy = true) :
    execFrameTransmissionEnd port s = BecomesAt s (ceilDiv (s.dev.port port).endsAt 200)
      ((s.dev.modPort port fun y => { y with busy := false }).kickAt (s.clock.reach (ceilDiv (s.dev.port port).endsAt 200)) port
        (s.dev.port port).endsAt) :=
  if_pos hbusy

theorem execGateEntryBoundary_takes {s : State} {port t : Nat} (hdue : (s.dev.port port).dueBoundary = some t) :
    execGateEntryBoundary port s = BecomesAt s t (s.dev.gateBoundary (s.clock.reach t) port) := by
  rw [execGateEntryBoundary, hdue]
  rfl

/-- Settles O41: each command of a port where the port can take it. -/
theorem portsWork : Obligations.PortsWork := by
  intro s port
  refine ⟨execPortUp_comes, fun hup => ⟨execLldpTransmit_sends hup, fun k => execLldpdu_learns hup,
    fun target hpeer _ => execNeighborAdvertisement_resolves hup hpeer⟩, fun i k => execLldpTtlExpiry_forgets, fun dst src data => exec_ownAddr_answered,
    execFrameTransmissionEnd_kicks, fun t => execGateEntryBoundary_takes⟩

end Sys2Proof.Machine
end

section
/-! PROOF. Fabric time over PTP: what each message leaves, and that records and frames leave what PTP has measured. -/

namespace Sys2Proof.Machine

open Sys2Proof

/-! ### What is sent leaves the state of PTP -/

@[simp] theorem Dev.ptp_ite (p : Prop) [Decidable p] (a b : Dev) : (if p then a else b).fabric.ptp = if p then a.fabric.ptp else b.fabric.ptp :=
  apply_ite (fun d : Dev => d.fabric.ptp) p a b

@[simp] theorem Dev.modPort_ptp (d : Dev) (n : Nat) (f : Port → Port) : (d.modPort n f).fabric.ptp = d.fabric.ptp := (rfl)

@[simp] theorem Dev.startFrame_ptp (d : Dev) (c : Clock) (port a : Nat) (f : Frame) : (d.startFrame c port a f).fabric.ptp = d.fabric.ptp := by
  unfold Dev.startFrame
  dsimp only
  split <;> rfl

@[simp] theorem Dev.kickAt_ptp (d : Dev) (c : Clock) (port a : Nat) : (d.kickAt c port a).fabric.ptp = d.fabric.ptp := by
  unfold Dev.kickAt
  dsimp only
  split
  · rfl
  · split
    · exact Dev.startFrame_ptp d c port a _
    · split
      · exact Dev.modPort_ptp d port _
      · split
        · exact Dev.modPort_ptp d port _
        · simp

@[simp] theorem Dev.kick_ptp (d : Dev) (c : Clock) (port : Nat) : (d.kick c port).fabric.ptp = d.fabric.ptp := d.kickAt_ptp c port _

@[simp] theorem Dev.kickAll_ptp (d : Dev) (c : Clock) : (d.kickAll c).fabric.ptp = d.fabric.ptp := by
  unfold Dev.kickAll
  generalize List.range 16 = l
  exact foldl_keep (fun d : Dev => d.fabric.ptp) _ (fun d i => d.kick_ptp c i) l d

@[simp] theorem Dev.sendTo_ptp (d : Dev) (c : Clock) (sub flow : Nat) (tie : Tie) (svc : Nat) (k : Peer) (keyed : Bool) (len : Nat)
    (out : Nat → Output) : (d.sendTo c sub flow tie svc k keyed len out).fabric.ptp = d.fabric.ptp := by
  unfold Dev.sendTo Dev.sendFrame
  split
  · rfl
  · simp

@[simp] theorem Dev.sendPacketOn_ptp (d : Dev) (c : Clock) (p type : Nat) (keyed : Bool) (svc peer : Nat) (isModule : Bool) (flow : Nat)
    (tie : Tie) (payload : Bytes) : (d.sendPacketOn c p type keyed svc peer isModule flow tie payload).fabric.ptp = d.fabric.ptp := by
  unfold Dev.sendPacketOn
  split
  · rfl
  · exact Dev.sendTo_ptp _ c _ _ _ _ _ _ _ _

@[simp] theorem Dev.modRing_ptp (d : Dev) (rs : RsId) (f : RingSet → RingSet) : (d.modRing rs f).fabric.ptp = d.fabric.ptp := by
  cases rs <;> rfl

@[simp] theorem Dev.modRun_ptp (d : Dev) (rs : RsId) (f : RingRun → RingRun) : (d.modRun rs f).fabric.ptp = d.fabric.ptp := d.modRing_ptp rs _

@[simp] theorem Dev.modMsix_ptp (d : Dev) (fn : Fn) (v : Nat) (f : MsixVec → MsixVec) : (d.modMsix fn v f).fabric.ptp = d.fabric.ptp := by
  cases fn <;> rfl

@[simp] theorem Dev.sendRdma_ptp (d : Dev) (c : Clock) (rs : RsId) (o : RoceOut) : (d.sendRdma c rs o).fabric.ptp = d.fabric.ptp := by
  unfold Dev.sendRdma
  split
  · rfl
  · split
    · exact (Dev.sendTo_ptp _ c _ _ _ _ _ _ _ _).trans (Dev.modRing_ptp _ rs _)
    · exact d.modRing_ptp rs _

@[simp] theorem Dev.writeHost_ptp (d : Dev) (c : Clock) (rs : RsId) (tie : Tie) (svc addr : Nat) (b : Bytes) :
    (d.writeHost c rs tie svc addr b).fabric.ptp = d.fabric.ptp := by
  unfold Dev.writeHost
  dsimp only
  split
  · exact foldl_keep (fun d : Dev => d.fabric.ptp) _ (fun d k => d.sendRdma_ptp c rs _) _ d
  · rfl

@[simp] theorem Dev.emit_ptp (d : Dev) (o : Output) : (d.emit o).fabric.ptp = d.fabric.ptp := (rfl)

@[simp] theorem Dev.notify_ptp (d : Dev) (c : Clock) (rs : RsId) : (d.notify c rs).fabric.ptp = d.fabric.ptp := by simp [Dev.notify]

@[simp] theorem Dev.writeSlot_ptp (d : Dev) (c : Clock) (rs : RsId) (e : WaitEntry) : (d.writeSlot c rs e).fabric.ptp = d.fabric.ptp := by
  simp [Dev.writeSlot]

@[simp] theorem Dev.flushMgmtEvents_ptp (c : Clock) (n : Nat) (d : Dev) : (d.flushMgmtEvents c n).fabric.ptp = d.fabric.ptp := by
  induction n generalizing d with
  | zero => rfl
  | succ n ih =>
    unfold Dev.flushMgmtEvents
    dsimp only
    split <;> simp [ih]

@[simp] theorem Dev.record_ptp (d : Dev) (c : Clock) (code kind idx : Nat) (part : Option Nat) (d0 d1 d2 : Nat) :
    (d.record c code kind idx part d0 d1 d2).fabric.ptp = d.fabric.ptp := by
  simp [Dev.record, Dev.assignRecord, Dev.putRecord, Dev.postMgmt]

/-! ### Masters (R427, R429) -/

theorem Ptp.rebind_masters (x : Ptp) : x.rebind.masters = x.masters := by
  unfold Ptp.rebind
  dsimp only
  split <;> rfl

/-- With no master there is none to bind to. -/
theorem Ptp.rebind_none {x : Ptp} (h : x.masters = []) : x.rebind.bound = none := by
  unfold Ptp.rebind
  rw [h]
  dsimp only
  split
  · next hb => exact (beq_iff_eq.1 hb).symm
  · rfl

/-- The device that PTP leaves when its masters are dropped. -/
def Dev.dropMasters (d : Dev) (c : Clock) : Dev :=
  d.modFabric fun f => { f with ptp := ({ f.ptp with masters := f.ptp.masters.filter fun (k : Master) => decide (c.time < k.expires) } : Ptp).rebind }

theorem Dev.dropMasters_single {d : Dev} {c : Clock} {k : Master} (h : d.fabric.ptp.masters = [k]) :
    let e := d.dropMasters (c.reach k.expires)
    e.fabric.ptp.masters = [] ∧ e.fabric.ptp.bound = none := by
  have hnone : (d.fabric.ptp.masters.filter fun (m : Master) => decide ((c.reach k.expires).time < m.expires)) = [] := by
    simp [h, Clock.reach]
  exact ⟨(Ptp.rebind_masters _).trans hnone, Ptp.rebind_none hnone⟩

/-- The time-lost state begins: what PTP has measured of its masters stands. -/
theorem loseTime_begins {c : Clock} (d : Dev) (cause : Nat) (h : c.timeLost = false) :
    (loseTime c d cause).1 = { c with timeLost := true, ptpLocked := false } ∧
      (loseTime c d cause).2.fabric.ptp.masters = d.fabric.ptp.masters ∧ (loseTime c d cause).2.fabric.ptp.bound = d.fabric.ptp.bound := by
  simp [loseTime, h, Dev.modFabric]

theorem execAnnounceTimeout_loses {s : State} {k : Master} (hk : s.dev.fabric.ptp.masters = [k]) (hlost : s.clock.timeLost = false) :
    ∃ d, execAnnounceTimeout s = .next { s with clock := { s.clock.reach k.expires with timeLost := true, ptpLocked := false }, dev := d } ∧
      d.fabric.ptp.masters = [] ∧ d.fabric.ptp.bound = none := by
  obtain ⟨hmasters, hbound⟩ := Dev.dropMasters_single (c := s.clock) hk
  obtain ⟨hclock, hm, hb⟩ := loseTime_begins (s.dev.dropMasters (s.clock.reach k.expires)) 1 (c := s.clock.reach k.expires) hlost
  have hexec : execAnnounceTimeout s =
      (let c := s.clock.reach k.expires
       let d := s.dev.dropMasters c
       let r := if d.fabric.ptp.masters.isEmpty then loseTime c d 1 else (c, d)
       .next { s with clock := r.1, dev := r.2 }) := by
    rw [execAnnounceTimeout, hk]
    rfl
  refine ⟨_, hexec.trans ?_, hm.trans hmasters, hb.trans hbound⟩
  dsimp only
  rw [hmasters, ← hclock]
  rfl

/-! ### Messages (R426 to R428) -/

section Messages

variable {s : State} {port : Nat} {m : PtpMsg}

theorem execAnnounce_remembers (hup : (s.dev.port port).up = true) (hdom : m.domain = s.dev.fabric.cfg.ptpDomain) (hlo : -3 ≤ m.logInterval)
    (hhi : m.logInterval ≤ 3) (hsteps : m.stepsRemoved < 255) :
    execAnnounce port m s = Becomes s (s.dev.modFabric fun f =>
      { f with ptp := ({ f.ptp with masters := (f.ptp.masters.filter fun (k : Master) => !(k.port == port && k.m.source == m.source)) ++
        [⟨port, s.clock.time, m⟩] } : Ptp).rebind }) := by
  have hbad : ¬((!(s.dev.port port).up) = true ∨ m.domain ≠ s.dev.fabric.cfg.ptpDomain ∨ m.logInterval < -3 ∨ 3 < m.logInterval ∨
      255 ≤ m.stepsRemoved) := by
    simp only [hup, hdom, Bool.not_true, Bool.false_eq_true, ne_eq, not_true, false_or]
    omega
  exact congrArg (Becomes s) (if_neg hbad)

/-- A Sync that the port follows is a whole one, or is kept for its Follow_Up. -/
theorem execSync_follows (hfrom : s.dev.fromMaster port m = true) (hlo : -7 ≤ m.logInterval) (hhi : m.logInterval ≤ 0) :
    (m.twoStep = true → execSync port m s =
      Becomes s (s.dev.modFabric fun f => { f with ptp := { f.ptp with sync := some (m.seq, m.arrival, m.correction) } })) ∧
    (m.twoStep = false → execSync port m s =
      let w := wholeSync s.clock s.dev port (m.origin + m.correction) m.arrival
      .next { s with clock := w.1, dev := w.2 }) := by
  have hbad : ¬((!s.dev.fromMaster port m) = true ∨ m.logInterval < -7 ∨ 0 < m.logInterval) := by
    simp only [hfrom, Bool.not_true, Bool.false_eq_true, false_or]
    omega
  exact ⟨fun h => State.onBoth_becomes ((if_neg hbad).trans (if_pos h)),
    fun h => State.onBoth_next ((if_neg hbad).trans (if_neg (by simp [h])))⟩

theorem execFollowUp_follows (hfrom : s.dev.fromMaster port m = true) {t2 : Nat} {corr : Int}
    (hsync : s.dev.fabric.ptp.sync = some (m.seq, t2, corr)) :
    execFollowUp port m s =
      let w := wholeSync s.clock s.dev port (m.origin + corr + m.correction) t2
      .next { s with clock := w.1, dev := w.2 } :=
  State.onBoth_next (by simp [hsync, hfrom])

theorem execDelayResp_measures (hfrom : s.dev.fromMaster port m = true) (hus : m.forUs = true) {t1 : Int} {t2 t3 : Nat}
    (hlast : s.dev.fabric.ptp.lastSync = some (t1, t2)) (hreq : s.dev.fabric.ptp.reqAt = some (m.seq, t3)) :
    execDelayResp port m s = Becomes s (s.dev.modFabric fun f =>
      { f with ptp := { f.ptp with delay := ((t2 : Int) - t1 + (m.origin - m.correction) - t3) / 2, reqAt := none } }) := by
  rw [execDelayResp, State.onDev_eq, hlast, hreq]
  exact congrArg (Becomes s) (if_pos (by simp [hfrom, hus]))

end Messages

/-- Settles O42: each message by what it leaves, where it is one that the port follows. -/
theorem timeMessagesWork : Obligations.TimeMessagesWork := by
  intro s port m
  exact ⟨execAnnounce_remembers, fun k hk hlost => execAnnounceTimeout_loses hk hlost, execSync_follows,
    fun hfrom t2 corr hsync => execFollowUp_follows hfrom hsync,
    fun hfrom hus t1 t2 t3 hlast hreq => execDelayResp_measures hfrom hus hlast hreq⟩

end Sys2Proof.Machine
end

section
/-! PROOF. What work leaves of the posture of the module: requests that end, tiles and bank engines that run, updates that are applied, pauses
and records change no partition's state or waiting record, and neither the composition epoch, the firmware, the stage of the bring-up nor what
steers the recorder. -/

namespace Sys2Proof.Machine

open Sys2Proof

/-- The state of a partition, and the record that waits for its close. -/
def Part.standing (x : Part) : PartLife × Option PartCfg := (x.life, x.next)

/-- Every other field of a partition leaves it. -/
@[simp] theorem Part.standing_with (x : Part) (a b c e f g h i j k l m n o q r s t u v w y z a' b' c' d' e') :
    Part.standing ⟨a, x.next, x.life, b, c, e, f, g, h, i, j, k, l, m, n, o, q, r, s, t, u, v, w, y, z, a', b', c', d', e'⟩ = x.standing := (rfl)

def Dev.standings (d : Dev) : List (PartLife × Option PartCfg) := d.parts.map Part.standing

/-- What steers the recorder: the freeze, the fatal state, the active keeper, and which keepers are there. -/
def Recorder.ctl (r : Recorder) : Option Nat × Bool × Nat × Bool × Bool := (r.frozen, r.fatal, r.active, r.k0.present, r.k1.present)

/-- The composition epoch, the firmware, the stage of the bring-up and what steers the recorder. -/
def Dev.globals (d : Dev) : Comp × Firmware × Nat × (Option Nat × Bool × Nat × Bool × Bool) := (d.comp, d.fw, d.mgmt.stage, d.recorder.ctl)

/-- The posture of `e` is that of `d`. -/
@[simp] abbrev SamePosture (e d : Dev) : Prop := e.standings = d.standings ∧ e.globals = d.globals

theorem SamePosture.refl (d : Dev) : SamePosture d d := ⟨rfl, rfl⟩

theorem SamePosture.trans {a b c : Dev} (h : SamePosture a b) (k : SamePosture b c) : SamePosture a c :=
  ⟨h.1.trans k.1, h.2.trans k.2⟩

/-- An element of the list of partitions, with its image where the list ends. -/
theorem Dev.part_standing_congr {e d : Dev} (h : e.standings = d.standings) (p : Nat) : (e.part p).standing = (d.part p).standing := by
  simpa [Dev.part, Dev.standings] using congrArg (fun l => l.getD p (Part.reset p).standing) h

/-! ### One partition -/

@[simp] theorem Part.dropOuts_standing (x : Part) (r : ReqRef) (sub : Nat) : (x.dropOuts r sub).standing = x.standing := (rfl)
@[simp] theorem Part.leaveInvs_standing (x : Part) (r : ReqRef) : (x.leaveInvs r).standing = x.standing := (rfl)
@[simp] theorem Part.endLoad_standing (x : Part) (m : Nat) : (x.endLoad m).standing = x.standing := (rfl)
@[simp] theorem Part.passHorizon_standing (x : Part) : x.passHorizon.standing = x.standing := (rfl)
@[simp] theorem Part.applied_standing (x : Part) (j : Nat) : (x.applied j).standing = x.standing := (rfl)
@[simp] theorem Part.modModel_standing (x : Part) (m : Nat) (f : Model → Model) : (x.modModel m f).standing = x.standing := (rfl)
@[simp] theorem Part.modTable_standing (x : Part) (t : Nat) (f : Table → Table) : (x.modTable t f).standing = x.standing := (rfl)
@[simp] theorem Part.modRunning_standing (x : Part) (f : Inv → Inv) : (x.modRunning f).standing = x.standing := (rfl)
@[simp] theorem Part.entryEnded_standing (x : Part) (entry pos : Nat) : (x.entryEnded entry pos).standing = x.standing := (rfl)
@[simp] theorem Part.stage_standing (x : Part) (a n : Nat) : (x.stage a n).standing = x.standing := (rfl)
@[simp] theorem Part.syncUpd_standing (x : Part) (u : UpdRun) : (x.syncUpd u).standing = x.standing := (rfl)
@[simp] theorem Part.scratchWrite_standing (x : Part) (eng a : Nat) (b : Bytes) (bad : Bool) :
    (x.scratchWrite eng a b bad).standing = x.standing := (rfl)

@[simp] theorem Part.standing_ite (p : Prop) [Decidable p] (x y : Part) : (if p then x else y).standing = if p then x.standing else y.standing :=
  apply_ite Part.standing p x y

@[simp] theorem Part.foldl_standing {α : Type} (f : Part → α → Part) (h : ∀ x a, (f x a).standing = x.standing) (l : List α) (x : Part) :
    (l.foldl f x).standing = x.standing := foldl_keep Part.standing f h l x

@[simp] theorem Part.releaseOlds_standing (x : Part) (p : Nat) : (x.releaseOlds p).standing = x.standing := by
  refine Part.foldl_standing _ (fun x k => Part.foldl_standing _ (fun x o => ?_) _ x) _ x
  dsimp only
  split
  · rfl
  · split <;> rfl

@[simp] theorem Part.beginInv_standing (x : Part) (c : Clock) : (x.beginInv c).standing = x.standing := by
  unfold Part.beginInv
  split
  · rfl
  · split
    · rfl
    · dsimp only
      split <;> rfl

@[simp] theorem Part.queueEncoder_standing (x : Part) (r : ReqRef) (u : UpdRun) : (x.queueEncoder r u).standing = x.standing := by
  have hrow : ∀ (x : Part) (i : Inv) (b : Bool) (w : InvRow), (x.addRow i b w).standing = x.standing := fun x i b w => by
    unfold Part.addRow
    dsimp only
    split <;> simp
  unfold Part.queueEncoder
  split
  · rfl
  · split
    · rfl
    · exact Part.foldl_standing _ (fun x w => hrow x _ _ _) _ x

@[simp] theorem Part.placeUpd_standing (x : Part) (now : Nat) (u : UpdRun) (j : Nat) : (x.placeUpd now u j).1.standing = x.standing := by
  unfold Part.placeUpd Part.admitHot
  split
  · dsimp only
    split <;> rfl
  · rfl

@[simp] theorem Part.linkUpd_standing (x : Part) (u : UpdRun) (adm : Nat) : (x.linkUpd u adm).standing = x.standing := by
  unfold Part.linkUpd
  split <;> rfl

@[simp] theorem Part.commitUpd_standing (x : Part) (u : UpdRun) (e : Nat) (order : Nat × Nat × Nat) :
    (x.commitUpd u e order).standing = x.standing := by
  unfold Part.commitUpd
  split <;> rfl

@[simp] theorem Part.deleteUpd_standing (x : Part) (now : Nat) (u : UpdRun) (e : Nat) (order : Nat × Nat × Nat) :
    (x.deleteUpd now u e order).standing = x.standing := (rfl)

/-! ### Updates of one partition, in turn and under a condition -/

/-- What partitions are and wait for lies in the partitions alone. -/
@[simp] theorem Dev.standings_with (d : Dev) (mg co fl ch mc ms rs ar np ti re un fa po fw la fr ou) :
    Dev.standings ⟨d.parts, mg, co, fl, ch, mc, ms, rs, ar, np, ti, re, un, fa, po, fw, la, fr, ou⟩ = d.standings := (rfl)

@[simp] theorem Dev.globals_with (d : Dev) (pa fl ch mc ms rs ar np ti un fa po la fr ou) :
    Dev.globals ⟨pa, d.mgmt, d.comp, fl, ch, mc, ms, rs, ar, np, ti, d.recorder, un, fa, po, d.fw, la, fr, ou⟩ = d.globals := (rfl)

@[simp] theorem Dev.emit_posture (d : Dev) (o : Output) : SamePosture (d.emit o) d := .refl d
@[simp] theorem Dev.fresh_posture (d : Dev) : SamePosture d.fresh d := .refl d
@[simp] theorem Dev.modFabric_posture (d : Dev) (f : Fabric → Fabric) : SamePosture (d.modFabric f) d := .refl d
@[simp] theorem Dev.modTransport_posture (d : Dev) (p : Nat) (f : TransportPart → TransportPart) :
    SamePosture (d.modTransport p f) d := .refl d
@[simp] theorem Dev.modTile_posture (d : Dev) (t : Nat) (f : Tile → Tile) : SamePosture (d.modTile t f) d := .refl d
@[simp] theorem Dev.modChan_posture (d : Dev) (ch : Nat) (f : Channel → Channel) : SamePosture (d.modChan ch f) d := .refl d
@[simp] theorem Dev.modArb_posture (d : Dev) (st : Nat) (f : Arbiter → Arbiter) : SamePosture (d.modArb st f) d := .refl d

@[simp] theorem Dev.modPart_globals (d : Dev) (p : Nat) (f : Part → Part) : (d.modPart p f).globals = d.globals := (rfl)

theorem Dev.modPart_posture_at {f : Part → Part} {d : Dev} {p : Nat} (h : (f (d.part p)).standing = (d.part p).standing) :
    SamePosture (d.modPart p f) d := ⟨map_modAt_keep_at h, d.modPart_globals p f⟩

@[simp] theorem Dev.modPart_standings {f : Part → Part} (h : ∀ x, (f x).standing = x.standing) (d : Dev) (p : Nat) :
    (d.modPart p f).standings = d.standings := (Dev.modPart_posture_at (h _)).1

@[simp] theorem Dev.foldl_posture {α : Type} (f : Dev → α → Dev) (h : ∀ d a, SamePosture (f d a) d) (l : List α) (d : Dev) :
    SamePosture (l.foldl f d) d :=
  ⟨foldl_keep Dev.standings f (fun d a => (h d a).1) l d, foldl_keep Dev.globals f (fun d a => (h d a).2) l d⟩

@[simp] theorem Dev.standings_ite (p : Prop) [Decidable p] (a b : Dev) :
    (if p then a else b).standings = if p then a.standings else b.standings := apply_ite Dev.standings p a b

@[simp] theorem Dev.globals_ite (p : Prop) [Decidable p] (a b : Dev) :
    (if p then a else b).globals = if p then a.globals else b.globals := apply_ite Dev.globals p a b

@[simp] theorem Dev.fst_ite_standings {α : Type} (p : Prop) [Decidable p] (a b : Dev × α) :
    (if p then a else b).1.standings = if p then a.1.standings else b.1.standings := apply_ite (fun x : Dev × α => x.1.standings) p a b

@[simp] theorem Dev.fst_ite_globals {α : Type} (p : Prop) [Decidable p] (a b : Dev × α) :
    (if p then a else b).1.globals = if p then a.1.globals else b.1.globals := apply_ite (fun x : Dev × α => x.1.globals) p a b

@[simp] theorem BankOut.standings_ite (p : Prop) [Decidable p] (a b : BankOut) :
    (if p then a else b).d.standings = if p then a.d.standings else b.d.standings := apply_ite (fun o : BankOut => o.d.standings) p a b

@[simp] theorem BankOut.globals_ite (p : Prop) [Decidable p] (a b : BankOut) :
    (if p then a else b).d.globals = if p then a.d.globals else b.d.globals := apply_ite (fun o : BankOut => o.d.globals) p a b

theorem SamePosture.ite {p : Prop} [Decidable p] {a b d : Dev} (ha : SamePosture a d) (hb : SamePosture b d) :
    SamePosture (if p then a else b) d := by
  split
  · exact ha
  · exact hb

theorem Outward.posture {d e : Dev} (h : Outward d e) : SamePosture e d := by
  obtain ⟨_, _, rfl⟩ := h
  exact .refl d

/-! ### Completions, events and records (R335, R467, R471) -/

/-- A change of one partition that leaves what it is and waits for. -/
theorem Dev.modPart_posture {f : Part → Part} (h : ∀ x, (f x).standing = x.standing) (d : Dev) (p : Nat) : SamePosture (d.modPart p f) d :=
  Dev.modPart_posture_at (h _)

@[simp] theorem Dev.modRing_posture (d : Dev) (rs : RsId) (f : RingSet → RingSet) : SamePosture (d.modRing rs f) d := by
  cases rs with
  | part p n => exact Dev.modPart_posture (f := fun x => { x with rings := modAt f n x.rings }) (fun _ => rfl) d p
  | mgmt n => exact ⟨rfl, rfl⟩

@[simp] theorem Dev.modRun_posture (d : Dev) (rs : RsId) (f : RingRun → RingRun) : SamePosture (d.modRun rs f) d := Dev.modRing_posture d rs _

@[simp] theorem Dev.modMsix_posture (d : Dev) (fn : Fn) (v : Nat) (f : MsixVec → MsixVec) : SamePosture (d.modMsix fn v f) d := by
  cases fn with
  | pf => exact ⟨rfl, rfl⟩
  | vf n => exact Dev.modPart_posture (f := fun x => { x with msix := modAt f v x.msix }) (fun _ => rfl) d n
  | remote n _ => exact Dev.modPart_posture (f := fun x => { x with msix := modAt f v x.msix }) (fun _ => rfl) d n

@[simp] theorem Dev.sendRdma_posture (d : Dev) (c : Clock) (rs : RsId) (o : RoceOut) : SamePosture (d.sendRdma c rs o) d := by
  unfold Dev.sendRdma
  split
  · exact .refl d
  · refine SamePosture.ite ?_ (d.modRing_posture rs _)
    exact (outward_sendTo _ c _ _ _ _ _ _ _ _).posture.trans
      ((Dev.modRing_posture _ rs _).trans (outward_nextSequence d rs.partNo).posture)

@[simp] theorem Dev.writeHost_posture (d : Dev) (c : Clock) (rs : RsId) (tie : Tie) (svc addr : Nat) (b : Bytes) :
    SamePosture (d.writeHost c rs tie svc addr b) d := by simp [Dev.writeHost]

@[simp] theorem Dev.notify_posture (d : Dev) (c : Clock) (rs : RsId) : SamePosture (d.notify c rs) d := by
  have hsent (d : Dev) (p flow peer : Nat) (b : Bytes) : SamePosture (d.sendPacketOn c p 6 true 3 peer false flow (.notice rs) b) d :=
    (outward_sendPacketOn d c p 6 true 3 peer false flow (.notice rs) b).posture
  simp [Dev.notify, hsent]

@[simp] theorem Dev.writeSlot_posture (d : Dev) (c : Clock) (rs : RsId) (e : WaitEntry) : SamePosture (d.writeSlot c rs e) d := by
  simp [Dev.writeSlot]

/-- The events of the management function do not steer anything. -/
theorem Dev.modEv_posture (d : Dev) (ev : EventState) : SamePosture { d with mgmt := { d.mgmt with ev := ev } } d := ⟨rfl, rfl⟩

theorem Dev.setRecorder_posture {d : Dev} {r : Recorder} (h : r.ctl = d.recorder.ctl) : SamePosture { d with recorder := r } d :=
  ⟨rfl, congrArg (fun k => (d.comp, d.fw, d.mgmt.stage, k)) h⟩

@[simp] theorem Dev.flushMgmtEvents_posture (c : Clock) (n : Nat) (d : Dev) : SamePosture (d.flushMgmtEvents c n) d := by
  induction n generalizing d with
  | zero => exact .refl d
  | succ n ih =>
    unfold Dev.flushMgmtEvents
    dsimp only
    split
    · exact .refl d
    · exact .ite ((ih _).trans ((Dev.writeSlot_posture _ _ _ _).trans (d.modEv_posture _))) (.refl d)

theorem Dev.postMgmt_posture (d : Dev) (c : Clock) (e : EvRec) : SamePosture (d.postMgmt c e) d :=
  .ite (.refl d) (.ite (d.modEv_posture _) ((Dev.flushMgmtEvents_posture c _ _).trans (d.modEv_posture _)))

@[simp] theorem Keeper.put_present (k : Keeper) (e : EvRec) : (k.put e).present = k.present := by
  unfold Keeper.put
  split <;> rfl

theorem Dev.putRecord_posture (d : Dev) (c : Clock) (e : EvRec) : SamePosture (d.putRecord c e) d := by
  have hput : SamePosture { d with recorder := { d.recorder with k0 := d.recorder.k0.put e, k1 := d.recorder.k1.put e } } d :=
    Dev.setRecorder_posture (by simp [Recorder.ctl])
  exact .ite ((Dev.postMgmt_posture _ c e).trans hput) hput

theorem Dev.assignRecord_posture (d : Dev) (c : Clock) (e : EvRec) : SamePosture (d.assignRecord c e) d :=
  .ite (.ite (Dev.setRecorder_posture rfl) (Dev.setRecorder_posture rfl))
    ((Dev.putRecord_posture _ c _).trans (Dev.setRecorder_posture rfl))

@[simp] theorem Dev.record_posture (d : Dev) (c : Clock) (code kind idx : Nat) (part : Option Nat) (d0 d1 d2 : Nat) :
    SamePosture (d.record c code kind idx part d0 d1 d2) d :=
  .ite (.ite (Dev.setRecorder_posture rfl) (Dev.setRecorder_posture rfl)) (d.assignRecord_posture c _)

@[simp] theorem Dev.stopTiles_posture (d : Dev) (p : Nat) : SamePosture (d.stopTiles p) d :=
  Dev.foldl_posture _ (fun d t => d.modTile_posture t _) _ d

@[simp] theorem Dev.stopInv_posture (d : Dev) (p : Nat) : SamePosture (d.stopInv p) d := by simp [Dev.stopInv]

@[simp] theorem Dev.leaveInvs_posture (d : Dev) (r : ReqRef) : SamePosture (d.leaveInvs r) d := by
  unfold Dev.leaveInvs
  split <;> simp

@[simp] theorem Dev.modReq_posture (d : Dev) (r : ReqRef) (f : Req → Req) : SamePosture (d.modReq r f) d := Dev.modRing_posture d r.rs _

@[simp] theorem Dev.dropReq_posture (d : Dev) (r : ReqRef) : SamePosture (d.dropReq r) d := by
  unfold Dev.dropReq
  dsimp only
  split <;> split <;> simp

@[simp] theorem Dev.putEntry_posture (d : Dev) (c : Clock) (rs : RsId) (e : WaitEntry) : SamePosture (d.putEntry c rs e) d := by
  simp [Dev.putEntry]

@[simp] theorem Dev.finish_posture (d : Dev) (c : Clock) (r : ReqRef) (e : Ending) : SamePosture (d.finish c r e) d := by
  unfold Dev.finish
  split <;> simp

@[simp] theorem Dev.flushEvents_posture (c : Clock) (p n : Nat) (d : Dev) : SamePosture (d.flushEvents c p n) d := by
  induction n generalizing d with
  | zero => exact .refl _
  | succ n ih =>
    unfold Dev.flushEvents
    dsimp only
    split <;> simp [ih]

@[simp] theorem Dev.postEvent_posture (d : Dev) (c : Clock) (p type : Nat) (payload : Bytes) :
    SamePosture (d.postEvent c p type payload) d := by simp [Dev.postEvent]

@[simp] theorem Dev.saturate_posture (d : Dev) (c : Clock) (p counter n source : Nat) : SamePosture (d.saturate c p counter n source) d := by
  simp [Dev.saturate, Dev.drift]

/-! ### The journal and its pages (R258, R275 to R277) -/

@[simp] theorem Dev.settleBuffer_posture (d : Dev) (p : Nat) : SamePosture (d.settleBuffer p) d := by simp [Dev.settleBuffer]

@[simp] theorem Dev.structRun_posture (d : Dev) (c : Clock) (p tag : Nat) (body : Bytes) : SamePosture (d.structRun c p tag body) d := by
  simp [Dev.structRun, Dev.packAppend]

@[simp] theorem Dev.journalAppend_posture (d : Dev) (c : Clock) (p : Nat) (j : JRec) (src : Nat) :
    SamePosture (d.journalAppend c p j src) d := by simp [Dev.journalAppend, Dev.packAppend]

@[simp] theorem Dev.structAppend_posture (d : Dev) (c : Clock) (p index handle lists : Nat) :
    SamePosture (d.structAppend c p index handle lists) d := by
  have hstate : SamePosture (d.stateRecords c p) d := by simp [Dev.stateRecords]
  unfold Dev.structAppend
  dsimp only
  split <;> simp [hstate]

@[simp] theorem Dev.cancelUpd_posture (d : Dev) (c : Clock) (p : Nat) (r : ReqRef) (u : UpdRun) : SamePosture (d.cancelUpd c p r u) d := by
  unfold Dev.cancelUpd
  split
  · exact .refl _
  · refine SamePosture.ite ((Dev.structAppend_posture _ _ _ _ _ _).trans ?withdrawn) ?withdrawn
    case withdrawn => exact (Dev.modPart_posture (fun x => by split <;> rfl) _ p).trans (d.journalAppend_posture c p _ _)

/-! ### Requests that end or lose their state (R132, R349, R394) -/

@[simp] theorem Dev.setSearch_posture (d : Dev) (r : ReqRef) (i : Nat) (f : SearchRun → SearchRun) : SamePosture (d.setSearch r i f) d :=
  Dev.modReq_posture d r _

@[simp] theorem Dev.dropRows_posture (d : Dev) (r : ReqRef) (sub : Nat) : SamePosture (d.dropRows r sub) d := by simp [Dev.dropRows]

@[simp] theorem Dev.endSearches_posture (d : Dev) (c : Clock) (r : ReqRef) (ok : Bool) : SamePosture (d.endSearches c r ok) d := by
  unfold Dev.endSearches
  split
  · exact .refl _
  · split <;> simp [Dev.hostOut]

@[simp] theorem Dev.endServed_posture (c : Clock) (d : Dev) (r : ReqRef) (sub : Nat) (tile : Bool) (status : Nat) :
    SamePosture (Dev.endServed c d r sub tile status) d := by
  unfold Dev.endServed
  split
  · exact .refl _
  · split <;> simp

/-! ### Tiles (R146 to R148, R170 to R180) -/

@[simp] theorem Dev.failInv_posture (d : Dev) (c : Clock) (p : Nat) (tile : Bool) (status : Nat) :
    SamePosture (d.failInv (Dev.endServed c) p tile status) d := by
  unfold Dev.failInv
  split <;> simp

@[simp] theorem Dev.tileFault_posture (d : Dev) (c k : Clock) (p pos site : Nat) (x : TDesc) (code detail : Nat) :
    SamePosture (d.tileFault c (Dev.endServed k) p pos site x code detail) d := by simp [Dev.tileFault]

@[simp] theorem Dev.flagRow_posture (d : Dev) (f : Nat) (w : InvRow) : SamePosture (d.flagRow f w) d := by simp [Dev.flagRow]

@[simp] theorem Dev.markRows_posture (d : Dev) (p rows : Nat) (marks : List RowMark) : SamePosture (d.markRows p rows marks) d := by
  unfold Dev.markRows
  split <;> simp

@[simp] theorem Dev.signal_posture (d : Dev) (sites : List Nat) (token n : Nat) : SamePosture (d.signal sites token n).1 d := by
  unfold Dev.signal
  refine List.foldlRecOn (motive := fun a : Dev × Bool => SamePosture a.1 d) sites _ (.refl d) fun a h t _ => ?_
  exact h

@[simp] theorem Dev.stageRead_posture (d : Dev) (now p a n : Nat) : SamePosture (d.stageRead now p a n) d := by simp [Dev.stageRead]

/-- An attempt fails, or leaves a device with the posture of `u`. -/
def LeavesPosture {ε : Type} (u : Dev) (a : Except ε Dev) : Prop := ∀ d, a = .ok d → SamePosture d u

theorem LeavesPosture.ok {ε : Type} {u d : Dev} (h : SamePosture d u) : LeavesPosture (ε := ε) u (.ok d) := by
  rintro _ ⟨⟩
  exact h

theorem LeavesPosture.error {ε : Type} (u : Dev) (e : ε) : LeavesPosture u (.error e) := by
  rintro _ ⟨⟩

theorem LeavesPosture.ite {ε : Type} {u : Dev} {p : Prop} [Decidable p] {a b : Except ε Dev} (ha : LeavesPosture u a)
    (hb : LeavesPosture u b) : LeavesPosture u (if p then a else b) := by
  split
  · exact ha
  · exact hb

/-- Moves one after the other, each of which leaves the posture or fails. -/
theorem LeavesPosture.foldl {ε α : Type} {u : Dev} {f : Except ε Dev → α → Except ε Dev}
    (hf : ∀ a x, LeavesPosture u a → LeavesPosture u (f a x)) {a : Except ε Dev} (ha : LeavesPosture u a) (l : List α) :
    LeavesPosture u (l.foldl f a) := by
  induction l generalizing a with
  | nil => exact ha
  | cons x l ih => exact ih (hf a x ha)

theorem Dev.xferPut_posture (d : Dev) (p : Nat) (dst : Option Nat) (a : Nat) (b : Bytes) (add : Bool) :
    LeavesPosture d (d.xferPut p dst a b add) := by
  cases dst with
  | some t => exact .ite (.error _ _) (.ok (by simp))
  | none => exact .ite (.error _ _) (.ite (.error _ _) (.ok (by simp)))

theorem Dev.runXfer_posture (d : Dev) (now p pos site : Nat) (b : Bytes) : LeavesPosture d (d.runXfer now p pos site b) := by
  unfold Dev.runXfer
  extract_lets _ _ _ _ _ _ _ src _ _ read _
  split
  · exact .error _ _
  extract_lets start
  refine .ite (.error _ _) ?_
  split
  · exact .error _ _
  have hstart : SamePosture start d := by
    cases hsrc : src <;> simp [start, hsrc]
  refine .foldl (fun a i ha => ?_) (.ok hstart) _
  cases a with
  | error e => exact .error _ _
  | ok e =>
    refine .ite ha ?_
    cases read i with
    | error e => exact .error _ _
    | ok row =>
      refine .foldl (fun a t ha => ?_) ha _
      cases a with
      | error e => exact .error _ _
      | ok e =>
        dsimp only
        split
        · exact .error _ _
        · next h => exact .ok ((e.xferPut_posture _ _ _ _ _ _ h).trans (ha e rfl))

@[simp] theorem Dev.descDone_posture (d : Dev) (c k : Clock) (p pos site : Nat) (x : TDesc) :
    SamePosture (d.descDone c (Dev.endServed k) p pos site x).1 d := by simp [Dev.descDone]

@[simp] theorem Dev.runDesc_posture (d : Dev) (c k : Clock) (p pos site : Nat) (x : TDesc) :
    SamePosture (d.runDesc c (Dev.endServed k) p pos site x) d := by
  unfold Dev.runDesc
  dsimp only
  split
  case h_1 =>
    split
    · simp
    · next e h => exact (Dev.descDone_posture _ _ _ _ _ _ _).trans (d.runXfer_posture _ _ _ _ _ e h)
  case h_2 =>
    split
    · simp
    · refine SamePosture.ite ?_ (d.descDone_posture _ _ _ _ _ _)
      have hdone := d.descDone_posture c k p pos site x
      refine SamePosture.ite hdone ?_
      split <;> simp
  case h_3 => split <;> simp

@[simp] theorem Dev.accessWaits_posture (d : Dev) (now ch : Nat) : SamePosture (d.accessWaits now ch) d := by
  simp [Dev.accessWaits]

@[simp] theorem Dev.runTiles_posture (c k : Clock) (p n : Nat) (d : Dev) : SamePosture (Dev.runTiles c (Dev.endServed k) p n d) d := by
  induction n generalizing d with
  | zero => exact .refl _
  | succ n ih =>
    have hwaits (l : List (Nat × Nat)) : SamePosture (l.foldl (fun d s => d.modTile s.2 fun t => t.serveWaits.serveWaits) d) d :=
      Dev.foldl_posture _ (fun d s => d.modTile_posture s.2 _) l d
    unfold Dev.runTiles
    dsimp only
    split <;> simp [ih, hwaits]

@[simp] theorem Dev.dispatchAll_posture (t n : Nat) (d : Dev) : SamePosture (d.dispatchAll t n) d := by
  induction n generalizing d with
  | zero => exact .refl _
  | succ n ih =>
    refine (ih _).trans ?_
    unfold Dev.dispatch
    dsimp only
    split <;> simp

/-! ### Command groups on bank engines (R212 to R224) -/

@[simp] theorem Dev.dropToken_posture (d : Dev) (stack p : Nat) : SamePosture (d.dropToken stack p) d := .refl d

@[simp] theorem Dev.takeToken_posture (d : Dev) (stack p : Nat) : SamePosture (d.takeToken stack p).1 d := by
  simp [Dev.takeToken, Dev.setShare]

@[simp] theorem Dev.startGroups_posture (d : Dev) (now ch : Nat) (afterSwitch : Bool) : SamePosture (d.startGroups now ch afterSwitch) d := by
  simp [Dev.startGroups, Dev.startGroup]

@[simp] theorem Dev.switchDone_posture (d : Dev) (now ch : Nat) (oldest : Option Nat) : SamePosture (d.switchDone now ch oldest) d := by
  simp [Dev.switchDone]

@[simp] theorem Dev.endGroup_posture (d : Dev) (ch eng : Nat) : SamePosture (d.endGroup ch eng) d := by
  unfold Dev.endGroup
  split
  · exact .refl _
  · dsimp only
    split <;> simp [Dev.phaseDone]

@[simp] theorem Dev.rowsBack_posture (d : Dev) (c : Clock) (p : Nat) (t : Table) (mem : Memory) (poison written : List Nat) (sat : Nat)
    (stats : TabStats → TabStats) : SamePosture (d.rowsBack c p t mem poison written sat stats) d := by
  simp [Dev.rowsBack, Dev.backRecord]

@[simp] theorem Dev.bankDo_posture (d : Dev) (c : Clock) (p eng : Nat) (phase : Bool) (serves : List ReqRef) (b : Bytes) :
    SamePosture (d.bankDo c p eng phase serves b).d d := by
  unfold Dev.bankDo Dev.bankLoad Dev.bankStore Dev.bankScan Dev.bankMatvec Dev.bankRowRead Dev.bankRowUpdate Dev.bankFill
  dsimp only
  split
  case h_4 =>
    split
    · exact .refl _
    · split <;> simp
  case h_7 => exact Dev.modPart_posture (fun x => Part.foldl_standing _ (fun y i => by split <;> rfl) _ x) d p
  all_goals split <;> simp [Dev.applyRows]

@[simp] theorem Dev.bankPoison_posture (d : Dev) (c : Clock) (ch : Nat) (g : Group) :
    SamePosture (d.bankPoison (Dev.endServed c) ch g) d := by simp [Dev.bankPoison]

@[simp] theorem Dev.markDropped_posture (d : Dev) (c : Clock) (r : ReqRef × Nat) : SamePosture (d.markDropped (Dev.endServed c) r) d := by
  unfold Dev.markDropped
  split <;> simp

@[simp] theorem Dev.bankStep_posture (d : Dev) (c k : Clock) (ch eng : Nat) : SamePosture (d.bankStep c (Dev.endServed k) ch eng) d := by
  unfold Dev.bankStep
  split
  · split
    · exact .refl _
    · simp
  · exact .refl _

@[simp] theorem Dev.bankSteps_posture (c k : Clock) (ch eng n : Nat) (d : Dev) :
    SamePosture (d.bankSteps c (Dev.endServed k) ch eng n) d := by
  induction n generalizing d with
  | zero => exact .refl _
  | succ n ih => exact (ih _).trans (d.bankStep_posture c k ch eng)

@[simp] theorem Dev.finishGroup_posture (d : Dev) (c k : Clock) (ch eng : Nat) :
    SamePosture (d.finishGroup c (Dev.endServed k) ch eng) d := by
  unfold Dev.finishGroup
  split <;> simp

/-! ### Invocations (R146, R187, R191) -/

@[simp] theorem Dev.startEntry_posture (d : Dev) (p entry : Nat) : SamePosture (d.startEntry p entry) d := by
  unfold Dev.startEntry
  dsimp only
  split
  · exact .refl _
  · split
    · exact .refl _
    · split
      · simp
      · refine (Dev.foldl_posture _ (fun d k => ?_) _ _).trans (by simp)
        split
        · exact .refl _
        · split
          · exact .refl _
          · exact d.modChan_posture _ _

@[simp] theorem Dev.startTile_posture (d : Dev) (p pos : Nat) : SamePosture (d.startTile p pos) d := by
  unfold Dev.startTile
  dsimp only
  split <;> simp

@[simp] theorem Dev.invDone_posture (d : Dev) (c : Clock) (p : Nat) : SamePosture (d.invDone (Dev.endServed c) p) d := by
  unfold Dev.invDone
  dsimp only
  split <;> simp

@[simp] theorem Dev.driveChan_posture (d : Dev) (c k : Clock) (p ch : Nat) : SamePosture (d.driveChan c (Dev.endServed k) p ch) d := by
  simp [Dev.driveChan]

@[simp] theorem Dev.driveOnce_posture (d : Dev) (c k : Clock) (p : Nat) : SamePosture (d.driveOnce c (Dev.endServed k) p) d := by
  unfold Dev.driveOnce
  dsimp only
  split <;> simp

@[simp] theorem Dev.runRows_posture (d : Dev) (c k : Clock) (r : ReqRef) (sub : Nat) :
    SamePosture (d.runRows c (Dev.endServed k) r sub) d := by
  have hserve : ∀ (n : Nat) (d : Dev), SamePosture (d.serveRows c (Dev.endServed k) r sub n) d := by
    intro n
    induction n with
    | zero => exact .refl
    | succ n ih => intro d; simp [Dev.serveRows, ih]
  exact hserve _ d

/-! ### Updates applied after their request has gone (R120, R136) -/

@[simp] theorem Dev.vectorRecord_posture (d : Dev) (c : Clock) (r : ReqRef) (epoch : Nat) (u : UpdRun) (v : List F32) (version : Nat) :
    SamePosture (d.vectorRecord c r epoch u v version).1 d := by
  unfold Dev.vectorRecord
  dsimp only
  split <;> simp [Dev.setUpd, Dev.acceptVector]

@[simp] theorem Dev.encodeUpd_posture (d : Dev) (c : Clock) (r : ReqRef) (epoch : Nat) (u : UpdRun) (run : Bool) :
    SamePosture (d.encodeUpd c r epoch u run).1 d := by
  have htake (d : Dev) : SamePosture (d.takeEncoded c r epoch u).1 d := by
    unfold Dev.takeEncoded
    dsimp only
    split <;> simp
  simp [Dev.encodeUpd, htake]

@[simp] theorem Dev.encodeGone_posture (d : Dev) (c : Clock) (j : JRec) : SamePosture (d.encodeGone c j).1 d := by simp [Dev.encodeGone]

@[simp] theorem Dev.placeUpd_posture (d : Dev) (c : Clock) (r : ReqRef) (u : UpdRun) : SamePosture (d.placeUpd c r u).1 d := by
  have hplaced := Dev.modPart_posture_at (d := d) (p := r.rs.partNo) (f := fun _ =>
    ((d.part r.rs.partNo).placeUpd c.time u (u.journal.getD 0)).1.syncUpd { u with placed := true }) (by simp)
  simp [Dev.placeUpd, hplaced]

@[simp] theorem Dev.applyOne_posture (d : Dev) (c : Clock) (p : Nat) (j : JRec) : SamePosture (d.applyOne c p j) d := by
  simp [Dev.applyOne]

@[simp] theorem Dev.applyAborted_posture (d : Dev) (c : Clock) (p : Nat) : SamePosture (d.applyAborted c p) d := by
  simp [Dev.applyAborted]

/-! ### Pauses, the fence and ports (R391 to R394, R420, R466) -/

@[simp] theorem Dev.pauseStart_posture (d : Dev) (c : Clock) (p cause : Nat) (counted : Bool) :
    SamePosture (d.pauseStart c p cause counted) d := by simp [Dev.pauseStart]

@[simp] theorem Dev.pauseEnd_posture (d : Dev) (c : Clock) (p cause : Nat) : SamePosture (d.pauseEnd c p cause) d := by
  unfold Dev.pauseEnd
  split <;> simp

@[simp] theorem Dev.dropGroups_posture (d : Dev) (p : Nat) : SamePosture (d.dropGroups p) d := by simp [Dev.dropGroups]

@[simp] theorem Dev.fenceWork_posture (d : Dev) (c : Clock) (p : Nat) (suspend : Bool) : SamePosture (d.fenceWork c p suspend) d := by
  simp [Dev.fenceWork, Dev.cutSilent, Dev.silence]

end Sys2Proof.Machine
end

section
/-! PROOF. A partition that is fenced and released, and what a composition epoch leaves of the module when it takes effect. -/

namespace Sys2Proof.Machine

open Sys2Proof

/-! ### The fence (R400) -/

@[simp] theorem Dev.setStarted_posture (d : Dev) (c : Clock) (p : Nat) (on : Bool) : SamePosture (d.setStarted c p on) d :=
  Dev.modPart_posture (f := fun x => { x with acct := x.acct.setStarted c.opTime on }) (fun _ => rfl) d p

@[simp] theorem Dev.shortPause_posture (d : Dev) (c : Clock) (p cause : Nat) : SamePosture (d.shortPause c p cause) d := by
  simp [Dev.shortPause, Dev.pauseNow]

theorem Dev.length_of_standings {e d : Dev} (h : e.standings = d.standings) : e.parts.length = d.parts.length := by
  simpa [Dev.standings] using congrArg List.length h

theorem Dev.part_life_congr {e d : Dev} (h : e.standings = d.standings) (p : Nat) : (e.part p).life = (d.part p).life :=
  congrArg Prod.fst (Dev.part_standing_congr h p)

@[simp] theorem Dev.modLife_globals (d : Dev) (p : Nat) (f : PartLife → PartLife) : (d.modLife p f).globals = d.globals := d.modPart_globals p _

theorem Dev.length_modLife (d : Dev) (p : Nat) (f : PartLife → PartLife) : (d.modLife p f).parts.length = d.parts.length := by
  simp [Dev.modLife, Dev.modPart]

theorem Dev.part_modLife_self {d : Dev} {p : Nat} (hp : p < d.parts.length) (f : PartLife → PartLife) :
    ((d.modLife p f).part p).life = f (d.part p).life :=
  congrArg Part.life (Dev.part_modPart_self d (fun x => { x with life := f x.life }) hp)

/-- A change of a partition's state stands through work before it and after it. -/
theorem Dev.part_life_of_modLife {d e e' : Dev} {p : Nat} {f : PartLife → PartLife} (hp : p < d.parts.length) (hbefore : e.standings = d.standings)
    (hafter : e'.standings = (e.modLife p f).standings) : (e'.part p).life = f (d.part p).life := by
  rw [Dev.part_life_congr hafter, Dev.part_modLife_self ((Dev.length_of_standings hbefore).symm ▸ hp), Dev.part_life_congr hbefore]

/-- What a fence makes of the state of its partition. -/
def PartLife.fenced (l : PartLife) (key : Bool) : PartLife := { l with st := .fenced, flr := false, keyAtFence := key, admitPaused := false }

/-- The pauses that a fence ends and begins. -/
def Dev.fencePauses (d : Dev) (c : Clock) (p : Nat) : Dev :=
  let e := if (d.part p).life.st = .draining then d.pauseEnd c p 8 else d
  if (d.part p).life.st == .started || (d.part p).life.st == .draining then (e.setStarted c p false).pauseStart c p 9 false else e

@[simp] theorem Dev.fencePauses_posture (d : Dev) (c : Clock) (p : Nat) : SamePosture (d.fencePauses c p) d := by simp [Dev.fencePauses]

theorem Dev.fencePart_eq {d : Dev} (c : Clock) {p : Nat} (cause : Nat) (hreset : (d.part p).life.reset = none)
    (hst : (d.part p).life.st ≠ .fenced) :
    d.fencePart c p cause =
      let e := ((d.fencePauses c p).modLife p (·.fenced (d.part p).keys.media.isSome)).fenceWork c p (cause != 0)
      if cause = 0 then e else e.record c 0x0306 0 0 (some p) cause 0 0 := by
  simp only [Dev.fencePart, hreset, if_neg hst]
  rfl

theorem Dev.part_fencePart {d : Dev} (c : Clock) {p : Nat} (cause : Nat) (hp : p < d.parts.length) (hreset : (d.part p).life.reset = none)
    (hst : (d.part p).life.st ≠ .fenced) : ((d.fencePart c p cause).part p).life = (d.part p).life.fenced (d.part p).keys.media.isSome :=
  Dev.part_life_of_modLife (e' := d.fencePart c p cause) (f := (·.fenced (d.part p).keys.media.isSome)) hp (d.fencePauses_posture c p).1
    (by rw [Dev.fencePart_eq c cause hreset hst]; simp)

/-- A fence changes nothing of the module but its partitions. -/
@[simp] theorem Dev.fencePart_globals (d : Dev) (c : Clock) (p cause : Nat) : (d.fencePart c p cause).globals = d.globals := by
  unfold Dev.fencePart
  dsimp only
  split <;> simp

/-! ### The release (R400, R406) -/

@[simp] theorem Part.dropWork_life (x : Part) (o : LongOp) : (x.dropWork o).life = x.life := by
  unfold Part.dropWork
  split <;> rfl

@[simp] theorem Part.dropWork_keys (x : Part) (o : LongOp) : (x.dropWork o).keys = x.keys := by
  unfold Part.dropWork
  split <;> rfl

@[simp] theorem Part.forgetOps_life (x : Part) (f : LongOp → Bool) : (x.forgetOps f).life = x.life :=
  foldl_keep Part.life _ Part.dropWork_life _ _

@[simp] theorem Part.forgetOps_keys (x : Part) (f : LongOp → Bool) : (x.forgetOps f).keys = x.keys := Part.foldl_keys _ Part.dropWork_keys _ _

@[simp] theorem Dev.modLife_keys (d : Dev) (p : Nat) (f : PartLife → PartLife) : (d.modLife p f).keys = d.keys :=
  Dev.modPart_keys (f := fun x => { x with life := f x.life }) (fun _ => rfl) d p

/-- What a record that waited for the close leaves: the state of every partition, and its keys. -/
theorem Dev.part_applyNext (d : Dev) (p k : Nat) :
    ((d.applyNext p).part k).life.st = (d.part k).life.st ∧ ((d.applyNext p).part k).keys = (d.part k).keys :=
  ⟨Dev.part_applyNext_keep (g := fun x => x.life.st) (fun _ _ _ _ _ => rfl) (fun _ => rfl) (fun _ _ _ _ => rfl) d p k,
   Dev.part_applyNext_keep (g := Part.keys) (fun _ _ _ _ _ => rfl) (fun _ => rfl) (fun _ _ _ _ => rfl) d p k⟩

/-- What a release with scrub drops of a partition. -/
def Part.scrubbed (x : Part) : Part := ({ x.loseDram with fwBuf := [], fwLen := 0 } : Part).forgetOps fun o => o.active && !o.outlasts

@[simp] theorem Part.scrubbed_keys (x : Part) : x.scrubbed.keys = x.keys := Part.forgetOps_keys _ _

/-- A released partition before a record that waited takes effect. -/
def Dev.scrubbed (d : Dev) (c : Clock) (p : Nat) : Dev :=
  (((d.pauseEnd c p 9).zeroise p).modPart p Part.scrubbed).modLife p fun l => { l with st := .closed, keyAtFence := false }

theorem Dev.releasePart_scrub (d : Dev) (c : Clock) (p : Nat) : d.releasePart c p true = (d.scrubbed c p).applyNext p := (rfl)

theorem Dev.part_scrubbed {d : Dev} (c : Clock) {p : Nat} (hp : p < d.parts.length) :
    ((d.scrubbed c p).part p).life.st = .closed ∧ (d.scrubbed c p).Zeroised p := by
  have hlen : p < (((d.pauseEnd c p 9).zeroise p).modPart p Part.scrubbed).parts.length := by
    simpa [Dev.zeroise, Dev.newTransport, Dev.modKeys, Dev.modPart, Dev.length_congr (d.pauseEnd_keys c p 9)] using hp
  exact ⟨by rw [Dev.scrubbed, Dev.part_modLife_self hlen],
    (Dev.zeroised_congr (by simp [Dev.scrubbed]) p).2 ((d.pauseEnd c p 9).zeroised_zeroise_self p)⟩

theorem Dev.part_releasePart_scrub {d : Dev} (c : Clock) {p : Nat} (hp : p < d.parts.length) :
    ((d.releasePart c p true).part p).life.st = .closed ∧ (d.releasePart c p true).Zeroised p := by
  obtain ⟨hst, hkeys⟩ := (d.scrubbed c p).part_applyNext p p
  rw [Dev.releasePart_scrub, Dev.Zeroised, hst, hkeys]
  exact Dev.part_scrubbed c hp

/-- A release without scrub opens the partition again, or closes it. -/
def PartLife.released (l : PartLife) (held : Bool) : PartLife := { l with st := if held then .opened else .closed, keyAtFence := false }

theorem Dev.releasePart_retain (d : Dev) (c : Clock) (p : Nat) :
    let e := (d.pauseEnd c p 9).modLife p (·.released ((d.part p).life.keyAtFence && (d.part p).keys.media.isSome))
    d.releasePart c p false = e ∨ d.releasePart c p false = e.applyNext p := by
  intro e
  simp only [Dev.releasePart, Bool.false_eq_true, if_false]
  split
  · split
    · exact .inl rfl
    · exact .inr rfl
  · split
    · exact .inl rfl
    · exact .inr rfl

theorem Dev.part_releasePart_retain {d : Dev} (c : Clock) {p : Nat} (hp : p < d.parts.length) :
    ((d.releasePart c p false).part p).life.st =
      if (d.part p).life.keyAtFence && (d.part p).keys.media.isSome then .opened else .closed := by
  have hlife := Dev.part_life_of_modLife (f := (·.released ((d.part p).life.keyAtFence && (d.part p).keys.media.isSome))) hp
    (d.pauseEnd_posture c p 9).1 rfl
  rcases d.releasePart_retain c p with h | h
  · rw [h, hlife]
    rfl
  · rw [h, (Dev.part_applyNext _ p p).1, hlife]
    rfl

/-- Settles O36: the fence and both releases, each by what it makes of the partition's state. -/
theorem fenceAndRelease : Obligations.FenceAndRelease := by
  intro d c p cause hp hreset
  refine ⟨fun hst => ?fence, fun _ => ?scrub, fun _ _ => Dev.part_releasePart_retain c hp⟩
  case fence =>
    rw [Dev.part_fencePart c cause hp hreset hst]
    exact ⟨rfl, rfl⟩
  case scrub =>
    obtain ⟨hst, howner, htransport, hmedia⟩ := Dev.part_releasePart_scrub c hp
    exact ⟨hst, howner, hmedia, htransport⟩

/-! ### Composition epochs (R443 to R445) -/

theorem Dev.comp_of_globals {e d : Dev} (h : e.globals = d.globals) : e.comp = d.comp := congrArg Prod.fst h

/-- `e` is `d` but for the partitions, the tiles and the channels. -/
def Regroups (d e : Dev) : Prop := ∃ ps ts cs, e = { d with parts := ps, tiles := ts, channels := cs }

theorem Regroups.refl (d : Dev) : Regroups d d := ⟨_, _, _, rfl⟩

theorem Regroups.trans {a b c : Dev} (h : Regroups a b) (k : Regroups b c) : Regroups a c := by
  obtain ⟨_, _, _, rfl⟩ := h
  obtain ⟨_, _, _, rfl⟩ := k
  exact ⟨_, _, _, rfl⟩

theorem regroups_modPart (d : Dev) (p : Nat) (f : Part → Part) : Regroups d (d.modPart p f) := ⟨_, _, _, rfl⟩

theorem Regroups.foldl {α : Type} {f : Dev → α → Dev} (h : ∀ d a, Regroups d (f d a)) : ∀ (l : List α) (d : Dev), Regroups d (l.foldl f d)
  | [], d => .refl d
  | a :: l, d => (h d a).trans (Regroups.foldl h l _)

theorem regroups_giveSites (d : Dev) (p : Nat) (sites : List Nat) : Regroups d (d.giveSites p sites) := by
  refine (Regroups.foldl (fun d t => ?_) sites d).trans ((Regroups.foldl (fun d q => ?_) (List.range 64) _).trans (regroups_modPart _ p _))
  · split
    · exact .refl d
    · exact ⟨_, _, _, rfl⟩
  · split
    · exact .refl d
    · exact regroups_modPart d q _

theorem regroups_giveChannel (d : Dev) (p ch : Nat) : Regroups d (d.giveChannel p ch) := by
  unfold Dev.giveChannel
  split
  · split
    · exact ⟨_, _, _, rfl⟩
    · exact ⟨_, _, _, rfl⟩
  · exact ⟨_, _, _, rfl⟩

theorem regroups_giveChannels (d : Dev) (p : Nat) (chans : List Nat) : Regroups d (d.giveChannels p chans) := by
  unfold Dev.giveChannels
  split
  · exact .refl d
  · refine (Regroups.foldl (fun d ch => regroups_giveChannel d p ch) chans d).trans (.trans (Regroups.foldl (fun d q => ?_) (List.range 64) _)
      (regroups_modPart _ p _))
    split
    · exact .refl d
    · exact regroups_modPart d q _

theorem regroups_takeCfg (d : Dev) (p : Nat) (k : PartCfg) : Regroups d (d.takeCfg p k) := by
  unfold Dev.takeCfg Dev.applyCfg
  split
  · exact regroups_modPart d p _
  · exact (regroups_giveSites d p _).trans ((regroups_giveChannels _ p _).trans (regroups_modPart _ p _))

/-- What a record leaves of the module when it takes effect: the epochs, and the supplies. -/
theorem Dev.applyRecord_keeps (d : Dev) (c : Clock) (p : Nat) (k : PartCfg) :
    (d.applyRecord c p k).comp = d.comp ∧ (d.applyRecord c p k).power = d.power := by
  have htake : (d.takeCfg p k).comp = d.comp ∧ (d.takeCfg p k).power = d.power := by
    obtain ⟨ps, ts, cs, h⟩ := regroups_takeCfg d p k
    rw [h]
    exact ⟨rfl, rfl⟩
  unfold Dev.applyRecord
  dsimp only
  split
  · split
    · exact ⟨Dev.comp_of_globals (d.fencePart_globals c p 1), (d.fencePart_hardware c p 1).1⟩
    · exact ⟨rfl, rfl⟩
  · split
    · exact htake
    · split
      · exact ⟨Dev.comp_of_globals (Dev.shortPause_posture _ c p 2).2, (Dev.shortPause_hardware _ c p 2).1⟩
      · exact ⟨rfl, rfl⟩

/-- The epoch that takes effect is the one in force, with the map it brought. -/
theorem Dev.takeEpoch_takes (d : Dev) (c : Clock) (e grace : Nat) (recs : List PartCfg) :
    (d.takeEpoch c e grace recs).comp = ⟨e, d.comp.epoch, c.time + 1000 * grace, none⟩ ∧
      (d.takeEpoch c e grace recs).power = { d.power with storedMap := some recs, storedEpoch := e } := by
  have hrecs (l : List (Nat × PartCfg)) (d : Dev) : (l.foldl (fun (d : Dev) k => d.applyRecord c k.1 k.2) d).comp = d.comp ∧
      (l.foldl (fun (d : Dev) k => d.applyRecord c k.1 k.2) d).power = d.power :=
    ⟨foldl_keep Dev.comp _ (fun d k => (d.applyRecord_keeps c k.1 k.2).1) l d,
     foldl_keep Dev.power _ (fun d k => (d.applyRecord_keeps c k.1 k.2).2) l d⟩
  have htold (l : List Nat) (b : Bytes) (d : Dev) : (l.foldl (fun (d : Dev) p => d.postEvent c p 5 b) d).comp = d.comp ∧
      (l.foldl (fun (d : Dev) p => d.postEvent c p 5 b) d).power = d.power :=
    ⟨foldl_keep Dev.comp _ (fun d p => Dev.comp_of_globals (d.postEvent_posture c p 5 b).2) l d,
     foldl_keep Dev.power _ (fun d p => (d.postEvent_hardware c p 5 b).1) l d⟩
  unfold Dev.takeEpoch
  dsimp only
  rw [Dev.comp_of_globals (Dev.record_posture _ c _ _ _ _ _ _ _).2, (Dev.record_hardware _ c _ _ _ _ _ _ _).1, (htold _ _ _).1,
    (htold _ _ _).2, (hrecs _ _).1, (hrecs _ _).2]
  exact ⟨rfl, rfl⟩

theorem Dev.epochOk_iff (d : Dev) (c : Clock) (e : Nat) :
    d.epochOk c e = true ↔ e = d.comp.epoch ∨ (e = d.comp.prev ∧ c.time < d.comp.graceEnd) := by
  simp [Dev.epochOk]

/-- Settles O37: what takes effect with the epoch, and the two epochs that are accepted then. -/
theorem compositionEpochs : Obligations.CompositionEpochs := by
  refine ⟨fun s e g t l hpending => ?effective, fun d c e g l => ⟨(d.takeEpoch_takes c e g l).1, fun c' old _ hprev hnow => ?old⟩,
    fun s hgrace => if_neg (Nat.ne_of_gt hgrace), Dev.epochOk_iff⟩
  case effective =>
    obtain ⟨hcomp, hpower⟩ := s.dev.takeEpoch_takes (s.clock.reach t) e g l
    refine ⟨s.dev.takeEpoch (s.clock.reach t) e g l, ?_, hcomp, congrArg Power.storedMap hpower, congrArg Power.storedEpoch hpower⟩
    show execCompositionEffective s = _
    rw [execCompositionEffective, hpending]
    rfl
  case old =>
    rw [Bool.eq_false_iff, ne_eq, Dev.epochOk_iff, (d.takeEpoch_takes c e g l).1]
    simp [hprev, hnow]

end Sys2Proof.Machine
end

section
/-! PROOF. Partition resets: what a trigger makes of its partition, and what the end of the reset makes of it. -/

namespace Sys2Proof.Machine

open Sys2Proof

/-! ### Requests that are classified (R132, R394) -/

@[simp] theorem Dev.loseSearches_posture (d : Dev) (r : ReqRef) (f : SearchRun → Bool) : SamePosture (d.loseSearches r f) d := by
  unfold Dev.loseSearches
  split
  · exact .refl d
  · split <;> simp

@[simp] theorem Dev.loseState_posture (d : Dev) (r : ReqRef) : SamePosture (d.loseState r) d := by
  unfold Dev.loseState
  split
  · exact .refl d
  · split <;> simp

@[simp] theorem Dev.reclassify_posture (d : Dev) (r : ReqRef) (q : Req) : SamePosture (d.reclassify r q) d := by
  unfold Dev.reclassify
  split <;> simp

@[simp] theorem Dev.reclassifyAll_posture (d : Dev) (p : Nat) : SamePosture (d.reclassifyAll p) d :=
  Dev.foldl_posture (fun (d : Dev) (e : ReqRef × Req) => d.reclassify e.1 e.2) (fun d e => d.reclassify_posture e.1 e.2) _ d

@[simp] theorem Dev.loseSearches_keys (d : Dev) (r : ReqRef) (f : SearchRun → Bool) : (d.loseSearches r f).keys = d.keys := by
  unfold Dev.loseSearches
  split
  · rfl
  · split <;> simp

@[simp] theorem Dev.loseState_keys (d : Dev) (r : ReqRef) : (d.loseState r).keys = d.keys := by
  unfold Dev.loseState
  split
  · rfl
  · split <;> simp

@[simp] theorem Dev.reclassifyAll_keys (d : Dev) (p : Nat) : (d.reclassifyAll p).keys = d.keys := by
  refine Dev.foldl_keys _ (fun d e => ?_) _ d
  unfold Dev.reclassify
  split <;> simp

/-! ### A trigger (R392, R396) -/

/-- The resets of a partition that count with one at this time. -/
def PartLife.recentResets (l : PartLife) (now : Nat) : List Nat := now :: l.resets.filter fun t => decide (now < t + 10000000000)

/-- What a trigger makes of the state of its partition. -/
def PartLife.resetting (l : PartLife) (now trigger : Nat) : PartLife :=
  { l with st := .fenced, reset := some ⟨now, trigger, decide (3 ≤ (l.recentResets now).length), 0, false⟩, resets := l.recentResets now }

theorem Dev.partReset_started {d : Dev} (c : Clock) {p : Nat} (trigger : Nat) (hst : (d.part p).life.st = .started)
    (hreset : (d.part p).life.reset = none) :
    let e := d.modLife p fun l => { l with
      st := .fenced, reset := some ⟨c.time, trigger, decide (3 ≤ ((d.part p).life.recentResets c.time).length), 0, false⟩,
      resets := (d.part p).life.recentResets c.time }
    d.partReset c p trigger =
      (((e.pauseStart c p (if trigger = 3 then 7 else 6) (trigger != 3)).dropGroups p).stopTiles p).reclassifyAll p :=
  if_neg (by simp [hst, hreset])

theorem Dev.part_partReset {d : Dev} (c : Clock) {p : Nat} (trigger : Nat) (hp : p < d.parts.length) (hst : (d.part p).life.st = .started)
    (hreset : (d.part p).life.reset = none) :
    ((d.partReset c p trigger).part p).life = (d.part p).life.resetting c.time trigger ∧
      ((d.partReset c p trigger).part p).keys = (d.part p).keys := by
  rw [Dev.partReset_started c trigger hst hreset]
  refine ⟨?_, Dev.part_keys_congr (by simp) p⟩
  rw [Dev.part_life_congr (e := Dev.reclassifyAll _ p) (by simp; rfl) p, Dev.part_modLife_self hp]
  rfl

/-! ### The end of a reset (R395, R396) -/

@[simp] theorem Dev.flushRing_posture (d : Dev) (c : Clock) (rs : RsId) : SamePosture (d.flushRing c rs) d := by
  have hentries (n : Nat) (d : Dev) : SamePosture (d.flushEntries c rs n) d := by
    induction n generalizing d with
    | zero => exact .refl d
    | succ n ih =>
      unfold Dev.flushEntries
      dsimp only
      split <;> simp [ih]
  unfold Dev.flushRing
  cases rs <;> simp [hentries]

@[simp] theorem Dev.becomeFaulted_posture (d : Dev) (c : Clock) (rs : RsId) : SamePosture (d.becomeFaulted c rs) d := by
  unfold Dev.becomeFaulted
  cases rs <;> simp

@[simp] theorem Dev.closeDrain_posture (d : Dev) (c : Clock) (rs : RsId) : SamePosture (d.closeDrain c rs) d := by
  simp [Dev.closeDrain]

/-- A reset that ends: its tiles are zeroed, and its record and its pause are written. -/
def Dev.resetEnded (d : Dev) (c : Clock) (p : Nat) (r : PReset) : Dev :=
  (((d.part p).life.sites.foldl (fun (d : Dev) t => d.modTile t fun _ => Tile.reset) d).record c 0x0305 0 0 (some p) r.trigger
    ((c.time - r.start) / 1000) 0).pauseEnd c p (if r.trigger = 3 then 7 else 6)

@[simp] theorem Dev.resetEnded_posture (d : Dev) (c : Clock) (p : Nat) (r : PReset) : SamePosture (d.resetEnded c p r) d := by
  have htiles : SamePosture ((d.part p).life.sites.foldl (fun (d : Dev) t => d.modTile t fun _ => Tile.reset) d) d :=
    Dev.foldl_posture _ (fun d t => d.modTile_posture t _) _ d
  simp [Dev.resetEnded, htiles]

/-- A partition that is started again after its reset: what waited for its ring sets is written. -/
def Dev.restarted (d : Dev) (c : Clock) (p : Nat) : Dev :=
  (List.range 16).foldl (fun (d : Dev) n => (d.flushRing c (.part p n)).closeDrain c (.part p n))
    (d.modLife p fun l => { l with st := .started, reset := none })

/-- A partition that stays fenced after its reset. -/
def Dev.keptFenced (d : Dev) (c : Clock) (p : Nat) : Dev :=
  let e := (((d.modLife p fun l => { l with reset := none, keyAtFence := (d.part p).keys.media.isSome }).setStarted c p false).pauseStart c p 9
    false).fenceWork c p true
  if 3 ≤ (e.part p).life.resets.length then e.record c 0x0306 0 0 (some p) 2 0 0 else e

theorem Dev.restarted_standings (d : Dev) (c : Clock) (p : Nat) :
    (d.restarted c p).standings = (d.modLife p fun l => { l with st := .started, reset := none }).standings :=
  (Dev.foldl_posture _ (fun d n => by simp) (List.range 16) _).1

theorem Dev.keptFenced_standings (d : Dev) (c : Clock) (p : Nat) :
    (d.keptFenced c p).standings = (d.modLife p fun l => { l with reset := none, keyAtFence := (d.part p).keys.media.isSome }).standings := by
  simp [Dev.keptFenced]

/-! The reset ends with no site that failed its test, and nothing waited for its end. -/

section Complete

variable {s : State} {p : Nat} {r : PReset} (hreset : (s.dev.part p).life.reset = some r)
include hreset

theorem execPartitionResetComplete_free (hafter : r.after = 0) (hfree : r.stayFenced = false) :
    execPartitionResetComplete p [] s = Becomes s ((s.dev.resetEnded s.clock p r).restarted s.clock p) := by
  have hsites : (s.dev.part p).life.sites.filter [].contains = [] := by simp
  have hafter' : r.after ≠ 1 ∧ r.after ≠ 2 := by omega
  simp only [execPartitionResetComplete, State.onDev_eq, hreset, hsites, List.foldl_nil, hfree, if_neg hafter'.1, if_neg hafter'.2, Becomes,
    Dev.resetEnded, Dev.restarted, List.length_nil, Bool.false_eq_true, if_false]

theorem execPartitionResetComplete_stays (hstay : r.stayFenced = true) :
    execPartitionResetComplete p [] s = Becomes s ((s.dev.resetEnded s.clock p r).keptFenced s.clock p) := by
  have hsites : (s.dev.part p).life.sites.filter [].contains = [] := by simp
  unfold Dev.keptFenced Dev.resetEnded
  simp only [execPartitionResetComplete, State.onDev_eq, hreset, hsites, List.foldl_nil, hstay, Becomes, List.length_nil, if_true]

variable (hp : p < s.dev.parts.length)
include hp

theorem execPartitionResetComplete_starts (hafter : r.after = 0) (hfree : r.stayFenced = false) :
    ∃ d, execPartitionResetComplete p [] s = Becomes s d ∧ (d.part p).life.st = .started ∧ (d.part p).life.reset = none := by
  have hlife := Dev.part_life_of_modLife (f := fun l => { l with st := .started, reset := none }) hp
    (s.dev.resetEnded_posture s.clock p r).1 (Dev.restarted_standings _ s.clock p)
  refine ⟨_, execPartitionResetComplete_free hreset hafter hfree, ?_⟩
  rw [hlife]
  exact ⟨rfl, rfl⟩

theorem execPartitionResetComplete_fences (hstay : r.stayFenced = true) (hst : (s.dev.part p).life.st = .fenced) :
    ∃ d, execPartitionResetComplete p [] s = Becomes s d ∧ (d.part p).life.st = .fenced ∧ (d.part p).life.reset = none := by
  have hlife := Dev.part_life_of_modLife (f := fun l =>
      { l with reset := none, keyAtFence := ((s.dev.resetEnded s.clock p r).part p).keys.media.isSome }) hp
    (s.dev.resetEnded_posture s.clock p r).1 (Dev.keptFenced_standings _ s.clock p)
  refine ⟨_, execPartitionResetComplete_stays hreset hstay, ?_⟩
  rw [hlife]
  exact ⟨hst, rfl⟩

end Complete

/-- Settles O54: each trigger resets the partition alike, and the end of the reset starts it again or leaves it fenced. -/
theorem partitionResets : Obligations.PartitionResets := by
  intro s p hp
  refine ⟨fun hst hreset f trigger hf => ⟨s.dev.partReset s.clock p trigger, ?runs, ?left⟩,
    fun r hreset hafter => ⟨execPartitionResetComplete_starts hreset hp hafter, execPartitionResetComplete_fences hreset hp⟩⟩
  case runs => rcases hf with ⟨rfl, rfl⟩ | ⟨rfl, rfl⟩ | ⟨rfl, rfl⟩ <;> rfl
  case left =>
    obtain ⟨hlife, hkeys⟩ := Dev.part_partReset s.clock trigger hp hst hreset
    rw [hlife]
    exact ⟨rfl, rfl, rfl, hkeys⟩

end Sys2Proof.Machine
end

section
/-! PROOF. Keepers, stale speakers and link dies, and the module-fatal sequence. -/

namespace Sys2Proof.Machine

open Sys2Proof

/-! ### Keepers (R470, R505 to R507) -/

theorem Dev.ctl_of_globals {e d : Dev} (h : e.globals = d.globals) : e.recorder.ctl = d.recorder.ctl := congrArg (·.2.2.2) h

theorem Dev.stage_of_globals {e d : Dev} (h : e.globals = d.globals) : e.mgmt.stage = d.mgmt.stage := congrArg (·.2.2.1) h

theorem Dev.active_of_globals {e d : Dev} (h : e.globals = d.globals) : e.recorder.active = d.recorder.active :=
  congrArg (·.2.2.1) (Dev.ctl_of_globals h)

theorem Dev.frozen_of_globals {e d : Dev} (h : e.globals = d.globals) : e.recorder.frozen = d.recorder.frozen :=
  congrArg (·.1) (Dev.ctl_of_globals h)

/-- Which keepers are there is part of what steers the recorder. -/
theorem Recorder.keeper_present_congr {x y : Recorder} (h : x.ctl = y.ctl) (k : Nat) : (x.keeper k).present = (y.keeper k).present := by
  simp only [Recorder.ctl, Prod.mk.injEq] at h
  obtain ⟨-, -, -, h0, h1⟩ := h
  unfold Recorder.keeper
  split
  · exact h0
  · exact h1

theorem Recorder.keeper_modKeeper_self (r : Recorder) (k : Nat) (f : Keeper → Keeper) : (r.modKeeper k f).keeper k = f (r.keeper k) := by
  unfold Recorder.modKeeper Recorder.keeper
  split <;> rfl

/-- What steers the recorder once the active keeper has failed. -/
theorem Dev.failover_globals (d : Dev) (c : Clock) :
    (d.failover c).globals =
      Dev.globals { d with recorder := { d.recorder.modKeeper d.recorder.active (fun k => { k with present := false }) with
        active := 1 - d.recorder.active } } :=
  (Dev.foldl_posture _ (fun d p => d.shortPause_posture c p 5) _ _).2.trans (Dev.record_posture _ c _ _ _ _ _ _ _).2

theorem execKeeperFailover_takesOver {s : State} (hstandby : (s.dev.recorder.keeper (1 - s.dev.recorder.active)).present = true) :
    ∃ d, execKeeperFailover s = Becomes s d ∧ d.recorder.active = 1 - s.dev.recorder.active ∧
      (d.recorder.keeper s.dev.recorder.active).present = false := by
  have hglobals := s.dev.failover_globals s.clock
  refine ⟨s.dev.failover s.clock, congrArg (Becomes s) (if_pos hstandby), Dev.active_of_globals hglobals, ?_⟩
  rw [Recorder.keeper_present_congr (Dev.ctl_of_globals hglobals)]
  exact congrArg Keeper.present (Recorder.keeper_modKeeper_self s.dev.recorder s.dev.recorder.active _)

theorem execKeeperHandover_hands {s : State} (hchanged : s.dev.fw.keeperChanged = true)
    (hstandby : (s.dev.recorder.keeper (1 - s.dev.recorder.active)).present = true) :
    execKeeperHandover s = Becomes s { s.dev with recorder := { s.dev.recorder with active := 1 - s.dev.recorder.active },
                                                  fw := { s.dev.fw with keeperChanged := false } } :=
  congrArg (Becomes s) (if_pos (by rw [hchanged, hstandby]; rfl))

/-! ### Stale speakers (R462) -/

/-- What the partitions store, and the flash. -/
def SameStores (d e : Dev) : Prop := (∀ k, (e.part k).mem = (d.part k).mem) ∧ e.flash = d.flash

theorem SameStores.refl (d : Dev) : SameStores d d := ⟨fun _ => rfl, rfl⟩

theorem SameStores.trans {a b c : Dev} (h : SameStores a b) (k : SameStores b c) : SameStores a c :=
  ⟨fun p => (k.1 p).trans (h.1 p), k.2.trans h.2⟩

theorem SameStores.foldl {α : Type} {f : Dev → α → Dev} (h : ∀ d a, SameStores d (f d a)) : ∀ (l : List α) (d : Dev), SameStores d (l.foldl f d)
  | [], d => .refl d
  | a :: l, d => (h d a).trans (SameStores.foldl h l _)

theorem sameStores_modPart {f : Part → Part} (hf : ∀ x, (f x).mem = x.mem) (d : Dev) (p : Nat) : SameStores d (d.modPart p f) :=
  ⟨fun k => Dev.part_modPart_keep Part.mem d p k f hf, rfl⟩

theorem sameStores_modReq (d : Dev) (r : ReqRef) (f : Req → Req) : SameStores d (d.modReq r f) :=
  ⟨fun k => Dev.part_modRing_keep Part.mem d r.rs k _ fun _ _ => rfl, by unfold Dev.modReq; cases r.rs <;> rfl⟩

theorem sameStores_modTile (d : Dev) (t : Nat) (f : Tile → Tile) : SameStores d (d.modTile t f) := ⟨fun _ => rfl, rfl⟩
theorem sameStores_modChan (d : Dev) (ch : Nat) (f : Channel → Channel) : SameStores d (d.modChan ch f) := ⟨fun _ => rfl, rfl⟩

theorem sameStores_stopInv (d : Dev) (p : Nat) : SameStores d (d.stopInv p) :=
  .trans (SameStores.foldl (fun d t => sameStores_modTile d t _) _ d) (SameStores.foldl (fun d ch => sameStores_modChan d ch _) _ _)

theorem sameStores_dropRows (d : Dev) (r : ReqRef) (sub : Nat) : SameStores d (d.dropRows r sub) := by
  unfold Dev.dropRows
  dsimp only
  split
  · exact (sameStores_modPart (fun _ => by rfl) d _).trans (sameStores_stopInv _ _)
  · exact sameStores_modPart (fun _ => by rfl) d _

theorem sameStores_loseState (d : Dev) (r : ReqRef) : SameStores d (d.loseState r) := by
  have hsearches (d : Dev) : SameStores d (d.loseSearches r fun _ => true) := by
    unfold Dev.loseSearches
    split
    · exact .refl d
    · split
      · refine SameStores.foldl (fun d e => ?_) _ d
        split
        · exact .refl d
        · exact (sameStores_dropRows d r _).trans (sameStores_modReq _ r _)
      · exact .refl d
  unfold Dev.loseState
  split
  · exact .refl d
  · split
    · exact hsearches d
    · exact (sameStores_dropRows d r 0).trans (sameStores_modReq _ r _)

theorem sameStores_staleLoses (d : Dev) : SameStores d d.staleLoses := by
  unfold Dev.staleLoses
  dsimp only
  split
  · exact sameStores_loseState d _
  · exact .refl d

/-- With no request in flight there is none whose only copy the packet carried. -/
theorem Dev.staleLoses_idle {d : Dev} (h : ∀ p, (d.part p).admittedReqs p = []) : d.staleLoses = d := by
  simp [Dev.staleLoses, h]

@[simp] theorem Dev.staleLoses_units (d : Dev) : d.staleLoses.units = d.units := by
  unfold Dev.staleLoses
  dsimp only
  split <;> simp

/-- The record of a stale speaker is one of those that are gathered in a window: only the recorder changes. -/
theorem Dev.record_stale (d : Dev) (c : Clock) (kind idx d0 d1 d2 : Nat) :
    ∃ r, d.record c 0x0104 kind idx none d0 d1 d2 = { d with recorder := r } := by
  simp only [Dev.record, show codeCoalesced 0x0104 = true from rfl, if_true]
  split <;> exact ⟨_, rfl⟩

/-- The count of a stale speaker's packet. -/
def Dev.countStale (d : Dev) (kind : Nat) : Dev :=
  { d with units := { d.units with stale := modAt (fun n => min (n + 1) 0xFFFFFFFF) kind d.units.stale } }

theorem execStaleSpeaker_counts {s : State} {u : UnitId} {gen : Nat} (hgen : kindHasGen u.kind = true) (hold : gen ≠ s.dev.units.gen u.kind u.num) :
    ∃ r, execStaleSpeaker u gen s = Becomes s ({ (s.dev.countStale u.kind).staleLoses with recorder := r } : Dev).fresh := by
  obtain ⟨r, hr⟩ := (s.dev.countStale u.kind).staleLoses.record_stale s.clock u.kind u.num
    (unitWord (some (1 + Config.freeNat s.dev.free 0 % 15, Config.freeNat s.dev.free 1 % 65536))) gen 0
  exact ⟨r, congrArg (Becomes s) ((if_neg (by simp [hgen, hold])).trans (congrArg Dev.fresh hr))⟩

theorem execStaleSpeaker_leaves {s : State} {u : UnitId} {gen : Nat} (hgen : kindHasGen u.kind = true) (hold : gen ≠ s.dev.units.gen u.kind u.num) :
    ∃ d, execStaleSpeaker u gen s = Becomes s d ∧ d.units.stale = modAt (fun n => min (n + 1) 0xFFFFFFFF) u.kind s.dev.units.stale ∧
      (∀ p, (d.part p).mem = (s.dev.part p).mem) ∧ d.flash = s.dev.flash ∧
      ((∀ p, (s.dev.part p).admittedReqs p = []) → d.parts = s.dev.parts ∧ d.channels = s.dev.channels ∧ d.tiles = s.dev.tiles) := by
  obtain ⟨r, hr⟩ := execStaleSpeaker_counts hgen hold
  obtain ⟨hmem, hflash⟩ := sameStores_staleLoses (s.dev.countStale u.kind)
  refine ⟨_, hr, congrArg Units.stale (Dev.staleLoses_units (s.dev.countStale u.kind)), hmem, hflash, fun hidle => ?_⟩
  rw [Dev.staleLoses_idle (d := s.dev.countStale u.kind) hidle]
  exact ⟨rfl, rfl, rfl⟩

/-! ### Link dies (R457) -/

theorem Dev.retireUnit_isRetired (d : Dev) (c : Clock) (k i cause : Nat) (repl : Option (Nat × Nat)) :
    (d.retireUnit c k i cause repl).units.isRetired k i = true := by
  unfold Dev.retireUnit
  split
  · assumption
  · rw [Dev.tellSpares_units, Dev.record_units]
    cases repl <;> exact d.units.isRetired_retire k i

@[simp] theorem Dev.retireUnit_power (d : Dev) (c : Clock) (k i cause : Nat) (repl : Option (Nat × Nat)) :
    (d.retireUnit c k i cause repl).power = d.power := by
  have htell (e old : Dev) : (e.tellSpares old).power = e.power := by simp [Dev.tellSpares]
  unfold Dev.retireUnit
  split
  · rfl
  · rw [htell, Dev.record_power]

/-- Units that are retired in turn are retired, and those that were stay so. -/
theorem Units.isRetired_foldl_retire {k i : Nat} (f : Nat → Nat) (j : Nat) :
    ∀ (l : List Nat) (u : Units), u.isRetired k i = true ∨ (k = j ∧ ∃ n ∈ l, f n = i) →
      (l.foldl (fun (u : Units) n => u.retire j (f n)) u).isRetired k i = true
  | [], _, h => h.resolve_right (by simp)
  | n :: l, u, h => by
    refine Units.isRetired_foldl_retire f j l _ ?_
    rcases h with h | ⟨rfl, m, hm, rfl⟩
    · exact .inl (Units.isRetired_retire_of h j (f n))
    · rcases List.mem_cons.1 hm with rfl | hm
      · exact .inl (u.isRetired_retire k (f m))
      · exact .inr ⟨rfl, m, hm, rfl⟩

@[simp] theorem Dev.portDown_power (d : Dev) (c : Clock) (port lane : Nat) : (d.portDown c port lane).power = d.power := by
  simp [Dev.portDown, Dev.neighbourGone]

theorem Dev.failover_units (d : Dev) (c : Clock) : (d.failover c).units = d.units :=
  (Dev.foldl_units _ (fun d p => d.shortPause_units c p 5) _ _).trans (Dev.record_units _ c _ _ _ _ _ _ _)

theorem Dev.failover_power (d : Dev) (c : Clock) : (d.failover c).power = d.power :=
  (foldl_keep Dev.power _ (fun d p => (d.shortPause_hardware c p 5).1) _ _).trans (Dev.record_power _ c _ _ _ _ _ _ _)

/-- The lanes of a link die and its host port go with it. -/
def Dev.dieGone (d : Dev) (c : Clock) (n : Nat) : Dev :=
  let e := d.retireUnit c 13 (23 + n) 5 none
  { e with units := (List.range 16).foldl (fun (u : Units) i => u.retire 11 (16 * n + i)) e.units,
           power := { e.power with hostLink := modAt (fun _ => false) n e.power.hostLink } }

theorem Dev.dieGone_units (d : Dev) (c : Clock) (n : Nat) : (d.dieGone c n).units =
    (List.range 16).foldl (fun (u : Units) i => u.retire 11 (16 * n + i)) (d.retireUnit c 13 (23 + n) 5 none).units := by
  rw [Dev.dieGone]

theorem Dev.dieGone_retires (d : Dev) (c : Clock) (n : Nat) :
    (d.dieGone c n).units.isRetired 13 (23 + n) = true ∧ ∀ i, i < 16 → (d.dieGone c n).units.isRetired 11 (16 * n + i) = true := by
  rw [Dev.dieGone_units]
  exact ⟨Units.isRetired_foldl_retire (16 * n + ·) 11 _ _ (.inl (d.retireUnit_isRetired c 13 (23 + n) 5 none)),
    fun i hi => Units.isRetired_foldl_retire (16 * n + ·) 11 _ _ (.inr ⟨rfl, i, List.mem_range.2 hi, rfl⟩)⟩

/-- The ports of a link die go down. -/
def Dev.portsGone (d : Dev) (c : Clock) (n : Nat) : Dev :=
  (List.range (d.fabric.portCount / 2)).foldl (fun (e : Dev) i =>
    e.portDown c (n * (d.fabric.portCount / 2) + i) (16 * n + i * e.fabric.lanesPerPort)) d

/-- The keeper of a link die goes with it, and the standby takes over from it. -/
def Dev.keeperGone (d : Dev) (c : Clock) (n : Nat) : Dev :=
  if !(d.recorder.keeper n).present then d
  else if d.recorder.active = n ∧ (d.recorder.keeper (1 - n)).present then d.failover c
  else { d with recorder := d.recorder.modKeeper n fun k => { k with present := false } }

theorem Dev.keeperGone_leaves (d : Dev) (c : Clock) (n : Nat) : (d.keeperGone c n).units = d.units ∧ (d.keeperGone c n).power = d.power := by
  unfold Dev.keeperGone
  split
  · exact ⟨rfl, rfl⟩
  · split
    · exact ⟨d.failover_units c, d.failover_power c⟩
    · exact ⟨rfl, rfl⟩

theorem Dev.portsGone_leaves (d : Dev) (c : Clock) (n : Nat) : (d.portsGone c n).units = d.units ∧ (d.portsGone c n).power = d.power :=
  ⟨foldl_keep Dev.units _ (fun d _ => d.portDown_units c _ _) _ d, foldl_keep Dev.power _ (fun d _ => d.portDown_power c _ _) _ d⟩

/-- A link die whose fellow serves fails alone. -/
theorem Dev.linkDie_alone {d : Dev} (c : Clock) {n : Nat} (hn : n < 2) (hin : d.units.isRetired 13 (23 + n) = false)
    (hother : d.units.isRetired 13 (24 - n) = false) : d.linkDie c n = ((d.dieGone c n).portsGone c n).keeperGone c n := by
  unfold Dev.linkDie
  rw [if_neg (by simp [hn, hin]), if_neg (by simp [hother]), Dev.dieGone]
  rfl

theorem execLinkDieFailure_takes {s : State} {n : Nat} (hn : n < 2) (hlink : n < s.dev.power.hostLink.length)
    (hin : s.dev.units.isRetired 13 (23 + n) = false) (hother : s.dev.units.isRetired 13 (24 - n) = false) :
    ∃ d, execLinkDieFailure n s = Becomes s d ∧ d.units.isRetired 13 (23 + n) = true ∧ d.power.hostLink.getD n true = false ∧
      ∀ i, i < 16 → d.units.isRetired 11 (16 * n + i) = true := by
  obtain ⟨hdie, hlanes⟩ := s.dev.dieGone_retires s.clock n
  obtain ⟨hku, hkp⟩ := ((s.dev.dieGone s.clock n).portsGone s.clock n).keeperGone_leaves s.clock n
  obtain ⟨hpu, hpp⟩ := (s.dev.dieGone s.clock n).portsGone_leaves s.clock n
  refine ⟨_, congrArg (Becomes s) (Dev.linkDie_alone s.clock hn hin hother), ?_⟩
  rw [hku, hkp, hpu, hpp]
  refine ⟨hdie, modAt_getD_eq _ _ ?_, hlanes⟩
  rwa [Dev.retireUnit_power]

/-! ### The module-fatal sequence (R459, R477) -/

/-- A fold whose step brings an element about, and keeps what it needs and what it brought about. -/
theorem foldl_reaches {α β : Type} {f : β → α → β} {Q F : β → Prop} {a : α} (hself : ∀ b, Q b → F (f b a)) (hkeep : ∀ b x, Q b → Q (f b x))
    (hkept : ∀ b x, F b → F (f b x)) : ∀ (l : List α) (b : β), Q b → a ∈ l ∨ F b → F (l.foldl f b)
  | [], _, _, h => h.resolve_left List.not_mem_nil
  | x :: l, b, hb, h => by
    refine foldl_reaches hself hkeep hkept l _ (hkeep b x hb) ?_
    rcases h with h | h
    · rcases List.mem_cons.1 h with rfl | h
      · exact .inr (hself b hb)
      · exact .inl h
    · exact .inr (hkept b x h)

@[simp] theorem Dev.zeroise_posture (d : Dev) (p : Nat) : SamePosture (d.zeroise p) d :=
  (Dev.modPart_posture (f := fun x => { x with keys := { x.keys with transport := none } }) (fun _ => rfl) _ p).trans
    (Dev.modPart_posture (f := fun x => { x with keys := { x.keys with owner := none, media := none } }) (fun _ => rfl) d p)

/-- A fence changes no other partition's state. -/
theorem Dev.part_fencePart_ne (d : Dev) (c : Clock) {p q : Nat} (cause : Nat) (h : p ≠ q) :
    ((d.fencePart c p cause).part q).life = (d.part q).life := by
  have hlife (e : Dev) (he : e.standings = d.standings) (f : PartLife → PartLife) : ((e.modLife p f).part q).life = (d.part q).life :=
    (congrArg Part.life (Dev.part_modPart_ne e (fun x => { x with life := f x.life }) h)).trans (Dev.part_life_congr he q)
  cases hreset : (d.part p).life.reset with
  | some r =>
    simp only [Dev.fencePart, hreset]
    exact (Dev.part_life_congr (Dev.record_posture _ c _ _ _ _ _ _ _).1 q).trans (hlife d rfl _)
  | none =>
    by_cases hst : (d.part p).life.st = .fenced
    · simp [Dev.fencePart, hreset, hst]
    · rw [Dev.fencePart_eq c cause hreset hst]
      refine (Dev.part_life_congr ?_ q).trans (hlife _ (d.fencePauses_posture c p).1 (·.fenced (d.part p).keys.media.isSome))
      simp

/-- A partition that a fence reaches: it is there, and it is in no reset. -/
def Dev.Fencible (d : Dev) (q : Nat) : Prop := q < d.parts.length ∧ (d.part q).life.reset = none

theorem Dev.Fencible.fencePart {d : Dev} {q : Nat} (h : d.Fencible q) (c : Clock) (p cause : Nat) :
    (d.fencePart c p cause).Fencible q ∧ (p = q ∨ (d.part q).life.st = .fenced → ((d.fencePart c p cause).part q).life.st = .fenced) := by
  obtain ⟨hlen, hreset⟩ := h
  have hlen' : q < (d.fencePart c p cause).parts.length := (Dev.length_congr (d.fencePart_keys c p cause)).symm ▸ hlen
  by_cases hpq : p = q
  · subst hpq
    by_cases hst : (d.part p).life.st = .fenced
    · have hsame : d.fencePart c p cause = d := by simp [Dev.fencePart, hreset, hst]
      rw [hsame]
      exact ⟨⟨hlen, hreset⟩, fun _ => hst⟩
    · have hlife := Dev.part_fencePart c cause hlen hreset hst
      exact ⟨⟨hlen', by rw [hlife]; exact hreset⟩, fun _ => by rw [hlife]; rfl⟩
  · have hlife := d.part_fencePart_ne c cause hpq
    exact ⟨⟨hlen', by rw [hlife]; exact hreset⟩, fun h => by rw [hlife]; exact h.resolve_left hpq⟩

/-- Every partition is fenced and its keys are zeroised. -/
def Dev.fenceAll (d : Dev) (c : Clock) : Dev := (List.range 64).foldl (fun (d : Dev) p => (d.fencePart c p 0).zeroise p) d

theorem Dev.part_fenceAll {d : Dev} (c : Clock) {q : Nat} (hq : q < 64) (h : d.Fencible q) : ((d.fenceAll c).part q).life.st = .fenced := by
  have hzero (d : Dev) (p : Nat) : ((d.zeroise p).Fencible q ↔ d.Fencible q) ∧ ((d.zeroise p).part q).life = (d.part q).life := by
    have hs := (d.zeroise_posture p).1
    rw [Dev.Fencible, Dev.Fencible, Dev.length_of_standings hs, Dev.part_life_congr hs]
    exact ⟨Iff.rfl, rfl⟩
  refine (foldl_reaches (a := q) (Q := (·.Fencible q)) (F := fun d => d.Fencible q ∧ (d.part q).life.st = .fenced) (fun d h => ?self)
    (fun d p h => ?keep) (fun d p h => ?kept) (List.range 64) d h (.inl (List.mem_range.2 hq))).2
  case self =>
    obtain ⟨hf, hst⟩ := h.fencePart c q 0
    exact ⟨(hzero _ q).1.2 hf, (hzero _ q).2.symm ▸ hst (.inl rfl)⟩
  case keep => exact (hzero _ p).1.2 (h.fencePart c p 0).1
  case kept =>
    obtain ⟨hf, hst⟩ := h.1.fencePart c p 0
    exact ⟨(hzero _ p).1.2 hf, (hzero _ p).2.symm ▸ hst (.inr h.2)⟩

theorem Dev.zeroised_fenceAll (d : Dev) (c : Clock) {q : Nat} (hq : q < 64) : (d.fenceAll c).Zeroised q :=
  Dev.zeroised_foldl (fun _ p => Dev.zeroised_zeroise_self _ p) (fun _ p _ h => (h.fencePart c p 0).zeroise p) (List.range 64) d
    (.inl (List.mem_range.2 hq))

theorem Dev.fenceAll_globals (d : Dev) (c : Clock) : (d.fenceAll c).globals = d.globals :=
  foldl_keep Dev.globals _ (fun d p => ((d.fencePart c p 0).zeroise_posture p).2.trans (d.fencePart_globals c p 0)) _ d

/-- The end of a freeze leaves the posture but for the freeze. -/
theorem Dev.thaw_posture (d : Dev) (c : Clock) : SamePosture (d.thaw c) { d with recorder := { d.recorder with frozen := none } } := by
  have hheld (l : List EvRec) (e : Dev) : SamePosture (l.foldl (fun d e => d.putRecord c e) e) e :=
    Dev.foldl_posture _ (fun d e => d.putRecord_posture c e) l e
  unfold Dev.thaw
  dsimp only
  split
  · next h =>
    rw [Option.isNone_iff_eq_none] at h
    exact ⟨rfl, by simp [Dev.globals, Recorder.ctl, h]⟩
  · have hput := (hheld d.recorder.held _).trans (Dev.setRecorder_posture
      (d := { d with recorder := { d.recorder with frozen := none } }) (r := { d.recorder with frozen := none, held := [], skippedNow := 0 }) rfl)
    exact .ite hput ((Dev.record_posture _ c _ _ _ _ _ _ _).trans hput)

@[simp] theorem Recorder.addBox_frozen (r : Recorder) (b : Snapshot) : (r.addBox b).1.frozen = r.frozen := by
  unfold Recorder.addBox
  split <;> rfl

/-- The device at the end of the fatal sequence, its last record apart. -/
def Dev.fatalLeft (d : Dev) (c : Clock) (kind idx : Nat) (box : Snapshot) : Dev :=
  let e := d.fenceAll c
  { e with flash := if kind = 13 ∧ idx = 0 then e.flash else e.flash.toSlc, recorder := { (e.recorder.addBox box).1 with fatal := true },
           power := { e.power with mode := .fatal, snapshots := e.power.snapshots + 1 } }

theorem Dev.moduleFatal_runs {d : Dev} (c : Clock) (cause kind idx : Nat) (h : d.power.mode ≠ .fatal) :
    ∃ box slot snapshots, d.moduleFatal c cause kind idx =
      ((((d.thaw c).record c 0x0803 kind idx none cause 0 0).fatalLeft c kind idx box).fatalStop).record c 0x0802 0 0 none slot snapshots 0 := by
  have hall (e : Dev) : (List.range 64).foldl (fun (d : Dev) p => (d.fencePart c p 0).zeroise p) e = e.fenceAll c := by rw [Dev.fenceAll]
  unfold Dev.moduleFatal Dev.fatalLeft
  rw [if_neg h]
  simp only [hall]
  exact ⟨_, _, _, rfl⟩

/-- What the sequence leaves of a device before its last record. -/
theorem Dev.fatalStop_fatalLeft (d : Dev) (c : Clock) (kind idx : Nat) (box : Snapshot) :
    let e := (d.fatalLeft c kind idx box).fatalStop
    e.mgmt.stage = 0 ∧ e.recorder.fatal = true ∧ e.recorder.frozen = d.recorder.frozen ∧ e.parts = (d.fenceAll c).parts := by
  have hfrozen : (d.fenceAll c).recorder.frozen = d.recorder.frozen := Dev.frozen_of_globals (d.fenceAll_globals c)
  unfold Dev.fatalLeft
  generalize d.fenceAll c = e at hfrozen
  exact ⟨rfl, rfl, (e.recorder.addBox_frozen box).trans hfrozen, rfl⟩

/-- What the sequence leaves: neither its record before nor the one after it changes that. -/
theorem Dev.moduleFatal_leaves {d : Dev} (c : Clock) (cause kind idx : Nat) (h : d.power.mode ≠ .fatal) :
    let e := d.moduleFatal c cause kind idx
    e.mgmt.stage = 0 ∧ e.recorder.fatal = true ∧ e.recorder.frozen = none ∧
      ∀ p, p < 64 → (d.Fencible p → (e.part p).life.st = .fenced) ∧ e.Zeroised p := by
  obtain ⟨box, slot, snapshots, hruns⟩ := d.moduleFatal_runs c cause kind idx h
  have hbefore : SamePosture ((d.thaw c).record c 0x0803 kind idx none cause 0 0) { d with recorder := { d.recorder with frozen := none } } :=
    (Dev.record_posture _ c _ _ _ _ _ _ _).trans (d.thaw_posture c)
  generalize (d.thaw c).record c 0x0803 kind idx none cause 0 0 = e at hruns hbefore
  obtain ⟨hstage, hfatal, hfrozen, hparts⟩ := e.fatalStop_fatalLeft c kind idx box
  have hafter := Dev.record_posture ((e.fatalLeft c kind idx box).fatalStop) c 0x0802 0 0 none slot snapshots 0
  have hkeys := Dev.record_keys ((e.fatalLeft c kind idx box).fatalStop) c 0x0802 0 0 none slot snapshots 0
  rw [← hruns] at hafter hkeys
  generalize (e.fatalLeft c kind idx box).fatalStop = k at hstage hfatal hfrozen hparts hafter hkeys
  have hctl := Dev.ctl_of_globals hafter.2
  have hnone : e.recorder.frozen = none := Dev.frozen_of_globals hbefore.2
  refine ⟨(Dev.stage_of_globals hafter.2).trans hstage, (congrArg (·.2.1) hctl).trans hfatal,
    (Dev.frozen_of_globals hafter.2).trans (hfrozen.trans hnone), fun p hp => ⟨fun hf => ?fenced, ?keys⟩⟩
  case fenced =>
    have hpart : k.part p = (e.fenceAll c).part p := congrArg (List.getD · p _) hparts
    rw [Dev.part_life_congr hafter.1 p, hpart]
    refine Dev.part_fenceAll c hp ⟨(Dev.length_of_standings hbefore.1).symm ▸ hf.1, ?_⟩
    rw [Dev.part_life_congr hbefore.1 p]
    exact hf.2
  case keys =>
    exact (Dev.zeroised_congr (hkeys.trans (congrArg (List.map Part.keys) hparts)) p).2 (e.zeroised_fenceAll c hp)

theorem execModuleFatal_fences {s : State} (cause : Nat) (u : UnitId) (hmode : s.dev.power.mode ≠ .fatal) (hparts : s.dev.parts.length = 64) :
    ∃ d, execModuleFatal cause u s = Becomes s d ∧ d.power.mode = .fatal ∧ d.mgmt.stage = 0 ∧ d.recorder.fatal = true ∧
      d.recorder.frozen = none ∧ ∀ p, p < 64 → ((s.dev.part p).life.reset = none → (d.part p).life.st = .fenced) ∧
        (d.part p).keys.owner = none ∧ (d.part p).keys.media = none ∧ (d.part p).keys.transport = none := by
  obtain ⟨hstage, hfatal, hfrozen, hparts'⟩ := s.dev.moduleFatal_leaves s.clock cause u.kind u.num hmode
  refine ⟨_, rfl, s.dev.moduleFatal_mode s.clock cause u.kind u.num, hstage, hfatal, hfrozen, fun p hp => ?_⟩
  obtain ⟨hst, howner, htransport, hmedia⟩ := hparts' p hp
  exact ⟨fun hreset => hst ⟨hparts ▸ hp, hreset⟩, howner, hmedia, htransport⟩

/-- Settles O53: the keepers and the recorder, the stale speaker, the link die and the fatal sequence, each by its own rule. -/
theorem keepersAndFatalEvents : Obligations.KeepersAndFatalEvents := by
  intro s
  refine ⟨fun _ hstandby => execKeeperFailover_takesOver hstandby, fun hc hstandby => execKeeperHandover_hands hc hstandby, rfl,
    fun i w hw => ?window, fun t ht => ?freeze, fun u gen hk hg => execStaleSpeaker_leaves hk hg,
    fun n hn hl hin hother => execLinkDieFailure_takes hn hl hin hother, fun cause u hm hp => execModuleFatal_fences cause u hm hp,
    fun cause u hm => congrArg (Becomes s) (if_pos hm)⟩
  case window =>
    show execCoalesceWindowClose i s = _
    rw [execCoalesceWindowClose, hw]
    rfl
  case freeze =>
    show execRecorderFreezeTimeout s = _
    rw [execRecorderFreezeTimeout, ht]
    rfl

end Sys2Proof.Machine
end

section
/-! PROOF. Resets of the module, sleep and wake, the reset input, and the stages of bring-up. -/

namespace Sys2Proof.Machine

open Sys2Proof

/-! ### Messages that change the power state (R439, R483) -/

@[simp] theorem Dev.fmReply_power (d : Dev) (m : Bytes) (result : Nat) (extra : Bytes) : (d.fmReply m result extra).power = d.power := (rfl)

@[simp] theorem fld_drop (b : Bytes) (k off n : Nat) : fld (b.drop k) off n = fld b (k + off) n := by
  simp [fld, List.drop_drop]

@[simp] theorem zeroAt_drop (b : Bytes) (k off n : Nat) : zeroAt (b.drop k) off n = zeroAt b (k + off) n := by
  simp [zeroAt]

/-- A message of the right form that is judged 0 by an awake or sleeping module is answered, and runs. -/
theorem powerMsg_runs {type : Nat} {m : Bytes} {c : Clock} {d : Dev} (run : Clock → Dev → Clock × Dev) (hlayout : fmLayout type m = true)
    (hlen : m.length = 32) (hmode : d.power.mode = .up ∨ d.power.mode = .sleep) :
    powerMsg type true m c d 0 run = run c (d.fmReply m 0 []) := by
  have hgate : d.fmGate .power = some 0 := by
    rcases hmode with h | h <;> simp [Dev.fmGate, h]
  simp [powerMsg, hgate, hlayout, hlen]

/-! ### Resets (R480 to R482, R486) -/

@[simp] theorem holdover_time (c : Clock) (d : Dev) : (holdover (c, d)).1.time = c.time := by
  unfold holdover loseTime
  split <;> rfl

/-- After a reset every partition is closed. -/
theorem Dev.ground_closed (d : Dev) (p : Nat) : (d.ground.part p).life.st = .closed := by
  have hall (l : List Part) : ((l.map Part.afterReset).getD p (Part.reset p)).life.st = .closed := by
    rw [List.getD_eq_getElem?_getD, List.getElem?_map]
    cases l[p]? <;> rfl
  exact hall d.parts

/-- A reset that takes effect starts a bring-up, at the time at which it does. -/
theorem takeReset_starts (c : Clock) (d : Dev) (warm : Bool) :
    ∃ k e, takeReset c d warm = (k, e) ∧ e.power.mode = .bringup 1 ∧ e.power.warm = warm ∧ e.power.resetLow = d.power.resetLow ∧
      k.time = c.time ∧ ∀ p, (e.part p).life.st = .closed := by
  have hpower : (holdover (c, d.endPauses c)).2.power = d.power := by simp
  have htime : (holdover (c, d.endPauses c)).1.time = c.time := by simp
  unfold takeReset overDev
  generalize holdover (c, d.endPauses c) = r at hpower htime
  refine ⟨r.1, _, rfl, rfl, rfl, ?_, htime, fun p => Dev.ground_closed _ p⟩
  show r.2.power.resetLow = d.power.resetLow
  rw [hpower]

theorem execModuleReset_starts {s : State} {m : Bytes} (hlayout : fmLayout 0x20 m = true) (hlen : m.length = 32) (hkind : fld m 16 1 ≤ 1)
    (hzero : zeroAt m 17 15 = true) (hmode : s.dev.power.mode = .up) :
    ∃ c d, execModuleReset true m s = .next { s with clock := c, dev := d } ∧ d.power.mode = .bringup 1 ∧
      d.power.warm = (fld m 16 1 == 0) ∧ c.time = s.clock.time ∧ ∀ p, p < s.dev.parts.length → (d.part p).life.st = .closed := by
  obtain ⟨k, e, htake, hup, hwarm, -, htime, hclosed⟩ :=
    takeReset_starts s.clock ((s.dev.fmReply m 0 []).prepareReset s.clock) (fld m 16 1 == 0)
  refine ⟨k, e, State.onBoth_next ?_, hup, hwarm, htime, fun p _ => hclosed p⟩
  have hjudge : (if (!zeroAt (m.drop 16) 1 15) = true then 1 else if 1 < fld (m.drop 16) 0 1 then 4
      else if s.dev.power.mode = .fatal then 5 else 0) = 0 := by
    simp [hzero, Nat.not_lt.2 hkind, hmode]
  dsimp only
  rw [hjudge, powerMsg_runs _ hlayout hlen (.inl hmode)]
  simp [resetModule, Dev.warmOk, hmode, ← htake]

/-! ### Sleep and wake (R498 to R502) -/

theorem enterSleep_sleeps (src at_ : Nat) (c : Clock) (d : Dev) :
    ∃ k e, enterSleep src at_ c d = (k, e) ∧ e.power.mode = .sleep ∧ e.power.wakeSources = src ∧ e.power.wakeAt = at_ ∧ e.sleepN = false := by
  refine ⟨(enterSleep src at_ c d).1, (enterSleep src at_ c d).2, rfl, ?_⟩
  unfold enterSleep
  extract_lets drain d1 d2 d3 d4 d5 done d6
  have hpower : (holdover (c, d6)).2.power = d6.power := holdover_power c d6
  rw [Dev.sleepN, hpower]
  exact ⟨rfl, rfl, rfl, rfl⟩

theorem execSleep_sleeps {s : State} {m : Bytes} (hlayout : fmLayout 0x21 m = true) (hlen : m.length = 32) (hzero : zeroAt m 17 7 = true)
    (hwake : wakeSourcesOk (fld m 16 1) (fld m 24 8) = true) (hmay : s.dev.maySleep = true) :
    ∃ c d, execSleep true m s = .next { s with clock := c, dev := d } ∧ d.power.mode = .sleep ∧ d.power.wakeSources = fld m 16 1 ∧
      d.power.wakeAt = fld m 24 8 ∧ d.sleepN = false := by
  have hmode : s.dev.power.mode = .up := by
    simp only [Dev.maySleep, Bool.and_eq_true, beq_iff_eq] at hmay
    exact hmay.1.1.1.1
  obtain ⟨k, e, hsleep, hleft⟩ := enterSleep_sleeps (fld m 16 1) (fld m 24 8) s.clock (s.dev.fmReply m 0 [])
  refine ⟨k, e, State.onBoth_next ?_, hleft⟩
  have hjudge : (if (!zeroAt (m.drop 16) 1 7) = true then 1 else if (!wakeSourcesOk (fld (m.drop 16) 0 1) (fld (m.drop 16) 8 8)) = true then 4
      else if (!s.dev.maySleep) = true then 5 else 0) = 0 := by
    simp [hzero, hwake, hmay]
  dsimp only
  rw [hjudge, powerMsg_runs _ hlayout hlen (.inl hmode)]
  simpa using hsleep

/-- The management ring sets that are enabled start. -/
def Dev.startMgmt (d : Dev) (c : Clock) : Dev :=
  (List.range 4).foldl (fun (d : Dev) n => if (d.ring (.mgmt n)).regs.enable then (d.startRing c (.mgmt n)).flushRing c (.mgmt n) else d) d

@[simp] theorem Dev.flushEntries_hardware (c : Clock) (rs : RsId) (n : Nat) (d : Dev) : SameHardware (d.flushEntries c rs n) d := by
  induction n generalizing d with
  | zero => exact .refl d
  | succ n ih =>
    unfold Dev.flushEntries
    dsimp only
    split <;> simp [ih]

theorem Dev.startMgmt_keeps (d : Dev) (c : Clock) : (d.startMgmt c).power = d.power ∧ (d.startMgmt c).mgmt.stage = d.mgmt.stage := by
  have hstart (d : Dev) (n : Nat) : (d.startRing c (.mgmt n)).power = d.power ∧ (d.startRing c (.mgmt n)).mgmt.stage = d.mgmt.stage := by
    unfold Dev.startRing
    dsimp only
    split <;> exact ⟨rfl, rfl⟩
  have hflush (d : Dev) (n : Nat) : (d.flushRing c (.mgmt n)).power = d.power ∧ (d.flushRing c (.mgmt n)).mgmt.stage = d.mgmt.stage := by
    have hpower : (d.flushRing c (.mgmt n)).power = d.power :=
      (SameHardware.ite ((onlyReports_flushMgmtEvents c 64 _).hardware.trans (d.flushEntries_hardware c _ _)) (d.flushEntries_hardware c _ _)).1
    exact ⟨hpower, Dev.stage_of_globals (d.flushRing_posture c _).2⟩
  have hone (d : Dev) (n : Nat) :
      (if (d.ring (.mgmt n)).regs.enable then (d.startRing c (.mgmt n)).flushRing c (.mgmt n) else d).power = d.power ∧
      (if (d.ring (.mgmt n)).regs.enable then (d.startRing c (.mgmt n)).flushRing c (.mgmt n) else d).mgmt.stage = d.mgmt.stage := by
    split
    · exact ⟨(hflush _ n).1.trans (hstart d n).1, (hflush _ n).2.trans (hstart d n).2⟩
    · exact ⟨rfl, rfl⟩
  unfold Dev.startMgmt
  exact ⟨foldl_keep Dev.power _ (fun d n => (hone d n).1) _ d, foldl_keep (fun d : Dev => d.mgmt.stage) _ (fun d n => (hone d n).2) _ d⟩

theorem wake_wakes (c : Clock) {d : Dev} (h : d.power.mode = .sleep) :
    ∃ k e, wake c d = (k, e) ∧ e.power.mode = .up ∧ k.time = c.time + 40000000 := by
  have hstart (k : Clock) (e : Dev) : (List.range 4).foldl (fun (d : Dev) n =>
      if (d.ring (.mgmt n)).regs.enable then (d.startRing k (.mgmt n)).flushRing k (.mgmt n) else d) e = e.startMgmt k := by
    rw [Dev.startMgmt]
  unfold wake
  rw [if_neg (not_not_intro h)]
  simp only [hstart]
  refine ⟨_, _, rfl, ?_, Nat.max_eq_right (Nat.le_add_right _ _)⟩
  rw [(Dev.startMgmt_keeps _ _).1]
  rfl

section Wake

variable {s : State} (hmode : s.dev.power.mode = .sleep)
include hmode

theorem execWake_wakes {m : Bytes} (hlayout : fmLayout 0x22 m = true) (hlen : m.length = 32) (hzero : zeroAt m 16 16 = true) :
    ∃ c d, execWake true m s = .next { s with clock := c, dev := d } ∧ d.power.mode = .up ∧ c.time = s.clock.time + 40000000 := by
  obtain ⟨k, e, hwake, hleft⟩ := wake_wakes s.clock (d := s.dev.fmReply m 0 []) hmode
  refine ⟨k, e, State.onBoth_next ?_, hleft⟩
  have hjudge : (if (!zeroAt m 16 16) = true then 1 else if s.dev.power.mode ≠ .sleep then 5 else 0) = 0 := by simp [hzero, hmode]
  dsimp only
  rw [hjudge, powerMsg_runs _ hlayout hlen (.inr hmode), hwake]

theorem execWakeAtReached_wakes (hat : 0 < s.dev.power.wakeAt) (hsrc : bitAt s.dev.power.wakeSources 4 = true) :
    ∃ c d, execWakeAtReached s = .next { s with clock := c, dev := d } ∧ d.power.mode = .up ∧
      c.time = max s.clock.time s.dev.power.wakeAt + 40000000 := by
  obtain ⟨k, e, hwake, hleft⟩ := wake_wakes (s.clock.reach s.dev.power.wakeAt) hmode
  refine ⟨k, e, (if_pos ⟨hmode, Nat.ne_of_gt hat, hsrc⟩).trans ?_, hleft⟩
  rw [State.onBoth_eq, hwake]

theorem execFabricWakePattern_wakes (hsrc : bitAt s.dev.power.wakeSources 1 = true) :
    ∃ c d, execFabricWakePattern 0 s = .next { s with clock := c, dev := d } ∧ d.power.mode = .up ∧ c.time = s.clock.time + 40000000 := by
  obtain ⟨k, e, hwake, hleft⟩ := wake_wakes s.clock hmode
  exact ⟨k, e, State.onBoth_next ((if_pos (.inl ⟨rfl, hsrc⟩)).trans hwake), hleft⟩

end Wake

/-! ### The reset input (R482, R518) -/

theorem execModuleResetNAssert_prepares {s : State} (hmode : s.dev.power.mode = .up) :
    ∃ d, execModuleResetNAssert s = Becomes s d ∧ d.power.resetLow = true ∧ d.power.mode = .up ∧
      ∀ p, p < s.dev.parts.length → p < 64 → (d.part p).keys.owner = none ∧ (d.part p).keys.media = none := by
  refine ⟨(s.dev.prepareReset s.clock).modPower fun x => { x with resetLow := true }, State.onBoth_becomes ?_, rfl, ?_, fun p _ hp => ?_⟩
  · simp only [hmode]
  · simp [Dev.modPower, hmode]
  · have hzero := s.dev.zeroised_prepareReset s.clock hp
    generalize s.dev.prepareReset s.clock = e at hzero
    exact ⟨hzero.1, hzero.2.2⟩

theorem execModuleResetNRelease_resets {s : State} (hlow : s.dev.power.resetLow = true) (hmode : s.dev.power.mode = .up) :
    ∃ c d, execModuleResetNRelease s = .next { s with clock := c, dev := d } ∧ d.power.mode = .bringup 1 ∧ d.power.warm = true ∧
      d.power.resetLow = false := by
  obtain ⟨k, e, htake, hup, hwarm, hheld, -, -⟩ := takeReset_starts s.clock (s.dev.modPower fun x => { x with resetLow := false }) true
  refine ⟨k, e, State.onBoth_next ?_, hup, hwarm, hheld⟩
  have hok : (s.dev.modPower fun x => { x with resetLow := false }).warmOk = true := by simp [Dev.warmOk, Dev.modPower, hmode]
  dsimp only
  rw [if_neg (by simp [hlow]), if_neg (by simp [Dev.modPower, hmode]), hok, htake]

theorem execModuleResetNColdHold_holds {s : State} (hlow : s.dev.power.resetLow = true) (hmode : s.dev.power.mode ≠ .held) :
    ∃ c d, execModuleResetNColdHold s = .next { s with clock := c, dev := d } ∧ d.power.mode = .held :=
  ⟨_, _, State.onBoth_next (if_neg (by simp [hlow, hmode])), rfl⟩

/-! ### The stages of bring-up (R484, R488, R492) -/

/-- What follows the record of stage `n`: the next stage starts, or bring-up is over, or stops. -/
def Dev.stageOver (d : Dev) (c : Clock) (n : Nat) (pass : Bool) : Dev :=
  if !pass then d.modPower fun x => { x with mode := .stopped }
  else if n = 9 then d.stage9 c
  else ({ d with mgmt := { d.mgmt with stage := n }, power := { d.power with mode := .bringup (n + 1) } } : Dev).stageStart c (n + 1)

/-- The work of the stage that a report ends. -/
def reportedWork (c : Clock) (d : Dev) (rep : StageReport) : Clock × Dev × Bool × List UnitId :=
  stageWork c d rep (d.power.warm && !(d.power.warm && decide (4 ≤ rep.stage) && decide (rep.stage ≤ 6) && rep.full))

theorem pair_ite_ite {α β : Type} {p q : Prop} [Decidable p] [Decidable q] (a : α) (x y z : β) :
    (if p then (a, x) else if q then (a, y) else (a, z)) = (a, if p then x else if q then y else z) := by
  rw [apply_ite (Prod.mk a), apply_ite (Prod.mk a)]

theorem finishStage_ends (c : Clock) (d : Dev) (rep : StageReport) :
    ∃ e : Dev, finishStage c d rep =
      ((reportedWork c d rep).1, e.stageOver (reportedWork c d rep).1 rep.stage (reportedWork c d rep).2.2.1) := by
  unfold finishStage
  extract_lets n full fast before w k d1 d2 pass nand rep' d3
  refine ⟨d3, ?_⟩
  exact pair_ite_ite k _ _ _

theorem Dev.stage9_ends (d : Dev) (c : Clock) : (d.stage9 c).power.mode = .up ∧ (d.stage9 c).mgmt.stage = 9 := by
  have hstart (k : Clock) (e : Dev) : (List.range 4).foldl (fun (d : Dev) n =>
      if (d.ring (.mgmt n)).regs.enable then (d.startRing k (.mgmt n)).flushRing k (.mgmt n) else d) e = e.startMgmt k := by
    rw [Dev.startMgmt]
  unfold Dev.stage9
  extract_lets d1 recs d2 apply d3 d4 d5 d6
  rw [hstart, (Dev.startMgmt_keeps _ _).1, (Dev.startMgmt_keeps _ _).2]
  exact ⟨rfl, rfl⟩

/-- The stages whose work passes whenever the report says so. -/
theorem stageWork_pass (c : Clock) (d : Dev) {rep : StageReport} (fast : Bool) (hn : 1 ≤ rep.stage) (hlast : rep.stage ≤ 9)
    (h1 : rep.stage ≠ 1) (h2 : rep.stage ≠ 2) (h3 : rep.stage ≠ 3) (h5 : rep.stage ≠ 5) (h6 : rep.stage ≠ 6) :
    (stageWork c d rep fast).2.2.1 = (rep.ok || rep.stage == 9) := by
  obtain h | h | h | h : rep.stage = 4 ∨ rep.stage = 7 ∨ rep.stage = 8 ∨ rep.stage = 9 := by omega
  all_goals simp [stageWork, h]

/-- No stage but the ninth passes when the report says that it did not. -/
theorem stageWork_fail (c : Clock) (d : Dev) {rep : StageReport} (fast : Bool) (h9 : rep.stage ≠ 9) (hok : rep.ok = false) :
    (stageWork c d rep fast).2.2.1 = false := by
  unfold stageWork
  dsimp only
  split
  all_goals simp [hok, h9]

theorem execBringupStage_ends {s : State} {rep : StageReport} (hmode : s.dev.power.mode = .bringup rep.stage) (hn : 1 ≤ rep.stage)
    (hlast : rep.stage ≤ 9) :
    ∃ (c : Clock) (e : Dev), execBringupStage rep s =
      .next { s with clock := c, dev := e.stageOver c rep.stage (reportedWork s.clock s.dev rep).2.2.1 } := by
  obtain ⟨e, he⟩ := finishStage_ends s.clock s.dev rep
  refine ⟨(reportedWork s.clock s.dev rep).1, e, State.onBoth_next ?_⟩
  simp only [hmode]
  simp only [hn, hlast, and_self, if_true, he]

/-- A stage that passes, the ninth apart, starts the next one. -/
theorem Dev.stageOver_next (d : Dev) (c : Clock) {n : Nat} (h : n ≠ 9) :
    (d.stageOver c n true).power.mode = .bringup (n + 1) ∧ (d.stageOver c n true).mgmt.stage = n := by
  have hnext : d.stageOver c n true =
      ({ d with mgmt := { d.mgmt with stage := n }, power := { d.power with mode := .bringup (n + 1) } } : Dev).stageStart c (n + 1) :=
    (if_neg (by decide)).trans (if_neg h)
  rw [hnext]
  exact ⟨rfl, rfl⟩

/-- Settles O56: the resets and the wakes by where they leave the module, and the stages by what their work passes. -/
theorem resetsSleepAndBringup : Obligations.ResetsSleepAndBringup := by
  intro s
  refine ⟨fun m hl hlen hk hz hm => execModuleReset_starts hl hlen hk hz hm, fun m hl hlen hz hw hs => execSleep_sleeps hl hlen hz hw hs,
    fun hm => ⟨fun m hl hlen hz => execWake_wakes hm hl hlen hz, execWakeAtReached_wakes hm, execFabricWakePattern_wakes hm⟩,
    execModuleResetNAssert_prepares, execModuleResetNRelease_resets, execModuleResetNColdHold_holds, fun rep hmode hn hlast => ?stage⟩
  obtain ⟨c, e, hexec⟩ := execBringupStage_ends hmode hn hlast
  have hnext (h9 : rep.stage < 9) (hpass : (reportedWork s.clock s.dev rep).2.2.1 = true) :
      ∃ c d, exec (.bringupStage rep) s = .next { s with clock := c, dev := d } ∧ d.power.mode = .bringup (rep.stage + 1) ∧
        d.mgmt.stage = rep.stage := by
    rw [hpass] at hexec
    exact ⟨c, _, hexec, e.stageOver_next c (Nat.ne_of_lt h9)⟩
  refine ⟨fun h9 => ?ninth, fun h9 hok => ?stops, fun h9 hok h1 h2 h3 h5 h6 => hnext h9 ?passes, fun h9 hpass => hnext h9 hpass⟩
  case ninth =>
    rw [show (reportedWork s.clock s.dev rep).2.2.1 = true from
      (stageWork_pass _ _ _ hn hlast (by omega) (by omega) (by omega) (by omega) (by omega)).trans (by simp [h9])] at hexec
    have hover : e.stageOver c rep.stage true = e.stage9 c := (if_neg (by decide)).trans (if_pos h9)
    rw [hover] at hexec
    exact ⟨c, _, hexec, e.stage9_ends c⟩
  case stops =>
    rw [show (reportedWork s.clock s.dev rep).2.2.1 = false from stageWork_fail _ _ _ (Nat.ne_of_lt h9) hok] at hexec
    exact ⟨c, _, hexec, rfl⟩
  case passes => exact (stageWork_pass _ _ _ hn hlast h1 h2 h3 h5 h6).trans (by simp [hok])

end Sys2Proof.Machine
end

section
/-! PROOF. Firmware that is staged, activated and rolled back, the test port, and the management protocols. -/

namespace Sys2Proof.Machine

open Sys2Proof

/-! ### Live firmware (R495, R496) -/

theorem Dev.fw_of_globals {e d : Dev} (h : e.globals = d.globals) : e.fw = d.fw := congrArg (·.2.1) h

theorem execFwStagingComplete_ends {s : State} {r : ReqRef} {slot t : Nat} {q : Req} (hstaging : s.dev.fw.staging = some (r, slot, t))
    (hreq : s.dev.req? r = some q) :
    let a := roundUp (max t s.clock.time) 1000000
    execFwStagingComplete s = Ended s r (s.dev.modFw fun f => { f with
      staging := none, target := slot, slots := modAt (fun (k : FwSlot) => { k with state := 3, activateAt := a }) slot s.dev.fw.slots }) ⟨statusSUCCESS, 0, slot, a⟩ := by
  intro a
  rw [execFwStagingComplete, State.onDev_eq, hstaging]
  have hthere : ¬((s.dev.modFw fun f => { f with staging := none }).req? r).isNone = true := by
    rw [show (s.dev.modFw fun f => { f with staging := none }).req? r = s.dev.req? r from rfl, hreq]
    exact Bool.false_ne_true
  exact congrArg (Becomes s) (if_neg hthere)

/-- The firmware that an activation leaves. -/
theorem Dev.activateSlot_fw (d : Dev) (c : Clock) (slot : Nat) (k : FwSlot) :
    (d.activateSlot c slot k).fw.active = slot ∧ (d.activateSlot c slot k).fw.floor = max d.fw.floor k.security ∧
      (d.activateSlot c slot k).fw.keeperChanged = true := by
  have hpaused : (d.startedParts.foldl (fun (d : Dev) p => d.shortPause c p 1) d).fw = d.fw :=
    Dev.fw_of_globals (Dev.foldl_posture _ (fun d p => d.shortPause_posture c p 1) _ d).2
  unfold Dev.activateSlot
  dsimp only
  rw [Dev.fw_of_globals (Dev.record_posture _ c _ _ _ _ _ _ _).2, ← hpaused]
  exact ⟨rfl, rfl, rfl⟩

section Activation

variable {s : State} {slot : Nat} {k : FwSlot} (h : s.dev.fw.scheduled = some (slot, k))
include h

theorem execFwActivation_activates :
    ∃ d, execFwActivation s = BecomesAt s k.activateAt d ∧ d.fw.active = slot ∧ d.fw.floor = max s.dev.fw.floor k.security ∧
      d.fw.keeperChanged = true := by
  refine ⟨s.dev.activateSlot (s.clock.reach k.activateAt) slot k, ?_, Dev.activateSlot_fw _ _ _ _⟩
  rw [execFwActivation, h]
  rfl

theorem execFwActivationRollback_keeps :
    ∃ c d, execFwActivationRollback s = .next { s with clock := c, dev := d } ∧ d.fw.active = s.dev.fw.active ∧ d.fw.floor = s.dev.fw.floor ∧
      d.fw.slots = modAt (fun (x : FwSlot) => { x with state := 6, activateAt := 0 }) slot s.dev.fw.slots ∧
      c.time = max s.clock.time k.activateAt + 4000000 := by
  have hstarts (c : Clock) (l : List Nat) (d : Dev) : (l.foldl (fun (d : Dev) p => d.pauseStart c p 1 true) d).fw = d.fw :=
    Dev.fw_of_globals (Dev.foldl_posture _ (fun d p => d.pauseStart_posture c p 1 true) l d).2
  have hends (c : Clock) (l : List Nat) (d : Dev) : (l.foldl (fun (d : Dev) p => d.pauseEnd c p 1) d).fw = d.fw :=
    Dev.fw_of_globals (Dev.foldl_posture _ (fun d p => d.pauseEnd_posture c p 1) l d).2
  rw [execFwActivationRollback, h]
  dsimp only
  rw [State.atTime_eq]
  refine ⟨_, _, rfl, ?_⟩
  rw [Dev.fw_of_globals (Dev.record_posture _ _ _ _ _ _ _ _ _).2]
  simp only [Dev.modFw, hends, hstarts]
  exact ⟨trivial, trivial, trivial, Nat.max_eq_right (Nat.le_add_right _ _)⟩

end Activation

/-! ### The test port (R519, R520) -/

theorem execTestAccessPortCycle_idcode {s : State} {die : Nat} (bits : List Bool) (hdie : die < 25) (hacts : s.dev.tapActs die = tapIDCODE) :
    execTestAccessPortCycle (.shiftDr die bits) s =
      Becomes s (s.dev.emit (.tdo ((((List.range 32).map fun k => bitAt (idcode die) k) ++ bits).take bits.length))).fresh := by
  have hshift : s.dev.tapShift die bits = (((List.range 32).map fun k => bitAt (idcode die) k) ++ bits).take bits.length := if_pos hacts
  rw [← hshift]
  exact congrArg (Becomes s) (if_neg (Nat.not_le_of_lt hdie))

/-! ### SPDM and the event receiver (R408 to R411, R469) -/

section Keepers

variable {s : State} (hanswer : s.dev.keepersAnswer = true)
include hanswer

theorem execSpdmRequest_local {q : SpdmReq} (h : ∀ k, q.source ≠ .remoteOwner k) :
    execSpdmRequest q s = Becomes s (s.dev.emit (.spdm (s.dev.spdmAnswer q))) := by
  refine congrArg (Becomes s) ((if_neg (by simp [hanswer])).trans ?_)
  split
  · next k hk => exact absurd hk (h k)
  · rfl

theorem execSpdmRequest_remote {q : SpdmReq} {k : Packet} (hsource : q.source = .remoteOwner k) (htype : pkType k = 4) :
    let w := s.dev.receive s.clock k false ((s.dev.part (pkPart k)).cfg.fromOwner k) false
    execSpdmRequest q s = Becomes s (if w.2 = .accepted then w.1.answer s.clock k 4 3 (w.1.spdmAnswer q) else w.1) := by
  refine congrArg (Becomes s) ((if_neg (by simp [hanswer])).trans ?_)
  rw [hsource]
  exact if_neg (not_not_intro htype)

end Keepers

/-- Settles O58: the firmware by what each of its events leaves of it, the test port and the protocols by what they answer. -/
theorem firmwareAndTestAccess : Obligations.FirmwareAndTestAccess := by
  intro s
  refine ⟨fun r slot t q hs hq => execFwStagingComplete_ends hs hq,
    fun slot k h => ⟨execFwActivation_activates h, execFwActivationRollback_keeps h⟩, rfl,
    fun die bits hdie hacts => execTestAccessPortCycle_idcode bits hdie hacts, fun hanswer => ⟨fun q h => execSpdmRequest_local hanswer h,
      fun q k hsource htype => ⟨fun hw => ?accepted, fun hw => ?refused⟩, fun q hq => ?unsupported, fun eid tag => ?receiver⟩⟩
  case accepted => exact (execSpdmRequest_remote hanswer hsource htype).trans (congrArg (Becomes s) (if_pos hw))
  case refused => exact (execSpdmRequest_remote hanswer hsource htype).trans (congrArg (Becomes s) (if_neg hw))
  case unsupported => exact if_pos (by simpa using hq)
  case receiver => exact congrArg (Becomes s) (if_pos hanswer)

end Sys2Proof.Machine
end

section
/-! PROOF. PUT and GET: what a request that has been admitted writes, or gives, and how it ends. -/

namespace Sys2Proof.Machine

open Sys2Proof

/-- The object that a PUT writes, with the partition that holds it: a new one at the lowest free windows, or one that stands. -/
def Part.putObject (x : Part) (q : Req) : Option (Part × Obj) :=
  if oCreate q then
    (x.freeWindows (ceilDiv (fld q.desc 52 4) 64)).map fun w =>
      let o : Obj := ⟨w, ceilDiv (fld q.desc 52 4) 64, .stored, 0, fld q.desc 52 4, fbits q.desc 28 1 1 == 1, 0⟩
      ({ x with objs := x.objs ++ [o] }, o)
  else (x.storedAt (oWin q)).map fun o => (x, o)

section Put

variable {s : State} {r : ReqRef} {io : Io} {q : Req} {o : Obj} {b : Bytes} (h : Carries s r 0x30 q) (hu : io.upto = .done)
  (hb : ioRead io.reads 0 = some b)
include h hu hb

/-- What PUT leaves once its object `o` is in `y`: the object's bytes and size, and its pages in the write buffer. -/
theorem execPut_ends {y : Part} (hmade : (s.dev.part r.rs.partNo).putObject q = some (y, o)) :
    let size := max o.size (oOff q + oLen q)
    let y' : Part := { y with
      objs := modIf (fun (k : Obj) => k.first == o.first) (fun k => { k with size := size }) y.objs,
      mem := (y.mem.writePages (o.first * windowBytes + oOff q) b).unstage o }
    let pages := (List.range (ceilDiv (oLen q) 16384)).map fun i =>
      (min 16384 (oLen q - 16384 * i), y'.mem.flash.pageData (o.first * windowBytes + oOff q + 16384 * i) 16384)
    let d : Dev := { s.dev.modPart r.rs.partNo fun _ => y' with
      flash := s.dev.flash.acceptGroup s.clock.time r.rs.partNo (s.dev.part r.rs.partNo).keys.gen (!o.single) (singleSide o.first r.rs.partNo)
        o.first (oOff q / 16384) pages }
    execPut r io s = Ended s r (d.settleBuffer r.rs.partNo) ⟨statusSUCCESS, 0, o.first, size⟩ := by
  intro size y' pages d
  refine State.onDev_ends (Dev.command_ends h io.upto _ _ _ _ _ ?work)
  case work =>
    rw [if_neg (by simp [hu])]
    dsimp only
    unfold Part.putObject at hmade
    rw [hmade, hb]

end Put

/-- Settles O12: the object stands, or a new one takes the lowest free windows. -/
theorem putCompletes : Obligations.PutCompletes := by
  rintro s r io q _ y o b h hu rfl hb hobj
  refine execPut_ends h hu hb ?made
  case made =>
    rcases hobj with ⟨hold, hstored, rfl⟩ | ⟨hnew, w, hw, rfl, rfl⟩
    · simp [Part.putObject, hold, hstored]
    · simp [Part.putObject, hnew, hw]

section Get

variable {s : State} {r : ReqRef} {io : Io} {q : Req} (h : Carries s r 0x31 q) (hu : io.upto = .done) (hok : io.writesOk = true)
include h hu hok

theorem execGet_object {o : Obj} (hkind : oKind q = 0) (ho : (s.dev.part r.rs.partNo).storedAt (oWin q) = some o)
    (hthere : s.dev.objWaits r.rs.partNo o (oOff q) (oLen q) = false) (hread : s.dev.objReadable r.rs.partNo o (oOff q) (oLen q) = true) :
    execGet r io s = Ended s r ((s.dev.readObj s.clock.time r.rs.partNo o (oOff q) (oLen q)).hostOut s.clock r (fld q.desc 56 8)
      ((s.dev.part r.rs.partNo).mem.flash.readN (o.first * windowBytes + oOff q) (oLen q))) ⟨statusSUCCESS, 0, oLen q, 0⟩ := by
  refine State.onDev_ends (Dev.command_ends h io.upto _ _ _ _ _ ?work)
  case work => simp [hu, hok, hkind, ho, hthere, hread]

/-- A GET of a document record (kind 1) or of a full-vector record (kind 2). -/
theorem execGet_item {n : Node} {e : Nat} {known : Bool} {i : Index}
    (hitem : (s.dev.part r.rs.partNo).item (fbits q.desc 29 3 0) (fld q.desc 44 5) = some (n, e, known))
    (hidx : (s.dev.part r.rs.partNo).index? (fbits q.desc 29 3 0) = some i)
    (hcopy : oKind q = 1 ∧ s.dev.docWaits i r.rs.partNo n = false ∧ s.dev.docReadable i r.rs.partNo n = true ∧
        s.dev.docPoisoned i r.rs.partNo n = false ∨
      oKind q = 2 ∧ known = true ∧
        s.dev.flash.waits r.rs.partNo (ownerVector i.num) (i.vecPage n.slot) (!i.params.single) (singleSide i.num r.rs.partNo) = false ∧
        (s.dev.vecReadable i r.rs.partNo n 0 || s.dev.vecReadable i r.rs.partNo n 1) = true)
    (hdir : i.dirPoisoned (fld q.desc 44 5) = false) :
    let b := if oKind q = 1 then n.doc else vectorBytes n
    execGet r io s = Ended s r ((s.dev.readItem s.clock.time i r.rs.partNo n (oKind q == 1)).hostOut s.clock r (fld q.desc 56 8)
      ((b.drop (oOff q)).take (oLen q))) ⟨statusSUCCESS, 0, b.length, e⟩ := by
  intro b
  refine State.onDev_ends (Dev.command_ends h io.upto _ _ _ _ _ ?work)
  case work =>
    rcases hcopy with ⟨hkind, hthere, hread, hclean⟩ | ⟨hkind, hknown, hthere, hread⟩
    · simp [hu, hok, hkind, hitem, hidx, hthere, hread, hclean, hdir, b]
    · have hbad : (!(s.dev.vecReadable i r.rs.partNo n 0 || s.dev.vecReadable i r.rs.partNo n 1)) = false := by rw [hread]; rfl
      simp only [hu, hok, hkind, hitem, hidx, hknown, hthere, hdir, hbad, b]
      simp

end Get

/-- Settles O13: an object by its windows, an item by its index and handle. -/
theorem getCompletes : Obligations.GetCompletes := by
  intro s r io q h hu hok p x
  exact ⟨fun o => execGet_object h hu hok, fun n e known i => execGet_item h hu hok⟩

end Sys2Proof.Machine
end

section
/-! PROOF. The operation control commands: what each reports, and what it does to the operation that it names. -/

namespace Sys2Proof.Machine

open Sys2Proof

section Control

variable {s : State} {r : ReqRef} {io : Io} {q : Req} {op : Nat}

/-- A control command that has been admitted does its work and ends with what it reports. -/
theorem State.simple_ends {work : Clock → Dev → Req → Dev × Ending} {d : Dev} {e : Ending} (h : Carries s r op q)
    (hwork : work s.clock s.dev q = (d, e)) :
    (s.onDev fun c d => d.simple c r op .done always always always (work c)) = Ended s r d e := by
  refine State.onDev_ends (Dev.command_ends h .done _ _ _ _ _ ?work)
  case work => rw [hwork]

/-! ### ABORT of a command (R363, R364) -/

section Abort

variable {p n : Nat} (h : Carries s r 0x60 q) (ht : fbits q.desc 24 5 4 = 0) (hr : r.rs = .part p n)
include h ht hr

theorem execAbort_absent (habsent : s.dev.req? ⟨.part p (fbits q.desc 24 3 0), fld q.desc 28 4⟩ = none) :
    execAbort r s = Ended s r s.dev ⟨statusSUCCESS, 0, 0, 0⟩ := by
  refine State.simple_ends h ?work
  case work => simp [ht, hr, habsent]

theorem execAbort_request {tq : Req} (hreq : s.dev.req? ⟨.part p (fbits q.desc 24 3 0), fld q.desc 28 4⟩ = some tq)
    (hfree : s.dev.carried tq = none) :
    execAbort r s = if tq.ponr then Ended s r s.dev ⟨statusSUCCESS, 0, 2, 0⟩
      else Ended s r (s.dev.cutShort s.clock ⟨.part p (fbits q.desc 24 3 0), fld q.desc 28 4⟩ statusABORTED)
        ⟨statusSUCCESS, 0, 1, 0⟩ := by
  split
  case isTrue hponr =>
    refine State.simple_ends h ?passed
    case passed => simp [ht, hr, hreq, hfree, hponr]
  case isFalse hponr =>
    refine State.simple_ends h ?cut
    case cut => simp [ht, hr, hreq, hfree, hponr]

theorem execAbort_carrier {tq : Req} {y : Nat} {o : LongOp}
    (hreq : s.dev.req? ⟨.part p (fbits q.desc 24 3 0), fld q.desc 28 4⟩ = some tq) (hcarries : s.dev.carried tq = some (y, o)) :
    execAbort r s = if o.cancellable then Ended s r (s.dev.opCancel s.clock y o) ⟨statusSUCCESS, 0, 3, 0⟩
      else Ended s r s.dev ⟨statusSUCCESS, 0, 4, 0⟩ := by
  split
  case isTrue hcan =>
    refine State.simple_ends h ?cancelled
    case cancelled => simp [ht, hr, hreq, hcarries, hcan]
  case isFalse hcan =>
    refine State.simple_ends h ?kept
    case kept => simp [ht, hr, hreq, hcarries, hcan]

end Abort

/-! ### The OP_ commands (R366 to R368) -/

theorem execOpQuery_none (h : Carries s r 0x68 q) (hn : s.dev.ctlTarget r q = none) : execOpQuery r s = Ended s r s.dev noOp := by
  refine State.simple_ends h ?work
  case work => rw [hn]

theorem execOpQuery_some {p : Nat} {o : LongOp} (h : Carries s r 0x68 q) (ho : s.dev.ctlTarget r q = some (p, o)) :
    execOpQuery r s = Ended s r s.dev (s.dev.report p o statusSUCCESS) := by
  refine State.simple_ends h ?work
  case work => rw [ho]

theorem execOpSuspend_none (h : Carries s r 0x69 q) (hn : s.dev.ctlTarget r q = none) :
    execOpSuspend r s = Ended s r s.dev noOp := by
  refine State.simple_ends h ?work
  case work => rw [hn]

theorem execOpSuspend_running {p : Nat} {o : LongOp} (h : Carries s r 0x69 q) (ho : s.dev.ctlTarget r q = some (p, o))
    (hrun : o.state = 1) :
    execOpSuspend r s = Ended s r (s.dev.opSuspend s.clock p o) ((s.dev.opSuspend s.clock p o).report p o statusSUCCESS) := by
  refine State.simple_ends h ?work
  case work => simp only [ho, if_pos hrun]

theorem execOpCancel_none (h : Carries s r 0x6B q) (hn : s.dev.ctlTarget r q = none) :
    execOpCancel r s = Ended s r s.dev noOp := by
  refine State.simple_ends h ?work
  case work => rw [hn]

theorem execOpCancel_some {p : Nat} {o : LongOp} {d : Dev} {e : Ending} (h : Carries s r 0x6B q)
    (ho : s.dev.ctlTarget r q = some (p, o)) (hctl : s.dev.ctlCancel s.clock p o = (d, e)) : execOpCancel r s = Ended s r d e := by
  refine State.simple_ends h ?work
  case work =>
    rw [ho]
    exact hctl

theorem Dev.ctlCancel_cancellable (d : Dev) (c : Clock) (p : Nat) {o : LongOp} (hact : o.active = true) (hcan : o.cancellable = true) :
    d.ctlCancel c p o = (d.opCancel c p o, (d.opCancel c p o).report p o statusSUCCESS) := by simp [Dev.ctlCancel, hact, hcan]

theorem Dev.ctlCancel_refuses (d : Dev) (c : Clock) (p : Nat) {o : LongOp} (hact : o.active = true) (hcan : o.cancellable = false) :
    d.ctlCancel c p o = (d, d.report p o statusNOTCANCEL) := by simp [Dev.ctlCancel, hact, hcan]

/-- A request that carries no work is the carrier of no operation. -/
theorem Dev.carried_of_idle (d : Dev) (h : q.work = .none) : d.carried q = none := by rw [Dev.carried, h]

/-- OP_RESUME of a suspended operation that takes a carrier: it is that carrier, and the operation runs on. -/
theorem execOpResume_carries {p : Nat} {o : LongOp} (h : Carries s r 0x6A q) (hidle : q.work = .none)
    (ho : s.dev.ctlTarget r q = some (p, o)) (hsus : o.state = 2) (hremat : o.opcode ≠ opRemat) :
    execOpResume r io s = Becomes s
      (((s.dev.setOp p o fun k => { k with state := 1, carrier := some r }).modReq r fun y =>
        { y with work := .carrier o.rs o.seq }).opRun s.clock p { o with state := 1, carrier := some r } io 0) := by
  refine congrArg (Becomes s) (Dev.command_goes_on h .done _ _ _ _ _ ?work)
  case work => simp [s.dev.carried_of_idle hidle, hidle, ho, hsus, hremat]

end Control

/-- Settles O21: ABORT by the request that it names, the OP_ commands by the operation. -/
theorem operationControlsComplete : Obligations.OperationControlsComplete := by
  intro s r io q ok
  refine ⟨?abort, ?absent, ?named⟩
  case abort =>
    intro h ht p n hr t
    exact ⟨fun hn => execAbort_absent h ht hr hn, fun tq hreq hfree => execAbort_request h ht hr hreq hfree,
      fun tq y o hreq hcarries => execAbort_carrier h ht hr hreq hcarries⟩
  case absent =>
    rintro op (rfl | rfl | rfl) h hn
    · exact execOpQuery_none h hn
    · exact execOpSuspend_none h hn
    · exact execOpCancel_none h hn
  case named =>
    intro p o ho
    refine ⟨?query, ?suspend, ?cancel, ?refuse, ?resume⟩
    case query => exact fun h => execOpQuery_some h ho
    case suspend => exact fun h hrun => execOpSuspend_running h ho hrun
    case cancel => exact fun h hact hcan => execOpCancel_some h ho (s.dev.ctlCancel_cancellable s.clock p hact hcan)
    case refuse => exact fun h hact hcan => execOpCancel_some h ho (s.dev.ctlCancel_refuses s.clock p hact hcan)
    case resume => exact fun h hidle hsus hremat => execOpResume_carries h hidle ho hsus hremat

end Sys2Proof.Machine
end

section
/-! PROOF. The administrative commands: what each writes to the host or keeps, and how it ends. -/

namespace Sys2Proof.Machine

open Sys2Proof

/-- What an administrative read writes to the host ends it with the number of bytes written. -/
theorem Dev.giveHost_ok (d : Dev) (c : Clock) (r : ReqRef) (q : Req) {io : Io} (b : Bytes) (hok : io.writesOk = true) :
    d.giveHost c r q io b = (d.hostOut c r (fld q.desc 48 8) b, ⟨statusSUCCESS, 0, b.length, 0⟩) := if_pos hok

section Reads

variable {s : State} {r : ReqRef} {io : Io} {q : Req}

theorem execIdentify_gives {b : Bytes} (h : Carries s r 0x80 q) (hok : io.writesOk = true)
    (hdata : s.dev.identifyData (aPart r q) q = some b) :
    execIdentify r io s = Ended s r (s.dev.hostOut s.clock r (fld q.desc 48 8) (fit (min (aLength q) 4096) b))
      ⟨statusSUCCESS, 0, (fit (min (aLength q) 4096) b).length, 0⟩ := by
  refine State.onDev_ends (Dev.command_ends h io.upto _ _ _ _ _ ?work)
  case work => simp [hdata, Dev.giveHost_ok, hok]

/-- GET_LOG gives the snapshot that its admission took (R374). -/
theorem execGetLog_gives (h : Carries s r 0x81 q) (hok : io.writesOk = true) :
    execGetLog r io s = Ended s r (s.dev.hostOut s.clock r (fld q.desc 48 8) (q.taken.headD []))
      ⟨statusSUCCESS, 0, (q.taken.headD []).length, 0⟩ := by
  refine State.onDev_ends (Dev.command_ends h io.upto _ _ _ _ _ ?work)
  case work => simp only [Dev.giveHost_ok _ _ _ _ _ hok]

/-- A log that GET_LOG reads: one of its partition, or on a management ring set one of the module, with PARTITION zero (R370, R374). -/
def logReadable (r : ReqRef) (q : Req) : Prop :=
  aSelect q ∈ [1, 2, 3, 4] ∨ r.rs.isMgmt = true ∧ aSelect q ∈ [0x80, 0x81, 0x82, 0x83] ∧ fbits q.desc 25 5 0 = 0

/-- The permission that GET_LOG asks: a log of the module is read on a management ring set alone. -/
theorem logReadable.permitted (h : logReadable r q) :
    (r.rs.isMgmt || !(decide (0x80 ≤ aSelect q) && decide (aSelect q ≤ 0x83))) = true := by
  rcases h with hpart | ⟨hmgmt, -, -⟩
  · have hsmall : aSelect q < 0x80 := by simp at hpart; omega
    simp [hsmall]
  · simp [hmgmt]

/-- The fields that GET_LOG asks. -/
theorem logReadable.wellFormed (h : logReadable r q) :
    ([1, 2, 3, 4].contains (aSelect q) || ([0x80, 0x81, 0x82, 0x83].contains (aSelect q) && fbits q.desc 25 5 0 == 0) ||
      (!r.rs.isMgmt && [0x80, 0x81, 0x82, 0x83].contains (aSelect q))) = true := by
  rcases h with hpart | ⟨-, hmodule, hzero⟩
  · rw [List.contains_iff_mem.mpr hpart]
    rfl
  · rw [List.contains_iff_mem.mpr hmodule, hzero]
    simp

theorem execGetLog_admits (h : Fetched s r 0x81 q) (hg : s.dev.gate s.clock r q true true true = none) (hlog : logReadable r q) :
    execGetLog r { io with upto := .admitted } s = Becomes s (s.dev.enter s.clock r fun y =>
      { y with taken := [s.dev.logData s.clock (aPart r q) (aSelect q) (aOffset q) (aLength q)] }) := by
  refine congrArg (Becomes s) (Dev.command_only_admits h ?gate rfl)
  case gate =>
    rw [hlog.permitted, hlog.wellFormed]
    exact hg

theorem execGetFeature_gives (h : Carries s r 0x82 q) (hok : io.writesOk = true) (hclear : fbits q.desc 25 6 6 = 0) :
    execGetFeature r io s =
      Ended s r (s.dev.hostOut s.clock r (fld q.desc 48 8) ((s.dev.part (aPart r q)).feat.bytes (aSelect q)))
        ⟨statusSUCCESS, 0, ((s.dev.part (aPart r q)).feat.bytes (aSelect q)).length, 0⟩ := by
  refine State.onDev_ends (Dev.command_ends h io.upto _ _ _ _ _ ?work)
  case work => simp only [hclear, Dev.giveHost_ok _ _ _ _ _ hok]; simp

end Reads

section Writes

variable {s : State} {r : ReqRef} {io : Io} {q : Req} {b : Bytes} (hb : io.reads[0]? = some (some b))
include hb

theorem ioRead_of_given : ioRead io.reads 0 = some b := by rw [ioRead, hb]; rfl

/-- SET_FEATURE: smaller sizes evict, and feature 1 posts the events of the counts that its thresholds meet (R52, R54, R255). -/
theorem execSetFeature_ends (h : Carries s r 0x83 q) :
    let d := s.dev.modPart r.rs.partNo fun x =>
      (({ x with feat := x.feat.write (aSelect q) b x.cfg.repro } : Part).trimStaged).trimHot
    execSetFeature r io s =
      Ended s r (if aSelect q = 1 then (List.range 16).foldl (fun d n => d.drift s.clock r.rs.partNo n 0xFFFF) d else d)
        ⟨statusSUCCESS, 0, b.length, 0⟩ := by
  intro d
  refine State.onDev_ends (Dev.command_ends h io.upto _ _ _ _ _ ?work)
  case work => rw [ioRead_of_given hb]

theorem execFwDownload_part {p n : Nat} (h : Carries s r 0x84 q) (hr : r.rs = .part p n) :
    execFwDownload r io s =
      Ended s r (s.dev.modPart p fun x => { x with fwBuf := x.fwBuf.writeN (aOffset q) b, fwLen := max x.fwLen (aOffset q + b.length) })
        ⟨statusSUCCESS, 0, max (s.dev.part p).fwLen (aOffset q + b.length), 0⟩ := by
  refine State.onDev_ends (Dev.command_ends h io.upto _ _ _ _ _ ?work)
  case work => rw [ioRead_of_given hb, hr]; rfl

theorem execFwDownload_mgmt {n : Nat} (h : Carries s r 0x84 q) (hr : r.rs = .mgmt n) :
    let len := max s.dev.mgmt.fwLen (aOffset q + b.length)
    execFwDownload r io s =
      Ended s r { s.dev with mgmt := { s.dev.mgmt with fwBuf := s.dev.mgmt.fwBuf.writeN (aOffset q) b, fwLen := len } }
        ⟨statusSUCCESS, 0, len, 0⟩ := by
  intro len
  refine State.onDev_ends (Dev.command_ends h io.upto _ _ _ _ _ ?work)
  case work => rw [ioRead_of_given hb, hr]; rfl

end Writes

/-- FW_COMMIT without activation of an authentic image at or above the floor, while no other commit is staged (R489, R494). -/
theorem execFwCommit_fills {s : State} {r : ReqRef} {q : Req} {version security minLive : Nat} (h : Carries s r 0x85 q)
    (hfree : s.dev.fw.staging = none) (haction : aSelect q = 0) (himg : s.dev.fwImage q ≠ []) (hfloor : s.dev.fw.floor ≤ security) :
    let img := s.dev.fwImage q
    let f : FwSlot := ⟨1, security, img.length, version, minLive, s.clock.opSeconds, s.clock.powerCycles, 0, Config.crypto 1 img⟩
    execFwCommit r true version security minLive s =
      Ended s r { s.dev with fw := { s.dev.fw with slots := modAt (fun _ => f) (1 - s.dev.fw.active) s.dev.fw.slots } }
        ⟨statusSUCCESS, 0, 1 - s.dev.fw.active, 0⟩ := by
  intro img f
  refine State.onDev_ends (Dev.command_ends h .done _ _ _ _ _ ?work)
  case work => simp [hfree, haction, himg, hfloor, img, f]

/-- Settles O22: one lemma for each command. -/
theorem adminCommandsComplete : Obligations.AdminCommandsComplete := by
  intro s r io q _ gives
  refine ⟨fun h hok b => execIdentify_gives h hok, execGetLog_gives, execGetLog_admits, execGetFeature_gives,
    fun h b hb => execSetFeature_ends hb h, fun h b hb => ⟨fun p n => execFwDownload_part hb h, fun n => execFwDownload_mgmt hb h⟩,
    fun h hfree haction version security minLive himg hfloor => execFwCommit_fills h hfree haction himg hfloor⟩

end Sys2Proof.Machine
end

section
/-! PROOF. Isolation: what the work of one partition leaves alone. A step is beside a partition when every other partition stands, and the
composition, the supplies, the units and the firmware with them. -/

namespace Sys2Proof.Machine

open Sys2Proof

/-! ### Steps beside a partition -/

/-- What a partition has still to do: its operations, its journaled updates and the composition record that waits for its close. -/
def Part.pending (x : Part) : List LongOp × List JRec × Option PartCfg := (x.ops, x.journal.recs, x.next)

/-- What belongs to no partition and moves with none of them. -/
def Dev.common (d : Dev) : Comp × Power × Units × Firmware := (d.comp, d.power, d.units, d.fw)

/-- From `d` to `e` only partition `p` moves. -/
structure Aside (p : Nat) (d e : Dev) : Prop where
  others : ∀ k, k ≠ p → e.part k = d.part k
  common : e.common = d.common

/-- From `d` to `e` only partition `p` moves, and what it has still to do stands. -/
structure Beside (p : Nat) (d e : Dev) : Prop extends Aside p d e where
  pending : (e.part p).pending = (d.part p).pending

section Relations

variable {p : Nat} {a b d : Dev}

theorem Aside.refl (p : Nat) (d : Dev) : Aside p d d := ⟨fun _ _ => rfl, rfl⟩

theorem Aside.trans (h : Aside p a b) (k : Aside p b d) : Aside p a d :=
  ⟨fun n hn => (k.others n hn).trans (h.others n hn), k.common.trans h.common⟩

theorem aside_modPart (d : Dev) (p : Nat) (f : Part → Part) : Aside p d (d.modPart p f) :=
  ⟨fun _ hk => Dev.part_modPart_ne d f hk.symm, rfl⟩

theorem KeepsEpochs.aside (h : KeepsEpochs p a b) : Aside p a b := by
  refine ⟨fun k hk => h.part_ne hk, ?common⟩
  case common =>
    obtain ⟨g, f, -, rfl⟩ := h
    rfl

/-- What moves neither a partition nor anything that they share is beside every partition. -/
theorem Beside.of_parts (hparts : b.parts = a.parts) (hcommon : b.common = a.common) : Beside p a b := by
  have hpart (k : Nat) : b.part k = a.part k := by rw [Dev.part, hparts, Dev.part]
  exact ⟨⟨fun k _ => hpart k, hcommon⟩, by rw [hpart]⟩

theorem Beside.refl (p : Nat) (d : Dev) : Beside p d d := .of_parts (by rfl) (by rfl)

theorem Beside.trans (h : Beside p a b) (k : Beside p b d) : Beside p a d :=
  ⟨h.toAside.trans k.toAside, k.pending.trans h.pending⟩

theorem Beside.ite {c : Prop} [Decidable c] (ha : Beside p d a) (hb : Beside p d b) : Beside p d (if c then a else b) := by
  split
  · exact ha
  · exact hb

/-- A fold that at each member moves only `p`, from wherever the members before it have left the device. -/
theorem Beside.foldl_from {α : Type} {f : Dev → α → Dev} {l : List α} (h : ∀ e, Beside p d e → ∀ a ∈ l, Beside p e (f e a)) :
    Beside p d (l.foldl f d) := by
  have hfrom : ∀ (l' : List α), (∀ a ∈ l', a ∈ l) → ∀ e, Beside p d e → Beside p d (l'.foldl f e) := by
    intro l'
    induction l' with
    | nil => exact fun _ _ he => he
    | cons a l' ih =>
      intro hmem e he
      exact ih (fun b hb => hmem b (List.mem_cons_of_mem a hb)) _ (he.trans (h e he a (hmem a List.mem_cons_self)))
  exact hfrom l (fun _ ha => ha) d (.refl p d)

theorem Beside.foldl {α : Type} {f : Dev → α → Dev} (h : ∀ d a, Beside p d (f d a)) (l : List α) (d : Dev) :
    Beside p d (l.foldl f d) :=
  Beside.foldl_from fun e _ a _ => h e a

/-- A change of the partition itself that leaves what it has still to do. (Where the change is read off the goal, the hypothesis is given as
`by rfl`, which waits until it is known.) -/
theorem beside_modPart (d : Dev) (p : Nat) {f : Part → Part} (h : ∀ x, (f x).pending = x.pending) :
    Beside p d (d.modPart p f) :=
  ⟨aside_modPart d p f, Dev.part_modPart_keep Part.pending d p p f h⟩

theorem Outward.beside (h : Outward a b) : Beside p a b := by
  obtain ⟨f, o, rfl⟩ := h
  exact .of_parts (by rfl) (by rfl)

/-- A partition's operations stand, whichever it is. -/
theorem Beside.ops (h : Beside p a b) (k : Nat) : (b.part k).ops = (a.part k).ops := by
  by_cases hk : k = p
  · subst hk
    exact congrArg Prod.fst h.pending
  · rw [h.others k hk]

theorem Beside.recs (h : Beside p a b) : (b.part p).journal.recs = (a.part p).journal.recs :=
  congrArg (fun w => w.2.1) h.pending

theorem Beside.next (h : Beside p a b) (k : Nat) : (b.part k).next = (a.part k).next := by
  by_cases hk : k = p
  · subst hk
    exact congrArg (fun w => w.2.2) h.pending
  · rw [h.others k hk]

/-- The operation that a request carries is read of the operations alone. -/
theorem Beside.carried (h : Beside p a b) (q : Req) : b.carried q = a.carried q := by
  have hop (k : Nat) (rs : RsId) (n : Nat) : (b.part k).op? rs n = (a.part k).op? rs n := by simp [Part.op?, h.ops k]
  unfold Dev.carried
  cases q.work with
  | carrier rs n => cases rs <;> simp [Dev.opOf, hop]
  | _ => rfl

end Relations

/-! ### Ring sets, completions and events (R312 to R336) -/

/-- A ring set of partition `p`, or a management one. -/
def Within (p : Nat) : RsId → Prop
  | .part q _ => q = p
  | .mgmt _ => True

theorem within_part (p n : Nat) : Within p (.part p n) := rfl

theorem within_mgmt (p n : Nat) : Within p (.mgmt n) := trivial

section Rings

variable {p : Nat}

theorem beside_modLife (d : Dev) (p : Nat) (f : PartLife → PartLife) : Beside p d (d.modLife p f) :=
  beside_modPart d p (fun _ => by rfl)

theorem beside_modRing {rs : RsId} (h : Within p rs) (d : Dev) (f : RingSet → RingSet) : Beside p d (d.modRing rs f) := by
  cases rs with
  | part q n =>
    obtain rfl : q = p := h
    exact beside_modPart d q (fun _ => by rfl)
  | mgmt n => exact .of_parts (by rfl) (by rfl)

theorem beside_modMsix {rs : RsId} (h : Within p rs) (d : Dev) (v : Nat) (f : MsixVec → MsixVec) : Beside p d (d.modMsix rs.fn v f) := by
  cases rs with
  | part q n =>
    obtain rfl : q = p := h
    exact beside_modPart d q (fun _ => by rfl)
  | mgmt n => exact .of_parts (by rfl) (by rfl)

theorem beside_sendRdma {rs : RsId} (h : Within p rs) (d : Dev) (c : Clock) (o : RoceOut) : Beside p d (d.sendRdma c rs o) := by
  unfold Dev.sendRdma
  split
  · exact .refl p d
  · exact .ite (((outward_nextSequence d rs.partNo).beside.trans (beside_modRing h _ _)).trans (outward_sendTo _ c _ _ _ _ _ _ _ _).beside)
      (beside_modRing h d _)

theorem beside_writeHost {rs : RsId} (h : Within p rs) (d : Dev) (c : Clock) (tie : Tie) (svc addr : Nat) (b : Bytes) :
    Beside p d (d.writeHost c rs tie svc addr b) :=
  .ite (Beside.foldl (fun e _ => beside_sendRdma h e c _) _ d) (outward_emit d _).beside

theorem beside_notify {rs : RsId} (h : Within p rs) (d : Dev) (c : Clock) : Beside p d (d.notify c rs) :=
  (beside_modRing h d _).trans
    (.ite (outward_sendPacketOn _ c _ _ _ _ _ _ _ _ _).beside (.ite (beside_modMsix h _ _ _) (outward_emit _ _).beside))

theorem beside_writeSlot {rs : RsId} (h : Within p rs) (d : Dev) (c : Clock) (e : WaitEntry) : Beside p d (d.writeSlot c rs e) := by
  have hslot (q : Prop) [Decidable q] (tie : Tie) (addr : Nat) (b : Bytes) (f g : RingRun → RingRun) :
      Beside p d ((if q then (d.writeHost c rs tie 3 addr b).modRun rs f else d.writeHost c rs tie 3 addr b).modRun rs g) := by
    have hw := beside_writeHost h d c tie 3 addr b
    exact (Beside.ite (hw.trans (beside_modRing h _ _)) hw).trans (beside_modRing h _ _)
  unfold Dev.writeSlot
  exact .ite ((hslot _ _ _ _ _ _).trans (beside_notify h _ c)) (hslot _ _ _ _ _ _)

theorem beside_putEntry {rs : RsId} (h : Within p rs) (d : Dev) (c : Clock) (e : WaitEntry) : Beside p d (d.putEntry c rs e) :=
  .ite (beside_modRing h d _) (.ite (beside_writeSlot h d c e) (beside_modRing h d _))

theorem beside_flushEntries {rs : RsId} (h : Within p rs) (c : Clock) (n : Nat) (d : Dev) : Beside p d (d.flushEntries c rs n) := by
  induction n generalizing d with
  | zero => exact .refl p d
  | succ n ih =>
    unfold Dev.flushEntries
    dsimp only
    split
    · exact .refl p d
    · exact .ite (.refl p d) (((beside_modRing h d _).trans (beside_writeSlot h _ c _)).trans (ih _))

theorem beside_flushEvents (c : Clock) (n : Nat) (d : Dev) : Beside p d (d.flushEvents c p n) := by
  induction n generalizing d with
  | zero => exact .refl p d
  | succ n ih =>
    unfold Dev.flushEvents
    dsimp only
    split
    · exact .refl p d
    · exact .ite (((beside_modPart d p (fun _ => by rfl)).trans (beside_writeSlot (within_part _ _) _ c _)).trans (ih _)) (.refl p d)

theorem beside_postEvent (d : Dev) (c : Clock) (p type : Nat) (payload : Bytes) : Beside p d (d.postEvent c p type payload) :=
  .ite (beside_modPart d p (fun _ => by rfl))
    (.ite (beside_modPart d p (fun _ => by rfl)) ((beside_modPart d p (fun _ => by rfl)).trans (beside_flushEvents c 64 _)))

theorem beside_flushMgmtEvents (c : Clock) (n : Nat) (d : Dev) : Beside p d (d.flushMgmtEvents c n) := by
  induction n generalizing d with
  | zero => exact .refl p d
  | succ n ih =>
    unfold Dev.flushMgmtEvents
    dsimp only
    split
    · exact .refl p d
    · exact .ite (((Beside.of_parts (by rfl) (by rfl)).trans (beside_writeSlot (within_mgmt _ _) _ c _)).trans (ih _)) (.refl p d)

theorem beside_postMgmt (d : Dev) (c : Clock) (e : EvRec) : Beside p d (d.postMgmt c e) :=
  .ite (.refl p d) (.ite (.of_parts (by rfl) (by rfl)) ((Beside.of_parts (by rfl) (by rfl)).trans (beside_flushMgmtEvents c 64 _)))

theorem beside_assignRecord (d : Dev) (c : Clock) (e : EvRec) : Beside p d (d.assignRecord c e) := by
  unfold Dev.assignRecord
  refine .ite (.ite (.of_parts (by rfl) (by rfl)) (.of_parts (by rfl) (by rfl))) ?written
  case written => exact (Beside.of_parts (by rfl) (by rfl)).trans (.ite (beside_postMgmt _ c _) (.refl p _))

/-- A record is beside every partition, that which it names among them. -/
theorem beside_record (d : Dev) (c : Clock) (code kind idx : Nat) (part : Option Nat) (d0 d1 d2 : Nat) :
    Beside p d (d.record c code kind idx part d0 d1 d2) :=
  .ite (.ite (.of_parts (by rfl) (by rfl)) (.of_parts (by rfl) (by rfl))) (beside_assignRecord d c _)

theorem beside_flushRing (d : Dev) (c : Clock) (p n : Nat) : Beside p d (d.flushRing c (.part p n)) :=
  (beside_flushEntries (within_part _ _) c 65536 d).trans (.ite (beside_flushEvents c 64 _) (.refl p _))

theorem beside_rejectPart (d : Dev) (p : Nat) : Beside p d (d.rejectPart p) :=
  beside_modPart d p (fun _ => by rfl)

theorem beside_startRing (d : Dev) (c : Clock) (p n : Nat) : Beside p d (d.startRing c (.part p n)) :=
  .ite ((beside_modRing (within_part _ _) d _).trans (beside_rejectPart _ p)) (beside_modRing (within_part _ _) d _)

theorem beside_startDrain (d : Dev) (c : Clock) (p n cause : Nat) : Beside p d (d.startDrain c (.part p n) cause) :=
  .ite (beside_modRing (within_part _ _) d _) (.ite (beside_modRing (within_part _ _) d _) (.refl p d))

theorem beside_drainAll (d : Dev) (c : Clock) (p cause : Nat) : Beside p d (d.drainAll c p cause) :=
  Beside.foldl (fun d n => beside_startDrain d c p n cause) (List.range 16) d

theorem beside_becomeFaulted (d : Dev) (c : Clock) (p n : Nat) : Beside p d (d.becomeFaulted c (.part p n)) :=
  (beside_modRing (within_part _ _) d _).trans (beside_postEvent _ c p 4 _)

theorem beside_closeDrain (d : Dev) (c : Clock) (p n : Nat) : Beside p d (d.closeDrain c (.part p n)) :=
  .ite (.ite (beside_becomeFaulted d c p n) (beside_modRing (within_part _ _) d _)) (.refl p d)

/-! ### Pauses (R415 to R417) -/

theorem beside_pauseStart (d : Dev) (c : Clock) (p cause : Nat) (counted : Bool) : Beside p d (d.pauseStart c p cause counted) :=
  beside_modPart d p (fun _ => by rfl)

theorem beside_pauseEnd (d : Dev) (c : Clock) (p cause : Nat) : Beside p d (d.pauseEnd c p cause) := by
  unfold Dev.pauseEnd
  split
  · exact .refl p d
  · exact (beside_modPart d p (fun _ => by rfl)).trans (beside_record _ c _ _ _ _ _ _ _)

theorem beside_setStarted (d : Dev) (c : Clock) (p : Nat) (on : Bool) : Beside p d (d.setStarted c p on) :=
  beside_modPart d p (fun _ => by rfl)

end Rings

/-! ### Requests, tiles and bank engines (R393, R394) -/

theorem beside_stopTiles (d : Dev) (p k : Nat) : Beside p d (d.stopTiles k) := Beside.foldl (fun _ _ => .of_parts (by rfl) (by rfl)) _ d

theorem beside_stopInv (d : Dev) (p k : Nat) : Beside p d (d.stopInv k) :=
  (beside_stopTiles d p k).trans (Beside.foldl (fun _ _ => .of_parts (by rfl) (by rfl)) _ _)

theorem beside_dropGroups (d : Dev) (p k : Nat) : Beside p d (d.dropGroups k) := by
  have hdrop (l : List Group) (stack : Nat) (d : Dev) : Beside p d (l.foldl (fun (d : Dev) (g : Group) => d.dropToken stack g.part) d) :=
    Beside.foldl (fun _ _ => .of_parts (by rfl) (by rfl)) l d
  exact Beside.foldl (fun d ch => (hdrop (d.chan ch).running (ch / 16) d).trans (.of_parts (by rfl) (by rfl))) _ d

section Requests

variable {p : Nat}

theorem beside_modReq {r : ReqRef} (h : Within p r.rs) (d : Dev) (f : Req → Req) : Beside p d (d.modReq r f) := beside_modRing h d _

theorem beside_leaveInvs {r : ReqRef} (h : Within p r.rs) (d : Dev) : Beside p d (d.leaveInvs r) := by
  unfold Dev.leaveInvs
  split
  case h_1 => exact .refl p d
  case h_2 q n hr =>
    obtain rfl : q = p := by simpa [hr, Within] using h
    have hpart := beside_modPart d q (fun _ => by rfl) (f := fun x => x.leaveInvs r)
    exact .ite (hpart.trans (beside_stopInv _ q q)) hpart

theorem beside_dropReq {n m : Nat} (d : Dev) : Beside p d (d.dropReq ⟨.part p n, m⟩) := by
  have hgone (e : Dev) (f : RingSet → RingSet) : Beside p e ((e.leaveInvs ⟨.part p n, m⟩).modRing (.part p n) f) :=
    (beside_leaveInvs (within_part p n) e).trans (beside_modRing (within_part p n) _ f)
  have hpass {e e' : Dev} (h : Beside p e e') (q : Prop) [Decidable q] : Beside p e (if q then e'.modPart p Part.passHorizon else e') :=
    .ite (h.trans (beside_modPart e' p (fun _ => by rfl))) h
  unfold Dev.dropReq
  dsimp only
  split
  case h_1 q k l _ hrs =>
    obtain ⟨rfl, rfl⟩ := RsId.part.inj hrs
    exact (Beside.ite (beside_modPart d p (fun _ => by rfl)) (.refl p d)).trans (hpass (hgone _ _) _)
  case h_2 => exact hpass (hgone d _) _

theorem beside_dropRows (d : Dev) (n m sub : Nat) : Beside p d (d.dropRows ⟨.part p n, m⟩ sub) := by
  have hpart (f : Inv → Inv) : Beside p d (d.modPart p fun x =>
      ({ x with invs := (x.invs.map f).filter fun i => i.rows.any (·.live) } : Part).dropOuts ⟨.part p n, m⟩ sub) :=
    beside_modPart d p (fun _ => by rfl)
  exact .ite ((hpart _).trans (beside_stopInv _ p p)) (hpart _)

/-- A request of the partition that loses the rows it asked for is marked. -/
theorem beside_dropRows_modReq (d : Dev) (n m sub : Nat) (f : Req → Req) :
    Beside p d ((d.dropRows ⟨.part p n, m⟩ sub).modReq ⟨.part p n, m⟩ f) :=
  (beside_dropRows d n m sub).trans (beside_modReq (within_part p n) _ f)

theorem beside_loseSearches (d : Dev) (n m : Nat) (f : SearchRun → Bool) : Beside p d (d.loseSearches ⟨.part p n, m⟩ f) := by
  unfold Dev.loseSearches
  split
  · exact .refl p d
  · split
    · exact Beside.foldl (fun e a => .ite (.refl p e) (beside_dropRows_modReq e n m _ _)) _ d
    · exact .refl p d

theorem beside_loseState (d : Dev) (n m : Nat) : Beside p d (d.loseState ⟨.part p n, m⟩) := by
  unfold Dev.loseState
  split
  · exact .refl p d
  · split
    · exact beside_loseSearches d n m _
    · exact beside_dropRows_modReq d n m 0 _

theorem beside_reclassify (d : Dev) (n m : Nat) (q : Req) : Beside p d (d.reclassify ⟨.part p n, m⟩ q) := by
  unfold Dev.reclassify
  split
  · exact beside_loseState d n m
  · exact beside_loseState d n m
  · exact .ite (.refl p d) (beside_dropRows_modReq d n m 0 _)
  · exact .ite (.refl p d) (beside_dropRows d n m 0)

theorem beside_reclassifyAll (d : Dev) (p : Nat) : Beside p d (d.reclassifyAll p) := by
  refine Beside.foldl_from fun e _ a ha => ?one
  case one =>
    simp only [Part.admittedReqs, List.mem_flatMap, List.mem_map] at ha
    obtain ⟨r, -, q, -, rfl⟩ := ha
    exact beside_reclassify e r.1 q.seq q

theorem beside_partReset (d : Dev) (c : Clock) (p trigger : Nat) : Beside p d (d.partReset c p trigger) :=
  .ite (.refl p d) (((((beside_modLife d p _).trans (beside_pauseStart _ c p _ _)).trans (beside_dropGroups _ p p)).trans
    (beside_stopTiles _ p p)).trans (beside_reclassifyAll _ p))

end Requests

end Sys2Proof.Machine
end

section
/-! PROOF. Isolation: the commands that move a partition between its states, its keys, resets, epochs and checkpoints leave every other one
alone. -/

namespace Sys2Proof.Machine

open Sys2Proof

section Work

variable {p : Nat} {d e : Dev}

/-! ### A partition with nothing open (R128, R369) -/

/-- Partition `p` has no operation and no journaled update. -/
def Dev.Idle (d : Dev) (p : Nat) : Prop := (d.part p).ops = [] ∧ (d.part p).journal.recs = []

theorem Beside.idle (h : Beside p d e) (hd : d.Idle p) : e.Idle p := ⟨(h.ops p).trans hd.1, h.recs.trans hd.2⟩

theorem Dev.Idle.unapplied (h : d.Idle p) : (d.part p).unapplied = [] := by simp [Part.unapplied, h.2]

theorem Dev.Idle.applyAborted (h : d.Idle p) (c : Clock) : d.applyAborted c p = d := by simp [Dev.applyAborted, h.unapplied]

theorem Dev.Idle.recoverJournal (h : d.Idle p) (c : Clock) : d.recoverJournal c p = d := by simp [Dev.recoverJournal, h.unapplied, dedupNat]

theorem Dev.Idle.continueOps (h : d.Idle p) (c : Clock) : d.continueOps c p = d := by simp [Dev.continueOps, h.1]

theorem Dev.Idle.endOps (h : d.Idle p) (c : Clock) : d.endOps c p = d := by simp [Dev.endOps, Dev.cancelOps, h.1]

/-! ### Keys, checkpoints and epochs (R111, R255, R402 to R406) -/

theorem beside_flash (p : Nat) (d : Dev) (f : Flash) : Beside p d { d with flash := f } := .of_parts (by rfl) (by rfl)

theorem beside_modKeys (d : Dev) (p : Nat) (f : Keys → Keys) : Beside p d (d.modKeys p f) := beside_modPart d p (fun _ => by rfl)

theorem beside_newTransport (d : Dev) (p : Nat) (k : Option Bytes) : Beside p d (d.newTransport p k) :=
  (beside_modKeys d p fun y => { y with transport := k }).trans (.of_parts (by rfl) (by rfl))

theorem beside_zeroise (d : Dev) (p : Nat) : Beside p d (d.zeroise p) := (beside_modKeys d p _).trans (beside_newTransport _ p none)

theorem beside_writeRecord (d : Dev) (c : Clock) (p gen alg count : Nat) (owner media : Bytes) :
    Beside p d (d.writeRecord c p gen alg count owner media) :=
  ((beside_modPart d p (fun _ => by rfl)).trans (beside_flash p _ _)).trans (beside_flash p _ _)

theorem beside_newMediaKey (d : Dev) (c : Clock) (p gen : Nat) : Beside p d (d.newMediaKey c p gen) :=
  ((Beside.of_parts (a := d) (b := d.fresh) rfl rfl).trans (beside_writeRecord _ c p gen 1 0 _ _)).trans
    (beside_modPart _ p (fun _ => by rfl))

theorem beside_keyLoad (d : Dev) (c : Clock) (p sel : Nat) : Beside p d (d.keyLoad c p sel) := by
  have htaken := beside_modPart d p (f := fun y => { y with regs := { y.regs with keyData := zeros 32 } }) fun _ => rfl
  unfold Dev.keyLoad
  refine .ite (htaken.trans (beside_rejectPart _ p)) (.ite (htaken.trans (beside_newTransport _ p _)) (htaken.trans ?owner))
  case owner =>
    refine Beside.trans ?_ (beside_modKeys _ p _)
    split
    · exact beside_writeRecord _ c p _ _ _ _ _
    · exact .refl p _

theorem beside_checkpointPage (d : Dev) (c : Clock) (p : Nat) (o : Obj) (i : Nat) : Beside p d (d.checkpointPage c p o i) :=
  (Beside.ite (.refl p d) (beside_flash p d _)).trans (beside_flash p _ _)

theorem beside_checkpoint (d : Dev) (c : Clock) (p : Nat) : Beside p d (d.checkpoint c p) :=
  (Beside.foldl (fun d o => Beside.foldl (fun d i => beside_checkpointPage d c p o i) _ d) _ d).trans (beside_modPart _ p (fun _ => by rfl))

/-- What an epoch makes of its journal and its images stays in its partition. -/
theorem aside_beginEpoch (d : Dev) (c : Clock) (p : Nat) : Aside p d (d.beginEpoch c p) :=
  ((aside_modPart d p _).trans (keepsEpochs_stateRecords _ c p).aside).trans (keepsEpochs_rewriteLagging _ c p).aside

/-! ### STOP and RESTART (R333, R335) -/

theorem beside_stop (d : Dev) (c : Clock) (p n : Nat) : Beside p d (d.stop c (.part p n)) :=
  .ite (beside_startDrain d c p n 0) (.refl p d)

theorem beside_restart (d : Dev) (c : Clock) (p n : Nat) : Beside p d (d.restart c (.part p n)) :=
  .ite (((beside_modPart d p (fun _ => by rfl)).trans (beside_startRing _ c p n)).trans (beside_flushRing _ c p n)) (beside_rejectPart d p)

/-! ### OPEN, START and CLOSE (R397, R399, R404) -/

theorem beside_opened (hd : d.Idle p) (c : Clock) (first : Bool) : Beside p d (d.opened c p first) := by
  have hopen (f : Part → Part) (hf : ∀ x, (f x).pending = x.pending) :
      Beside p d
        ((((d.modPart p f).recoverJournal c p).modPart p fun y => { y with mem := { y.mem with ckptFrom := c.time } }).continueOps c p) := by
    have hreload := beside_modPart d p hf
    rw [(hreload.idle hd).recoverJournal c]
    have hck := hreload.trans (beside_modPart _ p (f := fun y => { y with mem := { y.mem with ckptFrom := c.time } }) fun _ => rfl)
    rw [(hck.idle hd).continueOps c]
    exact hck
  refine hopen _ fun x => ?kept
  case kept => by_cases hv : x.life.dramValid <;> simp [hv, Part.pending, Part.reload, Part.loseRanges]

theorem beside_openPart (hd : d.Idle p) (c : Clock) : Beside p d (d.openPart c p) := by
  have hkey (g : Nat) (first : Bool) : Beside p d ((d.newMediaKey c p g).opened c p first) := by
    have hnew := beside_newMediaKey d c p g
    exact hnew.trans (beside_opened (hnew.idle hd) c first)
  unfold Dev.openPart
  dsimp only
  split
  case h_1 => exact beside_rejectPart d p
  case h_2 key _ =>
    refine .ite (beside_rejectPart d p) ?record
    case record =>
      split
      case h_1 => exact hkey 1 true
      case h_2 r _ =>
        have hmedia := beside_modKeys d p fun y => { y with media := some r.media }
        exact .ite (hkey r.gen false) (.ite (hmedia.trans (beside_opened (hmedia.idle hd) c false))
          ((beside_modKeys d p _).trans (beside_modPart _ p (fun _ => by rfl))))

theorem beside_startPart (hd : d.Idle p) (c : Clock) : Beside p d (d.startPart c p) := by
  have hring (d : Dev) (n : Nat) : Beside p d (if (d.ring (.part p n)).regs.enable then (d.startRing c (.part p n)).flushRing c (.part p n)
      else d.modRun (.part p n) fun r => { r with st := .idle }) :=
    .ite ((beside_startRing d c p n).trans (beside_flushRing _ c p n)) (beside_modRing (within_part p n) d _)
  unfold Dev.startPart
  refine .ite (beside_rejectPart d p) ?started
  case started =>
    rw [hd.applyAborted c]
    exact ((beside_modPart d p (fun _ => by rfl)).trans (beside_setStarted _ c p true)).trans (Beside.foldl hring (List.range 16) _)

/-- With no record waiting anywhere, none takes effect. -/
theorem Dev.applyNext_of_none (d : Dev) (p : Nat) (h : ∀ k, (d.part k).next = none) : d.applyNext p = d := by
  unfold Dev.applyNext
  generalize List.range 64 = l
  dsimp only
  rw [h p]
  dsimp only
  induction l with
  | nil => rfl
  | cons q l ih =>
    rw [List.foldl_cons, h q]
    exact ih

theorem beside_closePart (hnext : ∀ k, (d.part k).next = none) (c : Clock) : Beside p d (d.closePart c p) := by
  unfold Dev.closePart
  refine .ite (beside_rejectPart d p) ?closed
  case closed =>
    have hflush (e : Dev) : Beside p e { e with flash := (e.flash.flushPart p).1 } := beside_flash p e _
    have hsaved := ((hflush d).trans (beside_checkpoint _ c p)).trans (hflush _)
    have hclosed := (hsaved.trans (beside_zeroise _ p)).trans (beside_modPart _ p (fun _ => by rfl) (f := fun x =>
      { x with fwBuf := [], fwLen := 0, life := { x.life with st := .closed, keyAtFence := false } }))
    exact (Dev.applyNext_of_none _ p fun k => (hclosed.next k).trans (hnext k)).symm ▸ hclosed

/-! ### DISABLE, Function Level Resets and drains (R333, R397, R398) -/

theorem beside_settlePart (hd : d.Idle p) (c : Clock) : Beside p d (d.settlePart c p) := by
  have hpaused := beside_pauseEnd d c p 8
  unfold Dev.settlePart
  refine .ite (.refl p d) ?quiet
  case quiet =>
    dsimp only
    rw [hd.endOps c, (hpaused.idle hd).applyAborted c]
    exact .ite (hpaused.trans (beside_modPart _ p (fun _ => by rfl)))
      ((hpaused.trans (beside_setStarted _ c p false)).trans (beside_modLife _ p _))

/-- A transition begins: every ring set drains, and the partition settles at once when none has anything to drain. -/
theorem beside_drainAll_settlePart (hd : d.Idle p) (c : Clock) (cause : Nat) (f : PartLife → PartLife) :
    Beside p d ((((d.modLife p f).pauseStart c p 8 false).drainAll c p cause).settlePart c p) := by
  have hdrains := ((beside_modLife d p f).trans (beside_pauseStart _ c p 8 false)).trans (beside_drainAll _ c p cause)
  exact hdrains.trans (beside_settlePart (hdrains.idle hd) c)

theorem beside_disablePart (hd : d.Idle p) (c : Clock) : Beside p d (d.disablePart c p) := by
  unfold Dev.disablePart
  refine .ite (beside_drainAll_settlePart hd c 1 _) ?other
  case other =>
    split
    · exact beside_modLife d p _
    · exact .ite (.refl p d) (beside_rejectPart d p)

theorem beside_flr (hd : d.Idle p) (c : Clock) : Beside p d (d.flr c p) := by
  have hregs (e : Dev) : Beside p e (e.modPart p Part.flrRegs) := beside_modPart e p (fun _ => by rfl)
  unfold Dev.flr
  dsimp only
  split
  case h_1 => exact ((beside_modKeys d p _).trans (beside_newTransport _ p none)).trans (hregs _)
  case h_2 => exact hregs d
  case h_3 => exact beside_drainAll_settlePart hd c 2 _
  case h_4 => exact .ite (.refl p d) (beside_modPart d p (fun _ => by rfl))
  case h_5 =>
    split
    · exact beside_modLife d p _
    · exact hregs d

/-- Requests that are aborted carry no operation, and so leave none behind. -/
theorem beside_abortRing {n : Nat} (c : Clock) (stop : Bool) (hfree : ∀ q ∈ (d.ring (.part p n)).inflight, d.carried q = none) :
    Beside p d (d.abortRing c (.part p n) stop) := by
  unfold Dev.abortRing
  refine Beside.trans (Beside.foldl_from fun e he q hq => ?one) (beside_modRing (within_part p n) _ _)
  case one =>
    dsimp only
    rw [he.carried q, hfree q hq]
    exact beside_dropReq e

theorem beside_endDrain {n : Nat} (hd : d.Idle p) (c : Clock) (k : Drain)
    (hfree : ∀ q ∈ (d.ring (.part p n)).inflight, d.carried q = none) :
    Beside p d (d.endDrain c (.part p n) k) := by
  have hclose {e : Dev} (he : Beside p d e) (f : RingSet → RingSet) : Beside p d ((e.modRing (.part p n) f).closeDrain c (.part p n)) :=
    (he.trans (beside_modRing (within_part p n) e f)).trans (beside_closeDrain _ c p n)
  have hfinal {e : Dev} (he : Beside p d e) (q : Prop) [Decidable q] : Beside p d (if q then e.applyAborted c p else e) :=
    .ite (((he.idle hd).applyAborted c).symm ▸ he) he
  have habort := beside_abortRing c (k.cause == 0) hfree
  unfold Dev.endDrain
  refine .ite (beside_closeDrain d c p n) (hfinal (hclose (.ite habort ?entry) _) _)
  case entry => exact habort.trans (beside_putEntry (within_part p n) _ c _)

theorem beside_drainEnds {n : Nat} (hd : d.Idle p) (c : Clock) (k : Drain)
    (hfree : ∀ q ∈ (d.ring (.part p n)).inflight, d.carried q = none) :
    Beside p d ((d.endDrain c (.part p n) k).settleRs c (.part p n)) := by
  have hdrain := beside_endDrain hd c k hfree
  exact hdrain.trans (beside_settlePart (hdrain.idle hd) c)

end Work

/-! ### The commands -/

/-- The outcome moves only partition `p`. -/
def OutAside (p : Nat) (s : State) (o : Out) : Prop := ∀ t, o = .next t → Aside p s.dev t.dev

section Commands

variable {s : State} {p : Nat}

theorem outAside_onDev {f : Clock → Dev → Dev} (h : Aside p s.dev (f s.clock s.dev)) : OutAside p s (s.onDev f) := by
  rintro t ⟨⟩
  exact h

theorem outAside_atTime {f : Clock → Dev → Dev} {n : Nat} (h : ∀ c, Aside p s.dev (f c s.dev)) : OutAside p s (s.atTime n f) := by
  rintro t ⟨⟩
  exact h _

theorem outAside_keyLoad (s : State) (p sel : Nat) : OutAside p s (execKeyLoad p sel s) :=
  outAside_onDev (Beside.ite (.refl p _) (beside_keyLoad _ _ p sel)).toAside

theorem outAside_epochTick (s : State) (p : Nat) : OutAside p s (execEpochTick p s) := by
  unfold execEpochTick
  dsimp only
  split
  · exact outAside_onDev (.refl p _)
  · refine outAside_atTime fun c => ?begins
    case begins =>
      split
      · exact aside_beginEpoch _ c p
      · exact .refl p _

theorem outAside_checkpointTimer (s : State) (p : Nat) : OutAside p s (execCheckpointTimer p s) := by
  unfold execCheckpointTimer
  dsimp only
  split
  · exact outAside_onDev (.refl p _)
  · exact outAside_atTime fun c => (beside_checkpoint _ c p).toAside

/-- The commands that leave every other partition alone whatever is open in their own. -/
theorem outAside_always (s : State) (p n sel : Nat) {i : Instr}
    (hi : i ∈ [.keyLoad p sel, .stopRing (.part p n), .restartRing (.part p n), .controlFirmwareHang p, .eccStorm p, .runawayProgram p,
      .epochTick p, .checkpointTimer p]) : OutAside p s (exec i s) := by
  have hreset (trigger : Nat) : OutAside p s (s.onDev fun c d => d.partReset c p trigger) :=
    outAside_onDev (beside_partReset _ _ p trigger).toAside
  simp only [List.mem_cons, List.not_mem_nil, or_false] at hi
  rcases hi with rfl | rfl | rfl | rfl | rfl | rfl | rfl | rfl
  · exact outAside_keyLoad s p sel
  · exact outAside_onDev (f := fun c d => d.stop c (.part p n)) (beside_stop _ _ p n).toAside
  · exact outAside_onDev (f := fun c d => d.restart c (.part p n)) (beside_restart _ _ p n).toAside
  · exact hreset 1
  · exact hreset 2
  · exact hreset 3
  · exact outAside_epochTick s p
  · exact outAside_checkpointTimer s p

/-- What is asked of the partition, and of the records that wait, by the commands that end work. -/
structure NothingOpen (s : State) (p : Nat) : Prop where
  idle : s.dev.Idle p
  next : ∀ k, (s.dev.part k).next = none
  free : ∀ r ∈ (s.dev.part p).rings, ∀ q ∈ r.inflight, s.dev.carried q = none

theorem NothingOpen.free_ring (h : NothingOpen s p) (n : Nat) : ∀ q ∈ (s.dev.ring (.part p n)).inflight, s.dev.carried q = none := by
  by_cases hn : n < (s.dev.part p).rings.length
  · rw [Dev.ring, List.getD_eq_getElem _ _ hn]
    exact h.free _ (List.getElem_mem hn)
  · rw [Dev.ring, List.getD_eq_default _ _ (Nat.le_of_not_lt hn)]
    simp [RingSet.reset]

/-- No record waits in a partition of the module, and none in one that it has not. -/
theorem Dev.next_none_of_parts {d : Dev} (h : ∀ x ∈ d.parts, x.next = none) (k : Nat) : (d.part k).next = none := by
  by_cases hk : k < d.parts.length
  · rw [Dev.part, List.getD_eq_getElem _ _ hk]
    exact h _ (List.getElem_mem hk)
  · rw [Dev.part, List.getD_eq_default _ _ (Nat.le_of_not_lt hk)]
    rfl

theorem outAside_drainComplete (h : NothingOpen s p) (n : Nat) : OutAside p s (execDrainComplete (.part p n) s) := by
  refine outAside_onDev ?_
  dsimp only
  split
  case h_1 => exact .refl p _
  case h_2 k _ => exact (Beside.ite (.refl p _) (beside_drainEnds h.idle _ k (h.free_ring n))).toAside

theorem outAside_drainBoundExpiry (h : NothingOpen s p) (n : Nat) : OutAside p s (execDrainBoundExpiry (.part p n) s) := by
  unfold execDrainBoundExpiry
  split
  case h_1 => exact outAside_onDev (.refl p _)
  case h_2 k _ => exact outAside_atTime fun c => (beside_drainEnds h.idle c k (h.free_ring n)).toAside

/-- The commands that also end work of their partition leave every other one alone when nothing is open in it. -/
theorem outAside_of_nothingOpen (h : NothingOpen s p) (n : Nat) {i : Instr}
    (hi : i ∈ [.openPart p, .startPart p, .closePart p, .disablePart p, .functionLevelReset p, .drainComplete (.part p n),
      .drainBoundExpiry (.part p n)]) : OutAside p s (exec i s) := by
  have hunbarred {e : Dev} (he : Beside p s.dev e) : Aside p s.dev (if (s.dev.part p).barred then s.dev else e) :=
    (Beside.ite (.refl p _) he).toAside
  simp only [List.mem_cons, List.not_mem_nil, or_false] at hi
  rcases hi with rfl | rfl | rfl | rfl | rfl | rfl | rfl
  · exact outAside_onDev (f := fun c d => if (d.part p).barred then d else d.openPart c p) (hunbarred (beside_openPart h.idle _))
  · exact outAside_onDev (f := fun c d => if (d.part p).barred then d else d.startPart c p) (hunbarred (beside_startPart h.idle _))
  · exact outAside_onDev (f := fun c d => if (d.part p).barred then d else d.closePart c p) (hunbarred (beside_closePart h.next _))
  · exact outAside_onDev (f := fun c d => d.disablePart c p) (beside_disablePart h.idle _).toAside
  · exact outAside_onDev (f := fun c d => d.flr c p) (beside_flr h.idle _).toAside
  · exact outAside_drainComplete h n
  · exact outAside_drainBoundExpiry h n

end Commands

/-- Settles O24: each command by what its work is beside. -/
theorem otherPartitionsStand : Obligations.OtherPartitionsStand := by
  intro s t p k n sel i hk hstep hi
  have haside : Aside p s.dev t.dev := by
    rcases hi with hi | ⟨hi, hops, hrecs, hnext, hfree⟩
    · exact outAside_always s p n sel hi t hstep
    · exact outAside_of_nothingOpen ⟨⟨hops, hrecs⟩, Dev.next_none_of_parts hnext, hfree⟩ n hi t hstep
  have hcommon := haside.common
  simp only [Dev.common, Prod.mk.injEq] at hcommon
  exact ⟨haside.others k hk, hcommon⟩

end Sys2Proof.Machine
end
